-- ==== Sys2Proof/Word.lean ====
section
/-! DEFINITION. The word types of the device and the plainest operations on them: bit fields as the manual's
tables write them ([high:low]), and little-endian bytes (R507, R67). -/

namespace Sys2Proof

/-- A byte of any memory. -/
abbrev Byte := BitVec 8
/-- A control-space register, a general register or a scalar result: 64 bits (R56, R507). -/
abbrev Word := BitVec 64
/-- Core ID: cluster [11:4], core-in-cluster [3:0] (Table 1.1). -/
abbrev CoreId := BitVec 12
/-- Cluster ID: die [7:6], cluster-in-die [5:0] (Table 1.1). -/
abbrev ClusterId := BitVec 8
/-- A die Q0 to Q3. -/
abbrev DieId := BitVec 2
/-- A general register number, g0 to g31 (R56). -/
abbrev GReg := BitVec 5
/-- A vector register number, v0 to v31 (R56). -/
abbrev VReg := BitVec 5
/-- A predicate register number, p0 to p7 (R56). -/
abbrev PReg := BitVec 3
/-- A descriptor register number, d0 to d15 (R56). -/
abbrev DReg := BitVec 4
/-- A partition and the PCIe function that serves it (R326). -/
abbrev PartId := BitVec 4
/-- A far-memory stack F0 to F7. -/
abbrev StackId := BitVec 3
/-- A seam 0 to 3 (R300). -/
abbrev SeamId := BitVec 2
/-- A bundle of a seam, and the engine pair it joins, 0 to 15 (R300). -/
abbrev BundleId := BitVec 4
/-- A Clearing port 0 to 7 (R338). -/
abbrev PortId := BitVec 3
/-- A descriptor register's value: 256 bits (R56). -/
abbrev Desc := BitVec 256
/-- A vector register's value: 1,024 bits (R56). -/
abbrev Vec := BitVec 1024

/-- Bits [lo + n - 1 : lo] of a natural number, as a natural number. -/
def fieldNat (x lo n : Nat) : Nat := x / 2 ^ lo % 2 ^ n

/-- Bit i of a natural number. -/
def bitNat (x i : Nat) : Bool := x / 2 ^ i % 2 == 1

/-- The natural number x with bits [lo + n - 1 : lo] replaced by v. -/
def setFieldNat (x lo n v : Nat) : Nat :=
  x / 2 ^ (lo + n) * 2 ^ (lo + n) + v % 2 ^ n * 2 ^ lo + x % 2 ^ lo

/-- Little-endian bytes as one natural number. -/
def leNat : List Byte → Nat
  | [] => 0
  | b :: bs => b.toNat + 256 * leNat bs

/-- The n low bytes of a natural number, least significant first. -/
def natLe : Nat → Nat → List Byte
  | 0, _ => []
  | n + 1, x => BitVec.ofNat 8 x :: natLe n (x / 256)

/-- The cluster of a core (Table 1.1). -/
def clusterOf (c : CoreId) : ClusterId := BitVec.ofNat 8 (c.toNat / 16)
/-- The position of a core in its cluster (Table 1.1). -/
def coreInCluster (c : CoreId) : Nat := c.toNat % 16
/-- The die of a cluster (Table 1.1). -/
def dieOfCluster (k : ClusterId) : DieId := BitVec.ofNat 2 (k.toNat / 64)
/-- The position of a cluster on its die (Table 1.1). -/
def clusterInDie (k : ClusterId) : Nat := k.toNat % 64
/-- The die of a core. -/
def dieOfCore (c : CoreId) : DieId := dieOfCluster (clusterOf c)
/-- Core i of a cluster. -/
def coreOf (k : ClusterId) (i : Nat) : CoreId := BitVec.ofNat 12 (k.toNat * 16 + i % 16)

end Sys2Proof
end

