-- ==== Sys2Proof/Syntax.lean ====
section
/-! DEFINITION. The commands: one constructor per row of spec/opcode_table.json, in the table's order, with the
operands the manual gives the step. A core instruction names the core that issues it and its operand fields as
they stand in the instruction word; an event names the unit it happens in; a register write names its requester. -/

namespace Sys2Proof

/-- Who sends a control-space access or a register-triggered command (R511): a PCIe function, a supervisor- or
task-level core, or the comptroller. -/
inductive Req where
  | host (f : PartId)
  | core (c : CoreId)
  | comptroller
  deriving DecidableEq, Repr

/-- A unit of the device that the assay or the training can find failed (R3, Tables 13.2 and 13.6), by physical
position. -/
inductive Unit13 where
  | cluster (die : DieId) (slot : BitVec 7)
  | press (die : DieId) (slot : BitVec 7)
  | veinBank (die : DieId) (slot : BitVec 7) (core : BitVec 4) (stratum : BitVec 2) (bank : BitVec 3)
  | bankUnit (die : DieId) (slot : BitVec 7) (core : BitVec 4) (stratum : BitVec 2) (pair : BitVec 2)
  | seamLane (seam : SeamId) (up : Bool) (bundle : BundleId) (lane : BitVec 7)
  | farChannel (stack : StackId) (channel : BitVec 5)
  | veinPort (die : DieId) (slot : BitVec 7) (core : BitVec 4)
  | seamBundle (seam : SeamId) (bundle : BundleId)
  | clearingPort (port : PortId)
  | clearingLanes (port : PortId) (upper : Bool)
  deriving DecidableEq, Repr

/-- A fatal condition of a start (Table 13.8). -/
inductive FatalStart where
  | lockstep | noImage | dieRails (die : DieId) | identity | unreachableDie | pciePhy
  | strata (sensor : BitVec 8) (reading : BitVec 16) | alert (causes : BitVec 4)
  deriving DecidableEq, Repr

/-- What the module's surroundings and its own tests bring to a start (Table 13.1): the slot-ID pins, the failures
the assay finds, the failures in training, the image slots that pass, a fatal condition, and the start's length. -/
structure StartEnv where
  slotPins  : BitVec 12
  assay     : List Unit13
  training  : List Unit13
  fatal     : Option FatalStart
  slotAGood : Bool
  slotBGood : Bool
  ms        : BitVec 16
  deriving DecidableEq, Repr

/-- The readings that latch at the end of a housekeeping round (R382, R375, R390): sensor readings in 1/16 °C
(none: the sensor fails its check), cluster power in mW, input power and rails in 0.1 W, and the energies the tally
divides, in µJ. -/
structure Readings where
  sensors    : List (Option Int)
  clusterMw  : List Nat
  inputDw    : Nat
  meshDw     : Nat
  strataDw   : Nat
  farIoDw    : Nat
  deriving DecidableEq, Repr

/-- A guest request as it reaches a vein controller (R163): the requester's kind and number as Table 5.14 codes
them, its partition, whether it came through a far-memory address in tiered mode, and the access. -/
structure GuestReq where
  kind   : BitVec 2
  source : BitVec 12
  part   : PartId
  write  : Bool
  offset : BitVec 26
  size   : Nat
  data   : List Byte
  deriving DecidableEq, Repr

/-- A far-memory access as it arrives at its controller (R290): requester number, whether it writes, the stack
offset, the size in bytes and the bytes written. -/
structure FarReq where
  source : BitVec 16
  write  : Bool
  offset : BitVec 36
  size   : Nat
  data   : List Byte
  deriving DecidableEq, Repr

/-- A Clearing frame as it arrives or leaves (Table 10.4), its CRCs left to the link. units is the payload in units of 64
bytes; in a read request, what it asks for. -/
structure Frame where
  type    : BitVec 4
  vc      : BitVec 2
  units   : BitVec 5
  hops    : BitVec 5
  lseq    : BitVec 16
  dst     : BitVec 12
  src     : BitVec 12
  domain  : BitVec 16
  tag     : BitVec 16
  shortHm : BitVec 32
  addr    : BitVec 48
  status  : BitVec 8
  op      : BitVec 4
  fmt     : BitVec 4
  collId  : BitVec 16
  stepNo  : BitVec 12
  core    : BitVec 12
  event   : BitVec 6
  payload : List Byte
  deriving DecidableEq, Repr

/-- A plain-engine record (Table 9.9). -/
structure PlainRec where
  seq    : BitVec 16
  kind   : BitVec 8
  agent  : BitVec 16
  part   : PartId
  addr   : BitVec 48
  len    : Nat
  data   : List Byte
  deriving DecidableEq, Repr

/-- How a device read of host memory was answered (R332, R336). -/
inductive HostReply where
  | data (bytes : List Byte)
  | poisoned (bytes : List Byte)
  | unsupported
  | completerAbort
  deriving DecidableEq, Repr

/-- A write that the trace channel of a cluster sends to host memory, and whether the host answers it with UR or CA
(R493, R496). -/
structure TraceWrite where
  cluster : ClusterId
  refused : Bool
  deriving DecidableEq, Repr

/-- What changes of itself (R435, R425): a stored bit of a memory unit or of its check bits, a parity-protected
latch, accumulator or combiner entry, or one half of a stored pair. -/
inductive SoftTarget where
  | memoryBit (addr : BitVec 48) (bit : BitVec 3)
  | checkBit (addr : BitVec 48) (bit : BitVec 6)
  | bankLatch (c : CoreId) (unit : BitVec 4) (slot : BitVec 2)
  | bankAccumulator (c : CoreId) (unit : BitVec 4) (entry : BitVec 10)
  | combinerRow (c : CoreId) (slot : BitVec 2) (row : BitVec 8)
  | pressAccumulator (k : ClusterId) (row : BitVec 10)
  | epochHalf (rev : Bool) (bit : BitVec 6)
  | pwrLimitHalf (rev : Bool) (bit : BitVec 6)
  | pwrTlimHalf (rev : Bool) (bit : BitVec 6)
  | partHalf (p : PartId) (rev : Bool) (reg : BitVec 3) (bit : BitVec 6)
  deriving DecidableEq, Repr

/-- Why the comptroller failed (R446). -/
inductive CompFailure where
  | lockstep | sram
  deriving DecidableEq, Repr

/-- The kind of a conventional reset (R337). -/
inductive ConvReset where
  | conventional | hotReset | linkDisable
  deriving DecidableEq, Repr

/-- The cause of an alert (R380). -/
inductive AlertCause where
  | power | rail | inputVoltage | temperature
  deriving DecidableEq, Repr

/-- One constructor per row of spec/opcode_table.json. -/
inductive Instr where
  -- scalar instructions (R64, R65)
  | add (c : CoreId) (rd ra rb : GReg)
  | sub (c : CoreId) (rd ra rb : GReg)
  | and (c : CoreId) (rd ra rb : GReg)
  | or (c : CoreId) (rd ra rb : GReg)
  | xor (c : CoreId) (rd ra rb : GReg)
  | shl (c : CoreId) (rd ra rb : GReg)
  | shr (c : CoreId) (rd ra rb : GReg)
  | sha (c : CoreId) (rd ra rb : GReg)
  | mul (c : CoreId) (rd ra rb : GReg)
  | mulh (c : CoreId) (rd ra rb : GReg)
  | slt (c : CoreId) (rd ra rb : GReg) (uns : Bool)
  | sel (c : CoreId) (rd ra rb : GReg) (p : PReg)
  | addImmediate (c : CoreId) (rd ra : GReg) (imm : BitVec 16)
  | andImmediate (c : CoreId) (rd ra : GReg) (imm : BitVec 16)
  | orImmediate (c : CoreId) (rd ra : GReg) (imm : BitVec 16)
  | xorImmediate (c : CoreId) (rd ra : GReg) (imm : BitVec 16)
  | sltImmediate (c : CoreId) (rd ra : GReg) (imm : BitVec 16)
  | shlImmediate (c : CoreId) (rd ra : GReg) (amt : BitVec 6)
  | shrImmediate (c : CoreId) (rd ra : GReg) (amt : BitVec 6)
  | shaImmediate (c : CoreId) (rd ra : GReg) (amt : BitVec 6)
  | li (c : CoreId) (rd : GReg) (hw : BitVec 2) (k : Bool) (imm : BitVec 16)
  | ldb (c : CoreId) (rd ra : GReg) (off : BitVec 14)
  | ldh (c : CoreId) (rd ra : GReg) (off : BitVec 14)
  | ldw (c : CoreId) (rd ra : GReg) (off : BitVec 14)
  | ldd (c : CoreId) (rd ra : GReg) (off : BitVec 14)
  | stb (c : CoreId) (rs ra : GReg) (off : BitVec 14)
  | sth (c : CoreId) (rs ra : GReg) (off : BitVec 14)
  | stw (c : CoreId) (rs ra : GReg) (off : BitVec 14)
  | std (c : CoreId) (rs ra : GReg) (off : BitVec 14)
  | loadReturn (c : CoreId) (rd : GReg)
  | storeBufferDrain (c : CoreId)
  | storeFailure (c : CoreId)
  | beq (c : CoreId) (ra rb : GReg) (off : BitVec 16)
  | bne (c : CoreId) (ra rb : GReg) (off : BitVec 16)
  | blt (c : CoreId) (ra rb : GReg) (off : BitVec 16)
  | bge (c : CoreId) (ra rb : GReg) (off : BitVec 16)
  | jump (c : CoreId) (off : BitVec 25)
  | call (c : CoreId) (off : BitVec 25)
  | jumpRegister (c : CoreId) (ra : GReg)
  | callRegister (c : CoreId) (ra : GReg)
  | ret (c : CoreId)
  | branchMisprediction (c : CoreId)
  | orControlWordRead (c : CoreId) (rd : GReg) (cw : BitVec 6)
  | orControlWordWrite (c : CoreId) (cw : BitVec 6) (ra : GReg)
  -- vector instructions (R67 to R76)
  | vld (c : CoreId) (reg : BitVec 5) (ga : GReg) (off : BitVec 12) (sub : BitVec 4)
  | vst (c : CoreId) (reg : BitVec 5) (ga : GReg) (off : BitVec 12) (sub : BitVec 4)
  | vadd (c : CoreId) (vd va vb : VReg) (pk : PReg) (fmt : BitVec 4)
  | vmul (c : CoreId) (vd va vb : VReg) (pk : PReg) (fmt : BitVec 4)
  | vmax (c : CoreId) (vd va vb : VReg) (pk : PReg) (fmt : BitVec 4) (cmp : Option PReg)
  | vfma (c : CoreId) (vd va vb : VReg) (pk : PReg) (fmt : BitVec 4)
  | vexp (c : CoreId) (vd va vb : VReg) (pk : PReg) (fmt : BitVec 4)
  | vrsq (c : CoreId) (vd va vb : VReg) (pk : PReg) (fmt : BitVec 4)
  | vredSum (c : CoreId) (vd va : VReg) (pk : PReg) (fmt : BitVec 4)
  | vredMax (c : CoreId) (vd va : VReg) (pk : PReg) (fmt : BitVec 4)
  | vperm (c : CoreId) (vd va vb : VReg) (pk : PReg) (fmt : BitVec 4)
  | vrope (c : CoreId) (vd va vb : VReg) (pk : PReg) (fmt : BitVec 4) (half : Bool)
  | vcvt (c : CoreId) (vd va vs vt : VReg) (src dst : BitVec 4) (n1 : BitVec 9)
  -- system instructions and core events (R66, R83 to R104)
  | wait (c : CoreId) (rd ra rb : GReg)
  | waitTimeout (c : CoreId)
  | fence (c : CoreId) (imm : BitVec 7)
  | hmark (c : CoreId) (rd : GReg)
  | signal (c : CoreId) (ra : GReg) (imm : BitVec 7)
  | signalArrival (target : CoreId)
  | barrierArriveAndWait (c : CoreId) (rd ra : GReg)
  | barrierArrive (c : CoreId) (rd ra : GReg)
  | barrierWait (c : CoreId) (rd ra rb : GReg)
  | barrierInit (c : CoreId) (ra rb : GReg)
  | barrierRelease (k : ClusterId) (id : BitVec 12)
  | barrierTimeout (c : CoreId)
  | trapret (c : CoreId)
  | halt (c : CoreId)
  | watchdogExpiry (c : CoreId)
  | timerEvent (c : CoreId)
  | runAheadEntry (c : CoreId)
  | runAheadWindowEnd (c : CoreId)
  | coreStart (r : Req) (c : CoreId)
  | coreReset (r : Req) (c : CoreId) (start : Bool)
  | coreResetEnd (c : CoreId)
  | haltReq (r : Req) (c : CoreId)
  | coEventWrite (r : Req) (c : CoreId) (w : Word)
  -- the press (04)
  | pload (c : CoreId) (d : DReg) (ga : GReg) (pri : Bool)
  | pfeed (c : CoreId) (d : DReg) (ga gb : GReg) (acc last : Bool)
  | pdrain (c : CoreId) (d : DReg) (ga gb : GReg) (clr : Bool)
  | psync (c : CoreId) (rd : GReg) (nw : Bool)
  | pressGrant (k : ClusterId)
  | tileLoadComplete (k : ClusterId)
  | passComplete (k : ClusterId)
  | drainEngineGrant (k : ClusterId)
  | drainComplete (k : ClusterId)
  | runSuspend (k : ClusterId)
  | gapExpiry (k : ClusterId)
  | rampDownEnd (k : ClusterId)
  | rampUpEnd (k : ClusterId)
  | pressFailure (k : ClusterId) (row col : BitVec 7)
  -- the vein (05)
  | mld (c : CoreId) (ga gb gc : GReg) (mode : BitVec 2)
  | mst (c : CoreId) (ga gb gc : GReg) (mode : BitVec 2)
  | mpf (c : CoreId) (ga gc : GReg)
  | moveComplete (c : CoreId) (i : BitVec 3)
  | refreshDue (c : CoreId) (pair : BitVec 4)
  | refreshCommand (c : CoreId) (pair : BitVec 4)
  | scrubStepDue (c : CoreId)
  | scrubUrgent (c : CoreId)
  | scrubStep (c : CoreId)
  | pageIdlePrecharge (c : CoreId) (bank : BitVec 5)
  | portWaitStop (c : CoreId) (unit : BitVec 4)
  | guestPromotion (c : CoreId)
  | guestAccess (c : CoreId) (g : GuestReq)
  | regionWrite (r : Req) (c : CoreId) (n : BitVec 3) (w : Word)
  | regionUnusedEffect (c : CoreId) (n : BitVec 3)
  | regionInitComplete (c : CoreId) (n : BitVec 3)
  | tierFlush (r : Req) (c : CoreId)
  | tierFlushComplete (c : CoreId)
  | cacheFillLine (c : CoreId)
  -- near-bank processing (06)
  | nbmvProduct (c : CoreId) (d : DReg) (ga gb : GReg) (ofmt : BitVec 4) (chk acc out cmb : Bool)
  | nbmvLoad (c : CoreId) (ga gb : GReg)
  | nbmvDrain (c : CoreId) (ga gb : GReg) (ofmt : BitVec 4)
  | nbgr (c : CoreId) (d : DReg) (ga gb : GReg) (ofmt : BitVec 4)
  | nbrowCopy (c : CoreId) (ga gb : GReg)
  | nbrowZero (c : CoreId) (ga gb : GReg)
  | nbrowNot (c : CoreId) (ga gb : GReg)
  | nbrowAnd (c : CoreId) (ga gb : GReg)
  | nbrowOr (c : CoreId) (ga gb : GReg)
  | nbsync (c : CoreId) (rd : GReg) (nw : Bool)
  | bankUnitCommandComplete (c : CoreId) (unit : BitVec 4)
  | combinerAdd (c : CoreId) (slot : BitVec 2)
  -- the key-value cache and attention (07)
  | kmapOpen (c : CoreId) (rd ga gb : GReg)
  | kmapClose (c : CoreId) (rd ga gb : GReg)
  | kmapCloseReleaseDone (p : PartId) (seq : BitVec 12)
  | kmapQuery (c : CoreId) (rd ga gb : GReg)
  | kescOpen (c : CoreId) (rd ga gb : GReg)
  | kcommit (c : CoreId) (rd ga gb : GReg)
  | krollDrop (c : CoreId) (rd ga gb : GReg)
  | krollRetract (c : CoreId) (rd ga gb : GReg)
  | kapp (c : CoreId) (d : DReg) (ga gb rd : GReg)
  | kesc (c : CoreId) (d : DReg) (ga gb rd : GReg)
  | kappRagged (c : CoreId) (d : DReg) (ga gb rd : GReg)
  | appendComplete (c : CoreId) (rd : GReg)
  | kattForward (c : CoreId) (d : DReg) (ga gb : GReg)
  | kattRecompute (c : CoreId) (d : DReg) (ga gb : GReg)
  | kmerge (c : CoreId) (d : DReg) (ga gb gc : GReg) (ofmt : BitVec 4) (rec : Bool)
  | kmask (c : CoreId) (d : DReg) (ga : GReg)
  | frameRelease (c : CoreId)
  | kframeAdd (r : Req) (c : CoreId) (w : Word)
  | kframeRemove (r : Req) (c : CoreId) (w : Word)
  -- remint and sampling (08)
  | remintDoorbell (r : Req) (die : DieId) (p : PartId) (w : Word)
  | remintRingRun (r : Req) (die : DieId) (p : PartId) (w : Word)
  | restripe (die : DieId) (p : PartId)
  | clear (die : DieId) (p : PartId)
  | remintPageMove (die : DieId) (p : PartId)
  | remintDescriptorEnd (die : DieId) (p : PartId)
  | seedBind (c : CoreId) (rd ga : GReg)
  | seedRelease (c : CoreId) (rd : GReg)
  | seedSetKey (c : CoreId) (rd ga gb gc : GReg)
  | seedRequest (c : CoreId) (rd ga gb : GReg)
  | seedSetCounter (c : CoreId) (gb : GReg)
  | randScalar (c : CoreId) (rd : GReg)
  | randBits (c : CoreId) (vd : VReg)
  | randUniform (c : CoreId) (vd : VReg)
  | smplk (c : CoreId) (rd ga gb gc : GReg)
  | smplp (c : CoreId) (rd ga gb gc : GReg)
  | entropyKeyReady
  | entropyStartupComplete
  | entropyTestFailure (apt : Bool)
  | entropyRestart (r : Req)
  | entropyEnableWrite (r : Req) (en : Bool)
  -- far memory and the seams (09)
  | farRequest (k : StackId) (q : FarReq)
  | farLineAccess (k : StackId) (pc : BitVec 6)
  | farWriteDrain (k : StackId) (pc : BitVec 6)
  | farAgedRequest (k : StackId) (pc : BitVec 6)
  | farRowClose (k : StackId) (pc : BitVec 6)
  | farScrubStep (k : StackId) (pc : BitVec 6)
  | farChannelFailure (k : StackId) (ch : BitVec 5)
  | plainRecord (s : SeamId) (up : Bool) (r : PlainRec)
  | bulkPiece (s : SeamId) (up : Bool)
  | bundleCrcFailure (s : SeamId) (b : BundleId)
  | bundleRetrainEnd (s : SeamId) (b : BundleId) (ok : Bool)
  | bundleFailure (s : SeamId) (b : BundleId)
  | roleMove (s : SeamId)
  | topenSend (c : CoreId) (d : DReg) (rd : GReg) (e : BitVec 3)
  | topenReceive (c : CoreId) (d : DReg) (rd : GReg) (e : BitVec 3)
  | streamOpenRecord (c : CoreId) (e : BitVec 3)
  | streamSetupAnswer (c : CoreId) (e : BitVec 3)
  | streamOpenTimeout (c : CoreId) (e : BitVec 3)
  | tsend (c : CoreId) (ga gb : GReg) (e : BitVec 3)
  | streamDataArrival (c : CoreId) (e : BitVec 3)
  | trecvQuery (c : CoreId) (rd : GReg) (e : BitVec 3)
  | trecvConsume (c : CoreId) (gb : GReg) (e : BitVec 3)
  | streamCredit (c : CoreId) (e : BitVec 3)
  | tcloseSync (c : CoreId) (e : BitVec 3)
  | tcloseClose (c : CoreId) (e : BitVec 3)
  | streamCloseRecord (c : CoreId) (e : BitVec 3)
  | xfer (c : CoreId) (d : DReg) (rd : GReg)
  | xferComplete (k : ClusterId)
  -- host interface (10)
  | pcieConventionalReset (kind : ConvReset)
  | flr (f : PartId)
  | busMasterEnableClear (f : PartId)
  | perstDeassert
  | bar2Read (f : PartId) (o : BitVec 36) (n : Nat)
  | bar2Write (f : PartId) (o : BitVec 36) (data : List Byte) (ep : Bool)
  | rcRegisterRead (r : Req) (off : BitVec 26)
  | registerWrite (r : Req) (off : BitVec 26) (w : Word)
  | doorbell (r : Req) (f : PartId) (ring : BitVec 2) (w : Word)
  | commandRingRun (r : Req) (f : PartId) (ring : BitVec 2) (w : Word)
  | commandDescriptorRead (f : PartId) (ring : BitVec 2) (a : HostReply)
  | noOperation (f : PartId) (ring : BitVec 2)
  | run (f : PartId) (ring : BitVec 2)
  | jobAdmission (f : PartId) (ring : BitVec 2)
  | abort (f : PartId) (ring : BitVec 2)
  | copyToDevice (f : PartId) (ring : BitVec 2)
  | copyToHost (f : PartId) (ring : BitVec 2)
  | jobTimeLimit (p : PartId) (job : BitVec 32)
  | completionRecordWrite (f : PartId) (ring : BitVec 2)
  | completionHeadWrite (r : Req) (f : PartId) (ring : BitVec 2) (w : Word)
  | partitionCommit (r : Req) (p : PartId)
  -- Clearing links (10)
  | clearingDoorbell (r : Req) (p : PartId) (q : BitVec 2) (w : Word)
  | put (p : PartId) (q : BitVec 2)
  | get (p : PartId) (q : BitVec 2)
  | clearingSignal (p : PartId) (q : BitVec 2)
  | allReduce (p : PartId) (q : BitVec 2)
  | reduceScatter (p : PartId) (q : BitVec 2)
  | allGather (p : PartId) (q : BitVec 2)
  | broadcast (p : PartId) (q : BitVec 2)
  | barrierCollective (p : PartId) (q : BitVec 2)
  | writeFrame (n : PortId) (x : Frame)
  | readRequestFrame (n : PortId) (x : Frame)
  | readResponseFrame (n : PortId) (x : Frame)
  | writeResponseFrame (n : PortId) (x : Frame)
  | signalFrame (n : PortId) (x : Frame)
  | collectiveDataFrame (n : PortId) (x : Frame)
  | ackFrame (n : PortId) (ackSeq : BitVec 16) (limits : BitVec 48) (nak : Bool)
  | linkControlFrame (n : PortId) (x : Frame)
  | idleFrame (n : PortId) (ackSeq : BitVec 16) (limits : BitVec 48)
  | forwardedFrame (n : PortId) (x : Frame)
  | frameCrcError (n : PortId)
  | ackDue (n : PortId)
  | pathFailure (n : PortId)
  | portRetrainEnd (n : PortId) (ok : Bool) (lanes : BitVec 4) (peerAck : BitVec 16)
  | portUp (r : Req) (n : PortId)
  | portDisable (r : Req) (n : PortId)
  | endToEndTimeout (tag : BitVec 16)
  | collectiveStepTimeout (p : PartId) (q : BitVec 2)
  -- clocks and the hallmark (11)
  | ppsPulse (captured : Word) (long : Bool)
  | ppsHoldover
  | hallmarkStep
  | slewEnd
  | followerUnlock (die : DieId)
  | followerLock (die : DieId)
  | epochWrite (r : Req) (rev : Bool) (w : Word)
  | ppsEnableWrite (r : Req) (w : Word)
  -- power and thermal control (12)
  | housekeepingRoundEnd (x : Readings)
  | governorSettingsApply
  | pauseFrameBoundary
  | pauseEnd (k : ClusterId)
  | operatingPointChange (k : ClusterId)
  | voltageRampEnd (k : ClusterId)
  | droopReserveSwitchIn (k : ClusterId)
  | droopReserveDisconnect (k : ClusterId)
  | deepDroop (k : ClusterId)
  | vrAlertAssert (cause : AlertCause)
  | vrAlertRelease
  | alertShutdown
  | shutdownRegulatorsOff
  | pwrLimitWrite (r : Req) (rev : Bool) (w : Word)
  | pwrTlimWrite (r : Req) (rev : Bool) (w : Word)
  -- starts and the maintenance state (13, 14)
  | coldStart (e : StartEnv)
  | warmStart (r : Req) (e : StartEnv)
  | inputLoss
  | imageWatchdogExpiry (e : StartEnv)
  | maintenanceEnter (r : Req)
  | maintenanceLeave (r : Req)
  | bootSettingsWrite (r : Req) (w : Word)
  | retirementRequest (r : Req) (w : Word)
  | localStoreScrub (k : ClusterId) (i : BitVec 4)
  | clusterReset (r : Req) (k : ClusterId)
  | clusterResetEnd (k : ClusterId)
  | clusterPowerDown (r : Req) (k : ClusterId)
  | clusterPowerUp (r : Req) (k : ClusterId)
  | clusterPowerUpEnd (k : ClusterId)
  | dieReset (r : Req) (d : DieId)
  | dieReturn (d : DieId) (training : List Unit13)
  | dieResetTimeout (d : DieId)
  -- comptroller, ledger, tally and firmware (15), hangs (16)
  | comptrollerFailure (kind : CompFailure) (addr : BitVec 32)
  | comptrollerWatchdogExpiry
  | info (f : PartId)
  | note (f : PartId)
  | coreMsg (f : PartId)
  | ledgerFetch (f : PartId)
  | tallySave (f : PartId)
  | hangAnalysis (f : PartId)
  | hangAnalysisEnd
  | autoHangAnalysis (c : CoreId)
  | blockingConditionBegin (c : CoreId)
  | messagePop (r : Req) (c : CoreId)
  | ledgerTokenRefill (code : BitVec 16)
  | ledgerFlashCopy
  | ledgerAckWrite (r : Req) (w : Word)
  | ledgerHold (r : Req) (w : Word)
  | ledgerHoldEnd
  | billingIntervalClose
  | ident (seq : BitVec 16)
  | status (seq : BitVec 16)
  | imgBegin (seq : BitVec 16) (slot : Byte) (header : List Byte)
  | imgData (seq : BitVec 16) (off : BitVec 32) (data : List Byte)
  | imgEnd (seq : BitVec 16)
  | imgAbort (seq : BitVec 16)
  | calRead (seq : BitVec 16) (cls : Byte)
  | calWrite (seq : BitVec 16) (cls : Byte) (values : List Word)
  | ledgerRead (seq : BitVec 16) (start : BitVec 16) (first : BitVec 32)
  | restart (seq : BitVec 16) (recovery : Bool) (e : StartEnv)
  | inclClear (seq : BitVec 16) (credential : Word) (locators : List Word)
  | flashEraseComplete
  | flashProgramComplete
  -- counters and trace (16), status interrupt (17), host copies (10) and the rest of the table
  | countRegisterWrite (r : Req) (off : BitVec 26) (w : Word)
  | counterOverflow (off : BitVec 26)
  | freezeControlWrite (r : Req) (w : Word)
  | traceChannelWrite (x : TraceWrite)
  | softwareRecord (r : Req) (k : ClusterId) (w : Word)
  | traceChannelEnable (r : Req) (k : ClusterId) (w : Word)
  | statusInterrupt
  | pcieCompletionTimeout (f : PartId) (ring : BitVec 2)
  | hostReadCompletion (f : PartId) (ring : BitVec 2) (a : HostReply)
  | copyComplete (f : PartId) (ring : BitVec 2)
  | cacheInstructionComplete (c : CoreId)
  | prefetchFill (c : CoreId) (addr : BitVec 48)
  | softError (t : SoftTarget)
  | bar0ReadOutsideView (f : PartId) (off : BitVec 26)
  deriving DecidableEq, Repr

end Sys2Proof
end

