-- ==== Sys2Proof/Config.lean ====
section
/-! DEFINITION. What an implementation fixes and what the manual leaves open: opaque constants, of which nothing in
Lean can prove a value. A statement about them holds whatever they are. -/

namespace Sys2Proof.Config

/-- Which of the results within 2 ulp VEXP gives, by format, operand code and rounding mode (R53). -/
opaque expChoice : Nat → Nat → Nat → Nat
/-- Which of the results within 1 ulp VRSQ gives, by format, operand code and rounding mode (R53). -/
opaque rsqChoice : Nat → Nat → Nat → Nat
/-- A value the manual does not state, by what it is for and how many were taken before (R290 and the log). -/
opaque freeNat : Nat → Nat → Nat
/-- The banks of a far-memory pseudo-channel, through which its groups rotate (R287). -/
opaque farBanks : Nat
/-- The n-th 256-bit output of the entropy source's conditioning, as two keys (chapter 8). -/
opaque entropyKey : Nat → Nat
/-- The module serial number, written at the factory (R514). -/
opaque serial : BitVec 64
/-- Firmware versions of the image in slot A and slot B as shipped, and of the ROM (R447, Table 15.1). -/
opaque firmwareVersion : Bool → Nat
/-- The ROM version (Table 15.1). -/
opaque romVersion : Nat
/-- The words of a calibration class as the factory stored them (R420). -/
opaque factoryWords : Nat → List (BitVec 64)
/-- The calibration value that a stored word spells, by class and number; the manual gives no encoding (R420). -/
opaque calDecode : Nat → Nat → BitVec 64 → Int
/-- The factory's calibration values by class and number: tau in µs, r in mK/W, trims in mV, HM_FREQ in ppb (R420). -/
def calFactory (cls i : Nat) : Int := calDecode cls i ((factoryWords cls).getD i 0)
/-- The credential that inclusion clear requires (R411). -/
opaque factoryCredential : BitVec 64

end Sys2Proof.Config
end

