-- ==== Sys2Proof/Machine/Maps.lean ====
section
/-! DEFINITION. Sparse tables: a list of (key, value) pairs in one canonical form, keys strictly rising and no entry
equal to what an unlisted key reads as. Memory, the register files and the numbered units of the device are held so. -/

namespace Sys2Proof.Machine

/-- A sparse table by natural-number key. -/
abbrev Map (α : Type) := List (Nat × α)

/-- The value at key i; d gives what an unlisted key reads as. -/
def look {α : Type} (d : Nat → α) : Map α → Nat → α
  | [], i => d i
  | (k, v) :: r, i => if i = k then v else look d r i

/-- Insert a pair before the first greater key. -/
def insertAt {α : Type} (i : Nat) (x : α) : Map α → Map α
  | [] => [(i, x)]
  | (k, v) :: r => if i < k then (i, x) :: (k, v) :: r else (k, v) :: insertAt i x r

/-- The table with key i holding x, in canonical form. -/
def put {α : Type} [DecidableEq α] (d : Nat → α) (m : Map α) (i : Nat) (x : α) : Map α :=
  let r := m.filter fun e => e.1 != i
  if x = d i then r else insertAt i x r

/-- The table with every key of [lo, lo + n) back at what an unlisted key reads as. -/
def clearIn {α : Type} (m : Map α) (lo n : Nat) : Map α :=
  m.filter fun e => !(decide (lo ≤ e.1) && decide (e.1 < lo + n))

/-- Keys strictly rising from a bound. -/
def risingFrom {α : Type} : Nat → Map α → Bool
  | _, [] => true
  | b, (k, _) :: r => decide (b ≤ k) && risingFrom (k + 1) r

/-- The canonical form: keys strictly rising, no entry at its default. -/
def canonical {α : Type} [DecidableEq α] (d : Nat → α) (m : Map α) : Bool :=
  risingFrom 0 m && m.all fun e => decide (e.2 ≠ d e.1)

/-- The pairs that hold consecutive values from key i upwards, those at their default left out. -/
def cellsFrom {α : Type} [DecidableEq α] (d : Nat → α) : Nat → List α → Map α
  | _, [] => []
  | i, x :: xs => if x = d i then cellsFrom d (i + 1) xs else (i, x) :: cellsFrom d (i + 1) xs

/-- Write consecutive values from key lo upwards. -/
def putList {α : Type} [DecidableEq α] (d : Nat → α) (m : Map α) (lo : Nat) (xs : List α) : Map α :=
  (m.filter fun e => decide (e.1 < lo)) ++ cellsFrom d lo xs ++ (m.filter fun e => decide (lo + xs.length ≤ e.1))

/-- Read n consecutive values from key lo upwards. -/
def lookList {α : Type} (d : Nat → α) (m : Map α) : Nat → Nat → List α
  | _, 0 => []
  | i, n + 1 => look d m i :: lookList d m (i + 1) n

/-- Memory bytes nothing has written read as zero (DESIGN CHOICE, unsafe: log entry 2). -/
def memDefault : Nat → Byte := fun _ => 0

/-- The canonical form of memory. -/
def Memory.wf (m : List Host.Cell) : Bool := canonical memDefault m

end Sys2Proof.Machine
end

