-- ==== Sys2Proof/Machine/State.lean ====
section
/-! DEFINITION. The state of the device as plain data: every register, buffer, queue, table and pin the manual gives
it, the queue of waiting commands, and the state right after a start (R10). Rules are cited by number. -/

namespace Sys2Proof.Machine

/-- Why the machine stops. -/
inductive Fault where
  /-- Raised by no command of the present model: every access that the manual calls unmapped has an outcome the
  manual gives (R504). Safe. -/
  | unmapped (address : Nat)
  deriving DecidableEq, Repr

/-- Why a command has no meaning. -/
inductive Refusal where
  /-- Raised by Machine/Dispatch.lean for a command without a meaning. Safe. -/
  | notModelled (mnemonic : String)
  deriving DecidableEq, Repr

/-! ### The core (chapter 3) -/

/-- CO_STAT.state (Table 3.17). -/
inductive RunState where
  | reset | running | waiting | halted | doubleTrap
  deriving DecidableEq, Repr

/-- A trap as it is reported: code, sub, cw_tval (Table 3.10). -/
structure TrapInfo where
  code : Nat
  sub  : Nat
  val  : Nat
  deriving DecidableEq, Repr

/-- The instruction a core waits in (R87, R92): WAIT with its mask and rd, BARRIER with its identity, generation and
rd and whether that generation has completed, so that the release is on its way, or a synchronous instruction that waits for its answer (R229, R313). -/
inductive WaitOn where
  | event (mask : Word) (rd : Nat) (until_ : Option Nat)
  | barrier (key : Nat) (id : Nat) (gen : Nat) (rd : Nat) (freed : Bool)
  | cache (rd : Nat) (result : Nat) (seq : Nat) (addr : Nat)
  | topen (rd : Nat) (entry : Nat)
  deriving DecidableEq, Repr

/-- One store-buffer entry (R79): an aligned 128-byte line with the bytes stored in it, or one control-space store
(R507); the stores merged in it, as address and length, in program order (R81). -/
structure StoreEnt where
  line    : Nat
  bytes   : Map Byte
  control : Bool
  stores  : List (Nat × Nat)
  deriving DecidableEq, Repr

/-- A bound generator (R274): sequence, record address, key and counter. -/
structure Binding where
  seq     : Nat
  record  : Nat
  key     : Nat
  counter : Nat
  deriving DecidableEq, Repr

/-- The registers, and the bound generator, that a precise trap at a load's return restores (R65, R99). -/
structure Snapshot where
  g     : Map Word
  v     : Map Vec
  p     : Map (BitVec 128)
  d     : Map Desc
  fstat : Word
  pc    : Word
  bind  : Option Binding
  deriving DecidableEq, Repr

/-- A load that has issued and not returned: its reply as sampled, or the trap it takes, and the elapsed time at which
it issued (R65, R83). -/
structure OutLoad where
  rd    : Nat
  reply : Word ⊕ TrapInfo
  addr  : Nat
  snap  : Snapshot
  at_   : Nat
  deriving DecidableEq, Repr

/-- Run-ahead: the checkpoint, the instructions left and the stalled load's register (R83). -/
structure RunAhead where
  g     : Map Word
  p     : Map (BitVec 128)
  pc    : Word
  left  : Nat
  bad   : List Nat
  deriving DecidableEq, Repr

/-- A move in flight: MLD or MST with its operands as read at issue, less the segments done, and its first failure
(R168, R170). -/
structure Move where
  load : Bool
  ga   : Nat
  gb   : Nat
  len  : Nat
  cnt  : Nat
  str  : Nat
  fail : Option TrapInfo
  deriving DecidableEq, Repr

/-- An append in flight (R230): rd, the status byte and count it will write, and a deferred trap. -/
structure Append where
  rd     : Nat
  status : Nat
  count  : Nat
  trap   : Option TrapInfo
  flags  : Nat
  dies   : List Nat
  deriving DecidableEq, Repr

/-- What a stream entry is (R311). -/
inductive StreamKind where
  | free | opening | send | recv
  deriving DecidableEq, Repr

/-- One entry of a core's stream table (R311 to R316). setup is how far the setup of an opening entry has come: 0 the
open record is on its way, 1 it is held at the receiving die, 2 it is accepted (R313). -/
structure Stream where
  kind    : StreamKind
  setup   : Nat
  peer    : Nat
  pstream : Nat
  way     : Bool
  engines : List (Nat × Nat)
  base    : Nat
  size    : Nat
  rptr    : Nat
  wptr    : Nat
  unread  : Nat
  credit  : Nat
  queue   : List (List (Byte × Bool))
  faults  : List Nat
  since   : Nat
  closed  : Bool
  deriving DecidableEq, Repr

/-- A free stream entry. -/
def Stream.idle : Stream :=
  ⟨.free, 0, 0, 0, false, [], 0, 0, 0, 0, 0, 0, [], [], 0, false⟩

/-- The state of one core. An unlisted core is a core in its reset state (R56, R104). -/
structure CoreSt where
  g         : Map Word                 -- g1 to g31 (R56)
  v         : Map Vec                  -- v0 to v31
  p         : Map (BitVec 128)         -- p1 to p7
  d         : Map Desc                 -- d0 to d15
  cw        : Map Word                 -- control words held as words (R58, Table 3.2 and the classes' own)
  pc        : Word                     -- address of the next instruction (R59)
  last      : Word                     -- CO_PC: address of the last committed instruction (R103)
  run       : RunState                 -- CO_STAT.state
  lastCode  : Nat                      -- CO_STAT.last_code
  resetting : Option Bool              -- a core reset in progress, and whether a start follows it (R103)
  resetAt   : Nat                      -- elapsed time at which it began
  halting   : Bool                     -- HALT or halt_req accepted, unit operations still to end (R96)
  wait      : Option WaitOn            -- what the core waits in
  waitSince : Nat                      -- elapsed time at which the wait began
  waited    : Nat                      -- ns waited while not paused (R95, R387)
  cyc10     : Nat                      -- cluster cycles since the core last started, in tenths (cw_cycle)
  wdogNs    : Nat                      -- ns left of cw_wdog (R102)
  seen      : Nat                      -- elapsed time up to which the three counts above are brought
  buf       : List StoreEnt            -- store buffer, oldest first (R79)
  failed    : List TrapInfo            -- store and move failures not yet reported to the core (R81)
  deferred  : Option TrapInfo          -- the failure to report at the next release point (R81)
  more      : Bool                     -- a further failure was lost
  dbl       : Option TrapInfo          -- a double trap whose stores still drain (R101)
  pref      : Map (List Byte)          -- prefetch buffer: filled granules by address (R83)
  prefOrder : List Nat                 -- its entries, oldest first
  asked     : List Nat                 -- granules asked for and not arrived (R171)
  ra        : Option RunAhead          -- run-ahead (R83)
  blocked   : List Nat                 -- registers on which the next instruction was found to wait (R83)
  loads     : List OutLoad             -- outstanding loads, oldest first
  discarded : Nat                      -- replies discarded and counted (R82)
  icache    : List Nat                 -- valid instruction-cache lines, most recently used first (R55)
  bht       : Map (BitVec 2)           -- 1,024 two-bit counters (R85)
  btb       : Map Word                 -- 64-entry target buffer
  ras       : List Word                -- 8-entry return stack
  mispred   : Bool                     -- a mispredicted branch has resolved (R85)
  moves     : List Move                -- MLD and MST in flight (R168)
  appends   : List Append              -- appends in flight (R230)
  bind      : Option Binding           -- bound generator (R274)
  streams   : Map Stream               -- stream table (R311)
  msgs      : List (List Word)         -- messages of the comptroller, head first (R448)
  blk       : Nat                      -- CO_BLK (R497)
  blkobj    : Word                     -- CO_BLKOBJ
  wfmt      : Nat                      -- cw_pstat.wfmt (Table 4.5)
  noPress   : Bool                     -- a press command issued to a failed press set cw_pstat.absent (R128)
  pFaults   : List TrapInfo            -- pending press faults, oldest first (R131)
  pFlags    : Nat                      -- flags PSYNC will apply (R35, R52)
  nbFaults  : List TrapInfo            -- pending bank-unit faults, oldest first (R200)
  nbFlags   : Nat                      -- flags NBSYNC will apply
  waitPload : Bool                     -- the core executes PSYNC with nw = 0 (R110)
  deriving DecidableEq, Repr

/-- A core in its reset state. -/
def CoreSt.idle : CoreSt where
  g := []; v := []; p := []; d := []; cw := []; pc := 0; last := 0; run := .reset; lastCode := 0
  resetting := none; resetAt := 0; halting := false; wait := none; waitSince := 0; waited := 0; cyc10 := 0; wdogNs := 0; seen := 0
  buf := []; failed := []; deferred := none; more := false; dbl := none; pref := []; prefOrder := []; asked := []; ra := none
  blocked := []; loads := []; discarded := 0; icache := []; bht := []; btb := []; ras := []; mispred := false; moves := []
  appends := []; bind := none; streams := []; msgs := []; blk := 0; blkobj := 0; wfmt := 15; noPress := false
  pFaults := []; pFlags := 0; nbFaults := []; nbFlags := 0; waitPload := false

/-! ### The press and the cluster (chapters 4, 12, 14, 16) -/

/-- A press command as its queue entry keeps it (R110): 0 load, 1 feed, 2 drain; the descriptor and operands as they
stood at issue; pri or acc or clr; last; when its wait at the head began; for a load, the tile depth that was fixed when
it became a candidate, 0 before. -/
structure PressCmd where
  op   : Nat
  d    : Nat
  ga   : Nat
  gb   : Nat
  f1   : Bool
  last : Bool
  at_  : Nat
  kt   : Nat
  deriving DecidableEq, Repr

/-- A run: its core, its PLOAD, the tile depth loaded, whether the load in progress is a reload, the bytes of the tile as
read, and the address of an uncorrectable word that a load of it met (R118, R119, R130). -/
structure PressRun where
  core   : Nat
  load   : PressCmd
  kt     : Nat
  loaded : Bool
  again  : Bool
  tile   : List Host.Cell
  bad    : Option Nat
  since  : Nat
  deriving DecidableEq, Repr

/-- An accumulator row (R112): INT32 or FP32, poison, 128 entries; the columns whose entry has a parity error (R130). -/
structure AccRow where
  isInt  : Bool
  poison : Bool
  vals   : Map (BitVec 32)
  parity : Bool
  deriving DecidableEq, Repr

/-- An accumulator row after a cluster reset (R112). -/
def AccRow.zero : AccRow := ⟨false, false, [], false⟩

/-- PR_STAT.activity (Table 4.13). -/
inductive Activity where
  | idle | passes | gap | rampUp | rampDown | paused
  deriving DecidableEq, Repr

/-- A trace record (Table 16.7): hallmark, source, kind, records lost before it, payload. -/
structure TraceRec where
  hallmark : Nat
  source   : Nat
  kind     : Nat
  lost     : Nat
  payload  : List Nat
  deriving DecidableEq, Repr

/-- A transfer held by a cluster's transfer engine (R318), with the bytes moved and the status of a failure (R319). -/
structure Transfer where
  core  : Nat
  rd    : Nat
  src   : Nat
  dst   : Nat
  row   : Nat
  rows  : Nat
  sstr  : Nat
  dstr  : Nat
  drop  : Bool
  done  : Nat
  fail  : Option Nat
  deriving DecidableEq, Repr

/-- CL_RSTAT and the power of a cluster (R439). -/
inductive ClusterPower where
  | on | resetting | off | poweringUp
  deriving DecidableEq, Repr

/-- The state of one cluster. An unlisted cluster is idle after a start. -/
structure ClusterSt where
  failed    : Bool                    -- PR_STAT.state failed (R128)
  absent    : Bool                    -- PR_STAT.state absent (R129)
  queues    : Map (List PressCmd)     -- press queue of each core-in-cluster (R117)
  current   : Option PressRun         -- run on the active weights (R118)
  shadow    : Option PressRun         -- run chosen into the shadow weights
  susp      : List PressRun           -- open runs suspended (R119)
  feed      : Option (Nat × PressCmd) -- pass granted and not complete
  drain     : Option (Nat × PressCmd) -- drain granted and not complete (R120)
  fed       : Bool                    -- the pass granted has begun to feed (R126, R127)
  passEnd   : Nat                     -- elapsed time at which the gap began (R125)
  emptyAt   : Map Nat                 -- elapsed time at which a core's queue became empty (R119)
  lastRun   : Nat                     -- round-robin place of the run arbiter
  lastDrain : Nat                     -- round-robin place of the drain engine
  acc       : Map AccRow              -- 1,024 accumulator rows (R112)
  activity  : Activity                -- PR_STAT.activity
  prFault   : Word                    -- PR_FAULT
  power     : ClusterPower            -- CL_RSTAT
  rej       : Bool                    -- CL_RSTAT.rej
  op        : Nat                     -- operating point in force (R376)
  opTarget  : Nat                     -- operating point requested
  opNext    : Nat                     -- operating point decided, requested at 0.8 ms (R382)
  lift      : Nat                     -- points by which R397 raised a laggard
  drop      : Nat                     -- points below its setting after R379 or R397
  ramping   : Bool                    -- the voltage is moving (R377)
  rampOp    : Nat                     -- the point it moves to
  rampEnd   : Nat                     -- elapsed time at which it gets there
  slow      : Bool                    -- hardware holds the clock at 0.4 GHz (R379, R380)
  duty      : Nat                     -- pause duty in force, in sixteenths (R385)
  paused    : Bool                    -- the cluster is paused now (R386)
  pausedAt  : Nat                     -- elapsed time at which the pause began
  pauseEnd  : Nat                     -- hallmark at which the pause of the frame ends
  deep      : Bool                    -- held under R379
  deepNew   : Nat                     -- deep droops in this round
  reserve   : Bool                    -- the droop reserve is on the rail (R378)
  charge    : Nat                     -- charge of the droop reserve in nC when it last disconnected
  chargeAt  : Nat                     -- elapsed time of that
  est       : Int                     -- est of R393, in µ°C
  rise      : Int                     -- rise of R393, in µ°C
  estOld    : Int                     -- est of the round before
  quick     : Nat                     -- consecutive rounds with d above 0.5 °C
  powerMw   : Nat                     -- power of the last round in mW
  lag       : Bool                    -- laggard flag (R501)
  lagMean   : Nat                     -- mean lag of the last round
  lagGens   : Nat                     -- generations of the last round
  lagSum    : Nat                     -- lags summed in this round
  lagCnt    : Nat                     -- generations in this round
  trace     : List TraceRec           -- trace buffer, oldest first (R492)
  traceLost : Nat                     -- records dropped since the last record written (R494)
  sw0       : Word                    -- CL_TR_SW0
  xfers     : List Transfer           -- transfer engine queue (R318)
  rst       : List Nat                -- writes of CL_RST that wait for the one acting (R509)
  rstAt     : Nat                     -- elapsed time at which the present reset or power-up began (R439)
  scrub     : Map Nat                 -- next local-store word to scrub, by core-in-cluster (R434)
  scrubAt   : Map Nat                 -- elapsed time of the last scrub read of each
  deriving DecidableEq, Repr

/-- A cluster right after a start: OP6 (R405 step 5), reserve full (R378). -/
def ClusterSt.idle : ClusterSt where
  failed := false; absent := false; queues := []; current := none; shadow := none; susp := []; feed := none
  drain := none; fed := false; passEnd := 0; emptyAt := []; lastRun := 15; lastDrain := 15; acc := []; activity := .idle; prFault := 0; power := .on
  rej := false; op := 6; opTarget := 6; opNext := 6; lift := 0; drop := 0; ramping := false; rampOp := 6; rampEnd := 0; slow := false; duty := 0
  paused := false; pausedAt := 0; pauseEnd := 0
  deep := false; deepNew := 0; reserve := false; charge := 540; chargeAt := 0; est := 0; rise := 0; estOld := 0; quick := 0
  powerMw := 0; lag := false; lagMean := 0; lagGens := 0; lagSum := 0; lagCnt := 0; trace := []; traceLost := 0
  sw0 := 0; xfers := []; rst := []; rstAt := 0; scrub := []; scrubAt := []

/-! ### The vein and its bank units (chapters 5, 6, 7) -/

/-- A bank-unit command in a queue (R184): what it is, with its operands as read at issue. A load names every unit of
its mask, a KATT every unit (R231). -/
inductive NbCmd where
  | product (d ga gb : Nat) (ofmt : Nat) (chk acc out cmb : Bool)
  | load (ga gb : Nat) (data : Option (List (Byte × Bool)))
  | drain (ga gb : Nat) (ofmt : Nat)
  | gather (d ga gb : Nat) (ofmt : Nat)
  | row (func ga gb : Nat)
  | katt (d ga gb : Nat) (rec : Bool) (word : Option Nat)
  deriving DecidableEq, Repr

/-- A slot of a latch (R192): its activation format (none: unloaded) and whether a load met an uncorrectable word or
a parity error stands in it (R213, Table 14.3). -/
structure LatchSlot where
  fmt    : Option Nat
  poison : Bool
  parity : Bool
  deriving DecidableEq, Repr

/-- An unloaded latch slot. -/
def LatchSlot.empty : LatchSlot := ⟨none, false, false⟩

/-- A contribution waiting for the combiner in the output queue of its unit (R182, R197): slot, first row, rows, vectors,
type, poisoned rows, values row-major. -/
structure Contribution where
  seq    : Nat
  unit   : Nat
  slot   : Nat
  row    : Nat
  rows   : Nat
  vecs   : Nat
  isInt  : Bool
  poison : List Nat
  vals   : List (BitVec 32)
  deriving DecidableEq, Repr

/-- One bank unit (Table 6.1). -/
structure BankUnit where
  vcfg   : Nat                 -- 0, 1, 2: one, two, four slots (R192)
  slots  : Map LatchSlot
  latch  : Map Byte            -- 8 KiB
  acc    : Map (BitVec 32)     -- 4 sets of 256
  lastInt : Bool               -- accumulator type of the last accepted product (R194)
  parity : List Nat            -- accumulators, as 256 × set + entry, in which a parity error stands (R213)
  poison : List Nat            -- accumulators that hold poisoned results (R208, R213)
  scales : Map Byte            -- scale buffer: the scale row of the group last read (Table 6.1)
  checks : Map (BitVec 32)     -- check registers: 4 × vector + register (Table 6.1)
  queue  : List (Nat × NbCmd)  -- commands with their program-order number (R184)
  busy   : Bool                -- streaming its head command
  deriving DecidableEq, Repr

/-- A bank unit after a die reset (Table 6.9). -/
def BankUnit.idle : BankUnit := ⟨0, [], [], [], false, [], [], [], [], [], false⟩

/-- A combiner slot (R197): type of its first contribution since the last drain, poisoned rows, rows in which a parity
error stands (R213), entries. -/
structure Combiner where
  first  : Option Bool
  poison : List Nat
  parity : List Nat
  vals   : Map (BitVec 32)
  deriving DecidableEq, Repr

/-- An empty combiner slot. -/
def Combiner.idle : Combiner := ⟨none, [], [], []⟩

/-- What a frame of a pool is (R225, R228). -/
inductive Frame7 where
  | absent | free | used (esc : Bool) | pending (waits : Bool) | withheld
  deriving DecidableEq, Repr

/-- A page of the tiered page cache (R175 to R177): way key, page, stack, dirty, referenced, lines arrived, lines
poisoned. -/
structure CachePage where
  stack   : Nat
  page    : Nat
  dirty   : Bool
  refd    : Bool
  lines   : List Nat
  poison  : List Nat
  filling : Bool
  deriving DecidableEq, Repr

/-- A guest request waiting at a vein controller (R153), with the time of its arrival. prior names the region entry that
has been written unused since (R157); far is the stack and offset of an access that waits here for a miss slot (R176),
of which req says who asks. -/
structure Guest where
  req      : GuestReq
  at_      : Nat
  promoted : Bool
  prior    : Option Nat
  far      : Option (Nat × Nat)
  deriving DecidableEq, Repr

/-- The state of one vein: its controller, bank units, frame pool and page cache. -/
structure VeinSt where
  rows     : Map (Option (Nat × Nat)) -- open port row of each bank, and the elapsed time of its last access (R143)
  due      : Map Nat                 -- elapsed time at which each pair's next refresh falls due (R144)
  debt     : Map Nat                 -- refresh debt of each pair (R146)
  refCount : Map Nat                 -- refresh commands issued to each pair, modulo 8,192 (R144)
  hot      : Nat                     -- strata at tREFI 1,950 (R145)
  scrubLast : Option Nat             -- elapsed time at which the last scrub step fell due (R148)
  scrubDue : Option Nat              -- elapsed time at which the waiting scrub step fell due (R149)
  urgent   : Bool                    -- it is urgent
  scrubAt  : Nat                     -- next data row offset to scrub
  scrubs   : Nat                     -- completed passes
  guests   : List Guest              -- guest queue (R153)
  checkBuf : List Nat                -- check bursts buffered (R158)
  unused   : Map (Nat × Bool)        -- entries written unused and not yet in effect: old word, zf (R157)
  initing  : List Nat                -- entries whose zero-fill or initialisation runs (R157)
  units    : Map BankUnit            -- 16 bank units
  nbSeq    : Nat                     -- program-order number of the next bank-unit command
  waiting  : List Contribution       -- contributions waiting for the combiner (R197)
  drains   : List (Nat × NbCmd)      -- combiner drains not complete, oldest first (R198)
  comb     : Map Combiner            -- four combiner slots
  frames   : Map Frame7              -- the frame pool (R225)
  retired  : List Nat                -- frames retired or listed (R410, R436)
  stCache  : List Nat                -- state words cached, by address, most recently used first (R224)
  enCache  : List Nat                -- page-table entries cached, likewise
  pages    : Map CachePage           -- ways of the page cache (R175)
  hands    : Map Nat                 -- clock hand of each set
  flush    : Bool                    -- CO_VTIER.flush_busy
  flushes  : Nat                     -- writes of CO_VTIER.flush that wait for the running one (R509)
  deriving DecidableEq, Repr

/-- A vein right after a start in flat mode. -/
def VeinSt.idle : VeinSt where
  rows := []; due := []; debt := []; refCount := []; hot := 0; scrubLast := none; scrubDue := none; urgent := false; scrubAt := 0; scrubs := 0
  guests := []; checkBuf := []; unused := []; initing := []; units := []; nbSeq := 0; waiting := []; drains := []; comb := []
  frames := []; retired := []; stCache := []; enCache := []; pages := []; hands := []; flush := false; flushes := 0

/-! ### Barriers and signals (chapter 3) -/

/-- A barrier (R91) and the arrivals of its present generation for the laggard detector (R94, R501). -/
structure Barrier where
  count    : Nat
  arrived  : Nat
  gen      : Nat
  arrivals : List (Nat × Nat)
  deriving DecidableEq, Repr

/-- A barrier after a start or a partition commit (R91). -/
def Barrier.fresh : Barrier := ⟨1, 0, 0, []⟩

/-- A signal sent and not yet arrived (R88). -/
structure Signal where
  source : Nat
  target : Nat
  event  : Nat
  deriving DecidableEq, Repr

/-! ### Remint and entropy (chapter 8) -/

/-- A page that a remint engine moves (R268): its entry, where it comes from, where it goes, the buffer, and whether
the copy has been written again. -/
structure RemintPage where
  index : Nat
  core  : Nat
  frame : Nat
  home  : Nat
  dest  : Nat
  buf   : List Byte
  again : Bool
  deriving DecidableEq, Repr

/-- A descriptor a remint ring works on (R266 to R270); list is the address of its list's header, flight the
pages being moved, oldest first. -/
structure RemintJob where
  desc     : List Byte
  addr     : Nat
  list     : Nat
  next     : Nat
  moved    : Nat
  skipped  : Nat
  failed   : Nat
  withheld : Nat
  status   : Option Nat
  at_      : Nat
  flight   : List RemintPage
  deriving DecidableEq, Repr

/-- ENT_STAT.state (Table 8.12). -/
inductive EntState where
  | startUp | ready | failed | off
  deriving DecidableEq, Repr

/-- A queued key request (R281): core, sequence record, event. -/
structure KeyReq where
  core   : Nat
  record : Nat
  event  : Nat
  deriving DecidableEq, Repr

/-! ### Far memory and seams (chapter 9) -/

/-- A request in a reorder queue (R290). -/
structure FarEnt where
  req  : FarReq
  line : Nat
  at_  : Nat
  aged : Bool
  deriving DecidableEq, Repr

/-- One pseudo-channel (R291): queue, open rows by group with the time of their last access, scrub place. -/
structure PseudoCh where
  queue : List FarEnt
  rows  : List (Nat × Nat)
  scrub : Nat
  scrubAt : Nat               -- elapsed time of the last scrub read (R434)
  deriving DecidableEq, Repr

/-- An idle pseudo-channel. -/
def PseudoCh.idle : PseudoCh := ⟨[], [], 0, 0⟩

/-- One direction of a seam: the records its plain engine has executed with their responses, newest first (R307), and
the round-robin place of its bulk engines (R304). -/
structure SeamDir where
  done : List (Nat × (Nat × List Byte))
  turn : Nat
  deriving DecidableEq, Repr

/-- A seam (R300 to R309): which bundles retrain, the times of each bundle's replays in the last millisecond, roles to
be moved. -/
structure SeamSt where
  retraining : List Nat
  retrainAt  : Map Nat        -- elapsed time at which each of them began
  replays    : Map (List Nat)
  movePlain  : Bool
  moveBulk   : Bool
  deriving DecidableEq, Repr

/-! ### Host interface (chapter 10) -/

/-- A completion record waiting to be written (R333), with the hallmark at which its command finished; after names the
job whose record must be written before it (R335). -/
structure Completion where
  job    : Nat
  status : Nat
  index  : Nat
  detail : Nat
  irq    : Option Nat
  hm     : Nat
  after  : Option Nat
  deriving DecidableEq, Repr

/-- A host copy in progress (R332): bytes left, its status once it has ended, whether a read of host memory is
outstanding and since when, and whether an abort stops it at its next 4 KiB boundary. -/
structure Copy where
  toHost : Bool
  dev    : Nat
  host   : Nat
  left   : Nat
  job    : Nat
  index  : Nat
  irq    : Option Nat
  status : Option Nat
  detail : Nat
  asked  : Bool
  stop   : Bool
  at_    : Nat
  deriving DecidableEq, Repr

/-- A command ring (R329): the descriptor at the head and its index, the descriptors read behind a run that waits there,
with their indexes (R335), the copy in progress, the records waiting, the status and detail of an abort that waits for its
target to leave (R335), and whether run has ever been set. -/
structure Ring where
  head     : Option (List Byte)
  index    : Nat
  line     : List (Nat × List Byte)
  copy     : Option Copy
  recs     : List Completion
  aborting : Option (Nat × Nat)
  started  : Bool
  deriving DecidableEq, Repr

/-- An idle command ring. -/
def Ring.idle : Ring := ⟨none, 0, [], none, [], none, false⟩

/-- An error that AER records (R323, Table 10.1): a poisoned TLP received, a completion timeout, and the completions UR and
CA received. -/
inductive PcieError where
  | poisoned | timeout | unsupported | completerAbort
  deriving DecidableEq, Repr

/-- One function (R323 to R337): Bus Master Enable, MSI-X pending bits, rings, the mailbox command running with the vector to
signal (R447), whether an FLR is in progress (R337), and the errors its AER capability has recorded (R323). -/
structure Func where
  bme     : Bool
  pend    : List Nat
  rings   : Map Ring
  cmbBusy : Option (Nat × Option Nat)
  flr     : Bool
  aer     : List PcieError
  deriving DecidableEq, Repr

/-- A function after a start: not mastering the bus. -/
def Func.idle : Func := ⟨false, [], [], none, false, []⟩

/-- The job-state word (R335). -/
inductive JobState where
  | queued | running | aborting | done
  deriving DecidableEq, Repr

/-- An admitted job (R330, R331), with its energy in units of 2^-16 µJ (R460, R461). -/
structure Job where
  part      : Nat
  ring      : Nat
  index     : Nat
  job       : Nat
  cores     : List Nat
  state     : JobState
  limit     : Nat
  start     : Nat
  startHm   : Nat
  paused    : Bool
  irq       : Option Nat
  energy    : Nat
  ivl       : Nat
  silent    : Bool
  ending    : Option (Nat × Nat)
  slot      : Nat
  deriving DecidableEq, Repr

/-- The layout in force of a partition (R326, R327). -/
structure Layout where
  clusters : List Nat
  slices   : Nat
  seqs     : Nat
  barriers : Nat
  barBase  : Nat
  pclass   : Nat
  domain   : Nat
  deriving DecidableEq, Repr

/-- Which halves of a pair have been written since they last agreed (R11), and whether a mismatch has been reported. -/
structure PairSt where
  obv  : Bool
  rev  : Bool
  told : Bool
  deriving DecidableEq, Repr

/-! ### Clearing links (chapter 10) -/

/-- A put, get or signal outstanding at its origin (R344): kind 1, 2, 3; the bytes handed to frames, all bytes, the bytes
answered, the frames without an answer (tag, offset, length), whether a signal has been sent. -/
structure ClrOp where
  part   : Nat
  q      : Nat
  kind   : Nat
  desc   : List Byte
  addr   : Nat
  next   : Nat
  total  : Nat
  done   : Nat
  frames : List (Nat × Nat × Nat)
  status : Nat
  at_    : Nat
  sent   : Bool
  deriving DecidableEq, Repr

/-- A collective in progress (R345): its step, whether the step's own bytes have been sent, the bytes received in it, and
the values of a barrier. -/
structure Collective where
  part    : Nat
  q       : Nat
  desc    : List Byte
  addr    : Nat
  step    : Nat
  sent    : Bool
  got     : Nat
  scratch : List Byte
  at_     : Nat
  deriving DecidableEq, Repr

/-- CLR_PSTAT.state (Table 10.14). -/
inductive PortState where
  | up | retraining | down | disabled
  deriving DecidableEq, Repr

/-- A Clearing port (R338 to R342). Frames that wait carry their origin: a partition, or 16 + the port that a forwarded
frame came in by. -/
structure Port where
  state   : PortState
  lanes   : Nat
  txSeq   : Nat               -- next link sequence number to send
  rxSeq   : Nat               -- last number received intact
  limits  : List Nat          -- cumulative credit limits the peer advertised, per channel
  spent   : List Nat          -- credits consumed, per channel
  given   : List Nat          -- cumulative credit limits advertised to the peer, per channel
  replay  : List Frame        -- unacknowledged frames, oldest first
  times   : List Nat          -- when each of them was sent
  seen    : Nat               -- when the last frame arrived
  queue   : List (Nat × Frame) -- frames waiting for credit or for the link
  turn    : Bool              -- the next frame is a forwarded one, where one waits
  last    : Nat               -- the partition served last
  unacked : Bool              -- a frame received and not yet acknowledged
  fails   : Nat               -- retrains failed in a row
  deriving DecidableEq, Repr

/-- A port that has trained (R338): 64 KiB, 1,024 credits, in each channel. -/
def Port.trained : Port :=
  ⟨.up, 15, 0, 65535, [1024, 1024, 1024], [0, 0, 0], [1024, 1024, 1024], [], [], 0, [], false, 15, false, 0⟩

/-! ### Ledger, tally, flash, service port (chapter 15) -/

/-- A ledger record before its place in the ring (Table 15.2). -/
structure LedgerRec where
  seq     : Nat
  code    : Nat
  sev     : Nat
  dev     : Bool
  part    : Nat
  hm      : Nat
  source  : Nat
  supp    : Nat
  payload : List Nat
  fgap    : Bool
  deriving DecidableEq, Repr

/-- A tally record (Table 15.4). -/
structure TallyRec where
  seq    : Nat
  kind   : Nat
  flags  : Nat
  job    : Nat
  egen   : Nat
  len    : Nat
  energy : Nat
  h0     : Nat
  h1     : Nat
  w0     : Nat
  w1     : Nat
  deriving DecidableEq, Repr

/-- The ledger (R450 to R459). -/
structure Ledger where
  ring    : Map LedgerRec          -- by slot; an unlisted slot is empty
  wseq    : Nat
  ack     : Nat
  tokens  : Map Nat                -- tokens taken from each code's bucket
  refills : Map (Nat × Nat)        -- elapsed time since which each bucket's next token is due, and its severity
  supp    : Map Nat                -- suppressed count of each code
  holdEnd : Option Nat             -- elapsed time at which a hold ends
  held    : List LedgerRec
  queue   : List LedgerRec         -- copies waiting for the flash, oldest first
  gap     : Bool                   -- an ERROR copy was skipped
  window  : List (Nat × LedgerRec) -- records copied by LEDGER_FETCH, with their starts
  deriving DecidableEq, Repr

/-- The tally (R460 to R466), energies in units of 2^-16 µJ. -/
structure Tally where
  ring    : Map TallyRec
  wseq    : Nat
  ack     : Nat
  cum     : Map Nat                -- cumulative per partition
  unattr  : Nat
  idle    : Map Nat                -- idle share of this interval
  unIvl   : Nat                    -- unattributed in this interval
  ivlLen  : Nat                    -- length in force, s
  ivlStart : Nat                   -- hallmark of the interval's start
  ivlEnd  : Nat
  short   : Bool
  stepped : Bool
  saved   : Option Nat             -- elapsed time of the last save
  ended   : List (Nat × Nat × Nat) -- jobs that ended in the interval: partition, job ID, energy
  deriving DecidableEq, Repr

/-- An image slot of the flash (R472). -/
structure Image where
  header : List Byte
  body   : Map Byte
  erased : Bool
  tried  : Bool
  ok     : Bool
  deriving DecidableEq, Repr

/-- An inclusion slot: obverse and reverse (R409). -/
abbrev InclSlot := Word × Word

/-- What the flash holds (Table 15.6). It survives every start. -/
structure Flash where
  preferB  : Bool
  slotA    : Image
  slotB    : Image
  starts   : Nat
  boot     : Word × Word             -- ASY_NEXT and its reverse
  incl     : List InclSlot
  pend     : List InclSlot           -- pending retirements
  cal      : Map (List (Word × Word)) -- calibration pairs by class
  calUser  : Bool
  tally    : Map (Word × Word)       -- saved tallies: 16 partitions and the unattributed, as pairs
  ledger   : List (Nat × LedgerRec)  -- flash ledger, oldest first, with the start's number
  ledgerAt : Nat                     -- its slot of the next record, of 131,072
  journal  : List (Nat × Bool)       -- erase journal: sector, mark programmed
  erasing  : List Nat                -- sectors still to erase, the first in progress
  programs : Nat                     -- program operations in progress
  deriving DecidableEq, Repr

/-- DEV_CSTAT.state (Table 15.9). -/
inductive CompState where
  | rom | firmware | recovery | failed
  deriving DecidableEq, Repr

/-- The comptroller and its service port (R445, R476 to R478). -/
structure Comp where
  state    : CompState
  failure  : Nat
  slotB    : Bool
  fallback : Bool
  lastSeq  : Option Nat
  lastResp : List Byte
  update   : Option (Bool × List Byte × Nat)   -- open update: slot B, header, next offset
  step     : Nat                               -- step of Table 13.1 reached
  imageOk  : Bool                              -- the running image has been confirmed (R473)
  deriving DecidableEq, Repr

/-! ### Hallmark, power, start, debug -/

/-- HM_STAT.state (Table 11.3). -/
inductive PpsState where
  | free | acquire | locked | holdover
  deriving DecidableEq, Repr

/-- The alignment of the hallmark (R356 to R373). -/
structure HmSt where
  steps     : Nat                -- ns of steps since the start (R363)
  state     : PpsState
  first     : Bool               -- the next pulse is the acquire state's first
  good      : Nat                -- consecutive pulses with |e| at most 100 ns
  lastPulse : Option Nat         -- elapsed time of the last valid pulse
  slew      : Int                -- phase error still to remove, positive when ahead
  step      : Option (Nat × Nat) -- announced step: hallmark at which it applies, size
  egen      : Nat
  epoch     : Word               -- epoch in force
  epochBad  : Bool
  bigBack   : Bool
  unlocked  : Nat                -- die followers not locked
  deriving DecidableEq, Repr

/-- PWR_STAT.state (Table 12.4). -/
inductive GovState where
  | normal | capped | throttle | clamp | shutdown
  deriving DecidableEq, Repr

/-- The governor (R382 to R398). Powers in µW, sensor readings in 1/16 °C. -/
structure PwrSt where
  state    : GovState
  alert    : Bool                -- VR_ALERT_N low
  alertAt  : Nat                 -- elapsed time of its last change
  causes   : Nat                 -- causes of R380 given with its fall: power, rail, voltage, temperature
  high     : Nat                 -- whole rounds it has been high
  alertCl  : Bool                -- the clamp has cause alert
  rateCl   : Bool                -- the clamp has cause rate
  quiet    : Nat                 -- quiet rounds of a rate clamp
  round    : Nat                 -- rounds since the comptroller left reset
  roundEnd : Nat                 -- hallmark at which the round ends
  roundAt  : Nat                 -- elapsed time at which the round began
  inputs   : List Nat            -- input power of past rounds in 0.1 W, newest first
  budget   : Int                 -- b for the next round
  bt       : Option Nat
  rise     : Bool                -- the rise throttle of R394 holds
  model    : Bool                -- the model limit of R394 holds
  limit    : Word                -- PWR_LIMIT in force
  tlim     : Word                -- PWR_TLIM in force
  limitNew : Option Word         -- agreed, taking effect in the next round
  tlimNew  : Option Word
  sensors  : Map Int             -- readings of the last round, 256 sensors
  failed   : List Nat            -- failed sensors
  levels   : Map Nat             -- levels set: 1 warning, 2 throttle, 4 shutdown
  rails    : Word                -- PWR_RAIL
  tmax     : Word                -- PWR_TMAX
  dutyNext : List Nat            -- pause duty decided for each class
  duties   : List Nat            -- pause duty in force for each class
  reds     : List Nat            -- reductions of Table 12.3 decided, newest first
  rem      : Nat                 -- halvings of the remint rate in force
  applyAt  : Option Nat          -- elapsed time at which the settings decided apply
  pausedUs : Map Nat             -- paused µs of each partition
  shutAt   : Option Nat          -- elapsed time at which a shutdown began
  regsOff  : Bool                -- the cluster regulators are off
  hwPause  : Bool                -- hardware pauses every cluster (R380, R446)
  deriving DecidableEq, Repr

/-- Where the device stands between power-on and ready (R402 to R418). -/
inductive Phase where
  | unpowered | starting | ready | fatal | recovery | shutdown | failed
  deriving DecidableEq, Repr

/-- What a start found and fixed, and the pins (chapters 13 and 18). -/
structure StartSt where
  phase    : Phase
  grade    : Nat                     -- 1 A256, 2 B240, 3 C224 (Table 17.6)
  slots    : List (List Nat)         -- physical slots of the available clusters, per die, in order (R4)
  hidden   : Map Nat                 -- hidden banks of each core's vein (R138)
  farMask  : List Nat                -- good channels of each stack (R288)
  farFail  : List Nat                -- channels failed after ready, as masks
  tiered   : Bool
  share    : Nat
  maint    : Bool                    -- the maintenance state
  pins     : Nat                     -- SLOT_ID pins (R518)
  dynAddr  : Option Nat              -- dynamic address of the sideband endpoint (R526)
  perst    : Bool                    -- PERST# asserted
  link     : Bool                    -- the PCIe link has trained (R415)
  vfs      : Bool                    -- VF Enable (R337)
  readyPin : Bool
  faultN   : Bool                    -- FAULT_N asserted
  thermN   : Bool                    -- THERM_STOP_N asserted
  irqAt    : Option Nat              -- interval of the status interrupt opened at (R515)
  dies     : List Nat                -- DEV_DRSTAT state of each die
  drops    : List Nat                -- replies discarded in the die's present reset
  dieAt    : List Nat                -- elapsed time at which each die's reset began
  lanes    : Map (List Nat)          -- lanes that carry data lanes 0 to 63, by 32 × seam + 16 × up + bundle (R302)
  upAt     : List Nat                -- elapsed time at which each die's vein controllers last began (R144, R179)
  resets   : Nat                     -- die resets since the start
  gone     : List Nat                -- clusters hidden since the start, after a die reset (R440)
  cal      : Map (List (Word × Word)) -- calibration pairs as the last start read them (R420)
  deriving DecidableEq, Repr

/-- Hang analysis and the other debug state (R498 to R500). -/
structure DbgSt where
  busy     : Bool
  part     : Option Nat
  buffer   : Nat
  len      : Nat
  minUs    : Nat
  fn       : Option Nat
  number   : Nat
  s0       : Nat
  kept     : List (Nat × Nat × Word)
  lastAuto : Option Nat
  deriving DecidableEq, Repr

/-- What the device sends outside. -/
inductive Output where
  | hostWrite (f : Nat) (addr : Nat) (data : List Byte) (ep : Bool)
  | hostRead (f : Nat) (addr : Nat) (n : Nat)
  | msix (f : Nat) (vec : Nat)
  | barData (f : Nat) (data : List Byte) (ep : Bool)
  | completerAbort (f : Nat)
  | registerRead (value : Word)
  | frame (port : Nat) (x : Frame)
  | ack (port : Nat) (seq : Nat) (limits : List Nat) (nak : Bool)
  | seamResponse (seam : Nat) (up : Bool) (seq : Nat) (status : Nat) (data : List Byte)
  | service (seq : Nat) (data : List Byte)
  | memReply (kind source status : Nat) (data : List Byte)
  deriving DecidableEq, Repr

/-- The state of the device. -/
structure State where
  pending  : List Instr              -- commands waiting, first in, first out
  out      : List Output             -- what the device has sent, newest first (the model's own)
  freeN    : Nat                     -- free values taken so far (the model's own)
  hallmark : Nat                     -- the hallmark (R356)
  mem      : List Host.Cell          -- bytes of local stores, veins and far memory by device address (R503)
  chk      : Map Word                -- stored check bits XOR correct ones, by local-store word and far line (R425)
  regs     : Map Word                -- control-space registers held as words, by offset (R507)
  cores    : Map CoreSt
  clusters : Map ClusterSt
  veins    : Map VeinSt
  barriers : Map Barrier             -- cluster barriers at cluster × 64 + id, device barriers at 0x1_0000 + id
  signals  : List Signal             -- oldest first
  remints  : Map (List RemintJob)    -- die × 16 + partition: descriptors in progress, oldest first
  remNext  : Map Nat                 -- round-robin place of each die's engine
  remMoved : Map Nat                 -- DEV_REM_MOVED
  ent      : EntState
  keys     : List KeyReq             -- key requests, oldest first
  far      : Map PseudoCh            -- stack × 64 + pseudo-channel
  seams    : Map SeamSt
  seamDirs : Map SeamDir             -- seam × 2 + up
  funcs    : Map Func
  jobs     : List Job
  parts    : Map Layout
  pairs    : Map PairSt              -- writes in progress, by offset of the obverse register
  ports    : Map Port
  clrOps   : List ClrOp
  colls    : List Collective
  staging  : List (Option Nat × Frame) -- the 2 MiB staging buffer, oldest first, with the port whose credit a frame holds
  clrTag   : Nat
  clrLast  : Nat               -- the Clearing queue served last, 4p + q
  ledger   : Ledger
  tally    : Tally
  flash    : Flash
  comp     : Comp
  hm       : HmSt
  pwr      : PwrSt
  start    : StartSt
  dbg      : DbgSt
  closing  : List (Nat × Nat × Nat)  -- closing sequences: partition, sequence, record address (R233)
  seqOps   : Nat                     -- changes of state words distributed (R224)
  deriving DecidableEq, Repr

/-- The layout of partition 0 right after a start: it holds everything (R326). -/
def Layout.all : Layout := ⟨List.range 256, 2 ^ 64 - 1, 4096, 1024, 0x100, 0, 0⟩

/-- A partition that holds nothing. -/
def Layout.none : Layout := ⟨[], 0, 0, 0, 0, 0, 0⟩

/-- An unwritten image slot. -/
def Image.blank : Image := ⟨[], [], true, false, false⟩

/-- A pair with no write in progress. -/
def PairSt.settled : PairSt := ⟨false, false, false⟩

/-- A seam with nothing in progress. -/
def SeamSt.idle : SeamSt := ⟨[], [], [], false, false⟩

/-- A direction of a seam with nothing executed. -/
def SeamDir.idle : SeamDir := ⟨[], 0⟩

/-- The device right after the ready declaration of a start of an A256 module on which nothing has failed, in flat
mode (R10, R326, R416, R417). -/
def State.reset : State where
  pending := []; out := []; freeN := 0; hallmark := 0; mem := []; chk := []; regs := []; cores := []
  clusters := []; veins := []; barriers := []; signals := []; remints := []; remNext := []; remMoved := []
  ent := .startUp; keys := []; far := []; seams := []; seamDirs := []; funcs := []; jobs := []
  parts := []; pairs := []; ports := []; clrOps := []; colls := []; staging := []; clrTag := 0; clrLast := 63
  ledger := ⟨[], 0, 0, [], [], [], Option.none, [], [], false, []⟩
  tally := ⟨[], 0, 0, [], 0, [], 0, 60, 0, 60000000000, false, false, Option.none, []⟩
  flash := ⟨false, ⟨[], [], false, true, true⟩, Image.blank, 1, (0, BitVec.allOnes 64), [], [], [], false, [], [],
    0, [], [], 0⟩
  comp := ⟨.firmware, 0, false, false, Option.none, [], Option.none, 10, true⟩
  hm := ⟨0, .acquire, true, 0, Option.none, 0, Option.none, 0, 0, false, false, 0⟩
  pwr := ⟨.normal, false, 0, 0, 0, false, false, 0, 0, 4000000, 0, [], 700000000, Option.none, false, false,
    0x0000035201F402BC, 0x00585C6E, Option.none, Option.none, [], [], [], 0, 0, [0, 0, 0, 0], [0, 0, 0, 0], [], 0,
    Option.none, [], Option.none, false, false⟩
  start := ⟨.ready, 1, [List.range 64, List.range 64, List.range 64, List.range 64], [],
    List.replicate 8 (2 ^ 32 - 1), List.replicate 8 0, false, 0, false, 0xFFF, none, true, false, false, true, false,
    false, Option.none, [0, 0, 0, 0], [0, 0, 0, 0], [0, 0, 0, 0], [], [0, 0, 0, 0], 0, [], []⟩
  dbg := ⟨false, Option.none, 0, 0, 0, Option.none, 0, 0, [], Option.none⟩
  closing := []; seqOps := 0

end Sys2Proof.Machine
end

