-- ==== Sys2Proof/Machine/RegMap.lean ====
section
/-! DEFINITION. The control space map (R506 to R509): block bases, the offsets of the registers, what a register that
nothing has written reads as, and which bits of a register software may write. -/

namespace Sys2Proof.Machine

/-! ### Offsets (Tables 17.2, 17.8 to 17.10) -/

/-- The first offset of a cluster's CL block. -/
def clBase (k : Nat) : Nat := 0x100000 + k * 0x4000
/-- The first offset of a core's CO block. -/
def coBase (c : Nat) : Nat := 0x1000000 + c * 0x1000

/-- DEV_STAT.pair_bad is held in this word; the other fields are computed. -/
def oDevStat : Nat := 0x10
/-- DEV_CTL. -/
def oDevCtl : Nat := 0x20
/-- DEV_SCRATCH. -/
def oDevScratch : Nat := 0x28
/-- DEV_REM_CTL of a die. -/
def oRemCtl (d : Nat) : Nat := 0x8000 + d * 0x400
/-- DEV_REM_STAT of a die (the halted bits are held). -/
def oRemStat (d : Nat) : Nat := oRemCtl d + 8
/-- DEV_REM_RBASEp. -/
def oRemBase (d p : Nat) : Nat := oRemCtl d + 0x100 + p * 0x20
/-- DEV_REM_RCTLp. -/
def oRemRctl (d p : Nat) : Nat := oRemBase d p + 8
/-- DEV_REM_HEADp. -/
def oRemHead (d p : Nat) : Nat := oRemBase d p + 0x10
/-- DEV_REM_TAILp. -/
def oRemTail (d p : Nat) : Nat := oRemBase d p + 0x18
/-- DEV_DRST. -/
def oDrst : Nat := 0x9000
/-- DEV_DRSTAT (the counts are held). -/
def oDrstat : Nat := 0x9008
/-- DEV_CMB_CMD of a function. -/
def oCmb (f : Nat) : Nat := 0xA000 + f * 0x80
/-- DEV_CMB_STAT. -/
def oCmbStat (f : Nat) : Nat := oCmb f + 8
/-- DEV_CMB_ARGi. -/
def oCmbArg (f i : Nat) : Nat := oCmb f + 0x10 + 8 * i
/-- DEV_CMB_RESi. -/
def oCmbRes (f i : Nat) : Nat := oCmb f + 0x30 + 8 * i
/-- DEV_CSTAT. -/
def oCstat : Nat := 0xB000

/-- HIF_FSTAT of a function. -/
def oHif (f : Nat) : Nat := 0x10000 + f * 0x400
/-- HIF_APBASE. -/
def oApbase (f : Nat) : Nat := oHif f + 8
/-- HIF_VIOL. -/
def oViol (f : Nat) : Nat := oHif f + 0x10
/-- HIF_CRBASEr. -/
def oCrBase (f r : Nat) : Nat := oHif f + 0x40 + r * 0x40
/-- HIF_CRCTLr. -/
def oCrCtl (f r : Nat) : Nat := oCrBase f r + 8
/-- HIF_CRTAILr. -/
def oCrTail (f r : Nat) : Nat := oCrBase f r + 0x10
/-- HIF_CRHEADr. -/
def oCrHead (f r : Nat) : Nat := oCrBase f r + 0x18
/-- HIF_CCBASEr. -/
def oCcBase (f r : Nat) : Nat := oCrBase f r + 0x20
/-- HIF_CCHEADr. -/
def oCcHead (f r : Nat) : Nat := oCrBase f r + 0x28
/-- HIF_CCTAILr. -/
def oCcTail (f r : Nat) : Nat := oCrBase f r + 0x30
/-- Word i of the MSI-X table entry of a vector: address, then data and vector control. -/
def oMsix (f v i : Nat) : Nat := 0x18000 + f * 0x200 + v * 0x10 + 8 * i
/-- The MSI-X pending bits of a function. -/
def oPba (f : Nat) : Nat := 0x1A000 + f * 8

/-- Register i of PART_CLp_0 to 3, PART_FARp, PART_RESp: the obverses. -/
def oPart (p i : Nat) : Nat := 0x20000 + p * 0x100 + 8 * i
/-- Their reverses. -/
def oPartR (p i : Nat) : Nat := oPart p i + 0x40
/-- PART_CTLp. -/
def oPartCtl (p : Nat) : Nat := 0x20000 + p * 0x100 + 0x80
/-- PART_STATp. -/
def oPartStat (p : Nat) : Nat := 0x20000 + p * 0x100 + 0x88

/-- HM_EPOCH. -/
def oEpoch : Nat := 0x40010
/-- HM_EPOCH_R. -/
def oEpochR : Nat := 0x40018
/-- HM_CTL. -/
def oHmCtl : Nat := 0x40020
/-- HM_FREQ. -/
def oHmFreq : Nat := 0x40030
/-- HM_PPS_CAP. -/
def oPpsCap : Nat := 0x40038
/-- HM_PPS_ERR. -/
def oPpsErr : Nat := 0x40040
/-- HM_STEP_AT. -/
def oStepAt : Nat := 0x40048
/-- HM_STEP_NS. -/
def oStepNs : Nat := 0x40050
/-- HM_PCNT. -/
def oPcnt : Nat := 0x40058

/-- PWR_LIMIT. -/
def oPwrLimit : Nat := 0x50000
/-- PWR_TLIM. -/
def oPwrTlim : Nat := 0x50010
/-- PWR_CTL. -/
def oPwrCtl : Nat := 0x50020
/-- PWR_EVT. -/
def oPwrEvt : Nat := 0x50040

/-- TAL_CTL. -/
def oTalCtl : Nat := 0x60000
/-- TAL_STAT. -/
def oTalStat : Nat := 0x60008
/-- TAL_WBASE. -/
def oTalWbase : Nat := 0x60028
/-- TAL_JIDX. -/
def oTalJidx : Nat := 0x60200

/-- LDG_CTL. -/
def oLdgCtl : Nat := 0x70000
/-- LDG_STAT. -/
def oLdgStat : Nat := 0x70008
/-- LDG_WBASE. -/
def oLdgWbase : Nat := 0x70028
/-- LDG_RATEs. -/
def oLdgRate (s : Nat) : Nat := 0x70040 + 8 * s

/-- ASY_CTL. -/
def oAsyCtl : Nat := 0x80000
/-- ASY_STAT (the fields that a start leaves and maint_rej are held). -/
def oAsyStat : Nat := 0x80008
/-- ASY_NEXT. -/
def oAsyNext : Nat := 0x80010
/-- ASY_LIDX. -/
def oAsyLidx : Nat := 0x80028
/-- ASY_CALSTAT. -/
def oCalstat : Nat := 0x80040
/-- ASY_RESULT. -/
def oAsyResult : Nat := 0x80048
/-- ASY_RETIRE. -/
def oRetire : Nat := 0x80100
/-- ASY_RETIRE_R. -/
def oRetireR : Nat := 0x80108
/-- ASY_RSTAT (the result is held). -/
def oRstat : Nat := 0x80110

/-- FAR_MODE. -/
def oFarMode : Nat := 0x90000
/-- FAR_ERRk. -/
def oFarErr (k : Nat) : Nat := 0x90110 + k * 0x40

/-- CLR_NODE. -/
def oClrNode : Nat := 0xA0000
/-- CLR_CTL. -/
def oClrCtl : Nat := 0xA0008
/-- CLR_VIOL. -/
def oClrViol : Nat := 0xA0010
/-- CLR_PCNTn. -/
def oClrPcnt (n : Nat) : Nat := 0xA0110 + n * 0x20
/-- CLR_ROUTEi. -/
def oClrRoute (i : Nat) : Nat := 0xA1000 + 8 * i
/-- CLR_QBASEpq. -/
def oClrQbase (p q : Nat) : Nat := 0xA2000 + (4 * p + q) * 0x20
/-- CLR_QCTLpq. -/
def oClrQctl (p q : Nat) : Nat := oClrQbase p q + 8
/-- CLR_QTAILpq. -/
def oClrQtail (p q : Nat) : Nat := oClrQbase p q + 0x10
/-- CLR_QHEADpq. -/
def oClrQhead (p q : Nat) : Nat := oClrQbase p q + 0x18

/-- SEAM_CTL. -/
def oSeamCtl : Nat := 0xB0000
/-- SEAM_STATs. -/
def oSeamStat (s : Nat) : Nat := 0xB0100 + s * 0x40
/-- SEAM_LANEs, up and down. -/
def oSeamLane (s : Nat) (up : Bool) : Nat := oSeamStat s + (if up then 8 else 0x10)
/-- SEAM_LINKs. -/
def oSeamLink (s : Nat) : Nat := oSeamStat s + 0x18

/-- ENT_CTL. -/
def oEntCtl : Nat := 0xC0000
/-- ENT_STAT (the failure flags are held). -/
def oEntStat : Nat := 0xC0008
/-- ENT_CNT. -/
def oEntCnt : Nat := 0xC0018

/-- DBG_PCTL. -/
def oPctl : Nat := 0xD0000
/-- DBG_GSELn. -/
def oGsel (n : Nat) : Nat := 0xD0100 + 8 * n
/-- DBG_GCNTn. -/
def oGcnt (n : Nat) : Nat := 0xD0200 + 8 * n
/-- DBG_DSELd_n. -/
def oDsel (d n : Nat) : Nat := 0xD1000 + d * 0x200 + 8 * n
/-- DBG_DCNTd_n. -/
def oDcnt (d n : Nat) : Nat := 0xD1080 + d * 0x200 + 8 * n
/-- DBG_HANG_CTL. -/
def oHangCtl : Nat := 0xD2000
/-- DBG_HANG_STAT. -/
def oHangStat : Nat := 0xD2008
/-- DBG_HANG_BUF. -/
def oHangBuf : Nat := 0xD2010
/-- DBG_HANG_LEN. -/
def oHangLen : Nat := 0xD2018
/-- DBG_LAG_CTL. -/
def oLagCtl : Nat := 0xD3000

/-- PR_CTL of a cluster. -/
def oPrCtl (k : Nat) : Nat := clBase k
/-- CL_VR_CTL. -/
def oVrCtl (k : Nat) : Nat := clBase k + 0x200
/-- CL_VR_CNT. -/
def oVrCnt (k : Nat) : Nat := clBase k + 0x210
/-- CL_RST. -/
def oClRst (k : Nat) : Nat := clBase k + 0x300
/-- CL_PSELn. -/
def oClSel (k n : Nat) : Nat := clBase k + 0x400 + 8 * n
/-- CL_PMCn. -/
def oClPmc (k n : Nat) : Nat := clBase k + 0x440 + 8 * n
/-- CL_TR_CTL. -/
def oTrCtl (k : Nat) : Nat := clBase k + 0x500
/-- CL_TR_BASE. -/
def oTrBase (k : Nat) : Nat := clBase k + 0x508
/-- CL_TR_HEAD. -/
def oTrHead (k : Nat) : Nat := clBase k + 0x510
/-- CL_TR_TAIL. -/
def oTrTail (k : Nat) : Nat := clBase k + 0x518
/-- CL_TR_STAT (halted, status and lost are held). -/
def oTrStat (k : Nat) : Nat := clBase k + 0x520

/-- CO_CTL of a core. -/
def oCoCtl (c : Nat) : Nat := coBase c
/-- CO_START. -/
def oCoStart (c : Nat) : Nat := coBase c + 0x10
/-- CO_TRAP_PC. -/
def oTrapPc (c : Nat) : Nat := coBase c + 0x28
/-- CO_TRAP_VAL. -/
def oTrapVal (c : Nat) : Nat := coBase c + 0x30
/-- CO_VCTL. -/
def oVctl (c : Nat) : Nat := coBase c + 0x100
/-- CO_VSTAT (cfg_err is held). -/
def oVstat (c : Nat) : Nat := coBase c + 0x108
/-- CO_VSCRUB. -/
def oVscrub (c : Nat) : Nat := coBase c + 0x120
/-- CO_VGREF. -/
def oVgref (c : Nat) : Nat := coBase c + 0x138
/-- CO_VERR. -/
def oVerr (c : Nat) : Nat := coBase c + 0x140
/-- CO_VREGIONn. -/
def oRegion (c n : Nat) : Nat := coBase c + 0x180 + 8 * n
/-- CO_KRES. -/
def oKres (c : Nat) : Nat := coBase c + 0x208
/-- CO_KREF. -/
def oKref (c : Nat) : Nat := coBase c + 0x218
/-- CO_LSERR. -/
def oLserr (c : Nat) : Nat := coBase c + 0x280
/-- CO_PSELn. -/
def oCoSel (c n : Nat) : Nat := coBase c + 0x300 + 8 * n
/-- CO_PMCn. -/
def oCoPmc (c n : Nat) : Nat := coBase c + 0x340 + 8 * n

/-! ### What an unwritten register reads as -/

/-- Reset values in a CL block by offset in the block (Tables 4.12, 12.15). -/
def clReset (o : Nat) : Nat :=
  if o = 0 then 0x8002_0120_0040 else if o = 0x200 then 8 else 0

/-- Reset values in a CO block by offset in the block (Tables 5.9, 5.12, 7.13). -/
def coReset (o : Nat) : Nat :=
  if o = 0x100 then 0x1080_2000 else if o = 0x120 then 0x40_0001_0064 else if o = 0x208 then 0x40_0020 else 0

/-- The bits of PART register i that are not reserved (Tables 10.9 and 10.10). -/
def partMask (i : Nat) : Nat := if i < 5 then 2 ^ 64 - 1 else 0xFFFF_37FF_0000_1FFF

/-- Reset values of the PART block after a start of an A256 module: partition 0 holds everything (R326). -/
def partReset (o : Nat) : Nat :=
  let p := o / 0x100
  let r := o % 0x100
  let all := 2 ^ 64 - 1
  let ob : Nat → Nat := fun i => if p ≠ 0 then 0 else if i < 5 then all else 0x400_0000_1000
  if r < 0x30 then ob (r / 8)
  else if 0x40 ≤ r && r < 0x70 then partMask ((r - 0x40) / 8) - ob ((r - 0x40) / 8)
  else if r = 0x88 && p = 0 then 0x100_0000_0000 else 0

/-- Reset values of the LDG block (R482). -/
def ldgReset (o : Nat) : Nat :=
  match o with
  | 0x00 => 1
  | 0x40 => 0x4_000F_4240
  | 0x48 => 0x8_0001_86A0
  | 0x50 => 0x10_0001_86A0
  | 0x58 => 0x10_0000_2710
  | 0x60 => 0x20_0000_2710
  | _ => 0

/-- Reset values of the HIF block: each MSI-X vector is masked (PRESUMED from PCI Express, log entry 18). -/
def hifReset (o : Nat) : Nat :=
  if 0x8000 ≤ o && o < 0xA000 && o % 16 == 8 then 2 ^ 32 else 0

/-- What a control-space word reads as until something writes it (the Reset columns of the register tables). -/
def regReset (o : Nat) : Word :=
  BitVec.ofNat 64 (
    if 0x1000000 ≤ o then coReset (o % 0x1000)
    else if 0x100000 ≤ o then clReset ((o - 0x100000) % 0x4000)
    else match o / 0x10000 with
    | 0x0 => if 0x8000 ≤ o && o < 0x9000 && o % 0x400 == 0 then 0x110 else 0
    | 0x1 => hifReset (o % 0x10000)
    | 0x2 => partReset (o - 0x20000)
    | 0x4 => if o = 0x40018 then 2 ^ 64 - 1 else if o = 0x40020 then 0x3E8_0000_0003
        else if o = 0x40030 then (Config.calFactory 3 0 % 2 ^ 32).toNat else 0
    | 0x5 => match o with
      | 0x50000 => 0x352_01F4_02BC
      | 0x50008 => 0xAD_0E0B_0143
      | 0x50010 => 0x58_5C6E
      | 0x50018 => 0xA7_A391
      | 0x50020 => 0xFA19_0436
      | _ => 0
    | 0x6 => if o = 0x60000 then 0x3C_0001 else 0
    | 0x7 => ldgReset (o - 0x70000)
    | 0x8 => if o = 0x80008 then 2 ^ 48 + 1 else 0
    | 0xA => if 0xA1000 ≤ o && o < 0xA2000 then 2 ^ 64 - 1
        else if o = 0xA0000 then 0xFFF else if o = 0xA0008 then 0x21_0000_03E8 else 0
    | 0xB => if o = 0xB0000 then 4
        else if 0xB0100 ≤ o && o < 0xB0200 && o % 0x40 == 0 then 0xFFFF_0FFE_4000 else 0
    | 0xC => if o = 0xC0000 then 1 else 0
    | 0xD => if o = 0xD3000 then 0x64_1001 else 0
    | _ => 0)

/-- A register held as a word. -/
def getReg (s : State) (o : Nat) : Word := look regReset s.regs o

/-- Hold a register's word. -/
def setReg (s : State) (o : Nat) (w : Word) : State := { s with regs := put regReset s.regs o w }

/-- Bits [lo + n - 1 : lo] of a register. -/
def regField (s : State) (o lo n : Nat) : Nat := fieldNat (getReg s o).toNat lo n

/-- Replace bits [lo + n - 1 : lo] of a register. -/
def setRegField (s : State) (o lo n v : Nat) : State :=
  setReg s o (BitVec.ofNat 64 (setFieldNat (getReg s o).toNat lo n v))

/-- Add to a field that wraps (Table 16.6). -/
def addRegField (s : State) (o lo n v : Nat) : State := setRegField s o lo n (regField s o lo n + v)

/-- Put every register of an offset range back at its reset value. -/
def resetRegs (s : State) (lo n : Nat) : State := { s with regs := clearIn s.regs lo n }

/-- The bits of a word that a mask names, from w; the others from old (R8 to R11, R507). -/
def masked (mask : Nat) (old w : Word) : Word :=
  let m : Word := BitVec.ofNat 64 mask
  (old &&& ~~~m) ||| (w &&& m)

/-- The bits that a plain rw register of a CL block takes from a write (Tables 4.12, 12.15, 16.4, 16.5, 16.9). -/
def clMask (o : Nat) : Nat :=
  if o = 0 then 0xFF0F_01FF_01FF
  else if o = 0x200 then 0xF
  else if 0x400 ≤ o && o < 0x440 then 0x1BF_FF00_FFFF
  else if o = 0x508 then 2 ^ 64 - 0x1000
  else if o = 0x518 then 0x7F_FFFF else 0

/-- The same for a CO block (Tables 3.15, 5.9, 5.12, 7.13, 16.4). -/
def coMask (o : Nat) : Nat :=
  if o = 0x10 then 2 ^ 64 - 4
  else if o = 0x100 then 0xFFFF_FF01
  else if o = 0x120 then 0xFFFF_0001_FFFF
  else if o = 0x208 then 0x1FFF_1FFF
  else if 0x300 ≤ o && o < 0x340 then 0x1BF_FF00_FFFF else 0

end Sys2Proof.Machine
end

