-- ==== Sys2Proof/Machine/Ops.lean ====
section
/-! DEFINITION. The named operations over the state that every family shares: the units of the device by number, the
register files of a core, the address map, bytes of memory, time, and what the device sends. -/

namespace Sys2Proof.Machine

/-! ### Units by number: an unlisted unit is an idle one -/

/-- A core. -/
def getCore (s : State) (c : Nat) : CoreSt := look (fun _ => CoreSt.idle) s.cores c
/-- Replace a core. -/
def setCore (s : State) (c : Nat) (x : CoreSt) : State := { s with cores := put (fun _ => CoreSt.idle) s.cores c x }
/-- Change a core. -/
def modCore (s : State) (c : Nat) (f : CoreSt → CoreSt) : State := setCore s c (f (getCore s c))
/-- A cluster. -/
def getCl (s : State) (k : Nat) : ClusterSt := look (fun _ => ClusterSt.idle) s.clusters k
/-- Replace a cluster. -/
def setCl (s : State) (k : Nat) (x : ClusterSt) : State :=
  { s with clusters := put (fun _ => ClusterSt.idle) s.clusters k x }
/-- Change a cluster. -/
def modCl (s : State) (k : Nat) (f : ClusterSt → ClusterSt) : State := setCl s k (f (getCl s k))
/-- A core's vein. -/
def getVein (s : State) (c : Nat) : VeinSt := look (fun _ => VeinSt.idle) s.veins c
/-- Replace a vein. -/
def setVein (s : State) (c : Nat) (x : VeinSt) : State := { s with veins := put (fun _ => VeinSt.idle) s.veins c x }
/-- Change a vein. -/
def modVein (s : State) (c : Nat) (f : VeinSt → VeinSt) : State := setVein s c (f (getVein s c))
/-- A bank unit of a vein. -/
def getUnit (v : VeinSt) (u : Nat) : BankUnit := look (fun _ => BankUnit.idle) v.units u
/-- Replace a bank unit. -/
def setUnit (v : VeinSt) (u : Nat) (x : BankUnit) : VeinSt :=
  { v with units := put (fun _ => BankUnit.idle) v.units u x }
/-- A barrier. -/
def getBar (s : State) (k : Nat) : Barrier := look (fun _ => Barrier.fresh) s.barriers k
/-- Replace a barrier. -/
def setBar (s : State) (k : Nat) (x : Barrier) : State :=
  { s with barriers := put (fun _ => Barrier.fresh) s.barriers k x }
/-- A function. -/
def getFunc (s : State) (f : Nat) : Func := look (fun _ => Func.idle) s.funcs f
/-- Replace a function. -/
def setFunc (s : State) (f : Nat) (x : Func) : State := { s with funcs := put (fun _ => Func.idle) s.funcs f x }
/-- A command ring. -/
def getRing (s : State) (f r : Nat) : Ring := look (fun _ => Ring.idle) (getFunc s f).rings r
/-- Replace a command ring. -/
def setRing (s : State) (f r : Nat) (x : Ring) : State :=
  let fn := getFunc s f
  setFunc s f { fn with rings := put (fun _ => Ring.idle) fn.rings r x }
/-- A Clearing port. -/
def getPort (s : State) (n : Nat) : Port := look (fun _ => Port.trained) s.ports n
/-- Replace a port. -/
def setPort (s : State) (n : Nat) (x : Port) : State := { s with ports := put (fun _ => Port.trained) s.ports n x }
/-- A pseudo-channel of far memory. -/
def getPc (s : State) (k pc : Nat) : PseudoCh := look (fun _ => PseudoCh.idle) s.far (k * 64 + pc)
/-- Replace a pseudo-channel. -/
def setPc (s : State) (k pc : Nat) (x : PseudoCh) : State :=
  { s with far := put (fun _ => PseudoCh.idle) s.far (k * 64 + pc) x }
/-- A seam. -/
def getSeam (s : State) (i : Nat) : SeamSt := look (fun _ => SeamSt.idle) s.seams i
/-- Replace a seam. -/
def setSeam (s : State) (i : Nat) (x : SeamSt) : State := { s with seams := put (fun _ => SeamSt.idle) s.seams i x }
/-- A direction of a seam. -/
def getSeamDir (s : State) (i : Nat) (up : Bool) : SeamDir :=
  look (fun _ => SeamDir.idle) s.seamDirs (2 * i + up.toNat)
/-- Replace a direction of a seam. -/
def setSeamDir (s : State) (i : Nat) (up : Bool) (x : SeamDir) : State :=
  { s with seamDirs := put (fun _ => SeamDir.idle) s.seamDirs (2 * i + up.toNat) x }
/-- What an unlisted partition holds: partition 0 everything, the others nothing (R326). -/
def partDefault (p : Nat) : Layout := if p = 0 then Layout.all else Layout.none
/-- The layout in force of a partition. -/
def getPart (s : State) (p : Nat) : Layout := look partDefault s.parts p
/-- Replace a layout. -/
def setPart (s : State) (p : Nat) (x : Layout) : State := { s with parts := put partDefault s.parts p x }

/-! ### Register files of a core (R56) -/

/-- A general register; g0 reads as zero. -/
def gpr (x : CoreSt) (r : Nat) : Word := if r = 0 then 0 else look (fun _ => 0) x.g r
/-- Write a general register; g0 ignores writes. -/
def setGpr (x : CoreSt) (r : Nat) (w : Word) : CoreSt := if r = 0 then x else { x with g := put (fun _ => 0) x.g r w }
/-- A general register written late, by an operation older than every outstanding load: the copies that a precise trap or
the end of run-ahead restores take it too (R65, R84). -/
def lateGpr (x : CoreSt) (r : Nat) (w : Word) : CoreSt :=
  if r = 0 then x
  else { setGpr x r w with
    loads := x.loads.map fun l => { l with snap := { l.snap with g := put (fun _ => 0) l.snap.g r w } }
    ra := x.ra.map fun a => { a with g := put (fun _ => 0) a.g r w, bad := a.bad.filter (· != r) } }
/-- A vector register. -/
def vreg (x : CoreSt) (r : Nat) : Vec := look (fun _ => 0) x.v r
/-- Write a vector register. -/
def setVreg (x : CoreSt) (r : Nat) (w : Vec) : CoreSt := { x with v := put (fun _ => 0) x.v r w }
/-- A predicate register; p0 reads as all ones. -/
def preg (x : CoreSt) (r : Nat) : BitVec 128 := if r = 0 then BitVec.allOnes 128 else look (fun _ => 0) x.p r
/-- Write a predicate register; p0 ignores writes. -/
def setPreg (x : CoreSt) (r : Nat) (w : BitVec 128) : CoreSt :=
  if r = 0 then x else { x with p := put (fun _ => 0) x.p r w }
/-- A descriptor register. -/
def dreg (x : CoreSt) (r : Nat) : Desc := look (fun _ => 0) x.d r
/-- Write a descriptor register. -/
def setDreg (x : CoreSt) (r : Nat) (w : Desc) : CoreSt := { x with d := put (fun _ => 0) x.d r w }
/-- Reset values of the control words held as words (Tables 3.2, 2.4, 3.5, 4.4, 6.4). -/
def cwReset (n : Nat) : Word :=
  match n with
  | 0x06 => 0x50
  | 0x0E => 0x180
  | 0x10 => 0x4000000
  | 0x19 => 0x24
  | _ => 0
/-- A control word held as a word. -/
def getCw (x : CoreSt) (n : Nat) : Word := look cwReset x.cw n
/-- Write a control word held as a word. -/
def setCw (x : CoreSt) (n : Nat) (w : Word) : CoreSt := { x with cw := put cwReset x.cw n w }
/-- Whether the core is at task level: cw_status.pl (R61). -/
def atTask (x : CoreSt) : Bool := (getCw x 0).getLsbD 0
/-- A stream entry of a core (R311). -/
def getStream (x : CoreSt) (e : Nat) : Stream := look (fun _ => Stream.idle) x.streams e
/-- Replace a stream entry. -/
def setStream (x : CoreSt) (e : Nat) (t : Stream) : CoreSt :=
  { x with streams := put (fun _ => Stream.idle) x.streams e t }
/-- Set sticky arithmetic flags in cw_fstat (Table 2.5). -/
def setFlags (x : CoreSt) (f : Nat) : CoreSt := setCw x 7 (getCw x 7 ||| BitVec.ofNat 64 (f % 64))
/-- Set event bits of cw_event (R86). -/
def setEventBits (x : CoreSt) (w : Word) : CoreSt := setCw x 0xA (getCw x 0xA ||| w)
/-- Set one event of a core. -/
def setEvent (s : State) (c n : Nat) : State := modCore s c fun x => setEventBits x (1 <<< n)

/-! ### Units that exist (R4, R138, R286) -/

/-- The physical slots of a die's available clusters. -/
def slotsOf (s : State) (d : Nat) : List Nat := s.start.slots.getD d []
/-- Whether a cluster ID is populated, and not hidden since the start (R4, R440). -/
def populatedCl (s : State) (k : Nat) : Bool :=
  decide (k < 256) && decide (k % 64 < (slotsOf s (k / 64)).length) && !s.start.gone.contains k
/-- Whether a core ID is populated. -/
def populated (s : State) (c : Nat) : Bool := populatedCl s (c / 16)
/-- The populated clusters, in rising order. -/
def allClusters (s : State) : List Nat := (List.range 256).filter (populatedCl s)
/-- The cores of a cluster. -/
def coresOf (k : Nat) : List Nat := (List.range 16).map (k * 16 + ·)
/-- The hidden banks of a core's vein, bit 8 × stratum + bank. -/
def hiddenOf (s : State) (c : Nat) : Nat := look (fun _ => 0) s.start.hidden c
/-- The number of set bits among the n low ones. -/
def ones : Nat → Nat → Nat
  | 0, _ => 0
  | n + 1, x => x % 2 + ones n (x / 2)
/-- CO_VCAP.slabs: 1,024 - 32 × h (R138). -/
def slabsOf (s : State) (c : Nat) : Nat := 1024 - 32 * ones 32 (hiddenOf s c)
/-- The good channels of a stack (R288). -/
def farChannels (s : State) (k : Nat) : Nat := s.start.farMask.getD k 0
/-- nc: channels in use, 0 when the stack is mapped out whole (R288). -/
def farNc (s : State) (k : Nat) : Nat := ones 32 (farChannels s k)
/-- The bytes of a stack that are populated: nc × 1.125 GiB (R286). -/
def farBytes (s : State) (k : Nat) : Nat := farNc s k * 0x48000000

/-- Whether a far-memory slice has bytes that are populated (R286, R326; log entry 32). -/
def sliceHere (s : State) (i : Nat) : Bool := decide (i % 8 * 0x120000000 < farBytes s (i / 8))

/-! ### Partitions (R326) -/

/-- The partition that holds a cluster. -/
def partOfCl (s : State) (k : Nat) : Option Nat := (List.range 16).find? fun p => (getPart s p).clusters.contains k
/-- The partition of a core. -/
def partOf (s : State) (c : Nat) : Option Nat := partOfCl s (c / 16)
/-- The partition of a core as cw_part reads it; a core that no partition holds reads 0. -/
def partNum (s : State) (c : Nat) : Nat := (partOf s c).getD 0

/-! ### The address map (R503 to R505) -/

/-- Where a device address leads. -/
inductive Place where
  | ls (core off : Nat)
  | vein (core off : Nat)
  | far (stack off : Nat)
  | ctl (off : Nat)
  | none
  deriving DecidableEq, Repr

/-- The decode that every requester applies (R505). -/
def placeOf (a : Nat) : Place :=
  if 2 ^ 48 ≤ a then .none
  else if a < 0x80000000 then .ls (a / 0x80000) (a % 0x80000)
  else if a < 0x4000000000 then .none
  else if a < 0x8000000000 then .vein ((a - 0x4000000000) / 0x4000000) (a % 0x4000000)
  else if a < 0x10000000000 then .far ((a - 0x8000000000) / 0x1000000000) (a % 0x1000000000)
  else if a < 0x10004000000 then .ctl (a - 0x10000000000)
  else .none

/-- The device address of a byte of a local store. -/
def lsAddr (c off : Nat) : Nat := c * 0x80000 + off
/-- The device address of a byte of a vein. -/
def veinAddr (c off : Nat) : Nat := 0x4000000000 + c * 0x4000000 + off
/-- The device address of a byte of a far stack. -/
def farAddr (k off : Nat) : Nat := 0x8000000000 + k * 0x1000000000 + off
/-- The first address of the control space. -/
def ctlAddr : Nat := 0x10000000000

/-- Whether a place is populated: a local store or vein of a populated cluster, below the vein's slabs or the stack's
capacity (Table 17.1). -/
def populatedPlace (s : State) : Place → Bool
  | .ls c _ => populated s c
  | .vein c off => populated s c && decide (off < slabsOf s c * 0x10000)
  | .far k off => decide (off < farBytes s k)
  | .ctl _ => true
  | .none => false

/-! ### Bytes of memory -/

/-- The byte at a device address. -/
def rdByte (s : State) (a : Nat) : Byte := look memDefault s.mem a
/-- The n bytes from a device address on. -/
def rdBytes (s : State) (a n : Nat) : List Byte := lookList memDefault s.mem a n
/-- The n bytes from a device address on as a little-endian number. -/
def rdNat (s : State) (a n : Nat) : Nat := leNat (rdBytes s a n)
/-- Store a byte. -/
def wrByte (s : State) (a : Nat) (b : Byte) : State := { s with mem := put memDefault s.mem a b }
/-- Store bytes from a device address on. -/
def wrBytes (s : State) (a : Nat) (bs : List Byte) : State := { s with mem := putList memDefault s.mem a bs }
/-- Store zero in a range of addresses, which nothing lists afterwards. -/
def zeroBytes (s : State) (a n : Nat) : State := { s with mem := clearIn s.mem a n }

/-! ### Time, output, free values -/

/-- Elapsed time since the start in ns: the hallmark less the steps (R363). -/
def elapsed (s : State) : Nat := s.hallmark - s.hm.steps
/-- Bring elapsed time up to a moment, if it lies ahead (log entry 4). -/
def advanceTo (s : State) (t : Nat) : State := { s with hallmark := s.hallmark + (t - elapsed s) }
/-- What the device sends outside. -/
def emit (s : State) (o : Output) : State := { s with out := o :: s.out }
/-- A value the manual leaves open, by what it is for (log entry 5). -/
def freeValue (s : State) (tag : Nat) : Nat := Config.freeNat tag s.freeN
/-- Count one more free value as taken. -/
def takeFree (s : State) : State := { s with freeN := s.freeN + 1 }

/-- The cluster clock in tenths of a GHz at the point in force (Table 12.2; R379, R380: 0.4 GHz while held slow). -/
def clTenths (x : ClusterSt) : Nat := if x.slow then 4 else 4 + x.op
/-- Some cycles of a cluster's clock in ns at the point in force, rounded up. -/
def cyclesNs (x : ClusterSt) (n : Nat) : Nat := (n * 10 + clTenths x - 1) / clTenths x
/-- Whether a core counts its watchdog: running or waiting (R102). -/
def wdogRuns (r : RunState) : Bool := r == .running || r == .waiting

/-- Bring a core's counts up to the present: cycles, the watchdog, and the time waited while not paused (R95, R102,
R387). -/
def syncCoreSt (t : Nat) (k : ClusterSt) (x : CoreSt) : CoreSt :=
  let dt := t - x.seen
  { x with
    cyc10 := x.cyc10 + (if k.power = .on then dt * clTenths k else 0)
    wdogNs := if wdogRuns x.run && !k.paused then x.wdogNs - dt else x.wdogNs
    waited := if x.wait.isSome && !k.paused then x.waited + dt else x.waited
    seen := t }
/-- The same for a core by number. -/
def syncCore (s : State) (c : Nat) : State := modCore s c (syncCoreSt (elapsed s) (getCl s (c / 16)))
/-- The same for the sixteen cores of a cluster. -/
def syncCluster (s : State) (k : Nat) : State := (coresOf k).foldl syncCore s

end Sys2Proof.Machine
end

