-- ==== Sys2Proof/Machine/Clock.lean ====
section
/-! DEFINITION. What passes when no command waits: one nanosecond of the hallmark (R356; log entry 4). -/

namespace Sys2Proof.Machine

/-- One nanosecond: the hallmark runs while the module has power (R356, R402). -/
def tick (s : State) : State :=
  if s.start.phase = .unpowered then s else { s with hallmark := s.hallmark + 1 }

end Sys2Proof.Machine
end

