-- ==== Sys2Proof/Machine/Encoding.lean ====
section
/-! DEFINITION. Which words are instructions: the opcode map (R59, R60) with the reserved fields and the unassigned codes
of every class (Tables 3.6 to 3.9, 3.12, 4.3, 5.5, 6.3, 7.7, 8.10, 9.12). A core that fetches any other word takes trap
0x01. -/

namespace Sys2Proof.Machine

/-- Whether bits [lo + n - 1 : lo] of a word are zero, as a reserved field must be (R59). -/
def fieldZero (w lo n : Nat) : Bool := fieldNat w lo n == 0

/-- The scalar words of majors 0x00 to 0x0F (Tables 3.6, 3.8). -/
def scalarWord (major w : Nat) : Bool :=
  match major with
  | 0x00 => let f := fieldNat w 0 11; decide (f < 0xC) || (decide (0x10 ≤ f) && decide (f < 0x18))
  | 0x06 => fieldNat w 6 2 != 3
  | 0x07 => fieldZero w 16 2
  | 0x0F => fieldZero w 0 19
  | _ => true

/-- The vector words of majors 0x10 to 0x16; 0x17 has no short form (R60, R68, R69, Table 3.9). -/
def vectorWord (major w : Nat) : Bool :=
  let sub := fieldNat w 0 4
  let reg := fieldNat w 21 5
  match major with
  | 0x12 => decide (sub < 3) || decide (8 < sub)
  | 0x13 => sub == 0
  | 0x14 => decide (sub < 2) && fieldZero w 11 5
  | 0x15 => decide (sub < 2)
  | 0x16 => decide (sub < 3)
  | 0x17 => false
  | _ => sub == 0 || (sub == 1 && decide (reg < 16)) || (sub == 2 && decide (reg < 8))

/-- The press, vein and bank-unit words of majors 0x18 to 0x1F (Tables 4.3, 5.5, 6.3). -/
def unitWord (major w : Nat) : Bool :=
  match major with
  | 0x18 => fieldZero w 12 5 && fieldZero w 0 11
  | 0x19 => fieldZero w 0 10
  | 0x1A => fieldZero w 0 11
  | 0x1B => fieldZero w 0 20
  | 0x1C => match fieldNat w 8 3 with
    | 0 => decide (fieldNat w 6 2 < 2) && fieldZero w 0 6
    | 1 => decide (fieldNat w 6 2 < 2) && fieldZero w 0 6
    | 2 => fieldZero w 16 5 && fieldZero w 0 8
    | _ => false
  | 0x1D => match fieldNat w 0 4 with
    | 0 => true
    | 1 => fieldZero w 22 4 && fieldZero w 4 8
    | 2 => fieldZero w 22 4 && fieldZero w 4 4
    | _ => false
  | 0x1E => fieldZero w 0 8
  | _ => match fieldNat w 8 3 with
    | 5 => false
    | 6 => false
    | 7 => fieldZero w 11 10 && fieldZero w 0 7
    | _ => fieldZero w 21 5 && fieldZero w 0 8

/-- The cache, stream, transfer, sampling and system words of majors 0x20 to 0x27 (Tables 7.7, 9.12, 8.10, 3.12); a
FENCE with imm7[6:2] set uses a reserved field (log entry 103). -/
def laterWord (major w : Nat) : Bool :=
  let func := fieldNat w 0 4
  match major with
  | 0x20 => fieldZero w 4 7 && decide (func < 7)
  | 0x21 => fieldZero w 2 5 && decide (fieldNat w 0 2 < 3)
  | 0x22 => decide (fieldNat w 8 4 < 2) && fieldZero w 0 8
  | 0x23 => decide (fieldNat w 0 2 < 2)
  | 0x24 => decide (func < 7)
  | 0x25 => fieldZero w 0 17
  | 0x26 => fieldZero w 4 2 && decide (func < 10)
  | _ => decide (func < 7) && (func != 1 || fieldZero w 6 5)

/-- A class of a long-form OR that names a control word (R66). -/
def cwClass (k : Nat) : Bool := k == 1 || k == 2

/-- The long forms: OR on a control word in its read and its write form (R66), and VCVT (R73). -/
def longWord (w0 w1 : Nat) : Bool :=
  match fieldNat w0 20 6 with
  | 0x00 =>
    let (d, a, b) := (fieldNat w1 30 2, fieldNat w1 28 2, fieldNat w1 26 2)
    fieldZero w0 0 10 && fieldZero w1 11 15 && fieldNat w1 0 11 == 3 && b == 0 &&
      ((d == 0 && cwClass a) || (cwClass d && a == 0))
  | 0x17 => fieldZero w1 0 15
  | _ => false

/-- Whether the word w0, with the word w1 after it, is an instruction (R59, R60). -/
def wordLegal (w0 w1 : Nat) : Bool :=
  let major := fieldNat w0 26 6
  if major < 0x10 then scalarWord major w0
  else if major < 0x18 then vectorWord major w0
  else if major < 0x20 then unitWord major w0
  else if major < 0x28 then laterWord major w0
  else major == 0x3F && longWord w0 w1

end Sys2Proof.Machine
end

