-- ==== Sys2Proof/Machine/Codes.lean ====
section
/-! DEFINITION. The codes of the protected memories (R425 to R429), CRC-32C and SHA-256 (R472) and the generator
Philox4x32-10 (R273). -/

namespace Sys2Proof.Machine

/-- Ones in the low n bits of x. -/
def popcount : Nat → Nat → Nat
  | 0, _ => 0
  | n + 1, x => x % 2 + popcount n (x / 2)

/-- The columns of the local-store code: the bytes of weight 3, then of weight 5 (R426). -/
def hsiaoColumns : List Nat :=
  (List.range 256).filter (fun x => popcount 8 x == 3) ++ (List.range 256).filter (fun x => popcount 8 x == 5)

/-- Column i of the local-store code: data bits 0 to 63, then address bits 64 to 91 (R426). -/
def hsiaoColumn (i : Nat) : Nat := hsiaoColumns.getD i 0

/-- What a decoder finds in a protected unit (R426, R427, Table 14.4): good, corrected with the bytes of data to flip
(position and pattern), or lost with the kind of Table 14.4. -/
inductive Verdict where
  | good
  | corrected (flips : List (Nat × Nat))
  | lost (kind : Nat)
  deriving DecidableEq, Repr

/-- The decision of the local-store decoder on a syndrome (R426). -/
def hsiaoVerdict (s : Nat) : Verdict :=
  if s = 0 then .good
  else if popcount 8 s = 1 then .corrected []
  else if s = 0xFF then .lost 2
  else
    let i := hsiaoColumns.idxOf s
    if i < 64 then .corrected [(i / 8, 2 ^ (i % 8))] else if i < 92 then .lost 3 else .lost 1

/-- Multiplication by x in GF(2^8) with x^8 + x^4 + x^3 + x^2 + 1 (R427). -/
def gfX (a : Nat) : Nat := if a < 128 then 2 * a else (2 * a) % 256 ^^^ 0x1D

/-- Multiplication in GF(2^8), by the n low bits of b. -/
def gfMulN : Nat → Nat → Nat → Nat
  | 0, _, _ => 0
  | n + 1, a, b => (if b % 2 = 1 then a else 0) ^^^ gfMulN n (gfX a) (b / 2)

/-- Multiplication in GF(2^8). -/
def gfMul (a b : Nat) : Nat := gfMulN 8 a b

/-- Powers in GF(2^8). -/
def gfPow (a : Nat) : Nat → Nat
  | 0 => 1
  | n + 1 => gfMul a (gfPow a n)

/-- The inverse in GF(2^8); 0 for 0. -/
def gfInv (a : Nat) : Nat := gfPow a 254

/-- The value of the polynomial with these coefficients, x^0 first. -/
def gfEval (x : Nat) : List Nat → Nat
  | [] => 0
  | c :: cs => c ^^^ gfMul x (gfEval x cs)

/-- Syndromes S0 to S(r - 1): values at α^0 to α^(r - 1) (R427). -/
def syndromes (r : Nat) (word : List Nat) : List Nat :=
  (List.range r).map fun j => gfEval (gfPow 2 j) word

/-- Product of a polynomial with x + a. -/
def gfTimesRoot (a : Nat) (p : List Nat) : List Nat :=
  List.zipWith (· ^^^ ·) (p.map (gfMul a) ++ [0]) (0 :: p)

/-- The generator with roots α^0 to α^(r - 1), x^0 first (R427). -/
def rsGenerator : Nat → List Nat
  | 0 => [1]
  | r + 1 => gfTimesRoot (gfPow 2 r) (rsGenerator r)

/-- The r check symbols, x^0 first, of the symbols at x^r upwards (R427). -/
def rsCheck (r : Nat) (syms : List Nat) : List Nat :=
  syms.foldr (fun m rem =>
    let fb := m ^^^ rem.getD (r - 1) 0
    List.zipWith (fun g p => gfMul fb g ^^^ p) (rsGenerator r) (0 :: rem.take (r - 1))) (List.replicate r 0)

/-- The positions below n at which a test holds. -/
def positions (n : Nat) (f : Nat → Bool) : List Nat := (List.range n).filter f

/-- The error word with which poison is written: 0xFF at the named check symbols (Table 14.2). -/
def poisonWord (at_ : List Nat) : List Nat := (List.range 8).map fun i => if i ∈ at_ then 0xFF else 0

/-- The verdict for symbols located at (position, magnitude): the data symbols lie at [r, r + n), the address symbols
above them (R427). -/
def rsLocated (r n : Nat) (errs : List (Nat × Nat)) : Verdict :=
  if errs.any (fun e => decide (r + n ≤ e.1)) then .lost 3
  else .corrected ((errs.filter fun e => decide (r ≤ e.1)).map fun e => (e.1 - r, e.2))

/-- The decision of the sealed-burst decoder on the word c0 to c3, 32 data bytes, 5 address symbols (R427, R429). -/
def sealedVerdict (word : List Nat) : Verdict :=
  let s := syndromes 4 word
  if s.all (· == 0) then .good
  else if s = syndromes 4 (poisonWord [0, 2]) then .lost 2
  else
    let s0 := s.getD 0 0
    let hits := positions 41 fun i =>
      (List.range 4).all fun j => s.getD j 0 == gfMul s0 (gfPow (gfPow 2 i) j)
    match hits with
    | [i] => if s0 = 0 then .lost 1 else rsLocated 4 32 [(i, s0)]
    | _ => .lost 1

/-- The decision of the far-line decoder on the error word c0 to c7 and 64 data symbols (R427, R429): corrects two
symbols. -/
def farVerdict (word : List Nat) : Verdict :=
  let s := syndromes 8 word
  let g := fun j => s.getD j 0
  if s.all (· == 0) then .good
  else if s = syndromes 8 (poisonWord [0, 1, 2]) then .lost 2
  else
    let one := positions 76 fun i => (List.range 8).all fun j => g j == gfMul (g 0) (gfPow (gfPow 2 i) j)
    match one with
    | [i] => if g 0 = 0 then .lost 1 else rsLocated 8 64 [(i, g 0)]
    | _ =>
      let det := gfMul (g 0) (g 2) ^^^ gfMul (g 1) (g 1)
      if det = 0 then .lost 1
      else
        let s1 := gfMul (gfMul (g 0) (g 3) ^^^ gfMul (g 1) (g 2)) (gfInv det)
        let s2 := gfMul (gfMul (g 1) (g 3) ^^^ gfMul (g 2) (g 2)) (gfInv det)
        let roots := positions 76 fun i =>
          let x := gfPow 2 i
          (gfMul x x ^^^ gfMul s1 x ^^^ s2) == 0
        match roots with
        | [a, b] =>
          let xa := gfPow 2 a
          let xb := gfPow 2 b
          let yb := gfMul (g 1 ^^^ gfMul (g 0) xa) (gfInv (xa ^^^ xb))
          let ya := g 0 ^^^ yb
          if (List.range 8).all fun j => g j == gfMul ya (gfPow xa j) ^^^ gfMul yb (gfPow xb j) then
            rsLocated 8 64 [(a, ya), (b, yb)]
          else .lost 1
        | _ => .lost 1

/-- The address symbols of a sealed burst: core ID and vein offset [25:5] (R427). -/
def sealedAddress (core off : Nat) : List Nat :=
  [fieldNat off 5 8, fieldNat off 13 8, fieldNat core 0 3 * 32 + fieldNat off 21 5, fieldNat core 3 8,
    fieldNat core 11 1]

/-- The 4 check bytes of a sealed burst (R427). -/
def sealedCheck (core off : Nat) (data : List Byte) : List Byte :=
  (rsCheck 4 (data.map (·.toNat) ++ sealedAddress core off)).map (BitVec.ofNat 8)

/-- Check bytes with c0 and c2 each XOR 0xFF: the poison of a sealed burst (Table 14.2). -/
def sealedPoison (chk : List Byte) : List Byte :=
  List.zipWith (fun b m => b ^^^ m) chk [0xFF, 0, 0xFF, 0]

/-- One bit of a reflected CRC with polynomial 0x82F6_3B78. -/
def crcBits : Nat → Nat → Nat
  | 0, c => c
  | n + 1, c => crcBits n (if c % 2 = 1 then (c / 2) ^^^ 0x82F63B78 else c / 2)

/-- CRC-32C of bytes from a starting value. -/
def crcFrom (c : Nat) (bytes : List Byte) : Nat := bytes.foldl (fun c b => crcBits 8 (c ^^^ b.toNat)) c

/-- CRC-32C as the image header carries it: initial ones, final inversion (R472; PRESUMED, log entry 20). -/
def crc32c (bytes : List Byte) : Nat := crcFrom 0xFFFFFFFF bytes ^^^ 0xFFFFFFFF

/-! SHA-256 (FIPS 180-4), the digest of an image (R472). -/

/-- The round constants of SHA-256. -/
def shaK : List (BitVec 32) :=
  [0x428a2f98, 0x71374491, 0xb5c0fbcf, 0xe9b5dba5, 0x3956c25b, 0x59f111f1, 0x923f82a4, 0xab1c5ed5] ++
  [0xd807aa98, 0x12835b01, 0x243185be, 0x550c7dc3, 0x72be5d74, 0x80deb1fe, 0x9bdc06a7, 0xc19bf174] ++
  [0xe49b69c1, 0xefbe4786, 0x0fc19dc6, 0x240ca1cc, 0x2de92c6f, 0x4a7484aa, 0x5cb0a9dc, 0x76f988da] ++
  [0x983e5152, 0xa831c66d, 0xb00327c8, 0xbf597fc7, 0xc6e00bf3, 0xd5a79147, 0x06ca6351, 0x14292967] ++
  [0x27b70a85, 0x2e1b2138, 0x4d2c6dfc, 0x53380d13, 0x650a7354, 0x766a0abb, 0x81c2c92e, 0x92722c85] ++
  [0xa2bfe8a1, 0xa81a664b, 0xc24b8b70, 0xc76c51a3, 0xd192e819, 0xd6990624, 0xf40e3585, 0x106aa070] ++
  [0x19a4c116, 0x1e376c08, 0x2748774c, 0x34b0bcb5, 0x391c0cb3, 0x4ed8aa4a, 0x5b9cca4f, 0x682e6ff3] ++
  [0x748f82ee, 0x78a5636f, 0x84c87814, 0x8cc70208, 0x90befffa, 0xa4506ceb, 0xbef9a3f7, 0xc67178f2]

/-- The initial hash value of SHA-256. -/
def shaInit : List (BitVec 32) :=
  [0x6a09e667, 0xbb67ae85, 0x3c6ef372, 0xa54ff53a, 0x510e527f, 0x9b05688c, 0x1f83d9ab, 0x5be0cd19]

/-- The message schedule, newest word first, extended by n words. -/
def shaExtend : Nat → List (BitVec 32) → List (BitVec 32)
  | 0, w => w
  | n + 1, w =>
    let a := w.getD 14 0
    let b := w.getD 1 0
    let s0 := a.rotateRight 7 ^^^ a.rotateRight 18 ^^^ (a >>> 3)
    let s1 := b.rotateRight 17 ^^^ b.rotateRight 19 ^^^ (b >>> 10)
    shaExtend n ((w.getD 15 0 + s0 + w.getD 6 0 + s1) :: w)

/-- One round of SHA-256. -/
def shaRound (h : List (BitVec 32)) (kw : BitVec 32 × BitVec 32) : List (BitVec 32) :=
  match h with
  | [a, b, c, d, e, f, g, hh] =>
    let s1 := e.rotateRight 6 ^^^ e.rotateRight 11 ^^^ e.rotateRight 25
    let t1 := hh + s1 + ((e &&& f) ^^^ (~~~e &&& g)) + kw.1 + kw.2
    let s0 := a.rotateRight 2 ^^^ a.rotateRight 13 ^^^ a.rotateRight 22
    let t2 := s0 + ((a &&& b) ^^^ (a &&& c) ^^^ (b &&& c))
    [t1 + t2, a, b, c, d + t1, e, f, g]
  | _ => h

/-- The big-endian words of a list of bytes. -/
def beWords : Nat → List Byte → List (BitVec 32)
  | 0, _ => []
  | n + 1, bs => BitVec.ofNat 32 (leNat (bs.take 4).reverse) :: beWords n (bs.drop 4)

/-- One 64-byte block of SHA-256. -/
def shaBlock (h : List (BitVec 32)) (blk : List Byte) : List (BitVec 32) :=
  let w := (shaExtend 48 (beWords 16 blk).reverse).reverse
  List.zipWith (· + ·) h ((shaK.zip w).foldl shaRound h)

/-- n blocks of SHA-256. -/
def shaBlocks : Nat → List (BitVec 32) → List Byte → List (BitVec 32)
  | 0, h, _ => h
  | n + 1, h, bs => shaBlocks n (shaBlock h (bs.take 64)) (bs.drop 64)

/-- SHA-256 of bytes. -/
def sha256 (bs : List Byte) : List Byte :=
  let zeros := (119 - bs.length % 64) % 64
  let msg := bs ++ [0x80] ++ List.replicate zeros 0 ++ (natLe 8 (8 * bs.length)).reverse
  (shaBlocks (msg.length / 64) shaInit msg).flatMap fun w => (natLe 4 w.toNat).reverse

/-! Philox4x32-10 (R273). -/

/-- One round of Philox on counter words and key words. -/
def philoxRound (x : List Nat) (k0 k1 : Nat) : List Nat :=
  match x with
  | [a, b, c, d] =>
    let p := 0xD2511F53 * a
    let q := 0xCD9E8D57 * c
    [(q / 2 ^ 32 ^^^ b ^^^ k0) % 2 ^ 32, q % 2 ^ 32, (p / 2 ^ 32 ^^^ d ^^^ k1) % 2 ^ 32, p % 2 ^ 32]
  | _ => x

/-- n rounds of Philox, the key words increased between rounds. -/
def philoxRounds : Nat → List Nat → Nat → Nat → List Nat
  | 0, x, _, _ => x
  | n + 1, x, k0, k1 =>
    philoxRounds n (philoxRound x k0 k1) ((k0 + 0x9E3779B9) % 2 ^ 32) ((k1 + 0xBB67AE85) % 2 ^ 32)

/-- Output block of a 128-bit key and a 64-bit counter: four words (R273). -/
def philox (key counter : Nat) : List Nat :=
  philoxRounds 10 [fieldNat counter 0 32, fieldNat counter 32 32, fieldNat key 64 32, fieldNat key 96 32]
    (fieldNat key 0 32) (fieldNat key 32 32)

/-- n output blocks from a counter on, which wraps from 2^64 - 1 to 0. -/
def philoxBlocks (key counter n : Nat) : List (List Nat) :=
  (List.range n).map fun i => philox key ((counter + i) % 2 ^ 64)

end Sys2Proof.Machine
end

