-- ==== Sys2Proof/Machine/Counters.lean ====
section
/-! DEFINITION. The performance counters (R484 to R491): which counters an event reaches, and how they count. Events
that count cycles are left out (timing: log entry 6). -/

namespace Sys2Proof.Machine

/-- The unit in which an event is counted (the "Counted per" columns). -/
inductive CountedIn where
  | core (c : Nat)
  | cluster (k : Nat)
  | die (d : Nat)
  | seam (i : Nat)
  | seamDir (i : Nat) (up : Bool)
  | stack (k : Nat)
  | device
  | func (f : Nat)
  | port (n : Nat)
  deriving DecidableEq, Repr

/-- How an event is counted: per core (0), cluster (1), die (2), seam (3), seam and direction (4), stack (5), device
(6), function (7), port or port and VC (8), core and stack (9); none: no such event (Tables 16.2, 16.3, 4.11, 5.17,
6.10, 7.16, 8.18, 9.18, 10.16, 12.17, 14.12; R485). -/
def eventLevel (tbl evt : Nat) : Option Nat :=
  let at_ : List Nat → Option Nat := fun l => if evt = 0 then none else l[evt - 1]?
  match tbl with
  | 0x03 => at_ (List.replicate 11 0)
  | 0x04 => at_ [1, 1, 1, 1, 1, 0, 0, 0]
  | 0x05 => at_ (List.replicate 16 0)
  | 0x06 => at_ (List.replicate 9 0)
  | 0x07 => at_ (List.replicate 10 0)
  | 0x08 => at_ [2, 2, 2, 2, 2, 0, 6]
  | 0x09 => at_ [2, 2, 4, 2, 3, 3, 3, 2, 5, 5, 5, 5, 5, 5, 5, 1]
  | 0x0A => at_ [7, 7, 7, 8, 8, 8, 8, 8, 6]
  | 0x0C => at_ [1, 1, 1, 1, 6, 6]
  | 0x0E => at_ [0, 0, 0, 0, 6, 2, 2, 9]
  | _ => none

/-- The events a bank may select (Table 16.1): bank 0 core, 1 cluster, 2 die, 3 global. -/
def bankSelects (bank tbl evt : Nat) : Bool :=
  match eventLevel tbl evt with
  | none => false
  | some l =>
    match bank with
    | 0 => l == 0 || l == 9
    | 1 => l == 0 || l == 9 || l == 1
    | 2 => l == 1 || l == 2 || l == 3 || l == 4 || l == 5 || l == 9
    | _ => l != 0

/-- Whether the die bank of die d counts an event in a unit, under an instance of 12 bits (R486). -/
def dieInst (d inst : Nat) : CountedIn → Bool
  | .cluster k => k / 64 == d && (inst == 0xFFF || inst == k % 64)
  | .die e => e == d && (inst == 0xFFF || inst == 0)
  | .seam i => seamOnDie i d && (inst == 0xFFF || inst == i)
  | .seamDir i up => seamOnDie i d && (inst == 0xFFF || inst == 2 * i + up.toNat)
  | .stack k => k / 2 == d && (inst == 0xFFF || inst == k % 2)
  | _ => false
where
  /-- The dies of a seam (R300): seam 0 joins Q0 and Q1, 1 Q1 and Q3, 2 Q3 and Q2, 3 Q2 and Q0. -/
  seamOnDie (i d : Nat) : Bool :=
    match i with
    | 0 => d == 0 || d == 1
    | 1 => d == 1 || d == 3
    | 2 => d == 2 || d == 3
    | _ => d == 0 || d == 2

/-- Whether a global counter's instance covers a unit (R486). -/
def globalInst (inst : Nat) : CountedIn → Bool
  | .device => true
  | .func f => inst == 0xFFF || inst == f
  | .port n => inst == 0xFFF || inst == n
  | .core _ => false
  | u => inst == 0xFFF && (List.range 4).any (dieInst · 0xFFF u) || dieInst (inst / 4096) (inst % 4096) u

/-- Add n events to one counter: the count wraps, sets ovf, and with frz freezes its scope (R487, R489). -/
def countOn (s : State) (sel cnt scope n : Nat) : State :=
  if n = 0 || bitNat (getReg s oPctl).toNat scope then s
  else
    let w := (getReg s cnt).toNat
    let v := fieldNat w 0 48 + n
    let s1 := setReg s cnt (BitVec.ofNat 64
      (v % 2 ^ 48 + (if 2 ^ 48 ≤ v || bitNat w 48 then 2 ^ 48 else 0)))
    if 2 ^ 48 ≤ v && bitNat (getReg s sel).toNat 40 then setRegField s1 oPctl scope 1 1 else s1

/-- Whether a select register counts this event, and its instance. -/
def selects (s : State) (sel tbl evt : Nat) : Option Nat :=
  let w := (getReg s sel).toNat
  if bitNat w 39 && fieldNat w 8 8 == tbl && fieldNat w 0 8 == evt then some (fieldNat w 24 14) else none

/-- Count n events of a unit on every counter that selects them. -/
def bump (s : State) (tbl evt n : Nat) (u : CountedIn) : State :=
  let one : State → Nat → Nat → Nat → (Nat → Bool) → State := fun s sel cnt scope ok =>
    match selects s sel tbl evt with
    | some i => if ok i then countOn s sel cnt scope n else s
    | none => s
  let scopeOf : Nat → Nat := fun k => (partOfCl s k).getD 17
  let clCount : Nat → (Nat → Bool) → State → State := fun k ok s =>
    (List.range 8).foldl (fun s i => one s (oClSel k i) (oClPmc k i) (scopeOf k) ok) s
  let upper : State → State := fun s =>
    let s1 := (List.range 4).foldl (fun s d =>
      (List.range 16).foldl (fun s i => one s (oDsel d i) (oDcnt d i) 16 fun inst => dieInst d (inst % 4096) u) s) s
    (List.range 32).foldl (fun s i => one s (oGsel i) (oGcnt i) 16 fun inst => globalInst inst u) s1
  match u with
  | .core c =>
    let s1 := (List.range 8).foldl (fun s i => one s (oCoSel c i) (oCoPmc c i) (scopeOf (c / 16)) fun _ => true) s
    clCount (c / 16) (fun inst => inst == 0xFFF || inst % 16 == c % 16) s1
  | .cluster k => upper (clCount k (fun _ => true) s)
  | _ => upper s

/-- Count one event of a core. -/
def bumpCore (s : State) (tbl evt c : Nat) : State := bump s tbl evt 1 (.core c)

end Sys2Proof.Machine
end

