-- ==== Sys2Proof/Machine/LedgerOps.lean ====
section
/-! DEFINITION. Writing a ledger record (R450 to R459): the rate limit, a hold, the slot it takes, the flash copy. -/

namespace Sys2Proof.Machine

/-- Severities (Table 15.2). -/
def sevDebug : Nat := 0
def sevInfo : Nat := 1
def sevNotice : Nat := 2
def sevWarn : Nat := 3
def sevError : Nat := 4
def sevFatal : Nat := 5

/-- A source field: kind and index (Table 15.2). -/
def sourceOf (kind index : Nat) : Nat := kind * 2 ^ 28 + index % 2 ^ 28
/-- The source of a record about a core, a cluster, a die, a stack. -/
def srcCore (c : Nat) : Nat := sourceOf 1 c
def srcCluster (k : Nat) : Nat := sourceOf 2 k
def srcDie (d : Nat) : Nat := sourceOf 3 d
def srcStack (k : Nat) : Nat := sourceOf 4 k

/-- A value of two payload words, low word first (R451). -/
def twoWords (x : Nat) : List Nat := [fieldNat x 0 32, fieldNat x 32 32]

/-- Whether seq a lies before b, both wrapping at 2^32. -/
def seqBefore (a b : Nat) : Bool :=
  let d := (b + 2 ^ 32 - a) % 2 ^ 32
  decide (0 < d) && decide (d < 2 ^ 31)

/-- The first key below n that a table does not list, searching from i. -/
def firstGap {α : Type} (n : Nat) : Nat → Map α → Option Nat
  | i, [] => if i < n then some i else none
  | i, (k, _) :: r => if i < k then (if i < n then some i else none) else firstGap n (k + 1) r

/-- The entry with the least measure of those a test admits, the earliest among equals. -/
def leastBy {α : Type} (f : α → Nat) (ok : α → Bool) : Map α → Option (Nat × α)
  | [] => none
  | (k, x) :: r =>
    match leastBy f ok r with
    | none => if ok x then some (k, x) else none
    | some (j, y) => if ok x && decide (f x ≤ f y) then some (k, x) else some (j, y)

/-- The slot an incoming record takes, and whether it displaces a record (R455); none: the record is dropped. -/
def takeSlot (l : Ledger) (sev : Nat) : Option (Nat × Bool) :=
  match firstGap 4096 0 l.ring with
  | some i => some (i, false)
  | none =>
    let age : LedgerRec → Nat := fun r => 2 ^ 32 - (l.wseq + 2 ^ 32 - r.seq) % 2 ^ 32
    match leastBy age (fun r => seqBefore r.seq l.ack) l.ring with
    | some (i, _) => some (i, false)
    | none =>
      match leastBy (fun r => r.sev * 2 ^ 33 + age r) (fun r => decide (r.sev < sev)) l.ring with
      | some (i, _) => some (i, true)
      | none => none

/-- The empty ledger record that a table of records shows where nothing is listed. -/
def LedgerRec.blank : LedgerRec := ⟨0, 0, 0, false, 0, 0, 0, 0, [], false⟩

/-- Put a record into the ring, without a flash copy: the state and whether it was written (R455). -/
def ringWrite (s : State) (r : LedgerRec) : State × Option LedgerRec :=
  let l := s.ledger
  match takeSlot l r.sev with
  | none => (addRegField s oLdgStat 16 16 1, none)
  | some (i, displaced) =>
    let x := { r with seq := l.wseq }
    let next := (l.wseq + 1) % 2 ^ 32
    let ack := if (getReg s oLdgCtl).getLsbD 0 then next else l.ack
    let s1 := { s with ledger := { l with ring := put (fun _ => LedgerRec.blank) l.ring i x, wseq := next, ack := ack } }
    (if displaced then addRegField s1 oLdgStat 0 16 1 else s1, some x)

/-- The youngest queued ERROR copy that is not being programmed, taken out of the queue (R459). -/
def dropErrorCopy (q : List LedgerRec) : Option (List LedgerRec) :=
  match q with
  | [] => none
  | h :: t =>
    let r := t.reverse
    if r.any (·.sev == sevError) then some (h :: (r.eraseP (·.sev == sevError)).reverse) else none

/-- Queue the flash copy of a record of severity ERROR or FATAL (R459). -/
def flashCopy (s : State) (r : LedgerRec) : State :=
  let l := s.ledger
  if r.sev < sevError then s
  else if l.queue.length < 32 then
    { s with ledger := { l with queue := l.queue ++ [{ r with fgap := l.gap }], gap := false } }
  else
    match if r.sev = sevFatal then dropErrorCopy l.queue else none with
    | some q => { s with ledger := { l with queue := q ++ [{ r with fgap := l.gap }], gap := false } }
    | none =>
      let s1 := addRegField { s with ledger := { l with gap := true } } oLdgStat 48 16 1
      if l.gap then s1
      else (ringWrite s1 ⟨0, 0x0A05, sevWarn, true, 0, s.hallmark, sourceOf 9 0, 0, [], false⟩).1

/-- Write a record that has passed its rate limit. -/
def writeRecord (s : State) (r : LedgerRec) : State :=
  match ringWrite s r with
  | (s1, some x) => flashCopy s1 x
  | (s1, none) => s1

/-- The depth of the bucket of a severity (R453, Table 15.5). -/
def bucketDepth (s : State) (sev : Nat) : Nat := regField s (oLdgRate sev) 32 8

/-- Count a record as suppressed (R454). -/
def suppress (s : State) (code : Nat) : State :=
  let l := s.ledger
  addRegField { s with ledger := { l with
    supp := put (fun _ => 0) l.supp code (min (2 ^ 32 - 1) (look (fun _ => 0) l.supp code + 1)) } } oLdgStat 32 16 1

/-- Write a ledger record: its code, its severity, the partition it concerns (none: a device record), its source and
its payload. Nothing is written while the comptroller's firmware does not run (R446). -/
def ledger (s : State) (code sev : Nat) (part : Option Nat) (source : Nat) (payload : List Nat) : State :=
  if s.comp.state ≠ .firmware then s
  else
    let l := s.ledger
    let taken := look (fun _ => 0) l.tokens code
    if sev < sevFatal && decide (bucketDepth s sev ≤ taken) then suppress s code
    else if l.holdEnd.isSome && decide (sev < sevError) && decide (64 ≤ l.held.length) then suppress s code
    else
      let r : LedgerRec := ⟨0, code, sev, part.isNone, part.getD 0, s.hallmark, source, look (fun _ => 0) l.supp code,
        payload, false⟩
      let l1 := { l with
        tokens := if sev < sevFatal then put (fun _ => 0) l.tokens code (taken + 1) else l.tokens
        refills := if sev < sevFatal then
          put (fun _ => (0, 0)) l.refills code (if taken = 0 then elapsed s else (look (fun _ => (0, 0)) l.refills code).1, sev)
          else l.refills
        supp := put (fun _ => 0) l.supp code 0 }
      if l.holdEnd.isSome && decide (sev < sevError) then { s with ledger := { l1 with held := l.held ++ [r] } }
      else writeRecord { s with ledger := l1 } r

/-- The bytes of a ledger record in a ring slot (Table 15.2, R450). -/
def recordBytes (starts : Nat) (r : LedgerRec) : List Byte :=
  let words := (r.payload ++ List.replicate 8 0).take 8
  natLe 4 r.seq ++ natLe 2 r.code ++ [BitVec.ofNat 8 (r.sev + 8 * r.dev.toNat + 16 * r.part)] ++
    [BitVec.ofNat 8 r.fgap.toNat] ++ natLe 8 r.hm ++ natLe 4 r.source ++ natLe 4 r.supp ++ natLe 2 starts ++
    [BitVec.ofNat 8 (min 8 r.payload.length), 0] ++ words.flatMap (natLe 4) ++ natLe 4 (2 ^ 32 - 1 - r.seq)

/-- What a function that may not see a record reads of it (R457). -/
def hiddenBytes (seq : Nat) : List Byte :=
  natLe 4 seq ++ [0, 0, 0, 2] ++ List.replicate 52 0 ++ natLe 4 (2 ^ 32 - 1 - seq)

end Sys2Proof.Machine
end

