-- ==== Sys2Proof/Machine/Memory.lean ====
section
/-! DEFINITION. The protected memories (chapter 14, R155 to R161): regions, units with their check bits, what a read of
a unit finds, correction, poison, whole and partial writes. Far memory appears here as its controllers see it; the tiered
page cache is in Machine/Cache.lean. -/

namespace Sys2Proof.Machine

/-! ### The region table (R155 to R158) -/

/-- The kinds of a region (Table 5.16). -/
def kindOpen : Nat := 1
def kindSealed : Nat := 2
def kindCache : Nat := 3

/-- A region entry's fields: base and count in units of 512 KiB, kind, guest. -/
structure Region where
  base  : Nat
  count : Nat
  kind  : Nat
  guest : Nat
  deriving DecidableEq, Repr

/-- The fields of a region word (Table 5.16); guest 0b10 acts as 0b00. -/
def regionOf (w : Nat) : Region :=
  ⟨fieldNat w 0 7, fieldNat w 8 8, fieldNat w 19 2, if fieldNat w 21 2 = 2 then 0 else fieldNat w 21 2⟩

/-- The entries of a core's region table. -/
def regionTable (s : State) (c : Nat) : List Region :=
  (List.range 8).map fun n => regionOf (getReg s (oRegion c n)).toNat

/-- Whether a region covers a vein offset. -/
def Region.covers (r : Region) (off : Nat) : Bool :=
  r.kind != 0 && decide (r.base ≤ off / 0x80000) && decide (off / 0x80000 < r.base + r.count)

/-- The region of a vein offset. -/
def regionAt (s : State) (c off : Nat) : Option Region := (regionTable s c).find? (·.covers off)

/-- The first offset of a region. -/
def Region.start (r : Region) : Nat := r.base * 0x80000
/-- The bytes of a region. -/
def Region.size (r : Region) : Nat := r.count * 0x80000
/-- The bytes of data in a sealed region: 7/8 of it (R158). -/
def Region.dataSize (r : Region) : Nat := r.size / 8 * 7

/-- Whether an offset lies in the check part of a sealed region (R158). -/
def Region.inCheck (r : Region) (off : Nat) : Bool := r.kind == kindSealed && decide (r.start + r.dataSize ≤ off)

/-- Where the 4 check bytes of the burst at a data offset lie (R158). -/
def Region.checkAt (r : Region) (off : Nat) : Nat := r.start + r.dataSize + 4 * ((off - r.start) / 32)

/-- Whether requests to an offset wait: its region is being zero-filled or initialised, or has been written unused and
is not yet so (R157). -/
def regionWaits (s : State) (c off : Nat) : Bool :=
  let v := getVein s c
  v.initing.any (fun n => (regionOf (getReg s (oRegion c n)).toNat).covers off) ||
    v.unused.any (fun e => (regionOf e.2.1).covers off)

/-! ### Units -/

/-- A unit of protection: its device address, its memory code (Table 14.4; 0: no code), its size. -/
structure MemUnit where
  addr : Nat
  code : Nat
  size : Nat
  deriving DecidableEq, Repr

/-- The unit that holds a device address, far memory taken flat. -/
def unitAt (s : State) (a : Nat) : MemUnit :=
  match placeOf a with
  | .ls _ _ => ⟨a / 8 * 8, 1, 8⟩
  | .vein c off =>
    match regionAt s c off with
    | some r => if r.kind = kindSealed then ⟨a / 32 * 32, 2, 32⟩ else ⟨a / 32 * 32, 0, 32⟩
    | none => ⟨a / 32 * 32, 0, 32⟩
  | .far _ _ => ⟨a / 64 * 64, 3, 64⟩
  | _ => ⟨a, 0, 1⟩

/-- The check bytes stored for a sealed burst. -/
def sealedStored (s : State) (c off : Nat) : List Byte :=
  match regionAt s c off with
  | some r => rdBytes s (veinAddr c (r.checkAt off)) 4
  | none => []

/-- Store the check bytes of a sealed burst. -/
def setSealedCheck (s : State) (c off : Nat) (chk : List Byte) : State :=
  match regionAt s c off with
  | some r => wrBytes s (veinAddr c (r.checkAt off)) chk
  | none => s

/-- What the decoder finds in a unit (R426, R427). A line of a channel failed after ready is uncorrectable (R288). -/
def verdictOf (s : State) (u : MemUnit) : Verdict :=
  match u.code, placeOf u.addr with
  | 1, _ => hsiaoVerdict ((look (fun _ => 0) s.chk u.addr).toNat % 256)
  | 2, .vein c off =>
    sealedVerdict ((sealedStored s c off ++ rdBytes s u.addr 32).map (·.toNat) ++ sealedAddress c off)
  | 3, .far k off =>
    if farLost s k (off / 64) then .lost 1
    else farVerdict ((natLe 8 (look (fun _ => 0) s.chk u.addr).toNat).map (·.toNat))
  | _, _ => .good
where
  /-- Whether the channel that holds a line has failed since ready (R287, R288). -/
  farLost (s : State) (k line : Nat) : Bool :=
    let good := (List.range 32).filter (bitNat (farChannels s k))
    good.length != 0 && bitNat (s.start.farFail.getD k 0) (good.getD (line % (2 * good.length) / 2) 0)

/-- Give a unit a fresh code over the data it holds. -/
def freshCode (s : State) (u : MemUnit) : State :=
  match u.code, placeOf u.addr with
  | 1, _ => { s with chk := put (fun _ => 0) s.chk u.addr 0 }
  | 2, .vein c off => setSealedCheck s c off (sealedCheck c off (rdBytes s u.addr 32))
  | 3, _ => { s with chk := put (fun _ => 0) s.chk u.addr 0 }
  | _, _ => s

/-- Write a unit poisoned (Table 14.2); a unit with no code is left as it is (R430). -/
def poisonUnit (s : State) (u : MemUnit) : State :=
  match u.code, placeOf u.addr with
  | 1, _ => { s with chk := put (fun _ => 0) s.chk u.addr 0xFF }
  | 2, .vein c off => setSealedCheck s c off (sealedPoison (sealedCheck c off (rdBytes s u.addr 32)))
  | 3, _ => { s with chk := put (fun _ => 0) s.chk u.addr 0xFFFFFF }
  | _, _ => s

/-- XOR patterns into bytes of memory. -/
def flipBytes (s : State) (a : Nat) (fs : List (Nat × Nat)) : State :=
  fs.foldl (fun s f => wrByte s (a + f.1) (rdByte s (a + f.1) ^^^ BitVec.ofNat 8 f.2)) s

/-- The partition that holds a memory unit, none when no partition does (R530). -/
def unitPart (s : State) (a : Nat) : Option Nat :=
  match placeOf a with
  | .ls c _ => partOf s c
  | .vein c _ => partOf s c
  | .far k off => (List.range 16).find? fun p => bitNat (getPart s p).slices (8 * k + off / 0x120000000)
  | _ => none

/-- The source of a record about a memory unit (R530). -/
def unitSource (a : Nat) : Nat :=
  match placeOf a with
  | .ls c _ => srcCore c
  | .vein c _ => srcCore c
  | .far k _ => srcStack k
  | _ => 0

/-- The error record of a memory (Tables 14.11, 5.15, 9.6): where it is, and how it names a unit. -/
def errorReg (a : Nat) : Nat × Nat :=
  match placeOf a with
  | .ls c off => (oLserr c, off / 8 * 8)
  | .vein c off => (oVerr c, off / 32 * 32)
  | .far k off => (oFarErr k, off / 64 * 64)
  | _ => (0, 0)

/-- Which channel and pseudo-channel hold a line of a stack, as FAR_ERRk places them (R287, Table 9.6). -/
def farChannelBits (s : State) (k off : Nat) : Nat :=
  let good := (List.range 32).filter (bitNat (farChannels s k))
  let u := off / 64 % (2 * good.length)
  good.getD (u / 2) 0 * 2 ^ 40 + u % 2 * 2 ^ 45

/-- How an error record names a unit: Table 14.11 the word, Table 5.15 the burst, Table 9.6 the line. -/
def errorName (s : State) (a : Nat) : Nat :=
  match placeOf a with
  | .far k off => off / 64 * 64 + farChannelBits s k off
  | _ => (errorReg a).2

/-- Record a corrected unit (R428): the count saturates, the first error is named. -/
def recordCorrected (s : State) (u : MemUnit) : State :=
  let (o, _) := errorReg u.addr
  let w := (getReg s o).toNat
  let n := min 255 (fieldNat w 48 8 + 1)
  let w1 := if bitNat w 63 then w else 2 ^ 63 + errorName s u.addr
  setReg s o (BitVec.ofNat 64 (setFieldNat w1 48 8 n))

/-- Record a lost unit: it displaces a recorded correctable error. -/
def recordLost (s : State) (u : MemUnit) (kind : Nat) : State :=
  let (o, _) := errorReg u.addr
  let w := (getReg s o).toNat
  if bitNat w 63 && bitNat w 62 then s
  else
    let poison := if u.code = 1 && kind = 2 then 2 ^ 61 else 0
    setReg s o (BitVec.ofNat 64 (2 ^ 63 + 2 ^ 62 + poison + fieldNat w 48 8 * 2 ^ 48 + errorName s u.addr))

/-- Count an event of a memory unit: the local-store events per core (Table 14.12), the far events per stack. -/
def countUnit (s : State) (u : MemUnit) (ok : Bool) : State :=
  match placeOf u.addr with
  | .ls c _ => bump s 0x0E (if ok then 1 else 2) 1 (.core c)
  | .far k _ => bump s 0x09 (if ok then 14 else 15) 1 (.stack k)
  | _ => s

/-- What a read of a unit by a consumer does to the state (R428, R432, R442): a correctable unit is rewritten, counted
and recorded; a lost one is recorded. who is the row of Table 14.3, 11 a scrubber; core the reading core, if any. -/
def noteRead (s : State) (u : MemUnit) (who : Nat) (core : Option Nat) : State :=
  match verdictOf s u with
  | .good => s
  | .corrected fs =>
    let s1 := freshCode (flipBytes s u.addr fs) u
    ledger (countUnit (recordCorrected s1 u) u true) 0x0301 sevInfo (unitPart s u.addr) (unitSource u.addr)
      (u.code :: twoWords u.addr)
  | .lost kind =>
    if kind = 2 && who = 11 then countUnit s u false
    else
      let s1 := countUnit (recordLost s u kind) u false
      let s2 := match core with
        | some c => if kind = 2 then bump s1 0x0E 4 1 (.core c) else s1
        | none => s1
      if kind = 2 then
        ledger s2 0x0303 sevNotice (unitPart s u.addr) (unitSource u.addr) (u.code :: twoWords u.addr ++ [who])
      else ledger s2 0x0302 sevError (unitPart s u.addr) (unitSource u.addr) (u.code :: twoWords u.addr ++ [who])

/-- The sub code of a lost unit (Table 14.4), 0 when it is readable. -/
def lostCode (s : State) (u : MemUnit) : Nat :=
  match verdictOf s u with
  | .lost kind => u.code * 16 + kind
  | _ => 0

/-- The units that a range of addresses touches, in order; the count bounds the walk. -/
def unitsFrom (s : State) : Nat → Nat → Nat → List MemUnit
  | 0, _, _ => []
  | fuel + 1, a, e =>
    if e ≤ a then []
    else
      let u := unitAt s a
      u :: unitsFrom s fuel (u.addr + u.size) e

/-- The units of n bytes from an address on. -/
def unitsOf (s : State) (a n : Nat) : List MemUnit := unitsFrom s (n / 8 + 2) a (a + n)

/-- The result of a read: the state with corrections made and losses recorded, and the lost units with their sub
codes. The bytes are then those of the state. -/
def readUnits (s : State) (a n who : Nat) (core : Option Nat) : State × List (Nat × Nat) :=
  (unitsOf s a n).foldl (fun (r : State × List (Nat × Nat)) u =>
    let c := lostCode r.1 u
    (noteRead r.1 u who core, if c = 0 then r.2 else r.2 ++ [(u.addr, c)])) (s, [])

/-- The lost units of a range, as they stand. -/
def lostIn (s : State) (a n : Nat) : List (Nat × Nat) :=
  (unitsOf s a n).filterMap fun u => if lostCode s u = 0 then none else some (u.addr, lostCode s u)

/-- Count a unit as poisoned by a core's access (Table 14.12). -/
def poisonBy (s : State) (u : MemUnit) (core : Option Nat) : State :=
  let s1 := poisonUnit s u
  match core with
  | some c => if u.code = 0 then s1 else bump s1 0x0E 3 1 (.core c)
  | none => s1

/-- Whether a unit is a far line of a channel that has failed since ready (R288). -/
def lineFailed (s : State) (u : MemUnit) : Bool :=
  match u.code, placeOf u.addr with
  | 3, .far k off => verdictOf.farLost s k (off / 64)
  | _, _ => false

/-- Write bytes that lie in one unit (R429, R431): an access to a line of a failed channel completes as uncorrectable
(R288); a whole unit takes a fresh code; a part is merged into a good or
corrected unit, and a lost unit is poisoned and reported with kind 4. -/
def writeUnit (s : State) (u : MemUnit) (a : Nat) (bs : List Byte) (who : Nat) (core : Option Nat) :
    State × List (Nat × Nat) :=
  if lineFailed s u then (noteRead s u who core, [(u.addr, 0x31)])
  else if u.code = 0 || decide (u.size ≤ bs.length) then (freshCode (wrBytes s a bs) u, [])
  else if lostCode s u ≠ 0 then (poisonBy (noteRead s u who core) u core, [(u.addr, u.code * 16 + 4)])
  else (freshCode (wrBytes (noteRead s u who core) a bs) u, [])

/-- Write bytes from an address on, unit by unit, reporting the units that refused a partial write. -/
def writeUnits (s : State) (a : Nat) (bs : List Byte) (who : Nat) (core : Option Nat) : State × List (Nat × Nat) :=
  (unitsOf s a bs.length).foldl (fun (r : State × List (Nat × Nat)) u =>
    let lo := max a u.addr
    let hi := min (a + bs.length) (u.addr + u.size)
    let w := writeUnit r.1 u lo ((bs.drop (lo - a)).take (hi - lo)) who core
    (w.1, r.2 ++ w.2)) (s, [])

/-- Write bytes that lie in one unit, of which half bytes at some addresses keep what stands there: a lost unit that
holds one is written in part, however many of its bytes are given (R113, R431). -/
def writeHalf (s : State) (u : MemUnit) (a : Nat) (bs : List Byte) (half : Bool) (who : Nat) (core : Option Nat) :
    State × List (Nat × Nat) :=
  if half && u.code != 0 && lostCode s u != 0 then
    (poisonBy (noteRead s u who core) u core, [(u.addr, u.code * 16 + 4)])
  else writeUnit s u a bs who core

/-- Write bytes of which some are lost (R430): a unit with a code that takes a lost byte is poisoned, lost bytes are
not written into a unit without one. halves are the addresses of bytes of which half is kept. -/
def writeHalves (s : State) (a : Nat) (bs : List (Byte × Bool)) (halves : List Nat) (who : Nat) (core : Option Nat) :
    State × List (Nat × Nat) :=
  (unitsOf s a bs.length).foldl (fun (r : State × List (Nat × Nat)) u =>
    let lo := max a u.addr
    let hi := min (a + bs.length) (u.addr + u.size)
    let part := (bs.drop (lo - a)).take (hi - lo)
    if part.any (·.2) then
      if u.code = 0 then
        (part.zipIdx.foldl (fun s e => if e.1.2 then s else wrByte s (lo + e.2) e.1.1) r.1, r.2)
      else (poisonBy r.1 u core, r.2)
    else
      let half := halves.any fun h => decide (u.addr ≤ h) && decide (h < u.addr + u.size)
      let w := writeHalf r.1 u lo (part.map (·.1)) half who core
      (w.1, r.2 ++ w.2)) (s, [])

/-- Write whole bytes of which some are lost. -/
def writeMixed (s : State) (a : Nat) (bs : List (Byte × Bool)) (who : Nat) (core : Option Nat) :
    State × List (Nat × Nat) := writeHalves s a bs [] who core

/-- The bytes of a range with a mark on each byte of a lost unit. -/
def markedBytes (s : State) (a n : Nat) (lost : List (Nat × Nat)) : List (Byte × Bool) :=
  (rdBytes s a n).zipIdx.map fun (b, i) => (b, lost.any fun l => (unitAt s l.1).addr == (unitAt s (a + i)).addr)

/-- Zero data with valid codes over a sealed region (R157). -/
def initSealed (s : State) (c : Nat) (r : Region) : State :=
  let s1 := zeroBytes s (veinAddr c r.start) r.size
  let zeros : List Byte := List.replicate 32 0
  wrBytes s1 (veinAddr c (r.start + r.dataSize))
    ((List.range (r.dataSize / 32)).flatMap fun i => sealedCheck c (r.start + 32 * i) zeros)

/-- Zero with valid check bits over one local store (R439, R328). -/
def zeroLs (s : State) (c : Nat) : State :=
  { zeroBytes s (lsAddr c 0) 0x80000 with chk := clearIn s.chk (lsAddr c 0) 0x80000 }

end Sys2Proof.Machine
end

