-- ==== Sys2Proof/Machine/FarQueue.lean ====
section
/-! DEFINITION. Pseudo-channels of far memory (R287, R290 to R292): where a line lies, open rows, and the serving of
queued requests. -/

namespace Sys2Proof.Machine

/-- The pseudo-channel of a stack offset (2 × channel + half) and the group of its line there (R287). -/
def farPlace (s : State) (k off : Nat) : Nat × Nat :=
  let good := (List.range 32).filter (bitNat (farChannels s k))
  let units := 2 * good.length
  let u := off / 64 % units
  (2 * good.getD (u / 2) 0 + u % 2, off / 64 / units / 16)

/-- An access opens the row of its group and closes another row of that bank; an open row is a row hit (R291, Table
9.18). -/
def farTouch (s : State) (k off : Nat) : State :=
  let (pc, g) := farPlace s k off
  let x := getPc s k pc
  let banks := max 1 Config.farBanks
  let hit := x.rows.any (·.1 == g)
  let s1 := setPc s k pc { x with rows := (g, elapsed s) :: x.rows.filter fun r => r.1 % banks != g % banks }
  if hit then bump s1 0x09 12 1 (.stack k) else s1

/-- Scrub one unit: corrected and rewritten, or rewritten poisoned and recorded once (R434). -/
def scrubUnit (s : State) (u : MemUnit) : State :=
  match verdictOf s u with
  | .lost kind => if kind = 2 then noteRead s u 11 none else poisonUnit (noteRead s u 11 none) u
  | _ => noteRead s u 11 none

/-- The row of Table 14.3 that a requester's access is, by the kind of Table 5.14. -/
def agentRow (kind : Nat) (write : Bool) : Nat :=
  match kind with
  | 0 => if write then 3 else 2
  | 1 => 8
  | 2 => if write then 13 else 12
  | _ => 10

/-- Put bytes of a request over a line where both have them. -/
def overlay (base : Nat) (bs : List Byte) (at_ : Nat) (ws : List Byte) : List Byte :=
  bs.zipIdx.map fun (b, i) =>
    if at_ ≤ base + i && base + i < at_ + ws.length then ws.getD (base + i - at_) b else b

/-- What a requester of a stack is told. -/
def farTold (s : State) (q : FarReq) (status : Nat) (bs : List Byte) : State :=
  emit s (.memReply (q.source.toNat / 4096) (q.source.toNat % 4096) status bs)

/-- Serve entry i of a pseudo-channel's queue (R291, R292): a read takes the bytes of older queued writes of its line.
The statuses are OK 0x00 and UNCORRECTABLE 0x09 of Table 10.17. -/
def farServe (s : State) (k pc i : Nat) : State :=
  let x := getPc s k pc
  match x.queue[i]? with
  | none => s
  | some e =>
    let off := e.req.offset.toNat
    let a := farAddr k off
    let u := unitAt s a
    let s1 := farTouch (setPc s k pc { x with queue := x.queue.eraseIdx i }) k off
    let who := agentRow (e.req.source.toNat / 4096) e.req.write
    if e.req.write then
      let (s2, bad) := writeUnits s1 a e.req.data who none
      let s3 := bump s2 0x09 10 1 (.stack k)
      let s4 := if e.req.data.length < 64 then bump s3 0x09 11 1 (.stack k) else s3
      farTold s4 e.req (if bad.isEmpty then 0 else 9) []
    else
      let olds := (x.queue.take i).filter fun w => w.req.write && w.line == e.line
      let lost := lostCode s1 u != 0
      let s2 := bump (noteRead s1 u who none) 0x09 9 1 (.stack k)
      let bs := olds.foldl (fun bs w => overlay off bs w.req.offset.toNat w.req.data) (rdBytes s2 a e.req.size)
      let covered := (List.range e.req.size).all fun j => olds.any fun w =>
        decide (w.req.offset.toNat ≤ off + j) && decide (off + j < w.req.offset.toNat + w.req.data.length)
      if lost && !covered then farTold s2 e.req 9 [] else farTold s2 e.req 0 bs

/-- Serve every queued request of a line, oldest first; the count bounds them. -/
def farServeLine (k pc line : Nat) : Nat → State → State
  | 0, s => s
  | n + 1, s =>
    match (getPc s k pc).queue.findIdx? (·.line == line) with
    | none => s
    | some i => farServeLine k pc line n (farServe s k pc i)

/-- Before another access to a line, its queued requests are served; the access then opens its row (R291). -/
def farSettle (s : State) (k off : Nat) : State :=
  let pc := (farPlace s k off).1
  farTouch (farServeLine k pc (off / 64) 48 s) k off

end Sys2Proof.Machine
end

