-- ==== Sys2Proof/Machine/Routes.lean ====
section
/-! DEFINITION. The way between dies (R300 to R309): the state of a seam, its engines and their roles, the routes of Table
9.8, and what holds a request at a seam. -/

namespace Sys2Proof.Machine

/-- Whether a die is up (DEV_DRSTAT). -/
def dieUp (s : State) (d : Nat) : Bool := s.start.dies.getD d 0 == 0

/-! ### State of a seam (Table 9.16) -/

/-- Whether a seam carries traffic: up, or up with bundles lost. -/
def seamUp (s : State) (i : Nat) : Bool := decide (regField s (oSeamStat i) 0 2 < 2)
/-- Whether a bundle works now. -/
def bundleWorks (s : State) (i b : Nat) : Bool :=
  seamUp s i && bitNat (getReg s (oSeamStat i)).toNat (32 + b) && !bitNat (getReg s (oSeamStat i)).toNat (48 + b)
/-- The working bundles of a seam, in rising order. -/
def workingBundles (s : State) (i : Nat) : List Nat := (List.range 16).filter (bundleWorks s i)
/-- The engine that holds the plain role. -/
def plainEngine (s : State) (i : Nat) : Nat := regField s (oSeamStat i) 8 4
/-- The stream engines that work. -/
def streamEngines (s : State) (i : Nat) : List Nat :=
  (workingBundles s i).filter fun e => bitNat (getReg s (oSeamStat i)).toNat (16 + e)
/-- The bulk engines that work. -/
def bulkEngines (s : State) (i : Nat) : List Nat :=
  (workingBundles s i).filter fun e => e != plainEngine s i && !bitNat (getReg s (oSeamStat i)).toNat (16 + e)

/-! ### Routes (R300, R305) -/

/-- The seam that joins two dies, and whether its up direction leads from the first to the second. -/
def seamBetween (a b : Nat) : Option (Nat × Bool) :=
  match a, b with
  | 0, 1 => some (0, true)
  | 1, 0 => some (0, false)
  | 1, 3 => some (1, true)
  | 3, 1 => some (1, false)
  | 2, 3 => some (2, true)
  | 3, 2 => some (2, false)
  | 0, 2 => some (3, true)
  | 2, 0 => some (3, false)
  | _, _ => none

/-- The dies of the two routes of Table 9.8, the usual one first. -/
def diePaths (a b : Nat) : List (List Nat) :=
  let ring := [0, 1, 3, 2]
  let i := ring.idxOf a
  let j := ring.idxOf b
  let walk : Nat → List Nat := fun step => (List.range 4).map fun k => ring.getD ((i + k * step) % 4) 0
  let upTo : List Nat → List Nat := fun p => p.take (p.idxOf b + 1)
  let cw := upTo (walk 1)
  let ccw := upTo (walk 3)
  if (j + 4 - i) % 4 = 1 then [cw, ccw]
  else if (j + 4 - i) % 4 = 3 then [ccw, cw]
  else if cw.getD 1 0 = (if a % 3 = 0 then 1 else 0) then [cw, ccw] else [ccw, cw]

/-- The seams and directions of a path of dies. -/
def pathLegs : List Nat → List (Nat × Bool)
  | a :: b :: r => (seamBetween a b).toList ++ pathLegs (b :: r)
  | _ => []

/-- Whether a path can be taken: its seams are up, its middle dies are not in reset. -/
def pathOpen (s : State) (p : List Nat) : Bool :=
  (pathLegs p).all (fun l => seamUp s l.1) && ((p.drop 1).dropLast).all (dieUp s)

/-- The route between two dies: the usual one, or the other where the usual one is cut; with other set, the other of
Table 9.8 is tried alone (R305, R311). -/
def routeOf (s : State) (a b : Nat) (other : Bool) : Option (List Nat) :=
  if a = b then some [a]
  else ((diePaths a b).drop other.toNat).find? (pathOpen s)

/-- The die of a device address. -/
def dieOfAddr (a : Nat) : Nat :=
  match placeOf a with
  | .ls c _ => c / 1024
  | .vein c _ => c / 1024
  | .far k _ => k / 2
  | _ => 0

/-- The die that a direction of a seam leads to. -/
def seamEnd (i : Nat) (up : Bool) : Nat :=
  match i, up with
  | 0, true => 1
  | 0, false => 0
  | 1, true => 3
  | 1, false => 1
  | 2, true => 3
  | 2, false => 2
  | _, true => 2
  | _, false => 0

/-- Bytes carried over the legs of a path, and what its middle dies relay: records or stream bytes (Table 9.18). -/
def countPath (s : State) (p : List Nat) (n relayed : Nat) : State :=
  let s1 := (pathLegs p).foldl (fun s l => bump s 0x09 3 n (.seamDir l.1 l.2)) s
  ((p.drop 1).dropLast).foldl (fun s d => bump s 0x09 4 relayed (.die d)) s1

/-! ### Who crosses the seams (R304 to R309) -/

/-- The loads outstanding over a direction of a seam, which hold slots of its plain engines (R307). -/
def plainOut (s : State) (i : Nat) (up : Bool) : Nat :=
  s.cores.foldl (fun n e => n + (e.2.loads.filter fun l =>
    decide (e.1 / 1024 ≠ dieOfAddr l.addr) &&
      (routeOf s (e.1 / 1024) (dieOfAddr l.addr) false).any fun p => (pathLegs p).contains (i, up)).length) 0

/-- Whether traffic of a role waits at a leg: the role is to move, or its bundles retrain (R308, R309), or the 256 slots of
the plain engines are taken (R307). -/
def legHeld (s : State) (bulk : Bool) (l : Nat × Bool) : Bool :=
  let x := getSeam s l.1
  if bulk then x.moveBulk || (bulkEngines s l.1).all x.retraining.contains
  else x.movePlain || x.retraining.contains (plainEngine s l.1) || decide (256 ≤ plainOut s l.1 l.2)

/-- How the way between two dies stands for a request: none open, or held, or free (R305). -/
inductive Crossing where
  | closed | held | free
  deriving DecidableEq, Repr

/-- The way from a die to another for traffic of a role. -/
def crossing (s : State) (bulk : Bool) (a b : Nat) : Crossing :=
  if a = b then .free
  else match routeOf s a b false with
    | none => .closed
    | some p => if (pathLegs p).any (legHeld s bulk) then .held else .free

/-- The bytes of an access between two dies, there and back: a plain record has a header of 16 bytes each way (R307,
Table 9.18; log entry 170). -/
def countCross (s : State) (bulk : Bool) (a b there back : Nat) : State :=
  if a = b then s
  else
    let h := if bulk then 0 else 16
    let go : State → Nat → Nat → Nat → State := fun s x y n => match routeOf s x y false with
      | some p => countPath s p (h + n) 1
      | none => s
    let s1 := if bulk && there = 0 then s else go s a b there
    if bulk && back = 0 then s1 else go s1 b a back

end Sys2Proof.Machine
end

