-- ==== Sys2Proof/Machine/Access.lean ====
section
/-! DEFINITION. One access to memory by any requester: the page cache of tiered mode (R173 to R177), the guest checks
of a vein controller (R162 to R164), units that are being reset (R437), and reads and writes of a range. -/

namespace Sys2Proof.Machine

/-! ### Refresh debt (R144 to R146) -/

/-- A row of a bank that is not open. -/
def noRow : Nat → Option (Nat × Nat) := fun _ => none

/-- The refresh debt of a pair. -/
def debtOf (v : VeinSt) (q : Nat) : Nat := look (fun _ => 0) v.debt q

/-- A refresh command to a pair in debt: it closes the rows of both banks; one at debt 8 is counted (R146). -/
def refreshPair (s : State) (c q : Nat) : State :=
  let v := getVein s c
  let n := debtOf v q
  let s1 := setVein s c { v with
    debt := put (fun _ => 0) v.debt q (n - 1)
    refCount := put (fun _ => 0) v.refCount q ((look (fun _ => 0) v.refCount q + 1) % 8192)
    rows := clearIn v.rows (2 * q) 2 }
  if n = 8 then bump s1 0x05 5 1 (.core c) else s1

/-- A refresh at debt 8 goes before every other access to its pair (R146). -/
def refreshFirst (s : State) (c q : Nat) : State := if debtOf (getVein s c) q = 8 then refreshPair s c q else s

/-! ### Rows of the port (R136, R138, R143) -/

/-- The bank (8 × stratum + bank) and row that hold a vein offset, displaced from hidden banks (R136, R138). -/
def bankRow (s : State) (c off : Nat) : Nat × Nat :=
  let r := off / 65536
  let b := off / 2048 % 32
  let hid := hiddenOf s c
  if !bitNat hid b then (b, r)
  else
    let hb := (List.range 32).filter (bitNat hid)
    let good := (List.range 32).filter fun i => !bitNat hid i
    let pop := slabsOf s c
    let n := hb.idxOf b * pop + r
    (good.getD (n % good.length) 0, pop + n / good.length)

/-- Column accesses of the port to n bursts of the row of a vein offset: the row is opened when another or none is
(R143, Table 5.17). -/
def portTouch (s : State) (c off n : Nat) : State :=
  let (b, r) := bankRow s c off
  let s0 := refreshFirst s c (b / 2)
  let v := getVein s0 c
  let open_ := look noRow v.rows b
  let s1 := if open_ = some (r, elapsed s) then s0
    else setVein s0 c { v with rows := put noRow v.rows b (some (r, elapsed s)) }
  if open_.any (·.1 == r) then bump s1 0x05 2 n (.core c)
  else bump (bump s1 0x05 1 1 (.core c)) 0x05 2 (n - 1) (.core c)

/-- An access of the port to n bytes: the data bursts, and the check burst of a sealed region unless the buffer of 16
holds it (R158). -/
def portAccess (s : State) (c off n : Nat) : State :=
  let s1 := portTouch s c off ((off % 32 + n + 31) / 32)
  match regionAt s c off with
  | none => s1
  | some r =>
    if r.kind ≠ kindSealed then s1
    else
      let e := r.checkAt off / 32
      let v := getVein s1 c
      let s2 := setVein s1 c { v with checkBuf := (e :: v.checkBuf.filter (· != e)).take 16 }
      if v.checkBuf.contains e then s2 else portTouch s2 c (e * 32) 1

/-- The port access that serves a place: nothing for a local store. -/
def portServe (s : State) (a n : Nat) : State :=
  match placeOf a with
  | .vein c off => portAccess s c off n
  | _ => s

/-! ### The page cache (R174 to R177) -/

/-- A way that holds no page. -/
def CachePage.blank : CachePage := ⟨0, 0, false, false, [], [], false⟩

/-- The populated cores of a die, in core ID order. -/
def dieCores (s : State) (d : Nat) : List Nat :=
  ((List.range 64).filter fun i => populatedCl s (d * 64 + i)).flatMap fun i => coresOf (d * 64 + i)

/-- The home of a far page and its set there (R174, R175). -/
def homeOf (s : State) (k page : Nat) : Nat × Nat :=
  let cs := dieCores s (k / 2)
  (cs.getD (page % cs.length) 0, page / cs.length % (2 * s.start.share))

/-- The way, as 16 × set + way, that holds a page. -/
def wayOf (v : VeinSt) (set k page : Nat) : Option Nat :=
  (List.range 16).findSome? fun w =>
    let p := look (fun _ => CachePage.blank) v.pages (16 * set + w)
    if (p.filling || !p.lines.isEmpty) && p.stack == k && p.page == page then some (16 * set + w) else none

/-- The device address of a line of a way: pages lie in key order from the base of entry 7 (log entry 13). -/
def wayAddr (s : State) (c key line : Nat) : Nat :=
  veinAddr c ((regionOf (getReg s (oRegion c 7)).toNat).start + key * 16384 + line * 64)

/-- A way of a vein's page cache. -/
def getWay (s : State) (c key : Nat) : CachePage := look (fun _ => CachePage.blank) (getVein s c).pages key
/-- Replace a way. -/
def setWay (s : State) (c key : Nat) (p : CachePage) : State :=
  modVein s c fun v => { v with pages := put (fun _ => CachePage.blank) v.pages key p }

/-- The way the clock hand of a set chooses: it skips referenced ways and clears their bits as it passes; a way being
filled is skipped too (R175). The result: the way, the hand afterwards, the referenced ways passed. -/
def clockHand (v : VeinSt) (set : Nat) : Nat → Nat → List Nat → Option (Nat × Nat × List Nat)
  | 0, _, _ => none
  | fuel + 1, hand, passed =>
    let w := hand % 16
    let p := look (fun _ => CachePage.blank) v.pages (16 * set + w)
    if p.refd && !passed.contains w then clockHand v set fuel (w + 1) (w :: passed)
    else if p.filling then clockHand v set fuel (w + 1) passed
    else some (w, (w + 1) % 16, passed)

/-- Write a line of far memory as a home's write-back does, read through the vein's port: poisoned when it is marked
(R177). -/
def writeBackLine (s : State) (c key line : Nat) (p : CachePage) : State :=
  let a := farAddr p.stack (p.page * 16384 + line * 64)
  let u := unitAt s a
  let s0 := portServe (farSettle s p.stack (p.page * 16384 + line * 64)) (wayAddr s c key line) 64
  let s1 := freshCode (wrBytes s0 a (rdBytes s (wayAddr s c key line) 64)) u
  if p.poison.contains line then poisonUnit s1 u else s1

/-- Write a dirty page back in full (R175, R177). -/
def writeBack (s : State) (c key : Nat) : State :=
  let p := getWay s c key
  let s1 := p.lines.foldl (fun s l => writeBackLine s c key l p) s
  bump (bump (setWay s1 c key { p with dirty := false }) 0x05 15 1 (.core c)) 0x09 10 p.lines.length (.stack p.stack)

/-- Bring a line of a page into its way, verified against the far-memory code (R176, R177). -/
def fillLine (s : State) (c key line : Nat) : State :=
  let p := getWay s c key
  let a := farAddr p.stack (p.page * 16384 + line * 64)
  let u := unitAt s a
  let s0 := farSettle s p.stack (p.page * 16384 + line * 64)
  let lost := lostCode s0 u != 0
  let s1 := bump (noteRead s0 u 4 none) 0x09 9 1 (.stack p.stack)
  let s2 := if lost then s1 else wrBytes (portServe s1 (wayAddr s1 c key line) 64) (wayAddr s1 c key line) (rdBytes s1 a 64)
  let p2 := { p with
    lines := p.lines ++ [line]
    poison := if lost then p.poison ++ [line] else p.poison
    filling := decide (p.lines.length + 1 < 256) }
  setWay s2 c key p2

/-- Bring the way and line of an access to a far page into the page cache: none when no miss slot or way is free. The line
an access asks for arrives with it (R176). -/
def cacheTouch (s : State) (k off : Nat) : State × Option (Nat × Nat) :=
  let page := off / 16384
  let line := off % 16384 / 64
  let (c, set) := homeOf s k page
  let v := getVein s c
  match wayOf v set k page with
  | some key =>
    let p := getWay s c key
    let s1 := bump (setWay s c key { p with refd := true }) 0x05 13 1 (.core c)
    (if p.lines.contains line then s1 else fillLine s1 c key line, some (c, key))
  | none =>
    if 8 ≤ (v.pages.filter fun e => e.2.filling).length then (s, none)
    else match clockHand v set 48 (look (fun _ => 0) v.hands set) [] with
      | none => (s, none)
      | some (w, hand, passed) =>
        let key := 16 * set + w
        let s1 := passed.foldl (fun s w => setWay s c (16 * set + w) { getWay s c (16 * set + w) with refd := false }) s
        let s2 := if (getWay s1 c key).dirty then writeBack s1 c key else s1
        let s3 := modVein s2 c fun v => { v with hands := put (fun _ => 0) v.hands set hand }
        let s4 := setWay s3 c key ⟨k, page, false, true, [], [], true⟩
        (fillLine (bump s4 0x05 14 1 (.core c)) c key line, some (c, key))

/-! ### Requesters and refusals (R163, R164) -/

/-- Who asks: the kind of Table 5.14 (0 core, 1 DMA or remint, 2 host, 3 comptroller), its number, its partition, the die
on which it lies, and whether its traffic goes over the bulk engines (R304). The host interface and the comptroller lie on
die 0 (log entry 170). -/
structure Requester where
  kind   : Nat
  source : Nat
  part   : Nat
  die    : Nat
  bulk   : Bool
  deriving DecidableEq, Repr

/-- A core as a requester. -/
def coreReq (s : State) (c : Nat) : Requester := ⟨0, c, partNum s c, c / 1024, false⟩
/-- A core's moves as a requester (R304). -/
def moveReq (s : State) (c : Nat) : Requester := ⟨0, c, partNum s c, c / 1024, true⟩

/-- Whether a requester is the owner core of a vein. -/
def Requester.owns (q : Requester) (c : Nat) : Bool := q.kind == 0 && q.source == c

/-- The reason a guest request is refused, 0 when it is served (R164, Table 5.14). -/
def guestReason (s : State) (q : Requester) (c off : Nat) (write : Bool) : Nat :=
  let r := regionAt s c off
  let bad := decide (slabsOf s c * 0x10000 ≤ off) || r.isNone || (r.any fun r => r.inCheck off)
  if bad then 1
  else match r with
    | none => 1
    | some r =>
      if q.kind = 3 then (if r.kind = kindCache then 5 else 0)
      else if r.guest = 0 then 2
      else if write && r.guest = 1 then 3
      else if partOf s c ≠ some q.part then 4
      else if r.kind = kindCache then 5
      else if s.start.maint then 6
      else 0

/-- Record a refusal in CO_VGREF and count it (R164, Table 5.14). -/
def recordRefusal (s : State) (q : Requester) (c off reason : Nat) : State :=
  let w := (getReg s (oVgref c)).toNat
  let s1 := if bitNat w 63 then setRegField s (oVgref c) 62 1 1
    else setReg s (oVgref c) (BitVec.ofNat 64
      (2 ^ 63 + reason * 2 ^ 59 + q.kind * 2 ^ 57 + q.source % 4096 * 2 ^ 45 + q.part * 2 ^ 41 + off))
  bump s1 0x05 12 1 (.core c)

/-- Whether a partition holds the far-memory slice of a stack offset (R326). -/
def holdsSlice (s : State) (p k off : Nat) : Bool := bitNat (getPart s p).slices (8 * k + off / 0x120000000)

/-- Whether an own-core access to a vein offset is legal (R162); a cache region is reached through far-memory addresses
only (R155; DEDUCED, log entry 12). -/
def ownLegal (s : State) (c off : Nat) : Bool :=
  decide (off < slabsOf s c * 0x10000) &&
    (regionAt s c off).any fun r => !r.inCheck off && r.kind != kindCache

/-- An access that finds no miss slot waits in its home's guest queue, once, unless the queue of 32 is full (R153,
R176). -/
def waitMiss (s : State) (q : Requester) (k off : Nat) : State :=
  modVein s (homeOf s k (off / 16384)).1 fun v =>
    let r : GuestReq := ⟨BitVec.ofNat 2 q.kind, BitVec.ofNat 12 q.source, BitVec.ofNat 4 q.part, false, 0, 0, []⟩
    let same := v.guests.any fun g => g.req == r && g.far.any fun f => f.1 == k && f.2 / 16384 == off / 16384
    if same || 32 ≤ v.guests.length then v
    else { v with guests := v.guests ++ [⟨r, elapsed s, false, none, some (k, off)⟩] }

/-! ### One access -/

/-- How an access ends: it waits, its address is unmapped or unpopulated, its vein controller refuses it, its unit is
being reset, or it is served. -/
inductive AccRes where
  | wait | unmapped | refused | reset
  | ok (bytes : List (Byte × Bool)) (lost : List (Nat × Nat))
  deriving DecidableEq, Repr

/-- Whether the unit at an address takes an access: none when it does; otherwise how the access ends. -/
def unitGate (s : State) (q : Requester) (a : Nat) (write : Bool) : Option AccRes :=
  match placeOf a with
  | .ls c _ =>
    if !populated s c then some .unmapped
    else if !dieUp s (c / 1024) then some .reset
    else match (getCl s (c / 16)).power with
      | .resetting => if q.kind = 0 && q.source / 16 = c / 16 then none else some .wait
      | .off => some .reset
      | .poweringUp => some .reset
      | .on => none
  | .vein c off =>
    if !populated s c then some .unmapped
    else if !dieUp s (c / 1024) then some .reset
    else if regionWaits s c off then some .wait
    else if q.owns c then (if ownLegal s c off then none else some .unmapped)
    else if guestReason s q c off write = 0 then none else some .refused
  | .far k off =>
    if farBytes s k ≤ off then some .unmapped
    else if !dieUp s (k / 2) then some .reset
    else if s.start.tiered && q.kind ≠ 3 && (!holdsSlice s q.part k off || s.start.maint) then some .refused
    else none
  | _ => some .unmapped

/-- Whether an access can be made at all, before it is made: none when it can; otherwise how it ends. One to another die
waits where its way is held, and ends as for a unit that is reset where there is none (R305 to R309). -/
def gate (s : State) (q : Requester) (a : Nat) (write : Bool) : Option AccRes :=
  match unitGate s q a write with
  | some r => some r
  | none => match crossing s q.bulk q.die (dieOfAddr a) with
    | .free => none
    | .held => some .wait
    | .closed => some .reset

/-- What crosses the seams for n bytes read, or written (Table 9.18). -/
def crossed (s : State) (q : Requester) (a n : Nat) (write : Bool) : State :=
  countCross s q.bulk q.die (dieOfAddr a) (if write then n else 0) (if write then 0 else n)

/-- Record the refusal of an access at the controller that refuses it. A refusal of a far page names an offset the
manual does not state (log entry 5). -/
def noteRefusal (s : State) (q : Requester) (a : Nat) (write : Bool) : State :=
  match placeOf a with
  | .vein c off => recordRefusal s q c off (guestReason s q c off write)
  | .far k off =>
    takeFree (recordRefusal s q (homeOf s k (off / 16384)).1 (freeValue s 1 % 2 ^ 26)
      (if holdsSlice s q.part k off then 6 else 4))
  | _ => s

/-- The core that a requester is, for its counters. -/
def Requester.core (q : Requester) : Option Nat := if q.kind = 0 then some q.source else none

/-- Read n bytes that lie in one 64-byte line. who is the row of Table 14.3. -/
def readLine (s0 : State) (q : Requester) (a n who : Nat) : State × AccRes :=
  match gate s0 q a false with
  | some .refused => (noteRefusal s0 q a false, .refused)
  | some r => (s0, r)
  | none =>
    let s := crossed s0 q a n false
    match placeOf a with
    | .far k off =>
      if s.start.tiered then
        match cacheTouch s k off with
        | (_, none) => (waitMiss s0 q k off, .wait)
        | (s1, some (c, key)) =>
          let line := off % 16384 / 64
          let bad := (getWay s1 c key).poison.contains line
          (portServe s1 (wayAddr s1 c key line + off % 64) n,
            .ok ((rdBytes s1 (wayAddr s1 c key line + off % 64) n).map fun b => (b, bad))
            (if bad then [(a / 64 * 64, 0x31)] else []))
      else
        let (s1, lost) := readUnits (farSettle s k off) a n who q.core
        (bump s1 0x09 9 1 (.stack k), .ok (markedBytes s1 a n lost) lost)
    | _ =>
      let (s1, lost) := readUnits (portServe s a n) a n who q.core
      (s1, .ok (markedBytes s1 a n lost) lost)

/-- Write bytes that lie in one 64-byte line; a mark says that a byte is lost (R430). -/
def writeLine (s0 : State) (q : Requester) (a : Nat) (bs : List (Byte × Bool)) (who : Nat) : State × AccRes :=
  match gate s0 q a true with
  | some .refused => (noteRefusal s0 q a true, .refused)
  | some r => (s0, r)
  | none =>
    let s := crossed s0 q a bs.length true
    match placeOf a with
    | .far k off =>
      if s.start.tiered then
        match cacheTouch s k off with
        | (_, none) => (waitMiss s0 q k off, .wait)
        | (s2, some (c, key)) =>
          let line := off % 16384 / 64
          let s1 := portServe s2 (wayAddr s2 c key line + off % 64) bs.length
          let p := getWay s1 c key
          let whole := decide (64 ≤ bs.length)
          if bs.any (·.2) then
            (setWay s1 c key { p with dirty := true, poison := if p.poison.contains line then p.poison
              else p.poison ++ [line] }, .ok [] [])
          else if p.poison.contains line && !whole then (s1, .ok [] [(a / 64 * 64, 0x34)])
          else
            (setWay (wrBytes s1 (wayAddr s1 c key line + off % 64) (bs.map (·.1))) c key
              { p with dirty := true, poison := p.poison.filter (· != line) }, .ok [] [])
      else
        let (s1, lost) := writeMixed (farSettle s k off) a bs who q.core
        let s2 := if bs.length < 64 then bump s1 0x09 11 1 (.stack k) else s1
        (bump s2 0x09 10 1 (.stack k), .ok [] lost)
    | _ =>
      let (s1, lost) := writeMixed (portServe s a bs.length) a bs who q.core
      (s1, .ok [] lost)

/-- The pieces of a range that lie in one 64-byte line each: address and length. -/
def pieces : Nat → Nat → Nat → List (Nat × Nat)
  | 0, _, _ => []
  | fuel + 1, a, n =>
    if n = 0 then []
    else
      let m := min n (64 - a % 64)
      (a, m) :: pieces fuel (a + m) (n - m)

/-- The pieces of n bytes from an address on. -/
def piecesOf (a n : Nat) : List (Nat × Nat) := pieces (n / 64 + 2) a n

/-- Read a range piece by piece, up to the first piece that is not served. The result: the state, the bytes served,
the lost units, and the address and end of the piece that was not served. -/
def readRange (s : State) (q : Requester) (a n who : Nat) :
    State × List (Byte × Bool) × List (Nat × Nat) × Option (Nat × AccRes) :=
  (piecesOf a n).foldl (fun r p =>
    match r.2.2.2 with
    | some _ => r
    | none =>
      match readLine r.1 q p.1 p.2 who with
      | (s1, .ok bs lost) => (s1, r.2.1 ++ bs, r.2.2.1 ++ lost, none)
      | (s1, e) => (s1, r.2.1, r.2.2.1, some (p.1, e))) (s, [], [], none)

/-- Write a range piece by piece, up to the first piece that is not served. -/
def writeRange (s : State) (q : Requester) (a : Nat) (bs : List (Byte × Bool)) (who : Nat) :
    State × List (Nat × Nat) × Option (Nat × AccRes) :=
  (piecesOf a bs.length).foldl (fun r p =>
    match r.2.2 with
    | some _ => r
    | none =>
      match writeLine r.1 q p.1 ((bs.drop (p.1 - a)).take p.2) who with
      | (s1, .ok _ lost) => (s1, r.2.1 ++ lost, none)
      | (s1, e) => (s1, r.2.1, some (p.1, e))) (s, [], none)

/-- Whether every piece of a range can be accessed now: none, or the address and end of the first that cannot. -/
def rangeGate (s : State) (q : Requester) (a n : Nat) (write : Bool) : Option (Nat × AccRes) :=
  (piecesOf a n).findSome? fun p => (gate s q p.1 write).map fun e => (p.1, e)

/-- Bytes that are not lost. -/
def clean (bs : List Byte) : List (Byte × Bool) := bs.map fun b => (b, false)

/-- Whether a range lies in a partition: its cores' local stores and veins, its far-memory slices (R326, R63). -/
def inPartition (s : State) (p a : Nat) : Bool :=
  match placeOf a with
  | .ls c _ => partOf s c == some p
  | .vein c _ => partOf s c == some p
  | .far k off => holdsSlice s p k off
  | _ => false

end Sys2Proof.Machine
end

