-- ==== Sys2Proof/Machine/Report.lean ====
section
/-! DEFINITION. How the device reports: trace records (R492, R494), MSI-X messages (R336), HIF_VIOL (R324), completion
records (R333, R334), the status interrupt (R515). -/

namespace Sys2Proof.Machine

/-! ### Completion statuses (Table 10.17) -/

def stOk : Nat := 0
def stAlreadyDone : Nat := 1
def stAborted : Nat := 2
def stPoolFull : Nat := 3
def stEscrowRefused : Nat := 4
def stNotReady : Nat := 5
def stEntropyFail : Nat := 6
def stBmeOff : Nat := 7
def stTargetReset : Nat := 8
def stUncorrectable : Nat := 9
def stChecksum : Nat := 0xA
def stThrottled : Nat := 0xB
def stPartitionFault : Nat := 0xC
def stLinkDown : Nat := 0xD
def stRefusedPower : Nat := 0xE

/-- The status of an access that was not served, for a channel (R164, R286, R438). -/
def statusOf : AccRes → Nat
  | .reset => stTargetReset
  | .ok _ _ => stOk
  | _ => stPartitionFault

/-! ### Trace -/

/-- Put a record of a kind into a cluster's trace buffer, if the kind is enabled (R492, R494). -/
def trace (s : State) (k kind source : Nat) (payload : List Nat) : State :=
  let ctl := (getReg s (oTrCtl k)).toNat
  if !bitNat ctl (8 + (kind - 1)) then s
  else
    let x := getCl s k
    let r : TraceRec := ⟨s.hallmark, source, kind, 0, payload⟩
    let drop : State → State := fun s =>
      addRegField (modCl s k fun x => { x with traceLost := min (2 ^ 32 - 1) (x.traceLost + 1) }) (oTrStat k) 32 32 1
    if !bitNat ctl 0 then drop s
    else if x.trace.length < 2048 then setCl s k { x with trace := x.trace ++ [r] }
    else if bitNat ctl 1 then drop (setCl s k { x with trace := x.trace.drop 1 ++ [r] })
    else drop s

/-! ### MSI-X -/

/-- Send an MSI-X message of a function, or set its pending bit while it is masked or Bus Master Enable is clear
(R336, R515). -/
def msix (s : State) (f vec : Nat) : State :=
  let fn := getFunc s f
  if fn.bme && !bitNat (getReg s (oMsix f vec 1)).toNat 32 then emit s (.msix f vec)
  else if fn.pend.contains vec then s
  else setFunc s f { fn with pend := fn.pend ++ [vec] }

/-- Send the pending messages of a function that are no longer held back. -/
def msixPending (s : State) (f : Nat) : State :=
  let fn := getFunc s f
  if !fn.bme then s
  else
    let go := fn.pend.filter fun v => !bitNat (getReg s (oMsix f v 1)).toNat 32
    go.foldl (fun s v => emit s (.msix f v)) (setFunc s f { fn with pend := fn.pend.filter fun v => !go.contains v })

/-! ### Refused host accesses -/

/-- Record a refused access of a function in HIF_VIOL and count it (R324, R325, Table 10.7). -/
def hifViol (s : State) (f : Nat) (write bar2 : Bool) (reason addr : Nat) : State :=
  let w := (getReg s (oViol f)).toNat
  let s1 := if bitNat w 63 then setRegField s (oViol f) 62 1 1
    else setReg s (oViol f) (BitVec.ofNat 64
      (2 ^ 63 + write.toNat * 2 ^ 61 + bar2.toNat * 2 ^ 60 + reason * 2 ^ 57 + addr % 2 ^ 49))
  bump s1 0x0A 3 1 (.func f)

/-! ### Completions and the status interrupt -/

/-- Queue a completion record on a ring, with the hallmark of its command's end (R333): job ID, status, index, detail,
vector, and the job whose record goes first. -/
def complete (s : State) (f r job status index detail : Nat) (irq after : Option Nat) : State :=
  let x := getRing s f r
  setRing s f r { x with recs := x.recs ++ [⟨job, status, index, detail, irq, s.hallmark, after⟩] }

/-- Note a change of a DEV_STAT field that the status interrupt covers: it opens an interval unless one is open
(R515). -/
def statusChange (s : State) : State :=
  match s.start.irqAt with
  | some _ => s
  | none =>
    if (getReg s oDevCtl).getLsbD 8 then { s with start := { s.start with irqAt := some (elapsed s) } } else s

/-- The state of a pair that nothing is writing. -/
def getPair (s : State) (o : Nat) : PairSt := look (fun _ => PairSt.settled) s.pairs o
/-- Replace the state of a pair. -/
def setPair (s : State) (o : Nat) (p : PairSt) : State :=
  { s with pairs := put (fun _ => PairSt.settled) s.pairs o p }

/-- A pair mismatch: counted, and a record of the structure (row of Table 14.5) and its address (R435, R530). -/
def pairMismatch (s : State) (structure_ addr : Nat) (part : Option Nat) (source : Nat) : State :=
  let s1 := setRegField (bump s 0x0E 5 1 .device) oDevStat 6 1 1
  ledger s1 0x0304 sevError part source (structure_ :: twoWords addr)

/-- Whether a stored pair is newly found in mismatch: its halves disagree, no write of it is in progress (R11), and it
has not been reported. -/
def newMismatch (s : State) (o : Nat) (agrees : Bool) : Bool :=
  let p := getPair s o
  !agrees && p.obv == p.rev && !p.told

/-- Report a pair mismatch once. -/
def tellMismatch (s : State) (o structure_ : Nat) (part : Option Nat) (source : Nat) : State :=
  pairMismatch (setPair s o { getPair s o with told := true }) structure_ o part source

/-- Note the write of a half: with the halves in agreement nothing is in progress (R11). -/
def halfWritten (s : State) (o : Nat) (rev agrees : Bool) : State :=
  let p := getPair s o
  setPair s o (if agrees then PairSt.settled else if rev then { p with rev := true } else { p with obv := true })

end Sys2Proof.Machine
end

