-- ==== Sys2Proof/Machine/Moves.lean ====
section
/-! DEFINITION. What a move between a vein or far memory and a local store does (R167 to R170). -/

namespace Sys2Proof.Machine

/-- The position of the first lost byte. -/
def firstLost (bs : List (Byte × Bool)) : Nat := bs.findIdx (·.2)

/-- The trap that a failure of a move is reported as (R170). -/
def moveTrap (e : AccRes) (addr : Nat) : TrapInfo :=
  match e with
  | .reset => ⟨0x0E, 2, addr⟩
  | _ => ⟨0x0E, 1, addr⟩

/-- What a segment of a move did: it waits, or it is done, with its failure and whether later segments are left out. -/
inductive SegRes where
  | wait
  | done (trap : Option TrapInfo) (stop : Bool)
  deriving DecidableEq, Repr

/-- One segment of an MLD: a lost burst is written poisoned, a refused segment is not written (R170). -/
def loadSeg (s : State) (q : Requester) (m : Move) : State × SegRes :=
  match readRange s q m.ga m.len 4 with
  | (s1, _, _, some (_, .wait)) => (s1, .wait)
  | (s1, _, _, some (a, e)) => (s1, .done (some (moveTrap e a)) true)
  | (s1, bs, lost, none) =>
    let (s2, _, bad) := writeRange s1 q m.gb bs 3
    match bad with
    | some (_, .wait) => (s1, .wait)
    | some (_, e) => (s2, .done (some (moveTrap e m.ga)) true)
    | none => (s2, .done (lost.head?.map fun l => ⟨3, l.2, max m.ga l.1⟩) false)

/-- One segment of an MST: lost local-store words poison what they reach (R430). -/
def storeSeg (s : State) (q : Requester) (m : Move) : State × SegRes :=
  match rangeGate s q m.ga m.len true with
  | some (_, .wait) => (s, .wait)
  | some (a, .refused) => (noteRefusal s q a true, .done (some (moveTrap .refused a)) true)
  | some (a, e) => (s, .done (some (moveTrap e a)) true)
  | none =>
    match readRange s q m.gb m.len 4 with
    | (s1, _, _, some (_, .wait)) => (s1, .wait)
    | (s1, _, _, some (_, e)) => (s1, .done (some (moveTrap e m.ga)) true)
    | (s1, bs, lost, none) =>
      match writeRange s1 q m.ga bs 3 with
      | (s2, _, some (_, .wait)) => (s2, .wait)
      | (s2, _, some (a, e)) => (s2, .done (some (moveTrap e a)) true)
      | (s2, bad, none) =>
        let t := match lost.head?, bad.head? with
          | some l, _ => some ⟨3, l.2, m.ga + firstLost bs⟩
          | none, some b => some ⟨3, b.2, b.1⟩
          | none, none => none
        (s2, .done t false)

/-- A move without its first segment, with the failure of that segment unless an earlier one failed. -/
def Move.advance (m : Move) (e : Option TrapInfo) : Move :=
  { m with ga := m.ga + m.str, gb := m.gb + m.len, cnt := m.cnt - 1, fail := m.fail.or e }

/-- The segments of a move, at most n of them: the state, what is left of the move while it waits, and its first failure
once it ends (R170). -/
def moveSegs (s : State) (q : Requester) : Nat → Move → State × Option Move × Option TrapInfo
  | 0, m => (s, none, m.fail)
  | n + 1, m =>
    match (if m.load then loadSeg s q m else storeSeg s q m) with
    | (s1, .wait) => (s1, some m, none)
    | (s1, .done e stop) =>
      if stop then (s1, none, m.fail.or e) else moveSegs s1 q n (m.advance e)

/-- A move of a core as far as it goes. -/
def runMove (s : State) (c : Nat) (m : Move) : State × Option Move × Option TrapInfo :=
  moveSegs s (moveReq s c) m.cnt m

/-- The granules that a move touches on each side, as first address and end (R77). -/
def moveSpans (m : Move) : List (Nat × Nat) :=
  let up : Nat → Nat := fun e => (e + 31) / 32 * 32
  [(m.ga / 32 * 32, up (m.ga + (m.cnt - 1) * m.str + m.len)), (m.gb / 32 * 32, up (m.gb + m.cnt * m.len))]

/-- Whether a move in flight touches a granule of a range: the core's later accesses there wait for it (R77, R169). -/
def movesMeet (ms : List Move) (a n : Nat) : Bool :=
  ms.any fun m => (moveSpans m).any fun p => decide (p.1 < a + n) && decide (a < p.2)

end Sys2Proof.Machine
end

