-- ==== Sys2Proof/Machine/Events.lean ====
section
/-! DEFINITION. The commit of an instruction, and an event of a core, which may end its WAIT (R78, R86, R87). -/

namespace Sys2Proof.Machine

/-- Commit an instruction: the next one is at the address given (R59, CO_PC, the count of instructions). -/
def commit (s : State) (c : Nat) (at_ next : Word) : State :=
  bump (modCore s c fun x => { x with pc := next, last := at_, blk := 0, blkobj := 0, blocked := [] })
    0x03 2 1 (.core c)

/-- An acquire point clears the prefetch buffer (R78). -/
def acquire (x : CoreSt) : CoreSt := { x with pref := [], prefOrder := [] }

/-- The end of a wait: its instruction commits, with what f writes, and is an acquire point. -/
def endWait (s : State) (c : Nat) (f : CoreSt → CoreSt) : State :=
  let pc := (getCore s c).pc
  commit (modCore (syncCore s c) c fun x => { acquire (f x) with wait := none, run := .running, waited := 0 }) c pc (pc + 4)

/-- A core that waits in WAIT on an event that is set goes on, unless its cluster is paused: the matched bits are
cleared and written to rd (R87, R386). -/
def wake (s : State) (c : Nat) : State :=
  let x := getCore s c
  match x.wait with
  | some (.event mask rd _) =>
    let m := getCw x 0xA &&& mask
    if m = 0 || (getCl s (c / 16)).paused then s
    else endWait s c fun x => setGpr (setCw x 0xA (getCw x 0xA &&& ~~~mask)) rd m
  | _ => s

/-- Set an event of a core, which may end its WAIT (R86). -/
def signalEvent (s : State) (c n : Nat) : State := wake (setEvent s c n) c

end Sys2Proof.Machine
end

