-- ==== Sys2Proof/Machine/Float.lean ====
section
/-! DEFINITION. Numbers of the element formats (R30 to R33): exact values, decoding, one rounding (R40 to R43, R46),
and the vector arithmetic of Table 2.9. -/

namespace Sys2Proof.Machine

/-- A number as a unit sees it: NaN (signalling or not), an infinity, or ± m × 2^e exactly; zero keeps its sign. -/
inductive Num where
  | nan (signalling : Bool)
  | inf (neg : Bool)
  | fin (neg : Bool) (m : Nat) (e : Int)
  deriving DecidableEq, Repr

/-- The fields of a floating-point format (Table 2.2): exponent and fraction widths, bias, whether the top exponent
holds infinities and NaNs, whether only the code of all ones is NaN (E4M3). -/
structure FloatFmt where
  eb   : Nat
  fb   : Nat
  bias : Nat
  ieee : Bool
  nan1 : Bool
  deriving DecidableEq, Repr

/-- The floating-point formats by code (Tables 2.1, 2.2). -/
def floatFmt : Nat → FloatFmt
  | 0 => ⟨8, 23, 127, true, false⟩
  | 1 => ⟨8, 7, 127, true, false⟩
  | 2 => ⟨5, 10, 15, true, false⟩
  | 3 => ⟨4, 3, 7, false, true⟩
  | 4 => ⟨5, 2, 15, true, false⟩
  | 5 => ⟨3, 2, 3, false, false⟩
  | 6 => ⟨2, 3, 1, false, false⟩
  | _ => ⟨2, 1, 1, false, false⟩

/-- Flags of cw_fstat (Table 2.5). -/
def flagNx : Nat := 1
def flagUf : Nat := 2
def flagOf : Nat := 4
def flagNv : Nat := 8
def flagSat : Nat := 16
def flagFe : Nat := 32

/-- The exact value of a code (R30, R31). -/
def decodeFloat (f : FloatFmt) (c : Nat) : Num :=
  let neg := bitNat c (f.eb + f.fb)
  let ex := fieldNat c f.fb f.eb
  let fr := fieldNat c 0 f.fb
  if f.ieee && ex == 2 ^ f.eb - 1 then
    if fr = 0 then .inf neg else .nan (!bitNat fr (f.fb - 1))
  else if f.nan1 && ex == 2 ^ f.eb - 1 && fr == 2 ^ f.fb - 1 then .nan false
  else if ex = 0 then .fin neg fr (1 - (f.bias : Int) - f.fb)
  else .fin neg (2 ^ f.fb + fr) ((ex : Int) - f.bias - f.fb)

/-- The canonical NaN (R31). -/
def canonicalNan (f : FloatFmt) : Nat :=
  if f.nan1 then 2 ^ (f.eb + f.fb) - 1
  else (2 ^ f.eb - 1) * 2 ^ f.fb + 2 ^ (f.fb - 1)

/-- The sign bit of a code. -/
def signBit (f : FloatFmt) (neg : Bool) : Nat := if neg then 2 ^ (f.eb + f.fb) else 0

/-- The code of infinity. -/
def infCode (f : FloatFmt) (neg : Bool) : Nat := signBit f neg + (2 ^ f.eb - 1) * 2 ^ f.fb

/-- The code of the largest finite value (Table 2.2). -/
def maxCode (f : FloatFmt) (neg : Bool) : Nat :=
  signBit f neg + (if f.ieee then (2 ^ f.eb - 1) * 2 ^ f.fb - 1
    else if f.nan1 then 2 ^ (f.eb + f.fb) - 2 else 2 ^ (f.eb + f.fb) - 1)

/-- The number of bits of m. -/
def bitLen (m : Nat) : Nat := if m = 0 then 0 else Nat.log2 m + 1

/-- m × 2^e × 2^-q as a whole part, a remainder and the remainder's denominator. -/
def scaleTo (m : Nat) (e q : Int) : Nat × Nat × Nat :=
  if q ≤ e then (m * 2 ^ (e - q).toNat, 0, 1)
  else
    let k := (q - e).toNat
    (m / 2 ^ k, m % 2 ^ k, 2 ^ k)

/-- How a value is rounded: the mode of cw_fmode.rm (Table 2.4), or stochastically with a drawn 16-bit number
(R43). -/
inductive Rounding where
  | even | zero | down | up
  | draw (r : Nat)
  deriving DecidableEq, Repr

/-- The mode of cw_fmode.rm for vector arithmetic: 0b100 to 0b111 act as nearest even (R40, R41). -/
def roundingOf (rm : Nat) : Rounding :=
  match rm with
  | 1 => .zero
  | 2 => .down
  | 3 => .up
  | _ => .even

/-- Whether the magnitude w + r/den rounds up in magnitude (R40, R43). -/
def roundsUp (rm : Rounding) (neg : Bool) (w r den : Nat) : Bool :=
  if r = 0 then false
  else match rm with
    | .even => decide (den < 2 * r) || (decide (2 * r = den) && w % 2 == 1)
    | .zero => false
    | .down => neg
    | .up => !neg
    | .draw x => if neg then !decide (x < (den - r) * 65536 / den) else decide (x < r * 65536 / den)

/-- A magnitude rounded on the grid of a format with an unbounded exponent: mantissa, its exponent, inexact. -/
def roundGrid (f : FloatFmt) (rm : Rounding) (neg : Bool) (m : Nat) (e : Int) : Nat × Int × Bool :=
  let qn := (bitLen m : Int) - 1 + e - f.fb
  let qm := 1 - (f.bias : Int) - f.fb
  let q := if qn < qm then qm else qn
  let (w, r, den) := scaleTo m e q
  (if roundsUp rm neg w r den then w + 1 else w, q, decide (r ≠ 0))

/-- The code of a mantissa w at exponent q, with q the grid of the format. -/
def packCode (f : FloatFmt) (neg : Bool) (w : Nat) (q : Int) : Nat :=
  let ex := (q + f.bias + f.fb - 1).toNat
  signBit f neg + ex * 2 ^ f.fb + w

/-- What a result above the largest finite value becomes: saturate, overflow by IEEE 754, or NaN (Table 2.7). -/
inductive OnOverflow where
  | saturate | ieee | nan
  deriving DecidableEq, Repr

/-- The code and flags of an overflow (R46). -/
def overflowCode (f : FloatFmt) (o : OnOverflow) (rm : Rounding) (neg : Bool) : Nat × Nat :=
  let c := match o with
    | .saturate => maxCode f neg
    | .nan => canonicalNan f
    | .ieee => match rm with
      | .zero => maxCode f neg
      | .down => if neg then infCode f neg else maxCode f neg
      | .up => if neg then maxCode f neg else infCode f neg
      | _ => infCode f neg
  (c, flagOf ||| flagNx)

/-- Whether a mantissa w at grid exponent q lies above the largest finite value. -/
def aboveMax (f : FloatFmt) (w : Nat) (q : Int) : Bool :=
  decide (maxCode f false < packCode f false w q)

/-- The code and flags of a finite value in a floating-point format (R40, R42, R43, R46). -/
def encodeFin (f : FloatFmt) (o : OnOverflow) (rm : Rounding) (neg : Bool) (m : Nat) (e : Int) : Nat × Nat :=
  if m = 0 then (signBit f neg, 0)
  else
    let (we, qe, _) := roundGrid f .even neg m e
    let (w, q, nx) := roundGrid f rm neg m e
    match rm with
    | .draw _ =>
      if aboveMax f we qe then overflowCode f o .even neg
      else if aboveMax f w q then (maxCode f neg, flagNx)
      else
        let c := packCode f neg w q
        (c, if nx then flagNx ||| (if fieldNat c f.fb f.eb = 0 then flagUf else 0) else 0)
    | _ =>
      if aboveMax f w q then overflowCode f o rm neg
      else
        let c := packCode f neg w q
        (c, if nx then flagNx ||| (if fieldNat c f.fb f.eb = 0 then flagUf else 0) else 0)

/-- The code and flags of a number in FP32, BF16 or FP16. -/
def encodeIeee (f : FloatFmt) (rm : Rounding) : Num → Nat × Nat
  | .nan s => (canonicalNan f, if s then flagNv else 0)
  | .inf neg => (infCode f neg, 0)
  | .fin neg m e => encodeFin f .ieee rm neg m e

/-- A value rounded to a whole number (Table 2.7): magnitude and inexact. -/
def roundInt (rm : Rounding) (neg : Bool) (m : Nat) (e : Int) : Nat × Bool :=
  let (w, r, den) := scaleTo m e 0
  (if roundsUp rm neg w r den then w + 1 else w, decide (r ≠ 0))

/-! Exact arithmetic on numbers. -/

/-- Whether a number is a NaN. -/
def Num.isNan : Num → Bool
  | .nan _ => true
  | _ => false

/-- Whether a number is a signalling NaN. -/
def Num.isSig : Num → Bool
  | .nan s => s
  | _ => false

/-- The negation of a number. -/
def Num.neg : Num → Num
  | .nan s => .nan s
  | .inf n => .inf (!n)
  | .fin n m e => .fin (!n) m e

/-- Signed mantissas brought to one exponent. -/
def alignSum (a b : Bool × Nat × Int) : Int × Int :=
  let e := if a.2.2 ≤ b.2.2 then a.2.2 else b.2.2
  let f := fun (x : Bool × Nat × Int) =>
    let v : Int := ((x.2.1 * 2 ^ (x.2.2 - e).toNat : Nat) : Int)
    if x.1 then -v else v
  (f a + f b, e)

/-- The exact sum. The flag tells an invalid operation (infinities of opposite sign); zeros of opposite sign, and
exact cancellation, give +0, or -0 when rounding toward -∞. -/
def addNum (rm : Rounding) : Num → Num → Num × Nat
  | .nan s, b => (.nan false, if s || b.isSig then flagNv else 0)
  | a, .nan s => (.nan false, if s || a.isSig then flagNv else 0)
  | .inf x, .inf y => if x = y then (.inf x, 0) else (.nan false, flagNv)
  | .inf x, .fin _ _ _ => (.inf x, 0)
  | .fin _ _ _, .inf y => (.inf y, 0)
  | .fin na ma ea, .fin nb mb eb =>
    let (v, e) := alignSum (na, ma, ea) (nb, mb, eb)
    if v = 0 then
      (.fin (if ma = 0 && mb = 0 && na = nb then na else decide (rm = .down)) 0 0, 0)
    else (.fin (decide (v < 0)) v.natAbs e, 0)

/-- The exact product. The flag tells an invalid operation (zero by infinity). -/
def mulNum : Num → Num → Num × Nat
  | .nan s, b => (.nan false, if s || b.isSig then flagNv else 0)
  | a, .nan s => (.nan false, if s || a.isSig then flagNv else 0)
  | .inf x, .inf y => (.inf (x != y), 0)
  | .inf x, .fin y m _ => if m = 0 then (.nan false, flagNv) else (.inf (x != y), 0)
  | .fin x m _, .inf y => if m = 0 then (.nan false, flagNv) else (.inf (x != y), 0)
  | .fin x ma ea, .fin y mb eb => (.fin (x != y) (ma * mb) (ea + eb), 0)

/-- The order of two numbers that are not NaN, as signed values; +0 lies above -0. -/
def leNum : Num → Num → Bool
  | .inf true, _ => true
  | _, .inf false => true
  | .inf false, _ => false
  | _, .inf true => false
  | .fin na ma ea, .fin nb mb eb =>
    let (v, _) := alignSum (na, ma, ea) (!nb, mb, eb)
    if v = 0 then na || !nb else decide (v < 0)
  | .nan _, _ => false
  | _, .nan _ => false

/-! The lane operations of the vector unit (R53, R67): lane format code fmt is 0, 1 or 2. -/

/-- Flush a subnormal result to zero of its sign when ftz is set (R32). -/
def flushLane (f : FloatFmt) (ftz : Bool) (r : Nat × Nat) : Nat × Nat :=
  if ftz && fieldNat r.1 f.fb f.eb == 0 && fieldNat r.1 0 f.fb != 0 then
    (signBit f (bitNat r.1 (f.eb + f.fb)), r.2 ||| flagUf ||| flagNx)
  else r

/-- Encode an exact result with the flags met on the way, flushing under ftz. -/
def finishLane (f : FloatFmt) (rm : Rounding) (ftz : Bool) (x : Num × Nat) : Nat × Nat :=
  let r := flushLane f ftz (encodeIeee f rm x.1)
  (r.1, r.2 ||| x.2)

/-- VADD of one lane. -/
def addLane (fmt : Nat) (rm : Rounding) (ftz : Bool) (a b : Nat) : Nat × Nat :=
  let f := floatFmt fmt
  finishLane f rm ftz (addNum rm (decodeFloat f a) (decodeFloat f b))

/-- VMUL of one lane. -/
def mulLane (fmt : Nat) (rm : Rounding) (ftz : Bool) (a b : Nat) : Nat × Nat :=
  let f := floatFmt fmt
  finishLane f rm ftz (mulNum (decodeFloat f a) (decodeFloat f b))

/-- VFMA of one lane: a × b + c with one rounding. -/
def fmaLane (fmt : Nat) (rm : Rounding) (ftz : Bool) (a b c : Nat) : Nat × Nat :=
  let f := floatFmt fmt
  let p := mulNum (decodeFloat f a) (decodeFloat f b)
  let s := addNum rm p.1 (decodeFloat f c)
  finishLane f rm ftz (s.1, p.2 ||| s.2)

/-- VMAX of one lane: the result, whether it came from a (R69), flags. -/
def maxLane (fmt : Nat) (a b : Nat) : Nat × Bool × Nat :=
  let f := floatFmt fmt
  let x := decodeFloat f a
  let y := decodeFloat f b
  let fl := if x.isSig || y.isSig then flagNv else 0
  match x.isNan, y.isNan with
  | true, true => (canonicalNan f, true, fl)
  | true, false => (b, false, fl)
  | false, true => (a, true, fl)
  | false, false => if leNum y x then (a, true, fl) else (b, false, fl)

/-- A code moved by a signed number of ulps, kept between zero and infinity. -/
def nudge (f : FloatFmt) (c : Nat) (by_ : Int) : Nat :=
  let x := (c : Int) + by_
  if x < 0 then 0 else if (infCode f false : Int) < x then infCode f false else x.toNat

/-- ln 2 × 2^120, rounded down. -/
def ln2fix : Nat := 921350637599661305226344307672478454

/-- The terms of e^r × 2^120 from the k-th on, n of them, the present term t = r^k / k! × 2^120. -/
def expTerms (r : Nat) : Nat → Nat → Nat → Nat
  | 0, _, _ => 0
  | n + 1, k, t => t + expTerms r n (k + 1) (t * r / 2 ^ 120 / (k + 1))

/-- e^x for a finite x as a mantissa of 121 bits at most and its exponent, from below: x × 2^120 = n × ln 2 × 2^120 +
r. -/
def expApprox (neg : Bool) (m : Nat) (e : Int) : Nat × Int :=
  let x : Int := ((scaleTo m e (-120)).1 : Nat)
  let v : Int := if neg then -x else x
  let n := v / (ln2fix : Int)
  let r := (v - n * ln2fix).toNat
  (expTerms r 40 0 (2 ^ 120), n - 120)

/-- VEXP of one lane (R53): e^x within 2 ulp. The exact value lies between the truncated code and the next, so the
results within 2 ulp are the truncated code - 1 to + 2; which of them is left open (Config.expChoice). A value below the
smallest subnormal underflows to +0 (Table 2.9). -/
def expLane (fmt rmc : Nat) (ftz : Bool) (a : Nat) : Nat × Nat :=
  let f := floatFmt fmt
  match decodeFloat f a with
  | .nan s => (canonicalNan f, if s then flagNv else 0)
  | .inf true => (0, 0)
  | .inf false => (infCode f false, 0)
  | .fin neg m e =>
    if 10 < (bitLen m : Int) + e then
      if neg then (0, flagUf ||| flagNx) else (infCode f false, flagOf ||| flagNx)
    else
      let (y, q) := expApprox neg m e
      let t := encodeFin f .ieee .zero false y q
      if bitNat t.2 2 then (infCode f false, flagOf ||| flagNx)
      else if t.1 = 0 then (0, flagUf ||| flagNx)
      else
        let c := nudge f t.1 ((Config.expChoice fmt a rmc % 4 : Nat) - 1)
        let fl := if m = 0 then 0 else flagNx ||| (if c = infCode f false then flagOf else
          if fieldNat c f.fb f.eb = 0 then flagUf else 0)
        flushLane f ftz (c, fl)

/-- The integer square root of x below 2^(2n), bit by bit. -/
def isqrtN : Nat → Nat → Nat → Nat
  | 0, _, r => r
  | n + 1, x, r => if (r + 2 ^ n) * (r + 2 ^ n) ≤ x then isqrtN n x (r + 2 ^ n) else isqrtN n x r

/-- VRSQ of one lane (R53): 1 / √x within 1 ulp, the truncated code or the next; an exact result is itself the
truncated code. -/
def rsqLane (fmt rmc : Nat) (ftz : Bool) (a : Nat) : Nat × Nat :=
  let f := floatFmt fmt
  match decodeFloat f a with
  | .nan s => (canonicalNan f, if s then flagNv else 0)
  | .inf true => (canonicalNan f, flagNv)
  | .inf false => (0, 0)
  | .fin neg m e =>
    if m = 0 then (infCode f neg, 0)
    else if neg then (canonicalNan f, flagNv)
    else
      let m2 := if e % 2 = 0 then m else 2 * m
      let e2 := if e % 2 = 0 then e else e - 1
      let r := isqrtN 100 (2 ^ 160 / m2) 0
      let exact := r * r * m2 == 2 ^ 160
      let t := encodeFin f .ieee .zero false r (-(e2 / 2) - 80)
      let c := if exact && bitNat t.2 0 == false then t.1 else nudge f t.1 (Config.rsqChoice fmt a rmc % 2 : Nat)
      flushLane f ftz (c, if exact then t.2 else t.2 ||| flagNx)

/-- FP32 sum, rounded to nearest even. -/
def add32 (a b : Nat) : Nat := (addLane 0 .even false a b).1
/-- FP32 product, rounded to nearest even. -/
def mul32 (a b : Nat) : Nat := (mulLane 0 .even false a b).1
/-- FP32 exponential as VEXP computes it. -/
def exp32 (a : Nat) : Nat := (expLane 0 0 false a).1
/-- FP32 difference, rounded to nearest even. -/
def sub32 (a b : Nat) : Nat := add32 a (b ^^^ 2 ^ 31)
/-- Whether FP32 a is at least b; false with a NaN. -/
def ge32 (a b : Nat) : Bool := leNum (decodeFloat (floatFmt 0) b) (decodeFloat (floatFmt 0) a)
/-- The magnitude of an FP32 code. -/
def abs32 (a : Nat) : Nat := a % 2 ^ 31
/-- FP32 -∞. -/
def negInf32 : Nat := 0xFF800000

/-- FP32 quotient a / b rounded to nearest even: the exact quotient to 64 bits with a sticky bit. -/
def div32 (a b : Nat) : Nat :=
  let f := floatFmt 0
  match decodeFloat f a, decodeFloat f b with
  | .nan _, _ => canonicalNan f
  | _, .nan _ => canonicalNan f
  | .inf _, .inf _ => canonicalNan f
  | .inf x, .fin y _ _ => infCode f (x != y)
  | .fin x _ _, .inf y => signBit f (x != y)
  | .fin x ma ea, .fin y mb eb =>
    if mb = 0 then (if ma = 0 then canonicalNan f else infCode f (x != y))
    else
      let q := ma * 2 ^ 80 / mb
      let s := if ma * 2 ^ 80 % mb = 0 then 0 else 1
      (encodeFin f .ieee .even (x != y) (2 * q + s) (ea - eb - 81)).1

/-- A whole number as an exact number. -/
def intNum (v : Int) : Num := .fin (decide (v < 0)) v.natAbs 0

end Sys2Proof.Machine
end

