-- ==== Sys2Proof/Machine/Convert.lean ====
section
/-! DEFINITION. Conversion between element formats (R34 to R39, R45 to R49): decoding an element with its scale,
encoding one element, encoding a block, and packing elements in registers and memory. -/

namespace Sys2Proof.Machine

/-- The width of an element in bits; 0 for TQ, which packs five to a byte (Table 2.1). -/
def elemBits : Nat → Nat
  | 0x0 => 32 | 0x1 => 16 | 0x2 => 16 | 0x3 => 8 | 0x4 => 8 | 0x5 => 6 | 0x6 => 6 | 0x7 => 4
  | 0x8 => 8 | 0x9 => 4 | 0xA => 0 | 0xB => 8 | 0xC => 8 | 0xD => 32 | 0xE => 4 | _ => 0

/-- The elements of one block scale; 0 for an unscaled format (R37). -/
def blockLen : Nat → Nat
  | 0x5 => 32 | 0x6 => 32 | 0x7 => 32 | 0x9 => 32 | 0xB => 32 | 0xA => 80 | _ => 0

/-- The bytes of one block scale (R36, R37). -/
def scaleBytes : Nat → Nat
  | 0xA => 2 | _ => 1

/-- A two's complement value of w bits. -/
def signed (w x : Nat) : Int :=
  let v := x % 2 ^ w
  if 2 ^ (w - 1) ≤ v then (v : Int) - (2 ^ w : Nat) else v

/-- The value of a TQ digit (R34). -/
def tqDigit (b j : Nat) : Int :=
  if 243 ≤ b then 0
  else match b / 3 ^ j % 3 with
    | 1 => 1
    | 2 => -1
    | _ => 0

/-- A number multiplied by a power of two. -/
def Num.scale (x : Num) (k : Int) : Num :=
  match x with
  | .fin n m e => .fin n m (e + k)
  | y => y

/-- The exact value of an element code under its scale code (R30, R33, R36, R37). A TQ code is a digit's value coded
0, 1, 2; its scale is a BF16 code. A zero TQ weight under a finite scale decodes as +0 whatever the scale's sign
(DESIGN CHOICE, log entry 150). -/
def decodeElem (fmt code scale : Nat) : Num :=
  let e8 : Num → Num := fun x => if scale = 0xFF then .nan false else x.scale ((scale : Int) - 127)
  match fmt with
  | 0x5 => e8 (decodeFloat (floatFmt 5) code)
  | 0x6 => e8 (decodeFloat (floatFmt 6) code)
  | 0x7 => e8 (decodeFloat (floatFmt 7) code)
  | 0x8 => intNum (signed 8 code)
  | 0xE => intNum (signed 4 code)
  | 0xD => intNum (signed 32 code)
  | 0x9 => e8 ((intNum (signed 4 code)).scale (-2))
  | 0xB => e8 ((intNum (signed 8 code)).scale (-6))
  | 0xA =>
    let w := tqDigit code 0
    match decodeFloat (floatFmt 1) scale with
    | .nan sg => .nan sg
    | .inf n => if w = 0 then .nan false else .inf (n != decide (w < 0))
    | .fin n m e => if w = 0 then .fin false 0 0 else .fin (n != decide (w < 0)) m e
  | f => decodeFloat (floatFmt f) code

/-- The decode into FP32 of R45: beyond FP32 range an infinity with flag of; a NaN is quiet, a signalling one sets nv.
-/
def decode32 (fmt code scale : Nat) : Num × Nat :=
  match decodeElem fmt code scale with
  | .nan s => (.nan false, if s then flagNv else 0)
  | .inf n => (.inf n, 0)
  | .fin n m e => if 128 < (bitLen m : Int) + e then (.inf n, flagOf) else (.fin n m e, 0)

/-- How E4M3 and E5M2 overflow, by the bits of cw_fmode (Table 2.4). -/
def onOverflow (fmt : Nat) (e4sat e5sat : Bool) : OnOverflow :=
  match fmt with
  | 3 => if e4sat then .saturate else .nan
  | 4 => if e5sat then .saturate else .ieee
  | 5 => .saturate
  | 6 => .saturate
  | 7 => .saturate
  | _ => .ieee

/-- A rounded whole number clamped to the range of w-bit two's complement: code, whether it was clamped. -/
def clampInt (w : Nat) (neg : Bool) (mag : Nat) : Nat × Bool :=
  if neg then
    if 2 ^ (w - 1) < mag then (2 ^ (w - 1), true) else ((2 ^ w - mag) % 2 ^ w, false)
  else if 2 ^ (w - 1) ≤ mag then (2 ^ (w - 1) - 1, true) else (mag, false)

/-- A finite value rounded to a whole number of w bits: code, whether it saturated, inexact. Under stochastic rounding
nearest even decides whether the value saturates, and a value that does not is kept at the limit (R43). -/
def wholeResult (w : Nat) (rm : Rounding) (neg : Bool) (m : Nat) (e : Int) : Nat × Bool × Bool :=
  let (mag, nx) := roundInt rm neg m e
  match rm with
  | .draw _ =>
    let (c, cl) := clampInt w neg (roundInt .even neg m e).1
    if cl then (c, true, nx) else ((clampInt w neg mag).1, false, nx)
  | _ =>
    let (c, cl) := clampInt w neg mag
    (c, cl, nx)

/-- The encode of one FP32 value into an unscaled format (Table 2.7). -/
def encodeElem (fmt : Nat) (e4sat e5sat : Bool) (rm : Rounding) (x : Num) : Nat × Nat :=
  match fmt with
  | 0x8 => encodeInt 8 rm x
  | 0xE => encodeInt 4 rm x
  | 0xD => encodeInt 32 rm x
  | 3 => match x with
    | .nan _ => (0x7F, 0)
    | .inf n => if e4sat then (maxCode (floatFmt 3) n, flagOf) else (0x7F, flagNv)
    | .fin n m e => encodeFin (floatFmt 3) (onOverflow 3 e4sat e5sat) rm n m e
  | 4 => match x with
    | .nan _ => (0x7E, 0)
    | .inf n => if e5sat then (maxCode (floatFmt 4) n, flagOf) else (infCode (floatFmt 4) n, 0)
    | .fin n m e => encodeFin (floatFmt 4) (onOverflow 4 e4sat e5sat) rm n m e
  | f => encodeIeee (floatFmt f) rm x
where
  /-- The unscaled integers and the INT32 drain (Table 2.7, R49). A saturation sets sat and of, and nx only where the
  value needed rounding (DESIGN CHOICE, log entry 151). -/
  encodeInt (w : Nat) (rm : Rounding) : Num → Nat × Nat
  | .nan _ => (0, flagNv)
  | .inf n => (if n then 2 ^ (w - 1) else 2 ^ (w - 1) - 1, flagOf)
  | .fin n m e =>
    let (c, cl, nx) := wholeResult w rm n m e
    (c, (if cl then flagSat ||| flagOf else 0) ||| (if nx then flagNx else 0))

/-- Whether a number is not finite. -/
def Num.special : Num → Bool
  | .fin _ _ _ => false
  | _ => true

/-- floor(log2 |x|) of a nonzero finite number. -/
def Num.log (x : Num) : Int :=
  match x with
  | .fin _ m e => (bitLen m : Int) - 1 + e
  | _ => 0

/-- Whether a number is a finite nonzero one. -/
def Num.nonzero : Num → Bool
  | .fin _ m _ => decide (m ≠ 0)
  | _ => true

/-- The largest exponent of a block, none when every value is zero. -/
def blockExp (xs : List Num) : Option Int :=
  xs.foldl (fun a x => if x.nonzero then some (match a with | none => x.log | some y => max y x.log) else a) none

/-- One element of a block scaled by 2^-X (R47 step 3). -/
def encodeScaled (fmt : Nat) (bx : Int) (rm : Rounding) (x : Num) : Nat × Nat :=
  match x with
  | .fin n m e =>
    match fmt with
    | 0x9 => elemInt 4 rm n m (e - bx + 2)
    | 0xB => elemInt 8 rm n m (e - bx + 6)
    | f => encodeFin (floatFmt f) .saturate rm n m (e - bx)
  | _ => (0, 0)
where
  /-- A scaled integer element: saturation sets of. -/
  elemInt (w : Nat) (rm : Rounding) (n : Bool) (m : Nat) (e : Int) : Nat × Nat :=
    let (c, cl, nx) := wholeResult w rm n m e
    (c, (if cl then flagOf else 0) ||| (if nx then flagNx else 0))

/-- emax of R47. -/
def blockEmax : Nat → Int
  | 0x5 => 4 | 0x6 => 2 | 0x7 => 2 | _ => 0

/-- The block encode of R47: scale code, element codes, flags. The rounding of element i is rm i. -/
def encodeBlock (fmt : Nat) (rm : Nat → Rounding) (xs : List Num) : Nat × List Nat × Nat :=
  if xs.any Num.special then (0xFF, xs.map fun _ => 0, flagNv)
  else
    let bx : Int := match blockExp xs with
      | none => -127
      | some l => max (-127) (min 127 (l - blockEmax fmt))
    let es := xs.zipIdx.map fun (x, i) => encodeScaled fmt bx (rm i) x
    ((bx + 127).toNat, es.map (·.1), es.foldl (fun a e => a ||| e.2) 0)

/-- The TQ block encode of R48: BF16 scale, digits coded 0, 1, 2, flags. -/
def encodeTq (rm : Nat → Rounding) (xs : List Num) : Nat × List Nat × Nat :=
  if xs.any Num.special then (0x7FC0, xs.map fun _ => 0, flagNv)
  else
    let sum := xs.foldl (fun a x => add32 a (abs32 (encodeIeee (floatFmt 0) .even x).1)) 0
    let ovf := sum == infCode (floatFmt 0) false
    let mean := div32 sum 0x42A00000
    let sc := if ovf then 0x7F7F
      else (encodeIeee (floatFmt 1) .even (decodeFloat (floatFmt 0) mean)).1
    match decodeFloat (floatFmt 1) sc with
    | .fin _ sm se =>
      if sm = 0 then (sc, xs.map fun _ => 0, 0)
      else
        let ds := xs.zipIdx.map fun (x, i) => digit (rm i) sm se x
        (sc, ds.map (·.1), ds.foldl (fun a e => a ||| e.2) (if ovf then flagOf else 0))
    | _ => (0x7F7F, xs.map fun _ => 0, flagOf)
where
  /-- One digit: x / scale rounded to a whole number and clamped to -1 to 1 (R48 step 3); under stochastic rounding
  nearest even decides whether it is clamped (R43). -/
  digit (rm : Rounding) (sm : Nat) (se : Int) : Num → Nat × Nat
  | .fin n m e =>
    let num := if se ≤ e then m * 2 ^ (e - se).toNat else m
    let den := if se ≤ e then sm else sm * 2 ^ (se - e).toNat
    let whole := fun r : Rounding => num / den + (roundsUp r n (num / den) (num % den) den).toNat
    let past := match rm with
      | .draw _ => decide (1 < whole .even)
      | r => decide (1 < whole r)
    let c := if !past && whole rm == 0 then 0 else if n then 2 else 1
    (c, (if past then flagOf else 0) ||| (if num % den = 0 then 0 else flagNx))
  | _ => (0, 0)

/-! Packing (R38, R39). -/

/-- The bits that n elements take: TQ packs five to a byte. -/
def packedBits (fmt n : Nat) : Nat := if fmt = 0xA then (n + 4) / 5 * 8 else n * elemBits fmt

/-- The bits one register holds of a format: the 6-bit formats fill the low 768 (R39). -/
def elemsPerReg (fmt : Nat) : Nat :=
  match fmt with
  | 0x5 => 128
  | 0x6 => 128
  | 0xA => 640
  | f => if elemBits f = 0 then 0 else 1024 / elemBits f

/-- Element i of a bit string packed as R38 gives; a TQ digit comes out coded 0, 1, 2 with invalid bytes as 0. -/
def elemAt (fmt bits i : Nat) : Nat :=
  if fmt = 0xA then
    let b := fieldNat bits (i / 5 * 8) 8
    if 243 ≤ b then 0 else b / 3 ^ (i % 5) % 3
  else fieldNat bits (i * elemBits fmt) (elemBits fmt)

/-- Whether a TQ bit string of n elements has an invalid byte (R35). -/
def tqInvalid (bits n : Nat) : Bool :=
  (List.range ((n + 4) / 5)).any fun i => decide (243 ≤ fieldNat bits (i * 8) 8)

/-- Element codes packed as R38 gives. -/
def packElems (fmt : Nat) (cs : List Nat) : Nat :=
  if fmt = 0xA then
    cs.zipIdx.foldl (fun a (c, i) => a + c * 3 ^ (i % 5) * 2 ^ (i / 5 * 8)) 0
  else cs.foldr (fun c a => a * 2 ^ elemBits fmt + c % 2 ^ elemBits fmt) 0

/-- Encode a list of numbers into a format: element codes, scale codes, flags (R46 to R48). The rounding of element i
is rm i. -/
def encodeList (fmt : Nat) (e4sat e5sat : Bool) (rm : Nat → Rounding) (xs : List Num) : List Nat × List Nat × Nat :=
  let bl := blockLen fmt
  if bl = 0 then
    let es := xs.zipIdx.map fun (x, i) => encodeElem fmt e4sat e5sat (rm i) x
    (es.map (·.1), [], es.foldl (fun a e => a ||| e.2) 0)
  else
    let bs := (List.range ((xs.length + bl - 1) / bl)).map fun b =>
      let part := (xs.drop (b * bl)).take bl
      let r := fun i => rm (b * bl + i)
      if fmt = 0xA then encodeTq r part else encodeBlock fmt r part
    (bs.flatMap (·.2.1), bs.map (·.1), bs.foldl (fun a b => a ||| b.2.2) 0)

/-- Narrow an FP32 or INT32 accumulator value into a format under R49: nearest even, e4sat = 1. An INT32 value goes
into any format but INT32 through FP32 (R113, R196); that first rounding sets no flag of its own (DESIGN CHOICE, log
entry 152). -/
def narrowValue (fmt : Nat) (isInt : Bool) (v : Nat) : Num :=
  if isInt then
    if fmt = 0xD then intNum (signed 32 v)
    else decodeFloat (floatFmt 0) (encodeIeee (floatFmt 0) .even (intNum (signed 32 v))).1
  else decodeFloat (floatFmt 0) v

/-! Accumulation (R52). -/

/-- Whether an operand of some products is a signalling NaN, which is treated as quiet and sets nv (R31). -/
def sigFlag (ps : List (Num × Num)) : Nat := if ps.any fun p => p.1.isSig || p.2.isSig then flagNv else 0

/-- An exact sum of products as it grows: NaN, an infinity, or an exact number. -/
def sumProducts (ps : List (Num × Num)) : Num :=
  ps.foldl (fun a p => (addNum .even a (mulNum p.1 p.2).1).1) (.fin false 0 0)

/-- An exact number added into an FP32 accumulator with one rounding; beyond the range it becomes an infinity. -/
def accAdd32 (acc : Nat) (x : Num) : Nat :=
  (encodeIeee (floatFmt 0) .even (addNum .even (decodeFloat (floatFmt 0) acc) x).1).1

/-- Cut a list into groups of n. -/
def groupsOf {α : Type} (n : Nat) (xs : List α) : List (List α) :=
  (List.range ((xs.length + n - 1) / n)).map fun i => (xs.drop (i * n)).take n

/-- FP32 accumulation of the products of consecutive reduction indices: one by one with a 16-bit weight, in groups of
32 otherwise (R52). -/
def accumulate32 (wide : Bool) (acc : Nat) (ps : List (Num × Num)) : Nat :=
  if wide then ps.foldl (fun a p => accAdd32 a (mulNum p.1 p.2).1) acc
  else (groupsOf 32 ps).foldl (fun a g => accAdd32 a (sumProducts g)) acc

/-- INT32 addition that saturates; the limit is kept for the rest of the accumulation by the caller (R52). -/
def satAdd32 (a b : Int) : Int × Bool :=
  let s := a + b
  if s < -(2 ^ 31 : Int) then (-(2 ^ 31), true)
  else if (2 ^ 31 : Int) ≤ s then (2 ^ 31 - 1, true) else (s, false)

/-- INT32 accumulation of exact products: once saturated it stays at the limit (R52). -/
def accumulateInt (acc : Nat) (ps : List (Int × Int)) : Nat × Bool :=
  let r := ps.foldl (fun (a : Int × Bool) p => if a.2 then a else satAdd32 a.1 (p.1 * p.2)) (signed 32 acc, false)
  (((r.1 + 2 ^ 32) % 2 ^ 32).toNat, r.2)

/-- The press operand pairs (Table 2.8): whether a pair is accepted. INT8 and INT4 in its TQ rows mean the scaled codes
too (DESIGN CHOICE, log entry 153). -/
def pressPair (w a : Nat) : Bool :=
  let wide := fun f => f == 1 || f == 2
  let e8 := fun f => f == 3 || f == 4 || f == 5 || f == 6
  let int := fun f => f == 8 || f == 0xB || f == 9 || f == 0xE
  (wide w && wide a) || (e8 w && (e8 a || a == 7)) || (w == 7 && (e8 a || a == 7)) || (int w && int a) ||
    (w == 0xA && (a == 9 || a == 0xE || a == 7 || a == 8 || a == 0xB || a == 3))

/-- Whether a format is a 4-bit one for the rate class (Table 2.8). -/
def fourBit (f : Nat) : Bool := f == 7 || f == 9 || f == 0xE || f == 0xA

/-- Whether a pair is in the 4-bit class, with tile depth 256 (R105). -/
def pressFour (w a : Nat) : Bool := fourBit w && fourBit a

/-- Whether a pair accumulates in INT32: both unscaled integers (Table 2.8). -/
def pressInt (w a : Nat) : Bool := (w == 8 || w == 0xE) && (a == 8 || a == 0xE)

/-- The activation formats of Table 2.8. -/
def pressAct (a : Nat) : Bool := (1 ≤ a && a ≤ 9) || a == 0xB || a == 0xE

/-- The weight formats of Table 2.8. -/
def pressWeight (w : Nat) : Bool := (1 ≤ w && w ≤ 0xB) || w == 0xE

end Sys2Proof.Machine
end

