-- ==== Sys2Proof/Machine/Tensor.lean ====
section
/-! DEFINITION. Elements of tensors in memory (R38): an element's code, its scale, its exact value, and the bytes that
hold a run of elements. -/

namespace Sys2Proof.Machine

/-- The code of element i of a run that starts at a byte address (R38); an invalid TQ byte reads as zeros (R35). -/
def elemFrom (rd : Nat → Byte) (base fmt i : Nat) : Nat :=
  if fmt = 0xA then
    let b := (rd (base + i / 5)).toNat
    if 243 ≤ b then 0 else b / 3 ^ (i % 5) % 3
  else
    let bit := i * elemBits fmt
    let bytes := (List.range ((bit % 8 + elemBits fmt + 7) / 8)).map fun j => rd (base + bit / 8 + j)
    fieldNat (leNat bytes) (bit % 8) (elemBits fmt)

/-- The scale code of element i of a run whose scales start at a byte address (R37); 0 for an unscaled format. -/
def scaleFrom (rd : Nat → Byte) (sbase fmt i : Nat) : Nat :=
  if blockLen fmt = 0 then 0
  else leNat ((List.range (scaleBytes fmt)).map fun j => rd (sbase + i / blockLen fmt * scaleBytes fmt + j))

/-- The exact value of element i of a run with its scales. -/
def valueFrom (rd : Nat → Byte) (base sbase fmt i : Nat) : Num :=
  decodeElem fmt (elemFrom rd base fmt i) (scaleFrom rd sbase fmt i)

/-- Whether the byte that holds TQ element i is invalid (R35). -/
def tqBadAt (rd : Nat → Byte) (base i : Nat) : Bool := decide (243 ≤ (rd (base + i / 5)).toNat)

/-- The byte range, as offset and length from the start of a run, of elements [lo, hi). -/
def elemSpan (fmt lo hi : Nat) : Nat × Nat :=
  if hi ≤ lo then (0, 0)
  else if fmt = 0xA then (lo / 5, (hi - 1) / 5 + 1 - lo / 5)
  else
    let b := lo * elemBits fmt / 8
    (b, (hi * elemBits fmt + 7) / 8 - b)

/-- The byte range of the scales of elements [lo, hi); empty for an unscaled format. -/
def scaleSpan (fmt lo hi : Nat) : Nat × Nat :=
  if blockLen fmt = 0 || hi ≤ lo then (0, 0)
  else
    let b := lo / blockLen fmt
    (b * scaleBytes fmt, ((hi - 1) / blockLen fmt + 1 - b) * scaleBytes fmt)

/-- The bytes of a run of n elements (R38). -/
def runBytes (fmt n : Nat) : Nat := (packedBits fmt n + 7) / 8
/-- The bytes of the scales of n elements (R37). -/
def runScales (fmt n : Nat) : Nat := if blockLen fmt = 0 then 0 else n / blockLen fmt * scaleBytes fmt

end Sys2Proof.Machine
end

