-- ==== Sys2Proof/Machine/PressQueue.lean ====
section
/-! DEFINITION. What a press holds and what follows in it by itself (chapter 4): descriptors, the queues of its cores,
tiles, runs that open and close, the grant of a pass. -/

namespace Sys2Proof.Machine

/-! ### Descriptors (R108, R109) -/

/-- The fields of a press tensor descriptor (Table 4.2). -/
structure PressDesc where
  kind    : Nat
  fmt     : Nat
  sbase   : Nat
  ebase   : Nat
  estride : Nat
  sstride : Nat
  inner   : Nat
  outer   : Nat
  rsv     : Bool
  deriving DecidableEq, Repr

/-- Read a descriptor. -/
def pressDesc (d : Nat) : PressDesc :=
  ⟨fieldNat d 252 4, fieldNat d 248 4, fieldNat d 192 48, fieldNat d 144 48, fieldNat d 112 32, fieldNat d 96 16,
    fieldNat d 64 32, fieldNat d 32 32, fieldNat d 240 8 != 0 || fieldNat d 0 32 != 0⟩

/-- Whether a family of n runs of len bytes, one every stride bytes, leaves the local stores of a cluster or crosses a
local-store boundary (R109). -/
def runsLeave (k base stride len n : Nat) : Bool :=
  let lo := k * 0x800000
  let last := base + (if stride = 0 then 0 else (n - 1) * stride)
  len != 0 && (decide (base < lo) || decide (lo + 0x800000 < last + len) ||
    (List.range (if stride = 0 then 1 else n)).any fun i =>
      decide ((base + i * stride) / 0x80000 ≠ (base + i * stride + len - 1) / 0x80000))

/-- The address fault of a descriptor at issue: cw_tval (R109). Where several of its conditions hold, the first in the
order below gives cw_tval, and a bad inner extent gives ebase (DESIGN CHOICE, log entry 158). -/
def pressFault (k : Nat) (d : PressDesc) : Option Nat :=
  let scaled := decide (blockLen d.fmt ≠ 0)
  if d.ebase % 32 ≠ 0 || d.estride % 32 ≠ 0 then some d.ebase
  else if scaled && (d.sbase % 4 ≠ 0 || d.sstride % 4 ≠ 0) then some d.sbase
  else if d.inner = 0 || d.outer = 0 || (scaled && d.inner % blockLen d.fmt ≠ 0) then some d.ebase
  else if runsLeave k d.ebase d.estride (runBytes d.fmt d.inner) d.outer then some d.ebase
  else if scaled && runsLeave k d.sbase d.sstride (runScales d.fmt d.inner) d.outer then some d.sbase
  else none

/-! ### The queue of a core (R117) -/

/-- The press queue of a core-in-cluster. -/
def pressQueue (x : ClusterSt) (i : Nat) : List PressCmd := look (fun _ => []) x.queues i
/-- Replace a press queue. -/
def setQueue (x : ClusterSt) (i : Nat) (q : List PressCmd) : ClusterSt :=
  { x with queues := put (fun _ => []) x.queues i q }
/-- Whether a core's next PLOAD is at the head of its queue: its open run closes (R118). -/
def loadAtHead (x : ClusterSt) (i : Nat) : Bool := (pressQueue x i).head?.any (·.op == 0)
/-- Whether a core has an open run: a run of it is current, chosen or suspended, its last pass has not been granted, and
its next PLOAD is not at the head of its queue (R118). -/
def openRun (x : ClusterSt) (i : Nat) : Bool :=
  !loadAtHead x i && ((x.current.any (·.core == i) && !(x.feed.any fun f => f.1 == i && f.2.last)) ||
    x.shadow.any (·.core == i) || x.susp.any (·.core == i))

/-- Add a pending press fault of a core (R131). -/
def addPressFault (s : State) (c : Nat) (t : TrapInfo) : State :=
  modCore s c fun x => { x with pFaults := x.pFaults ++ [t] }

/-- Take the head of a press queue: its entry frees, event 49 is set, and the next head begins its wait, or the time for
which the queue has been empty begins (R117, R119). -/
def popPress (s : State) (k i : Nat) : State :=
  let s1 := modCl s k fun x => match (pressQueue x i).drop 1 with
    | [] => { setQueue x i [] with emptyAt := put (fun _ => 0) x.emptyAt i (elapsed s) }
    | h :: t => setQueue x i ({ h with at_ := elapsed s } :: t)
  signalEvent s1 (k * 16 + i) 49

/-- The rows of the accumulator window of a core (Table 4.4): base and length, ending at row 1,023 at most. -/
def pressWindow (x : CoreSt) : Nat × Nat :=
  let w := (getCw x 0x10).toNat
  (w % 1024, min (min (fieldNat w 16 11) 1024) (1024 - w % 1024))

/-- The rows a command names, as first row of the press and count: gb of the queue entry holds them so. -/
def cmdRows (p : PressCmd) : Nat × Nat := (p.gb / 65536, p.gb % 2048)

/-- Whether two commands name a common row. -/
def rowsMeet (a b : PressCmd) : Bool :=
  let (ra, na) := cmdRows a
  let (rb, nb) := cmdRows b
  decide (ra < rb + nb) && decide (rb < ra + na)

/-- The bytes of elements [lo, hi) of one vector of a press tensor. -/
def elemBytes (d : PressDesc) (v lo hi : Nat) : Nat × Nat :=
  (d.ebase + v * d.estride + (elemSpan d.fmt lo hi).1, (elemSpan d.fmt lo hi).2)
/-- The bytes of the scales of those elements. -/
def scalesOf (d : PressDesc) (v lo hi : Nat) : Nat × Nat :=
  (d.sbase + v * d.sstride + (scaleSpan d.fmt lo hi).1, (scaleSpan d.fmt lo hi).2)
/-- The bytes of an element run and its scales of a press tensor, elements [lo, hi) of one vector. -/
def vectorSpans (d : PressDesc) (v lo hi : Nat) : List (Nat × Nat) :=
  [elemBytes d v lo hi, scalesOf d v lo hi].filter fun r => r.2 != 0

/-! ### Tiles (R110, R111) -/

/-- Kt of a weight and an activation format (Table 4.1). -/
def tileDepth (w a : Nat) : Nat := if pressFour w a then 256 else 128

/-- The vectors of a weight tensor that a tile takes: columns n0 to n0 + 127, inside the tensor (R110). -/
def tileColumns (p : PressCmd) : List Nat :=
  let n0 := p.ga / 2 ^ 32
  ((List.range 128).map (n0 + ·)).filter fun n => decide (n < (pressDesc p.d).outer)

/-- What a function of a vector and a range of indices gives for each column of a tile: indices k0 to k0 + kt - 1, inside
the tensor (R110). -/
def ofTile {α : Type} (f : PressDesc → Nat → Nat → Nat → α) (p : PressCmd) (kt : Nat) : List α :=
  let d := pressDesc p.d
  let k0 := p.ga % 2 ^ 32
  (tileColumns p).map fun n => f d n k0 (min (k0 + kt) d.inner)

/-- The byte spans of a tile. -/
def tileSpans (p : PressCmd) (kt : Nat) : List (Nat × Nat) := (ofTile vectorSpans p kt).flatten

/-- Whether a tile of TQ weights holds an invalid byte (R35). -/
def tileTqBad (s : State) (p : PressCmd) (kt : Nat) : Bool :=
  (pressDesc p.d).fmt == 0xA && (ofTile elemBytes p kt).any fun r =>
    (rdBytes s r.1 r.2).any fun b => decide (243 ≤ b.toNat)

/-- The tile depth of a PLOAD with some commands behind it: that of the next PFEED of its run, and 128 when none stands
there (R110). -/
def runDepth (h : PressCmd) (behind : List PressCmd) : Nat :=
  match (behind.takeWhile (·.op != 0)).find? (·.op == 1) with
  | some f => tileDepth (pressDesc h.d).fmt (pressDesc f.d).fmt
  | none => 128

/-- A PLOAD at the head of a queue becomes a candidate, and its tile depth is fixed, once another command stands behind
it or its core executes PSYNC with nw = 0 (R110). -/
def fixDepth (waiting : Bool) (q : List PressCmd) : List PressCmd :=
  match q with
  | [] => []
  | h :: r => if h.op = 0 && h.kt = 0 && (waiting || !r.isEmpty) then { h with kt := runDepth h r } :: r else q

/-- Read spans as the press does: the state afterwards, and the first address found lost: one load or vector reports one
lost word (R130; DESIGN CHOICE, log entry 159). -/
def readSpans (s : State) (c : Nat) (spans : List (Nat × Nat)) : State × Option Nat :=
  spans.foldl (fun r p =>
    let (s1, lost) := readUnits r.1 p.1 p.2 5 (some c)
    (s1, r.2.or (lost.head?.map fun l => max l.1 p.1))) (s, none)

/-- Load the tile of a run at a depth: its bytes as they stand (R110, R119); an uncorrectable word is reported with sub
0x03, and it poisons the rows that every later pass of the run writes, also after a reload (R130). -/
def loadTile (s : State) (k : Nat) (r : PressRun) (kt : Nat) : State × PressRun :=
  let c := k * 16 + r.core
  let spans := tileSpans r.load kt
  let (s1, bad) := readSpans s c spans
  let cells := spans.flatMap fun p => ((rdBytes s1 p.1 p.2).zipIdx.map fun b => (p.1 + b.2, b.1)).filter (·.2 != 0)
  let s2 := match bad with
    | some a => addPressFault s1 c ⟨0xB, 3, a⟩
    | none => s1
  let s3 := if tileTqBad s1 r.load kt then modCore s2 c fun x => { x with pFlags := x.pFlags ||| flagFe } else s2
  (s3, { r with kt := kt, loaded := true, tile := cells, bad := r.bad.or bad })

/-! ### What follows by itself -/

/-- The tile depths of the PLOADs that have become candidates are fixed (R110). -/
def fixDepths (s : State) (k : Nat) (x : ClusterSt) : ClusterSt :=
  (List.range 16).foldl (fun x i =>
    setQueue x i (fixDepth (getCore s (k * 16 + i)).waitPload (pressQueue x i))) x

/-- A core's next PLOAD at the head of its queue closes its open run (R118). The weights of a closed run are given up when
its granted pass has ended, or its load. -/
def closeRuns (x : ClusterSt) : ClusterSt :=
  { x with
    current := x.current.filter fun r => !(loadAtHead x r.core && x.feed.isNone)
    shadow := x.shadow.filter fun r => !(loadAtHead x r.core && r.loaded)
    susp := x.susp.filter fun r => !loadAtHead x r.core }

/-- Swap in the shadow run once no run is current (R118). -/
def swapIn (x : ClusterSt) : ClusterSt :=
  match x.current, x.shadow with
  | none, some r => if r.loaded && x.feed.isNone then { x with current := some r, shadow := none } else x
  | _, _ => x

/-- A PFEED at the head of a queue while its core has no open run: discarded, with sub 0x04 (R119). -/
def dropOrphans (s : State) (k : Nat) : State :=
  (List.range 16).foldl (fun s i =>
    let x := getCl s k
    if (pressQueue x i).head?.any (·.op == 1) && !openRun x i then
      addPressFault (popPress s k i) (k * 16 + i) ⟨0xB, 4, 0⟩
    else s) s

/-- Grant the pass at the head of the current run's queue when the press can take it: the tile is reloaded first when it
needs another depth (R111, R120). -/
def grantPass (s : State) (k : Nat) : State :=
  let x := getCl s k
  match x.current with
  | none => s
  | some r =>
    match (pressQueue x r.core).head? with
    | none => s
    | some p =>
      if p.op ≠ 1 || x.feed.isSome || x.paused || x.drain.any (fun d => rowsMeet d.2 p) ||
        !(getCore s (k * 16 + r.core)).buf.isEmpty then s
      else
        let kt := tileDepth (pressDesc r.load.d).fmt (pressDesc p.d).fmt
        let (s1, r1) := if kt = r.kt then (s, r) else
          let t := loadTile s k r kt
          (bump t.1 0x04 7 1 (.core (k * 16 + r.core)), t.2)
        let s2 := modCl s1 k fun x => { x with
          current := some r1, feed := some (r.core, p), fed := x.activity != .rampUp
          activity := if x.activity = .rampUp then .rampUp else .passes }
        popPress s2 k r.core

/-- Everything that follows by itself in a press: tile depths are fixed, runs close, the shadow run is swapped in, orphans
are discarded, a pass is granted; n bounds the discards. -/
def pressAdvance : Nat → State → Nat → State
  | 0, s, _ => s
  | n + 1, s, k =>
    let x := getCl s k
    if x.failed || x.absent || x.power ≠ .on then s
    else
      let s1 := modCl s k fun x => swapIn (closeRuns (fixDepths s k x))
      let s2 := grantPass (dropOrphans s1 k) k
      if getCl s2 k = x then s2 else pressAdvance n s2 k

/-- The commands of a core not yet complete (R114). A reload belongs to no command of its own: its PLOAD has completed
(R119). -/
def pressOutstanding (s : State) (c : Nat) : Nat :=
  let k := getCl s (c / 16)
  let i := c % 16
  (pressQueue k i).length + (k.feed.any (·.1 == i)).toNat + (k.drain.any (·.1 == i)).toNat +
    (k.shadow.any fun r => r.core == i && !r.loaded && !r.again).toNat

end Sys2Proof.Machine
end

