-- ==== Sys2Proof/Machine/TallyOps.lean ====
section
/-! DEFINITION. Wall time (R368) and the writing of tally records (R462 to R465). -/

namespace Sys2Proof.Machine

/-- Wall time at a hallmark, 0 while the epoch pair is bad (R368, R370). -/
def wallAt (s : State) (h : Nat) : Nat := if s.hm.epochBad then 0 else (h + s.hm.epoch.toNat) % 2 ^ 64

/-- An unwritten tally slot. -/
def TallyRec.blank : TallyRec := ⟨0, 0, 0, 0, 0, 0, 0, 0, 0, 0, 0⟩

/-- The tally slot an incoming record takes, without overwriting (R465). -/
def takeTallySlot (t : Tally) : Option Nat :=
  match firstGap 4096 0 t.ring with
  | some i => some i
  | none =>
    (leastBy (fun r => 2 ^ 32 - (t.wseq + 2 ^ 32 - r.seq) % 2 ^ 32) (fun r => seqBefore r.seq t.ack) t.ring).map (·.1)

/-- Whole microjoules of an energy kept in units of 2^-16 µJ, saturating (R460). -/
def wholeUj (e : Nat) : Nat := min (2 ^ 64 - 1) (e / 65536)

/-- Write a tally record: kind, partition, job ID, L in seconds, energy, span, and the flags stepped and short
(Table 15.4, R463 to R465). -/
def tallyWrite (s : State) (kind p job len energy h0 h1 : Nat) (stepped short : Bool) : State :=
  let t := s.tally
  let sat := wholeUj energy == 2 ^ 64 - 1
  let flags := p + 16 * stepped.toNat + 32 * sat.toNat + 64 * s.hm.epochBad.toNat + 128 * short.toNat
  match takeTallySlot t with
  | none => ledger (addRegField s oTalStat 0 16 1) 0x0A06 sevWarn none (sourceOf 9 0) []
  | some i =>
    let r : TallyRec :=
      ⟨t.wseq, kind, flags, job, s.hm.egen % 65536, len, wholeUj energy, h0, h1, wallAt s h0, wallAt s h1⟩
    let next := (t.wseq + 1) % 2 ^ 32
    let ack := if (getReg s oTalCtl).getLsbD 0 then next else t.ack
    let s1 := { s with tally := { t with ring := put (fun _ => TallyRec.blank) t.ring i r, wseq := next, ack := ack } }
    if sat then setRegField s1 oTalStat 16 1 1 else s1

/-- The bytes of a tally record (Table 15.4). -/
def tallyBytes (starts : Nat) (r : TallyRec) : List Byte :=
  natLe 4 r.seq ++ natLe 1 r.kind ++ natLe 1 r.flags ++ natLe 2 starts ++ natLe 4 r.job ++ natLe 2 r.egen ++
    natLe 2 r.len ++ natLe 8 r.energy ++ natLe 8 r.h0 ++ natLe 8 r.h1 ++ natLe 8 r.w0 ++ natLe 8 r.w1 ++
    natLe 4 0 ++ natLe 4 (2 ^ 32 - 1 - r.seq)

end Sys2Proof.Machine
end

