-- ==== Sys2Proof/Machine/Jobs.lean ====
section
/-! DEFINITION. What a core reset, a job stop and a halt do to the units a core has commands in (R104, R132, R214, R230,
R253, R274, R317, R319), and how a job ends (R331, R335, R101, R460). -/

namespace Sys2Proof.Machine

/-! ### Units -/

/-- Discard a core's press commands not yet granted and close its open run; a granted pass completes and then closes
its run (R132). -/
def pressDrop (s : State) (c : Nat) : State :=
  let n := (look (fun _ => []) (getCl s (c / 16)).queues (c % 16)).length
  pressAdvance 40 (modCl (bump s 0x04 8 n (.core c)) (c / 16) fun k =>
    let i := c % 16
    let granted := k.feed.any (·.1 == i)
    { k with
      queues := put (fun _ => []) k.queues i []
      current := k.current.filter fun r => r.core != i || granted
      shadow := k.shadow.filter (·.core != i)
      susp := k.susp.filter (·.core != i)
      feed := k.feed.map fun f => if f.1 = i then (f.1, { f.2 with last := true }) else f }) (c / 16)

/-- Whether a core has a press command queued or granted. -/
def pressBusy (s : State) (c : Nat) : Bool :=
  pressOutstanding s c != 0

/-- Change every bank unit of a vein. -/
def modUnits (v : VeinSt) (f : BankUnit → BankUnit) : VeinSt :=
  (List.range 16).foldl (fun v u => setUnit v u (f (getUnit v u))) v

/-- The commands that a bank unit runs: its head, once it streams. -/
def runningOf (u : BankUnit) : List (Nat × NbCmd) := if u.busy then u.queue.take 1 else []

/-- Discard a core's queued bank-unit commands; a running one completes (Table 6.9: core reset, cluster reset). -/
def nbDrop (s : State) (c : Nat) : State :=
  modVein s c fun v => { modUnits v fun u => { u with queue := runningOf u } with drains := [] }

/-- Frames released while a KATT ran no longer wait for it (R228). -/
def framesGo (m : Map Frame7) : Map Frame7 := m.map fun e => if e.2 == .pending true then (e.1, .pending false) else e

/-- End a core's bank-unit commands: nothing is delivered, accumulators and combiner slots are zeroed with their parity
and poison, the latch is kept (Table 6.9: job stop). A KATT that is ended holds no frame any more (R228). -/
def nbStop (s : State) (c : Nat) : State :=
  modVein s c fun v =>
    { modUnits v fun u => { u with queue := [], busy := false, acc := [], parity := [], poison := [], checks := [] } with
      comb := [], waiting := [], drains := [], frames := framesGo v.frames }

/-- Whether a core has bank-unit commands queued or running, or contributions waiting. -/
def nbBusy (s : State) (c : Nat) : Bool :=
  let v := getVein s c
  (List.range 16).any (fun u => !(getUnit v u).queue.isEmpty) || !v.waiting.isEmpty || !v.drains.isEmpty

/-- A transfer that the engine has not begun is discarded, one it has begun completes and its reply is discarded
(R319). The engine works on its queue's head. -/
def xferDrop (s : State) (c : Nat) : State :=
  modCl s (c / 16) fun k =>
    { k with xfers := (k.xfers.zipIdx.filter fun e => e.1.core != c || e.2 == 0).map fun e =>
        if e.1.core = c then { e.1 with drop := true } else e.1 }

/-- Whether a core has a transfer in the engine. -/
def xferBusy (s : State) (c : Nat) : Bool := (getCl s (c / 16)).xfers.any (·.core == c)

/-- Write the bound counter of a core's generator back to its record, where the record's unit is up, and unbind
(R274). -/
def releaseBinding (s : State) (c : Nat) : State :=
  match (getCore s c).bind with
  | none => s
  | some b =>
    let up := match placeOf b.record with
      | .vein v _ => dieUp s (v / 1024)
      | .far k _ => dieUp s (k / 2)
      | _ => false
    let s1 := if up then (writeUnits s (b.record + 48) (natLe 8 b.counter) 3 (some c)).1 else s
    modCore s1 c fun x => { x with bind := none }

/-- Moves in flight at a core reset: an MST completes, an MLD's replies are discarded (Table 5.7). -/
def movesDrop (s : State) (c : Nat) : State :=
  let ms := (getCore s c).moves
  let s1 := ms.foldl (fun s m => if m.load then s else (runMove s c m).1) s
  modCore s1 c fun x => { x with moves := [], discarded := x.discarded + (ms.filter (·.load)).length }

/-! ### Core reset (R104) -/

/-- The core's own state after a reset: everything cleared, the count of discarded replies kept. -/
def clearedCore (x : CoreSt) (after : Option Bool) : CoreSt :=
  { CoreSt.idle with resetting := after, discarded := x.discarded + x.loads.length + x.appends.length }

/-- Reset a core: its registers, buffers, queued unit commands and message queue (R104, R132, R214, R253, R274, R317,
R319, R448). after tells that the reset takes its 64 cycles, and whether a start follows. -/
def resetCore (s : State) (c : Nat) (after : Option Bool) : State :=
  let lds := ((getCore s c).moves.filter (·.load)).length
  let s1 := xferDrop (nbDrop (pressDrop (movesDrop s c) c) c) c
  let x := getCore s1 c
  bump (setCore s1 c { clearedCore x after with resetAt := elapsed s, seen := elapsed s }) 0x05 16 (x.loads.length + x.appends.length + lds) (.core c)

/-- Start a core at CO_START at supervisor level; cw_cycle starts from 0 (R103, R104). -/
def startCore (s : State) (c : Nat) : State :=
  let pc := getReg s (oCoStart c)
  modCore s c fun x =>
    { x with run := .running, pc := pc, resetting := none, halting := false, cyc10 := 0, seen := elapsed s,
             cw := put cwReset x.cw 0 (getCw x 0 &&& ~~~(1 : Word)) }

/-! ### The end of a job -/

/-- Whether every unit operation of a core has ended (R331). -/
def coreQuiet (s : State) (c : Nat) : Bool :=
  !(pressBusy s c || nbBusy s c || xferBusy s c || !(getCore s c).appends.isEmpty)

/-- The job that a core belongs to. -/
def jobOf (s : State) (c : Nat) : Option Job := s.jobs.find? (·.cores.contains c)

/-- Replace a job. -/
def setJob (s : State) (j : Job) : State :=
  { s with jobs := s.jobs.map fun k => if k.part = j.part && k.job = j.job then j else k }

/-- A job leaves: its tally record and its completion record (R331, R333, R460). -/
def finishJob (s : State) (j : Job) (status detail : Nat) : State :=
  let s1 := { s with jobs := s.jobs.filter fun k => !(k.part == j.part && k.job == j.job) }
  let s2 := tallyWrite s1 3 j.part j.job 0 j.energy j.startHm s.hallmark false false
  let s3 := { s2 with tally := { s2.tally with ended := s2.tally.ended ++ [(j.part, j.job, j.ivl)] } }
  if j.silent then s3 else complete s3 j.part j.ring j.job status j.index detail j.irq none

/-- Finish every ended job whose cores' unit operations have ended (R331, R319). -/
def settleJobs (s : State) : State :=
  s.jobs.foldl (fun s j =>
    match j.ending with
    | some (st, d) => if j.cores.all (coreQuiet s) then finishJob s j st d else s
    | none => s) s

/-- Stop a job: its cores' unit operations end as their chapters give and its cores are left in the reset state; it
completes with a status and a detail (R331, R335). -/
def stopJob (s : State) (j : Job) (status detail : Nat) (silent : Bool) : State :=
  if j.ending.isSome then (if silent then setJob s { j with silent := true } else s)
  else
    let s1 := j.cores.foldl (fun s c => resetCore (nbStop (releaseBinding s c) c) c none) s
    settleJobs (setJob s1 { j with state := .done, ending := some (status, detail), silent := j.silent || silent })

/-- The status with which a double trap ends a job (R101). -/
def doubleTrapStatus (code : Nat) : Nat :=
  if code = 2 || code = 3 || code = 0xF then stUncorrectable else if code = 0xA then stChecksum else stAborted

/-- A double trap whose stores have drained: the double-trap state, the record, the end of the job (R101). -/
def settleDouble (s : State) (c : Nat) : State :=
  let x := getCore s c
  match x.dbl with
  | none => s
  | some t =>
    if !x.buf.isEmpty then s
    else
      let s1 := modCore (syncCore s c) c fun x => { x with run := .doubleTrap, dbl := none }
      let tpc := (getReg s (oTrapPc c)).toNat
      let s2 := ledger s1 0x0201 sevError (partOf s c) (srcCore c) (t.code :: t.sub :: twoWords tpc ++ twoWords t.val)
      match jobOf s2 c with
      | some j => stopJob s2 j (doubleTrapStatus t.code) (c + t.code * 65536) false
      | none => s2

/-- A job is done once every one of its cores has halted (R331): running becomes done. -/
def jobDone (s : State) (c : Nat) : State :=
  match jobOf s c with
  | none => s
  | some j =>
    if j.ending.isNone && j.cores.all fun c => (getCore s c).run == .halted then
      settleJobs (setJob s { j with state := .done, ending := some (stOk, 0) })
    else s

/-- The faults still pending in a core's press and bank units at a halt go to the ledger as NOTICE records, whose
payload no rule names, and are cleared (R132, Table 6.9, R451). -/
def haltFaults (s : State) (c : Nat) : State :=
  let x := getCore s c
  let s1 := x.pFaults.foldl (fun s _ => ledger s 0x0203 sevNotice (partOf s c) (srcCore c) []) s
  let s2 := x.nbFaults.foldl (fun s _ => ledger s 0x0204 sevNotice (partOf s c) (srcCore c) []) s1
  modCore s2 c fun x => { x with pFaults := [], nbFaults := [] }

/-- A core that halts enters the halted state once its stores, moves, appends, transfers and unit commands have
completed; it closes its streams, releases its generator and tells the comptroller (R96, R274, R317, R331). A store
failure that no release point has reported yet, as after a halt_req, is kept and not reported (DESIGN CHOICE, log entry
155). -/
def settleHalt (s : State) (c : Nat) : State :=
  let x := getCore s c
  if !x.halting || x.dbl.isSome || !x.buf.isEmpty || !x.moves.isEmpty || !x.loads.isEmpty || x.wait.isSome || !coreQuiet s c then s
  else
    let s1 := modCore (syncCore (haltFaults (releaseBinding s c) c) c) c fun x =>
      { x with run := .halted, halting := false, streams := [], wait := none, blk := 0, blkobj := 0 }
    let s2 := trace s1 (c / 16) 8 c [0, ((jobOf s c).map (·.job)).getD 0]
    jobDone s2 c

/-- What completing events do for a core and for the jobs: a double trap, a halt or the end of a job may follow. -/
def settle (s : State) (c : Nat) : State := settleJobs (settleHalt (settleDouble s c) c)

end Sys2Proof.Machine
end

