-- ==== Sys2Proof/Machine/Traps.lean ====
section
/-! DEFINITION. Taking a trap and a double trap (R97 to R101), and the issue of an instruction: the conditions under
which a core issues, its fetch (R55), operands that are still outstanding, run-ahead (R83, R84), commit. -/

namespace Sys2Proof.Machine

/-! ### Trap entry -/

/-- The word of cw_tcause (Table 3.4). -/
def causeWord (t : TrapInfo) (dfr more : Bool) : Word :=
  BitVec.ofNat 64 (t.code % 64 + more.toNat * 2 ^ 14 + dfr.toNat * 2 ^ 15 + t.sub % 256 * 2 ^ 16)

/-- Run-ahead given up: the checkpoint stands again (R84). -/
def leaveRunAhead (x : CoreSt) : CoreSt :=
  match x.ra with
  | none => x
  | some r => { x with g := r.g, p := r.p, pc := r.pc, ra := none }

/-- The core's registers at trap entry (R99 steps 2 to 4): ppl takes the level given. -/
def enterTrap (x : CoreSt) (t : TrapInfo) (tpc : Word) (dfr more level : Bool) : CoreSt :=
  let x1 := setCw (setCw (setCw x 2 tpc) 3 (causeWord t dfr more)) 4 (BitVec.ofNat 64 t.val)
  let st : Word := (getCw x 0 &&& ~~~(7 : Word)) ||| (4 : Word) ||| (if level then (2 : Word) else 0)
  { setCw x1 0 st with
    pc := getCw x 1 &&& ~~~(3 : Word), pref := [], prefOrder := [], wait := none, run := .running
    blk := 0, blkobj := 0, lastCode := t.code, mispred := false, waited := 0, waitPload := false, blocked := [] }

/-- Take a trap: trap entry (R99), or a double trap while a handler is active (R101). The saved level is the one given
(R100 names another than the current one). -/
def trapAt (s : State) (c : Nat) (t : TrapInfo) (tpc : Word) (dfr more level : Bool) : State :=
  let s0 := bump (syncCore s c) 0x03 8 1 (.core c)
  let s1 := setReg (setReg s0 (oTrapPc c) tpc) (oTrapVal c) (BitVec.ofNat 64 t.val)
  let x := leaveRunAhead (getCore s1 c)
  if (getCw x 0).getLsbD 2 then
    settleDouble (setCore s1 c { x with
      dbl := some t, lastCode := t.code, wait := none, run := .running, blk := 0, blkobj := 0, halting := false }) c
  else
    let s2 := setCore s1 c (enterTrap x t tpc dfr more level)
    trace s2 (c / 16) 2 c ([t.code, t.sub] ++ twoWords tpc.toNat)

/-- Take a trap with the present level saved. -/
def takeTrap (s : State) (c : Nat) (t : TrapInfo) (tpc : Word) (dfr more : Bool) : State :=
  trapAt s c t tpc dfr more (atTask (leaveRunAhead (getCore s c)))

/-! ### Issue -/

/-- Whether a core's watchdog has reached zero and its trap is still to be taken (R102). -/
def wdogDue (s : State) (c : Nat) : Bool :=
  let x := syncCoreSt (elapsed s) (getCl s (c / 16)) (getCore s c)
  (getCw x 0xC).toNat % 2 ^ 32 != 0 && x.wdogNs == 0

/-- Whether a core issues its next instruction at all: it exists, is clocked, runs, is not paused (R386), halting
(R96), in a reset, in a double trap, or held by a branch that resolved against its prediction, and no watchdog is
pending (R98). -/
def canIssue (s : State) (c : Nat) : Bool :=
  let x := getCore s c
  let k := getCl s (c / 16)
  populated s c && dieUp s (c / 1024) && k.power == .on && !k.paused && x.run == .running && !x.halting &&
    x.dbl.isNone && x.resetting.isNone && x.wait.isNone && !x.mispred && !wdogDue s c

/-- The general registers that an outstanding load, append or transfer of a core will write. -/
def busyRegs (s : State) (c : Nat) : List Nat :=
  let x := getCore s c
  x.loads.map (·.rd) ++ x.appends.map (·.rd) ++
    ((getCl s (c / 16)).xfers.filter fun t => t.core == c && !t.drop).map (·.rd)

/-- Bring a line to the front of the instruction cache, 4 ways to a set of 64 (R55). -/
def touchIcache (ls : List Nat) (line : Nat) : List Nat :=
  let rest := ls.filter (· != line)
  let same := (rest.filter fun l => l % 64 == line % 64).take 3
  line :: rest.filter fun l => l % 64 != line % 64 || same.contains l

/-- How a fetch ends. -/
inductive FetchRes where
  | wait
  | trap (t : TrapInfo)
  | ok (s : State)

/-- Fetch n bytes that lie in one line (R55): from the own local store or a sealed region of the own vein, through the
instruction cache. -/
def fetchLine (s : State) (c a n : Nat) : FetchRes :=
  let x := getCore s c
  let ready : FetchRes :=
    if x.icache.contains (a / 64) then .ok (setCore s c { x with icache := touchIcache x.icache (a / 64) })
    else
      match readUnits s a n 1 (some c) with
      | (s1, []) => .ok (modCore s1 c fun x => { x with icache := touchIcache x.icache (a / 64) })
      | (_, l :: _) => .trap ⟨2, l.2, a⟩
  match placeOf a with
  | .ls d _ => if d = c then ready else .trap ⟨4, 0, a⟩
  | .vein d off =>
    if d = c && ownLegal s c off && (regionAt s c off).any (·.kind == kindSealed) then
      (if regionWaits s c off then .wait else ready)
    else .trap ⟨4, 0, a⟩
  | _ => .trap ⟨4, 0, a⟩

/-- Fetch an instruction of n bytes at an address: each line it lies in (R55), and a word that is no instruction takes
trap 0x01 (R59, R60). What instruction a legal word is, the command says (log entries 39 and 154). -/
def fetch (s : State) (c a n : Nat) : FetchRes :=
  let first := min n (64 - a % 64)
  match fetchLine s c a first with
  | .ok s1 =>
    match (if n ≤ first then FetchRes.ok s1 else fetchLine s1 c (a + first) (n - first)) with
    | .ok s2 =>
      if wordLegal (rdNat s2 a 4) (rdNat s2 (a + 4) 4) then .ok s2 else .trap ⟨1, 0, rdNat s2 a 4⟩
    | e => e
  | e => e

/-- What an instruction that has been fetched does: it stalls at issue, perhaps leaving something begun; it takes a
trap, at itself or, with its results written, at the next instruction; or it commits, and goes on or jumps, perhaps to
a trap at the place it jumps to. -/
inductive Eff where
  | stall (s : State)
  | trap (s : State) (t : TrapInfo) (dfr more : Bool)
  | trapNext (s : State) (t : TrapInfo)
  | go (s : State)
  | jump (s : State) (pc : Word)
  | jumpTrap (s : State) (pc : Word) (t : TrapInfo) (dfr more : Bool)

/-- The plain trap of an instruction. -/
def Eff.at (s : State) (code sub val : Nat) : Eff := .trap s ⟨code, sub, val⟩ false false

/-- What issue needs to know of an instruction: its length in bytes, the general registers it names, whether it waits
for every older load (a store, a unit command or a serialising instruction: R85, R54). -/
structure Inst where
  size  : Nat
  regs  : List Nat
  waits : Bool

/-- One instruction of run-ahead used up: the window ends at zero with RUN_AHEAD_WINDOW_END (R83). -/
def raStep (x : CoreSt) (size : Nat) : CoreSt :=
  match x.ra with
  | none => x
  | some r => { x with pc := x.pc + BitVec.ofNat 64 size, ra := some { r with left := r.left - 1 } }

/-- Whether run-ahead has instructions left. -/
def raLeft (x : CoreSt) : Bool := x.ra.any fun r => decide (0 < r.left)

/-- Issue an instruction of a core. ra is what it does in run-ahead, on the shadow copies; most are skipped there
(R83). An instruction that cannot issue now leaves the state as it is: its sender repeats it (log entry 3). One that
names a register still to be written is noted as waiting on it, for run-ahead (R83). -/
def issue (s : State) (c : Nat) (i : Inst) (ra : CoreSt → CoreSt) (body : State → Eff) : State :=
  let x := getCore s c
  if !canIssue s c then s
  else if x.ra.isSome then (if raLeft x then setCore s c (ra x) else s)
  else if i.regs.any fun r => r != 0 && (busyRegs s c).contains r then
    setCore s c { x with blocked := i.regs.filter fun r => r != 0 && (busyRegs s c).contains r }
  else
    let next : Word := x.pc + BitVec.ofNat 64 i.size
    match fetch s c x.pc.toNat i.size with
    | .wait => s
    | .trap t => if x.loads.isEmpty then takeTrap s c t x.pc false false else s
    | .ok s1 =>
      if i.waits && !x.loads.isEmpty then s
      else match body s1 with
        | .stall s2 => s2
        | .trap s2 t dfr more => if x.loads.isEmpty then takeTrap s2 c t x.pc dfr more else s
        | .trapNext s2 t =>
          if x.loads.isEmpty then takeTrap (commit s2 c x.pc next) c t next false false else s
        | .go s2 => commit s2 c x.pc next
        | .jump s2 t => commit s2 c x.pc t
        | .jumpTrap s2 a t dfr more => takeTrap (commit s2 c x.pc a) c t a dfr more

/-- Skipped in run-ahead (R83). -/
def raSkip (size : Nat) (x : CoreSt) : CoreSt := raStep x size

end Sys2Proof.Machine
end

