-- ==== Sys2Proof/Machine/Permit.lean ====
section
/-! DEFINITION. Which registers exist, which a requester may read and write (R8, R9, R511, Table 17.3), and what becomes
of an access outside the requester's view (R324, R512). -/

namespace Sys2Proof.Machine

/-! ### Registers that exist (Tables 17.8 to 17.10) -/

/-- Offsets of the DEV block that hold a register. -/
def devReg (o : Nat) : Bool :=
  decide (o < 0x30) || (0x8000 ≤ o && o < 0x9000 && (o % 0x400 < 0x18 || (0x100 ≤ o % 0x400 && o % 0x400 < 0x300))) ||
    o == 0x9000 || o == 0x9008 || (0xA000 ≤ o && o < 0xA800 && o % 0x80 < 0x50) || o == 0xB000

/-- Offsets of the HIF block that hold a register. -/
def hifReg (o : Nat) : Bool :=
  if o < 0x4000 then o % 0x400 < 0x18 || (0x40 ≤ o % 0x400 && o % 0x400 < 0x140 && o % 0x40 < 0x38)
  else (0x8000 ≤ o && o < 0xA000) || (0xA000 ≤ o && o < 0xA080)

/-- Offsets of the other device blocks, by block number, that hold a register. -/
def blockReg (b o : Nat) : Bool :=
  match b with
  | 0x0 => devReg o
  | 0x1 => hifReg o
  | 0x2 => o < 0x1000 && (o % 0x100 < 0x30 || (0x40 ≤ o % 0x100 && o % 0x100 < 0x70) || o % 0x100 == 0x80 ||
      o % 0x100 == 0x88)
  | 0x4 => decide (o < 0x60)
  | 0x5 => o < 0x48 || (0x100 ≤ o && o < 0x348) || (0x400 ≤ o && o < 0x480)
  | 0x6 => o < 0x20 || o == 0x28 || o == 0x30 || (0x100 ≤ o && o < 0x180) || (0x200 ≤ o && o < 0x218) || 0x8000 ≤ o
  | 0x7 => o < 0x30 || (0x40 ≤ o && o < 0x68) || (0x4000 ≤ o && o < 0x5000) || 0x8000 ≤ o
  | 0x8 => o < 0x50 || (0x100 ≤ o && o < 0x118)
  | 0x9 => o == 0 || (0x100 ≤ o && o < 0x300 && o % 0x40 < 0x18)
  | 0xA => o < 0x18 || (0x100 ≤ o && o < 0x200 && o % 0x20 < 0x18) || (0x1000 ≤ o && o < 0x2800)
  | 0xB => o == 0 || (0x100 ≤ o && o < 0x200 && o % 0x40 < 0x20) || (0x1000 ≤ o && o < 0x1800)
  | 0xC => decide (o < 0x20)
  | 0xD => o < 0x10 || (0x100 ≤ o && o < 0x300) || (0x1000 ≤ o && o < 0x1800 && o % 0x200 < 0x100) ||
      (0x2000 ≤ o && o < 0x2020) || o == 0x3000
  | _ => false

/-- Offsets of a CL block that hold a register (Table 17.8). -/
def clReg (o : Nat) : Bool :=
  o < 0x20 || (0x200 ≤ o && o < 0x218) || o == 0x300 || o == 0x308 || (0x400 ≤ o && o < 0x488) ||
    (0x500 ≤ o && o < 0x538)

/-- Offsets of a CO block that hold a register (Table 17.9). -/
def coReg (o : Nat) : Bool :=
  o < 0x38 || (0x100 ≤ o && o < 0x148) || (0x180 ≤ o && o < 0x1C0) || (0x200 ≤ o && o < 0x220) || o == 0x280 ||
    (0x2C0 ≤ o && o < 0x2E8) || (0x300 ≤ o && o < 0x390)

/-- Where a control-space offset lies (Table 17.2). -/
inductive Block where
  | dev (b o : Nat)
  | cl (k o : Nat)
  | co (c o : Nat)
  | reserved
  deriving DecidableEq, Repr

/-- The block of an offset. -/
def blockOf (off : Nat) : Block :=
  if off < 0xE0000 then .dev (off / 0x10000) (off % 0x10000)
  else if off < 0x100000 then .reserved
  else if off < 0x500000 then .cl ((off - 0x100000) / 0x4000) ((off - 0x100000) % 0x4000)
  else if off < 0x1000000 then .reserved
  else if off < 0x2000000 then .co ((off - 0x1000000) / 0x1000) ((off - 0x1000000) % 0x1000)
  else .reserved

/-- Whether an offset holds a register; PART spans two block numbers. -/
def isReg (off : Nat) : Bool :=
  match blockOf off with
  | .dev b o => blockReg b o
  | .cl _ o => clReg o
  | .co _ o => coReg o
  | .reserved => false

/-! ### Views (R511) -/

/-- Whose view a requester has: everything (the PF and the comptroller), a partition's, or none. -/
inductive Viewer where
  | full (pf : Bool)
  | part (p : Nat) (core : Bool)
  | none
  deriving DecidableEq, Repr

/-- The view of a requester: a task-level core has none, nor has a core that no partition holds. -/
def viewerOf (s : State) (q : Req) : Viewer :=
  match q with
  | .comptroller => .full false
  | .host f => if f = 0 then .full true else .part f.toNat false
  | .core c =>
    match partOf s c.toNat with
    | some p => if atTask (getCore s c.toNat) then .none else .part p true
    | none => .none

/-- Registers that only the PF may write (R368, R373, R514). -/
def pfOnly (off : Nat) : Bool := off == 0x20 || off == 0x28 || off == oEpoch || off == oEpochR

/-- The HIF registers of a function that are written (Tables 10.6 and 17.3): not the status, the indexes that the device
keeps, nor HIF_VIOL. -/
def hifWritable (o : Nat) : Bool :=
  o == 8 || (0x40 ≤ o && o < 0x140 && o % 0x40 != 0x18 && o % 0x40 != 0x30)

/-- The device-block registers a partition may read, or with write set may write (Table 17.3, R272, R349, R480, R482). -/
def partSees (p : Nat) (core write : Bool) (b o : Nat) : Bool :=
  match b with
  | 0x0 =>
    let ring := 0x8000 ≤ o && o < 0x9000 && 0x100 + p * 0x20 ≤ o % 0x400 && o % 0x400 < 0x120 + p * 0x20
    let box := !core && 0xA000 + p * 0x80 ≤ o && o < 0xA080 + p * 0x80
    ring || box || (!write && (o < 0x30 || o == 0x9008 || o == 0xB000 || (0x8000 ≤ o && o < 0x9000 && o % 0x400 == 0)))
  | 0x1 =>
    let mine := p * 0x400 ≤ o && o < p * 0x400 + 0x400 && (!write || hifWritable (o % 0x400))
    !core && (mine || (0x8000 + p * 0x200 ≤ o && o < 0x8200 + p * 0x200) || (!write && o == 0xA000 + p * 8))
  | 0x2 => !write && o / 0x100 == p
  | 0x4 => !write && (o == 0 || o == 8 || o == 0x28)
  | 0x5 => !write && (o == 0x28 || o == 0x30 || o == 0x400 + 8 * p)
  | 0x6 => o == 0x28 || (!write && (o == 0 || o == 0x100 + 8 * p || o == 0x10 || 0x8000 ≤ o))
  | 0x7 => o == 0x28 || o == 0x20 || (!write && (o == 0x10 || 0x4000 ≤ o))
  | 0x8 => !write && (o == 8 || o == 0x18)
  | 0x9 => !write && (o == 0 || o % 0x40 == 0 || o % 0x40 == 8)
  | 0xA =>
    (0x2000 + 0x80 * p ≤ o && o < 0x2080 + 0x80 * p) ||
      (!write && (o == 0 || (0x100 ≤ o && o < 0x200 && o % 0x20 == 0)))
  | 0xB => !write && ((0x100 ≤ o && o < 0x200 && o % 0x40 == 0) || 0x1000 ≤ o)
  | 0xC => !write && o == 8
  | 0xD => o == 0 || (!write && (o == 8 || (0x100 ≤ o && o < 0x2000)))
  | _ => false

/-- The CL registers that a partition may write (Table 17.3). -/
def clWritable (o : Nat) : Bool :=
  o == 0 || o == 0x300 || (0x400 ≤ o && o < 0x480) || o == 0x500 || o == 0x508 || o == 0x518 || o == 0x528 || o == 0x530

/-- The CO registers that R103, R180, R258, R481 and R488 open to a partition. -/
def coWritable (o : Nat) : Bool := coReg o && o != 0x380 && o != 0x388

/-- How an access to the word at an offset stands to its requester: allowed, outside the view, or to a reserved offset
within a block, which reads as zero and ignores writes (R9, R512), or answered with Completer Abort (R337). -/
inductive Standing where
  | allowed
  | reserved
  | outside (unpopulated : Bool)
  | aborted
  deriving DecidableEq, Repr

/-- Whether an access comes through BAR0 of a function in FLR, which answers Completer Abort (R337). -/
def inFlr (s : State) (q : Req) : Bool :=
  match q with
  | .host f => (getFunc s f.toNat).flr
  | _ => false

/-- The standing of an access. -/
def standing (s : State) (q : Req) (off : Nat) (write : Bool) : Standing :=
  if inFlr s q then .aborted else
  match viewerOf s q, blockOf off with
  | .none, _ => .outside false
  | _, .reserved => .outside false
  | .full pf, .dev b o =>
    if !blockReg b o then .reserved else if write && !pf && pfOnly off then .outside false else .allowed
  | .full _, .cl k o => if !populatedCl s k then .outside true else if clReg o then .allowed else .reserved
  | .full _, .co c o => if !populated s c then .outside true else if coReg o then .allowed else .reserved
  | .part p core, .dev b o =>
    if b = 1 && core then .outside false
    else if !blockReg b o then .reserved
    else if partSees p core write b o then .allowed else .outside false
  | .part p _, .cl k o =>
    if !populatedCl s k then .outside true
    else if partOfCl s k ≠ some p then .outside false
    else if !clReg o then .reserved
    else if write && !clWritable o then .outside false else .allowed
  | .part p _, .co c o =>
    if !populated s c then .outside true
    else if partOf s c ≠ some p then .outside false
    else if !coReg o then .reserved
    else if write && !coWritable o then .outside false else .allowed

/-- Registers that the comptroller's firmware serves (Table 17.2): the mailbox, PART, TAL, LDG and ASY but for
ASY_CTL. -/
def byFirmware (off : Nat) : Bool :=
  match blockOf off with
  | .dev b o => (b == 0 && 0xA000 ≤ o && o < 0xB000) || b == 2 || b == 3 || b == 6 || b == 7 || (b == 8 && o != 0)
  | _ => false

/-- Record a refused BAR0 access of a host function (R324, R512). -/
def refuseBar0 (s : State) (q : Req) (write unpopulated : Bool) (off : Nat) : State :=
  match q with
  | .host f => hifViol s f.toNat write false (if unpopulated then 2 else 4) off
  | _ => s

/-- Answer a BAR0 access with Completer Abort (R337). -/
def abortBar0 (s : State) (q : Req) : State :=
  match q with
  | .host f => emit s (.completerAbort f.toNat)
  | _ => s

/-- A register write by a requester: its effect when the register lies in the requester's write view and is being
served; a host write outside it is discarded and recorded (R510, R512). A core's store outside its view has taken trap
0x04 at issue. -/
def regWrite (s : State) (q : Req) (off : Nat) (effect : State → State) : State :=
  match standing s q off true with
  | .allowed => if byFirmware off && s.comp.state ≠ .firmware then s else effect s
  | .reserved => s
  | .outside u => refuseBar0 s q true u off
  | .aborted => abortBar0 s q

end Sys2Proof.Machine
end

