-- ==== Sys2Proof/Machine/Operands.lean ====
section
/-! DEFINITION. Operand forms and instruction words: the encodings of Table 3.6 and R59 (a trap 0x01 or 0x05 reports the
instruction's word), sign extension, lanes of vector registers (R67, R39), the strings of groups of registers. -/

namespace Sys2Proof.Machine

/-! ### Instruction words (Table 3.6) -/

/-- The ALU format. -/
def encAlu (major rd ra rb func : Nat) : Nat := major * 2 ^ 26 + rd * 2 ^ 21 + ra * 2 ^ 16 + rb * 2 ^ 11 + func
/-- The M format of scalar loads and stores. -/
def encM (major rd ra size off : Nat) : Nat := major * 2 ^ 26 + rd * 2 ^ 21 + ra * 2 ^ 16 + size * 2 ^ 14 + off
/-- The V format. -/
def encV (major vd va vb pk fmt sub : Nat) : Nat :=
  major * 2 ^ 26 + vd * 2 ^ 21 + va * 2 ^ 16 + vb * 2 ^ 11 + pk * 2 ^ 8 + fmt * 2 ^ 4 + sub
/-- The VM format. -/
def encVm (major reg ga off sub : Nat) : Nat := major * 2 ^ 26 + reg * 2 ^ 21 + ga * 2 ^ 16 + off * 2 ^ 4 + sub
/-- The S format, major opcode 0x27. -/
def encS (rd ra rb imm7 func : Nat) : Nat :=
  0x27 * 2 ^ 26 + rd * 2 ^ 21 + ra * 2 ^ 16 + rb * 2 ^ 11 + imm7 * 2 ^ 4 + func
/-- The first word of a long form: its major opcode and bits [19:0] (R59). -/
def encLong (major low : Nat) : Nat := 0x3F * 2 ^ 26 + major * 2 ^ 20 + low
/-- Bits [19:0] that hold four register fields of 5 bits (R66, R73). -/
def fourRegs (a b c d : Nat) : Nat := a * 2 ^ 15 + b * 2 ^ 10 + c * 2 ^ 5 + d

/-- A sign-extended immediate or offset. -/
def sext {n : Nat} (x : BitVec n) : Word := x.signExtend 64

/-- A trap 0x01 of an instruction whose first word is w. -/
def illegal (s : State) (w : Nat) : Eff := .at s 1 0 w
/-- A trap 0x05 of an instruction whose first word is w. -/
def privileged (s : State) (w : Nat) : Eff := .at s 5 0 w

/-! ### Lanes (R67) -/

/-- Lane i of width w. -/
def laneOf (w : Nat) (x : Vec) (i : Nat) : Nat := fieldNat x.toNat (w * i) w
/-- The lanes of a register. -/
def lanesOf (w : Nat) (x : Vec) : List Nat := (List.range (1024 / w)).map (laneOf w x)
/-- A register from its lanes. -/
def ofLanes (w : Nat) (ls : List Nat) : Vec := BitVec.ofNat 1024 (ls.foldr (fun l a => a * 2 ^ w + l % 2 ^ w) 0)
/-- The lane width of a vector format: 0x0 32 bits, 0x1 and 0x2 16 bits; none otherwise (R67). -/
def vecWidth (fmt : Nat) : Option Nat := if fmt = 0 then some 32 else if fmt = 1 || fmt = 2 then some 16 else none

/-- The bits of a group of n registers from va on, the first lowest (R73). -/
def groupBits (x : CoreSt) (va n : Nat) : Nat :=
  (List.range n).foldr (fun i a => a * 2 ^ 1024 + (vreg x (va + i)).toNat) 0

end Sys2Proof.Machine
end

