-- ==== Sys2Proof/Machine/Flags.lean ====
section
/-! DEFINITION. The fields of cw_fmode (Table 2.4) and the flags of cw_fstat (R42) for the vector unit. -/

namespace Sys2Proof.Machine

/-- cw_fmode.rm. -/
def rmCode (x : CoreSt) : Nat := (getCw x 6).toNat % 8
/-- The rounding of vector arithmetic: stochastic acts as nearest even (R40, R41). -/
def rmOf (x : CoreSt) : Rounding := roundingOf (rmCode x)
/-- cw_fmode.ftz. -/
def ftzOf (x : CoreSt) : Bool := (getCw x 6).getLsbD 3
/-- cw_fmode.e4sat. -/
def e4satOf (x : CoreSt) : Bool := (getCw x 6).getLsbD 4
/-- cw_fmode.e5sat. -/
def e5satOf (x : CoreSt) : Bool := (getCw x 6).getLsbD 5
/-- cw_fmode.fe_trap. -/
def feTrapOf (x : CoreSt) : Bool := (getCw x 6).getLsbD 6
/-- The flags of several lanes together (R42). -/
def orFlags (fs : List Nat) : Nat := fs.foldl (fun a f => a ||| f) 0

end Sys2Proof.Machine
end

