-- ==== Sys2Proof/Machine/Scalar.lean ====
section
/-! DEFINITION. Scalar arithmetic, LI, branches, jumps and control-word access (R64 to R66, R58, R85). Loads and stores
are in Machine/LoadStore.lean. -/

namespace Sys2Proof.Machine

/-! ### Arithmetic -/

/-- The result of an instruction of some bytes in run-ahead: invalid when a source is (R83). -/
def raResult (size : Nat) (x : CoreSt) (rd : Nat) (srcs : List Nat) (w : Word) : CoreSt :=
  match x.ra with
  | none => x
  | some r =>
    let inv := srcs.any r.bad.contains
    let y := if inv then x else setGpr x rd w
    let bad := r.bad.filter (· != rd)
    raStep { y with ra := some { r with bad := if inv && rd != 0 then rd :: bad else bad } } size

/-- An instruction that writes rd from general registers: its sources and its result (R64). -/
def aluOp (s : State) (c rd : Nat) (srcs : List Nat) (f : CoreSt → Word) : State :=
  issue s c ⟨4, rd :: srcs, false⟩ (fun x => raResult 4 x rd srcs (f x))
    fun s => .go (modCore s c fun x => setGpr x rd (f x))

/-- A register-register operation. -/
def alu3 (s : State) (c rd ra rb : Nat) (f : Word → Word → Word) : State :=
  aluOp s c rd [ra, rb] fun x => f (gpr x ra) (gpr x rb)

/-- A register-immediate operation. -/
def aluImm (s : State) (c rd ra : Nat) (imm : Word) (f : Word → Word → Word) : State :=
  aluOp s c rd [ra] fun x => f (gpr x ra) imm

/-- The low 6 bits of a shift amount (R64). -/
def shamt (b : Word) : Nat := b.toNat % 64

/-- ADD (R64). -/
def execAdd (c : CoreId) (rd ra rb : GReg) (s : State) : Host.Outcome State Fault Refusal :=
  .next (alu3 s c.toNat rd.toNat ra.toNat rb.toNat fun a b => a + b)
/-- SUB (R64). -/
def execSub (c : CoreId) (rd ra rb : GReg) (s : State) : Host.Outcome State Fault Refusal :=
  .next (alu3 s c.toNat rd.toNat ra.toNat rb.toNat fun a b => a - b)
/-- AND (R64). -/
def execAnd (c : CoreId) (rd ra rb : GReg) (s : State) : Host.Outcome State Fault Refusal :=
  .next (alu3 s c.toNat rd.toNat ra.toNat rb.toNat fun a b => a &&& b)
/-- OR (R64). -/
def execOr (c : CoreId) (rd ra rb : GReg) (s : State) : Host.Outcome State Fault Refusal :=
  .next (alu3 s c.toNat rd.toNat ra.toNat rb.toNat fun a b => a ||| b)
/-- XOR (R64). -/
def execXor (c : CoreId) (rd ra rb : GReg) (s : State) : Host.Outcome State Fault Refusal :=
  .next (alu3 s c.toNat rd.toNat ra.toNat rb.toNat fun a b => a ^^^ b)
/-- SHL (R64). -/
def execShl (c : CoreId) (rd ra rb : GReg) (s : State) : Host.Outcome State Fault Refusal :=
  .next (alu3 s c.toNat rd.toNat ra.toNat rb.toNat fun a b => a <<< shamt b)
/-- SHR (R64). -/
def execShr (c : CoreId) (rd ra rb : GReg) (s : State) : Host.Outcome State Fault Refusal :=
  .next (alu3 s c.toNat rd.toNat ra.toNat rb.toNat fun a b => a >>> shamt b)
/-- SHA (R64). -/
def execSha (c : CoreId) (rd ra rb : GReg) (s : State) : Host.Outcome State Fault Refusal :=
  .next (alu3 s c.toNat rd.toNat ra.toNat rb.toNat fun a b => a.sshiftRight (shamt b))
/-- MUL: the low 64 bits of the product (R64). -/
def execMul (c : CoreId) (rd ra rb : GReg) (s : State) : Host.Outcome State Fault Refusal :=
  .next (alu3 s c.toNat rd.toNat ra.toNat rb.toNat fun a b => a * b)
/-- MULH: the high 64 bits of the signed 128-bit product (R64). -/
def execMulh (c : CoreId) (rd ra rb : GReg) (s : State) : Host.Outcome State Fault Refusal :=
  .next (alu3 s c.toNat rd.toNat ra.toNat rb.toNat fun a b =>
    BitVec.ofInt 64 (a.toInt * b.toInt / 2 ^ 64))

/-- 1 for true. -/
def boolWord (b : Bool) : Word := if b then 1 else 0

/-- SLT, signed or unsigned (R64). -/
def execSlt (c : CoreId) (rd ra rb : GReg) (uns : Bool) (s : State) : Host.Outcome State Fault Refusal :=
  .next (alu3 s c.toNat rd.toNat ra.toNat rb.toNat fun a b => boolWord (if uns then a.ult b else a.slt b))
/-- SEL: ra if bit 0 of p is 1, else rb (Table 3.8). -/
def execSel (c : CoreId) (rd ra rb : GReg) (p : PReg) (s : State) : Host.Outcome State Fault Refusal :=
  .next (aluOp s c.toNat rd.toNat [ra.toNat, rb.toNat] fun x =>
    if (preg x p.toNat).getLsbD 0 then gpr x ra.toNat else gpr x rb.toNat)
/-- ADD immediate, sign-extended (R64). -/
def execAddImmediate (c : CoreId) (rd ra : GReg) (imm : BitVec 16) (s : State) : Host.Outcome State Fault Refusal :=
  .next (aluImm s c.toNat rd.toNat ra.toNat (sext imm) fun a b => a + b)
/-- AND immediate, zero-extended (R64). -/
def execAndImmediate (c : CoreId) (rd ra : GReg) (imm : BitVec 16) (s : State) : Host.Outcome State Fault Refusal :=
  .next (aluImm s c.toNat rd.toNat ra.toNat (imm.setWidth 64) fun a b => a &&& b)
/-- OR immediate, zero-extended (R64). -/
def execOrImmediate (c : CoreId) (rd ra : GReg) (imm : BitVec 16) (s : State) : Host.Outcome State Fault Refusal :=
  .next (aluImm s c.toNat rd.toNat ra.toNat (imm.setWidth 64) fun a b => a ||| b)
/-- XOR immediate, zero-extended (R64). -/
def execXorImmediate (c : CoreId) (rd ra : GReg) (imm : BitVec 16) (s : State) : Host.Outcome State Fault Refusal :=
  .next (aluImm s c.toNat rd.toNat ra.toNat (imm.setWidth 64) fun a b => a ^^^ b)
/-- SLT immediate, sign-extended; signed, the only compare of major opcode 0x05 (R64, Table 3.8; log entry 21). -/
def execSltImmediate (c : CoreId) (rd ra : GReg) (imm : BitVec 16) (s : State) : Host.Outcome State Fault Refusal :=
  .next (aluImm s c.toNat rd.toNat ra.toNat (sext imm) fun a b => boolWord (a.slt b))
/-- SHL immediate (Table 3.8). -/
def execShlImmediate (c : CoreId) (rd ra : GReg) (amt : BitVec 6) (s : State) : Host.Outcome State Fault Refusal :=
  .next (aluImm s c.toNat rd.toNat ra.toNat (amt.setWidth 64) fun a b => a <<< shamt b)
/-- SHR immediate (Table 3.8). -/
def execShrImmediate (c : CoreId) (rd ra : GReg) (amt : BitVec 6) (s : State) : Host.Outcome State Fault Refusal :=
  .next (aluImm s c.toNat rd.toNat ra.toNat (amt.setWidth 64) fun a b => a >>> shamt b)
/-- SHA immediate (Table 3.8). -/
def execShaImmediate (c : CoreId) (rd ra : GReg) (amt : BitVec 6) (s : State) : Host.Outcome State Fault Refusal :=
  .next (aluImm s c.toNat rd.toNat ra.toNat (amt.setWidth 64) fun a b => a.sshiftRight (shamt b))
/-- LI: one halfword, the others cleared or kept (Table 3.8). -/
def execLi (c : CoreId) (rd : GReg) (hw : BitVec 2) (k : Bool) (imm : BitVec 16) (s : State) :
    Host.Outcome State Fault Refusal :=
  .next (aluOp s c.toNat rd.toNat (if k then [rd.toNat] else []) fun x =>
    BitVec.ofNat 64 (setFieldNat (if k then (gpr x rd.toNat).toNat else 0) (16 * hw.toNat) 16 imm.toNat))

/-! ### Branches and jumps (R64, R65, R85) -/

/-- The 2-bit counter of an address (R85); counters are 0 at first (log entry 22). -/
def bhtOf (x : CoreSt) (pc : Word) : Nat := (look (fun _ => 0) x.bht (pc.toNat / 4 % 1024)).toNat
/-- The counter after a branch: up when taken, down when not, kept in range (log entry 22). -/
def bhtNext (n : Nat) (taken : Bool) : Nat := if taken then min 3 (n + 1) else n - 1
/-- The core after a conditional branch has resolved: its counter, and whether it was mispredicted. -/
def predict (x : CoreSt) (pc : Word) (taken : Bool) : CoreSt :=
  let n := bhtOf x pc
  { x with
    bht := put (fun _ => 0) x.bht (pc.toNat / 4 % 1024) (BitVec.ofNat 2 (bhtNext n taken))
    mispred := decide (2 ≤ n) != taken }

/-- A branch in run-ahead follows its prediction (R83). -/
def raBranch (off : Word) (x : CoreSt) : CoreSt :=
  match x.ra with
  | none => x
  | some r =>
    { x with
      pc := if 2 ≤ bhtOf x x.pc then x.pc + 4 * off else x.pc + 4
      ra := some { r with left := r.left - 1 } }

/-- A conditional branch (R64): target = own address + 4 × offset. -/
def branch (s : State) (c ra rb : Nat) (off : BitVec 16) (f : Word → Word → Bool) : State :=
  issue s c ⟨4, [ra, rb], false⟩ (raBranch (sext off)) fun s =>
    let x := getCore s c
    let taken := f (gpr x ra) (gpr x rb)
    let s1 := setCore s c (predict x x.pc taken)
    if taken then .jump s1 (x.pc + 4 * sext off) else .go s1

/-- BEQ. -/
def execBeq (c : CoreId) (ra rb : GReg) (off : BitVec 16) (s : State) : Host.Outcome State Fault Refusal :=
  .next (branch s c.toNat ra.toNat rb.toNat off fun a b => a == b)
/-- BNE. -/
def execBne (c : CoreId) (ra rb : GReg) (off : BitVec 16) (s : State) : Host.Outcome State Fault Refusal :=
  .next (branch s c.toNat ra.toNat rb.toNat off fun a b => a != b)
/-- BLT, signed. -/
def execBlt (c : CoreId) (ra rb : GReg) (off : BitVec 16) (s : State) : Host.Outcome State Fault Refusal :=
  .next (branch s c.toNat ra.toNat rb.toNat off fun a b => a.slt b)
/-- BGE, signed. -/
def execBge (c : CoreId) (ra rb : GReg) (off : BitVec 16) (s : State) : Host.Outcome State Fault Refusal :=
  .next (branch s c.toNat ra.toNat rb.toNat off fun a b => b.sle a)

/-- Push a return address; the return stack overwrites its oldest entry (R85). -/
def pushRas (x : CoreSt) (a : Word) : CoreSt := { x with ras := (a :: x.ras).take 8 }

/-- The link register g31 and the return stack after a call (Table 3.8). -/
def linked (x : CoreSt) : CoreSt := pushRas (setGpr x 31 (x.pc + 4)) (x.pc + 4)

/-- A jump in run-ahead (R83): to its target, or where the prediction of a register jump leads. -/
def raJump (link : Bool) (target : CoreSt → Word) (x : CoreSt) : CoreSt :=
  match x.ra with
  | none => x
  | some r =>
    let y := if link then setGpr x 31 (x.pc + 4) else x
    { y with
      pc := target x
      ra := some { r with left := r.left - 1, bad := if link then r.bad.filter (· != 31) else r.bad } }

/-- JUMP: target = own address + 4 × offset (Table 3.8). -/
def execJump (c : CoreId) (off : BitVec 25) (s : State) : Host.Outcome State Fault Refusal :=
  .next (issue s c.toNat ⟨4, [], false⟩ (raJump false fun x => x.pc + 4 * sext off) fun s =>
    .jump s ((getCore s c.toNat).pc + 4 * sext off))
/-- CALL: the same, with own address + 4 written to g31. -/
def execCall (c : CoreId) (off : BitVec 25) (s : State) : Host.Outcome State Fault Refusal :=
  .next (issue s c.toNat ⟨4, [31], false⟩ (raJump true fun x => x.pc + 4 * sext off) fun s =>
    .jump (modCore s c.toNat linked) ((getCore s c.toNat).pc + 4 * sext off))

/-- The slot of the target buffer of an address (R85). -/
def btbSlot (pc : Word) : Nat := pc.toNat / 4 % 64
/-- Where the target buffer leads; a slot that holds nothing predicts the next instruction (log entry 22). -/
def btbTarget (x : CoreSt) : Word :=
  let t := look (fun _ => 0) x.btb (btbSlot x.pc)
  if t = 0 then x.pc + 4 else t

/-- A jump through a register, predicted by the target buffer (R65, R85). -/
def jumpReg (s : State) (c ra : Nat) (link : Bool) : State :=
  issue s c ⟨4, if link then [ra, 31] else [ra], false⟩ (raJump link btbTarget) fun s =>
    let x := getCore s c
    let t := gpr x ra
    if t.toNat % 4 ≠ 0 then .at s 4 0 t.toNat
    else
      let y := { x with mispred := btbTarget x != t, btb := put (fun _ => 0) x.btb (btbSlot x.pc) t }
      .jump (setCore s c (if link then linked y else y)) t

/-- JUMP through a register. -/
def execJumpRegister (c : CoreId) (ra : GReg) (s : State) : Host.Outcome State Fault Refusal :=
  .next (jumpReg s c.toNat ra.toNat false)
/-- CALL through a register. -/
def execCallRegister (c : CoreId) (ra : GReg) (s : State) : Host.Outcome State Fault Refusal :=
  .next (jumpReg s c.toNat ra.toNat true)
/-- Where the return stack leads; an empty one predicts the next instruction. -/
def rasTarget (x : CoreSt) : Word := x.ras.headD (x.pc + 4)
/-- RET: to g31, predicted by the return stack (Table 3.8, R85). -/
def execRet (c : CoreId) (s : State) : Host.Outcome State Fault Refusal :=
  .next (issue s c.toNat ⟨4, [31], false⟩ (raJump false rasTarget) fun s =>
    let x := getCore s c.toNat
    let t := gpr x 31
    if t.toNat % 4 ≠ 0 then .at s 4 0 t.toNat
    else .jump (setCore s c.toNat { x with mispred := rasTarget x != t, ras := x.ras.drop 1 }) t)

/-- A branch has resolved against its prediction: the younger instructions are discarded, the core goes on at the
right one (R85). -/
def execBranchMisprediction (c : CoreId) (s : State) : Host.Outcome State Fault Refusal :=
  .next (if (getCore s c.toNat).mispred then
    bumpCore (modCore s c.toNat fun x => { x with mispred := false }) 0x03 7 c.toNat else s)

/-! ### Control words (R58, R66) -/

/-- The control words that a chapter allots (Tables 3.2, 17.14). -/
def cwAllotted (n : Nat) : Bool :=
  n < 0x12 || n == 0x18 || n == 0x19 || n == 0x1A || n == 0x20 || n == 0x21 || n == 0x28 || n == 0x29 || n == 0x30 ||
    (0x38 ≤ n && n < 0x40)

/-- cw_pstat (Table 4.5). -/
def pstatWord (s : State) (c : Nat) : Word :=
  let x := getCore s c
  let k := getCl s (c / 16)
  let i := c % 16
  BitVec.ofNat 64 (x.wfmt * 2 ^ 20 + (k.absent || k.failed || x.noPress).toNat * 2 ^ 16 + (openRun k i).toNat * 2 ^ 8 +
    (pressQueue k i).length)

/-- cw_nbstat: the queue length of each bank unit (Table 6.5). -/
def nbstatWord (s : State) (c : Nat) : Word :=
  let v := getVein s c
  BitVec.ofNat 64 ((List.range 16).foldr (fun u a => a * 16 + (getUnit v u).queue.length) 0)

/-- cw_tstat (Table 9.14). -/
def tstatWord (s : State) (c : Nat) : Word :=
  let x := getCore s c
  let bits := fun k => (List.range 8).foldr (fun e a => a * 2 + ((getStream x e).kind == k).toNat) 0
  BitVec.ofNat 64 (((getCl s (c / 16)).xfers.filter fun t => t.core == c && !t.drop).length * 2 ^ 16 +
    bits .recv * 2 ^ 8 + bits .send)

/-- The value of a control word; the counts are brought up to the present (Tables 3.2, 17.14). -/
def readCw (s : State) (c n : Nat) : Word :=
  let x := syncCoreSt (elapsed s) (getCl s (c / 16)) (getCore s c)
  match n with
  | 0x08 => BitVec.ofNat 64 c
  | 0x09 => BitVec.ofNat 64 (partNum s c)
  | 0x0C => BitVec.ofNat 64 ((x.wdogNs + 999) / 1000)
  | 0x0F => BitVec.ofNat 64 (x.cyc10 / 10)
  | 0x11 => pstatWord s c
  | 0x18 => BitVec.ofNat 64 x.moves.length
  | 0x1A => nbstatWord s c
  | 0x21 => BitVec.ofNat 64 x.appends.length
  | 0x28 => match x.bind with
    | some b => BitVec.ofNat 64 (2 ^ 63 + b.seq)
    | none => 0
  | 0x29 => match x.bind with
    | some b => BitVec.ofNat 64 b.counter
    | none => 0
  | 0x30 => tstatWord s c
  | n => if 0x38 ≤ n then getReg s (oCoPmc c (n - 0x38)) else getCw x n

/-- The writable bits of a control word held as a word; 0 for one that is read-only (R9, Tables 3.2 to 3.5, 2.4, 4.4,
6.4, 7.10). -/
def cwMask (n : Nat) : Nat :=
  match n with
  | 0x00 => 6
  | 0x01 => 2 ^ 64 - 4
  | 0x02 => 2 ^ 64 - 1
  | 0x03 => 0xFFC03F
  | 0x04 => 2 ^ 64 - 1
  | 0x05 => 2 ^ 64 - 1
  | 0x06 => 0x7F
  | 0x0B => 2 ^ 64 - 1
  | 0x0C => 2 ^ 32 - 1
  | 0x0D => 2 ^ 32 - 1
  | 0x0E => 0x1FF
  | 0x10 => 0x7FF03FF
  | 0x19 => 0xFF
  | 0x20 => 2 ^ 64 - 2 ^ 51 + 2 ^ 48 - 64
  | _ => 0

/-- The control words that task level may write (R58). -/
def cwTask (n : Nat) : Bool := n == 6 || n == 7 || n == 0xA || n == 0xB

/-- Write a control word (R58, R8): cw_fstat and cw_event are w1c; a write of cw_timer at or below the present hallmark
sets event 48 at once and clears it (Table 3.13); a write of cw_wdog reloads it (R102). -/
def writeCw (s : State) (c n : Nat) (w : Word) : State :=
  match n with
  | 0x07 => modCore s c fun x => setCw x 7 (getCw x 7 &&& ~~~w)
  | 0x0A => modCore s c fun x => setCw x 0xA (getCw x 0xA &&& ~~~w)
  | 0x0B =>
    if w ≠ 0 && decide (w.toNat ≤ s.hallmark) then modCore s c fun x => setEventBits (setCw x 0xB 0) (1 <<< 48)
    else modCore s c fun x => setCw x 0xB w
  | 0x0C =>
    modCore (syncCore s c) c fun x => { setCw x 0xC (masked (cwMask 0xC) 0 w) with wdogNs := w.toNat % 2 ^ 32 * 1000 }
  | n => modCore s c fun x => setCw x n (masked (cwMask n) (getCw x n) w)

/-- The long form of OR that reads a control word (R66); it is scalar arithmetic in run-ahead (R83). -/
def execOrControlWordRead (c : CoreId) (rd : GReg) (cw : BitVec 6) (s : State) : Host.Outcome State Fault Refusal :=
  .next (issue s c.toNat ⟨8, [rd.toNat], false⟩ (fun x => raResult 8 x rd.toNat [] (readCw s c.toNat cw.toNat)) fun s =>
    if cwAllotted cw.toNat then .go (modCore s c.toNat fun x => setGpr x rd.toNat (readCw s c.toNat cw.toNat))
    else illegal s (encLong 0 (fourRegs rd.toNat (cw.toNat % 32) 0 0)))

/-- The long form of OR that writes a control word: serialising (R54, R58, R66). -/
def execOrControlWordWrite (c : CoreId) (cw : BitVec 6) (ra : GReg) (s : State) : Host.Outcome State Fault Refusal :=
  let word := encLong 0 (fourRegs (cw.toNat % 32) ra.toNat 0 0)
  .next (issue s c.toNat ⟨8, [ra.toNat], true⟩ (raSkip 8) fun s =>
    let x := getCore s c.toNat
    if !cwAllotted cw.toNat then illegal s word
    else if atTask x && !cwTask cw.toNat then privileged s word
    else .go (writeCw s c.toNat cw.toNat (gpr x ra.toNat)))

end Sys2Proof.Machine
end

