-- ==== Sys2Proof/Machine/System.lean ====
section
/-! DEFINITION. System instructions and the events of a core: WAIT, FENCE, HMARK, SIGNAL, BARRIER, TRAPRET, HALT, the
watchdog and the timer, run-ahead, and the control of a core through CO_CTL and CO_EVENT (R77, R78, R83 to R104). -/

namespace Sys2Proof.Machine

/-! ### Release and acquire points (R78, R81, R169, R230) -/

/-- Whether every older store, move and append of a core has completed and every failure of one has been reported. -/
def drained (x : CoreSt) : Bool := x.buf.isEmpty && x.failed.isEmpty && x.moves.isEmpty && x.appends.isEmpty

/-- Whether a bank-unit command stores to a local store when it completes: a product that delivers its own results
(R201). -/
def NbCmd.stores : NbCmd → Bool
  | .product _ _ _ _ _ _ out cmb => out && !cmb
  | _ => false

/-- Whether a product or drain of a core has bytes still to write (R201; log entry 164). -/
def nbStoring (s : State) (c : Nat) : Bool :=
  let v := getVein s c
  !v.drains.isEmpty || (List.range 16).any fun u => (getUnit v u).queue.any (·.2.stores)

/-- Whether a core stands at a release point with nothing to wait for. -/
def released (s : State) (c : Nat) : Bool := drained (getCore s c) && !nbStoring s c

/-- A release point: it waits for older stores, moves, appends, products and drains, then reports a deferred failure;
otherwise it goes on (R78, R81, R201). -/
def release (s : State) (c : Nat) (k : State → Eff) : Eff :=
  let x := getCore s c
  if !released s c then .stall s
  else match x.deferred with
    | some t => .trap (modCore s c fun x => { x with deferred := none, more := false }) t true x.more
    | none => k s

/-! ### WAIT (R87) -/

/-- A core begins to wait. -/
def beginWait (s : State) (c : Nat) (w : WaitOn) : State :=
  modCore (syncCore s c) c fun x => { x with wait := some w, run := .waiting, waitSince := elapsed s, waited := 0 }

/-- WAIT: returns at once when a masked event is set, and waits otherwise; a mask of zero without a timeout takes trap
0x01 (R87). -/
def execWait (c : CoreId) (rd ra rb : GReg) (s : State) : Host.Outcome State Fault Refusal :=
  .next (issue s c.toNat ⟨4, [rd.toNat, ra.toNat, rb.toNat], true⟩ (raSkip 4) fun s =>
    let x := getCore s c.toNat
    let mask := gpr x ra.toNat
    let limit := gpr x rb.toNat
    let m := getCw x 0xA &&& mask
    if mask = 0 && limit = 0 then illegal s (encS rd.toNat ra.toNat rb.toNat 0 0)
    else if m ≠ 0 then
      .go (modCore s c.toNat fun x => acquire (setGpr (setCw x 0xA (getCw x 0xA &&& ~~~mask)) rd.toNat m))
    else
      .stall (beginWait s c.toNat (.event mask rd.toNat (if limit = 0 then none else some limit.toNat))))

/-- The timeout of a WAIT expires: rd = 0 (R87, R363). -/
def execWaitTimeout (c : CoreId) (s : State) : Host.Outcome State Fault Refusal :=
  .next (
    let s1 := syncCore s c.toNat
    let x := getCore s1 c.toNat
    match x.wait with
    | some (.event _ rd (some limit)) =>
      let left := limit - x.waited
      if left ≠ 0 && (getCl s (c.toNat / 16)).paused then s
      else endWait (advanceTo s1 (elapsed s1 + left)) c.toNat fun x => setGpr x rd 0
    | _ => s)

/-! ### FENCE, HMARK, SIGNAL -/

/-- FENCE (R89). A set bit of imm7[6:2] is a reserved field in use (R59). -/
def execFence (c : CoreId) (imm : BitVec 7) (s : State) : Host.Outcome State Fault Refusal :=
  .next (issue s c.toNat ⟨4, [], true⟩ (raSkip 4) fun s =>
    match imm.toNat with
    | 1 => release s c.toNat fun s => .go (modCore s c.toNat acquire)
    | 2 => .go (modCore s c.toNat fun x => { x with icache := [] })
    | 3 => release s c.toNat fun s => .go (modCore s c.toNat fun x => { acquire x with icache := [] })
    | n => illegal s (encS 0 0 0 n 1))

/-- HMARK: rd takes the hallmark (R90). -/
def execHmark (c : CoreId) (rd : GReg) (s : State) : Host.Outcome State Fault Refusal :=
  .next (issue s c.toNat ⟨4, [rd.toNat], false⟩ (raSkip 4) fun s =>
    .go (modCore s c.toNat fun x => setGpr x rd.toNat (BitVec.ofNat 64 s.hallmark)))

/-- SIGNAL: a release point, then the event is on its way to its target (R88). -/
def execSignal (c : CoreId) (ra : GReg) (imm : BitVec 7) (s : State) : Host.Outcome State Fault Refusal :=
  .next (issue s c.toNat ⟨4, [ra.toNat], true⟩ (raSkip 4) fun s =>
    let target := (gpr (getCore s c.toNat) ra.toNat).toNat % 4096
    if 47 < imm.toNat then illegal s (encS 0 ra.toNat 0 imm.toNat 3)
    else if !populated s target || partOf s target ≠ partOf s c.toNat then .at s 4 0 target
    else release s c.toNat fun s => .go { s with signals := s.signals ++ [⟨c.toNat, target, imm.toNat⟩] })

/-- Whether a core can take events: its cluster is not in a reset or off, its die is up (R439, R440). -/
def takesEvents (s : State) (c : Nat) : Bool :=
  populated s c && dieUp s (c / 1024) && (getCl s (c / 16)).power == .on

/-- The oldest signal sent to a core reaches it (R88), over the plain engines from another die (R304); during a reset of its cluster it is discarded (R439). -/
def execSignalArrival (target : CoreId) (s : State) : Host.Outcome State Fault Refusal :=
  .next (match s.signals.find? (·.target == target.toNat) with
    | none => s
    | some g =>
      let d := if g.source < 4096 then g.source / 1024 else g.source - 4096
      if crossing s false d (target.toNat / 1024) = .held then s else
      let s0 := countCross s false d (target.toNat / 1024) 0 0
      let s1 := { s0 with signals := s.signals.eraseP (·.target == target.toNat) }
      if takesEvents s target.toNat then signalEvent s1 target.toNat g.event else s1)

/-! ### BARRIER (R91 to R95) -/

/-- The barrier that an ID names for a core: cluster barriers of its cluster, device barriers of its partition (R91). -/
def barKey (s : State) (c id : Nat) : Option Nat :=
  if id < 0x40 then some (c / 16 * 64 + id)
  else match partOf s c with
    | none => none
    | some p =>
      let l := getPart s p
      if 0x100 ≤ id && id < 0x500 && l.barBase ≤ id && id < l.barBase + l.barriers then some (0x10000 + id) else none

/-- Whether generation g of a barrier has completed; generations wrap (R91, log entry 25). -/
def genDone (b : Barrier) (g : Nat) : Bool :=
  let d := (b.gen + 2 ^ 32 - g % 2 ^ 32) % 2 ^ 32
  decide (0 < d) && decide (d < 2 ^ 31)

/-- Insert into a rising list. -/
def insertRising (x : Nat) : List Nat → List Nat
  | [] => [x]
  | y :: r => if x ≤ y then x :: y :: r else y :: insertRising x r

/-- The lags of a completed generation, by cluster: the arrival of each cluster is its latest core's, and the median is
the arrival of rank (n - 1) / 2; none with fewer than 4 clusters (R501). -/
def barrierLags (arrivals : List (Nat × Nat)) : List (Nat × Nat) :=
  let ks := (arrivals.map (·.1 / 16)).eraseDups
  let at_ := ks.map fun k => (k, (arrivals.filter (·.1 / 16 == k)).foldl (fun m a => max m a.2) 0)
  if at_.length < 4 then []
  else
    let sorted := at_.foldr (fun a l => insertRising a.2 l) []
    let med := sorted.getD ((at_.length - 1) / 2) 0
    at_.map fun a => (a.1, a.2 - med)

/-- Note the lags of a completed generation of a device barrier. -/
def noteLags (s : State) (key : Nat) (arrivals : List (Nat × Nat)) : State :=
  if key < 0x10000 then s
  else (barrierLags arrivals).foldl (fun s l =>
    modCl s l.1 fun k => { k with lagSum := k.lagSum + l.2, lagCnt := k.lagCnt + 1 }) s

/-- The cores that wait on a generation of a barrier, which has completed: their release is on its way (R92). -/
def freeWaiters (s : State) (key gen : Nat) : State :=
  { s with cores := s.cores.map fun e => (e.1, match e.2.wait with
      | some (.barrier k id g rd _) =>
        if k = key && g = gen then { e.2 with wait := some (.barrier k id g rd true) } else e.2
      | _ => e.2) }

/-- Count an arrival and trace it; the last one completes the generation (R92, R94, Table 16.8). -/
def barArrive (s : State) (c key id : Nat) : State :=
  let b := getBar s key
  let s1 := trace (bumpCore s 0x03 11 c) (c / 16) 3 c [id, b.gen]
  let arrivals := b.arrivals ++ [(c, s.hallmark)]
  if b.count ≤ b.arrived + 1 then
    noteLags (setBar (freeWaiters s1 key b.gen) key { b with
      arrived := 0, gen := (b.gen + 1) % 2 ^ 32, arrivals := [] }) key arrivals
  else setBar s1 key { b with arrived := b.arrived + 1, arrivals := arrivals }

/-- A form of BARRIER on the barrier that ra names: any other ID takes trap 0x04 (R91). -/
def withBarrier (s : State) (c ra : Nat) (k : Nat → Nat → Eff) : Eff :=
  let id := (gpr (getCore s c) ra).toNat % 4096
  match barKey s c id with
  | none => .at s 4 0 id
  | some key => k key id

/-- BARRIER, arrive and wait: a release point, an arrival, the wait until that generation completes (Table 3.14). -/
def execBarrierArriveAndWait (c : CoreId) (rd ra : GReg) (s : State) : Host.Outcome State Fault Refusal :=
  .next (issue s c.toNat ⟨4, [rd.toNat, ra.toNat], true⟩ (raSkip 4) fun s =>
    withBarrier s c.toNat ra.toNat fun key id => release s c.toNat fun s =>
      let gen := (getBar s key).gen
      let s1 := modCore (barArrive s c.toNat key id) c.toNat fun x => setGpr x rd.toNat (BitVec.ofNat 64 gen)
      .stall (beginWait s1 c.toNat (.barrier key id gen rd.toNat (genDone (getBar s1 key) gen))))

/-- BARRIER, arrive: a release point and an arrival (Table 3.14). -/
def execBarrierArrive (c : CoreId) (rd ra : GReg) (s : State) : Host.Outcome State Fault Refusal :=
  .next (issue s c.toNat ⟨4, [rd.toNat, ra.toNat], true⟩ (raSkip 4) fun s =>
    withBarrier s c.toNat ra.toNat fun key id => release s c.toNat fun s =>
      let gen := (getBar s key).gen
      .go (modCore (barArrive s c.toNat key id) c.toNat fun x => setGpr x rd.toNat (BitVec.ofNat 64 gen)))

/-- BARRIER, wait: until generation rb has completed; an acquire point (Table 3.14). -/
def execBarrierWait (c : CoreId) (rd ra rb : GReg) (s : State) : Host.Outcome State Fault Refusal :=
  .next (issue s c.toNat ⟨4, [rd.toNat, ra.toNat, rb.toNat], true⟩ (raSkip 4) fun s =>
    withBarrier s c.toNat ra.toNat fun key id =>
      let gen := (gpr (getCore s c.toNat) rb.toNat).toNat % 2 ^ 32
      if genDone (getBar s key) gen then .go (modCore s c.toNat acquire)
      else .stall (beginWait s c.toNat (.barrier key id gen rd.toNat false)))

/-- End the wait of a core in BARRIER with a trap 0x0D: rd holds the generation, cw_tpc the next instruction (R93,
R95). -/
def barrierTrap (s : State) (c sub : Nat) : State :=
  match (getCore s c).wait with
  | some (.barrier _ id gen rd _) =>
    let s1 := endWait s c fun x => setGpr x rd (BitVec.ofNat 64 gen)
    takeTrap s1 c ⟨0xD, sub, id⟩ (getCore s1 c).pc false false
  | _ => s

/-- Whether a core waits on a barrier whose generation has not completed for it. -/
def waitsOn (x : CoreSt) (key : Nat) : Bool :=
  match x.wait with
  | some (.barrier k _ _ _ freed) => k == key && !freed
  | _ => false

/-- BARRIER, init: supervisor only; with arrivals pending it releases the waiting cores with trap 0x0D sub 1 (R92,
R93). -/
def execBarrierInit (c : CoreId) (ra rb : GReg) (s : State) : Host.Outcome State Fault Refusal :=
  .next (issue s c.toNat ⟨4, [ra.toNat, rb.toNat], true⟩ (raSkip 4) fun s =>
    let x := getCore s c.toNat
    let n := (gpr x rb.toNat).toNat
    if atTask x then privileged s (encS 0 ra.toNat rb.toNat 3 4)
    else withBarrier s c.toNat ra.toNat fun key _ =>
      if n = 0 || (if key < 0x10000 then 16 else 4096) < n then .at s 4 0 n
      else
        let pending := decide (0 < (getBar s key).arrived)
        let s1 := setBar s key ⟨n, 0, 0, []⟩
        let waiting := (s1.cores.filter fun e => waitsOn e.2 key).map (·.1)
        .go (if pending then waiting.foldl (fun s c => barrierTrap s c 1) s1 else s1))

/-- The generation that a core waits for on a barrier number, once it has completed; an init or a commit after that
does not take the release back (R92). -/
def releasedGen (s : State) (id c : Nat) : Option Nat :=
  match (getCore s c).wait with
  | some (.barrier _ i gen _ freed) => if i == id && freed then some gen else none
  | _ => none

/-- A completed generation releases the cores of a cluster that wait on it, with one trace record of the cluster; in a
pause the release takes effect at its end (R92, R94, R386, Table 16.8). -/
def execBarrierRelease (k : ClusterId) (id : BitVec 12) (s : State) : Host.Outcome State Fault Refusal :=
  .next (if (getCl s k.toNat).paused then s
    else
      match (coresOf k.toNat).filterMap (releasedGen s id.toNat) with
      | [] => s
      | gen :: _ =>
        (coresOf k.toNat).foldl (fun s c =>
          if (releasedGen s id.toNat c).isSome then endWait s c id_ else s) (trace s k.toNat 4 k.toNat [id.toNat, gen]))
where
  /-- The release writes nothing. -/
  id_ (x : CoreSt) : CoreSt := x

/-- A core has waited cw_bartime µs in BARRIER without release: trap 0x0D (R95); a pause does not count (R387). -/
def execBarrierTimeout (c : CoreId) (s : State) : Host.Outcome State Fault Refusal :=
  .next (
    let s1 := syncCore s c.toNat
    let x := getCore s1 c.toNat
    match x.wait with
    | some (.barrier _ _ _ _ false) =>
      let limit := (getCw x 0xD).toNat % 2 ^ 32 * 1000
      let left := limit - x.waited
      if limit = 0 || (left ≠ 0 && (getCl s (c.toNat / 16)).paused) then s
      else barrierTrap (advanceTo s1 (elapsed s1 + left)) c.toNat 0
    | _ => s)

/-! ### TRAPRET and HALT -/

/-- TRAPRET: the level of ppl, tact cleared, on at cw_tpc; a deferred failure is taken there as a trap (R61, R62,
R100). -/
def execTrapret (c : CoreId) (s : State) : Host.Outcome State Fault Refusal :=
  .next (issue s c.toNat ⟨4, [], true⟩ (raSkip 4) fun s =>
    let x := getCore s c.toNat
    if atTask x then privileged s (encS 0 0 0 0 5)
    else
      let st := getCw x 0
      let st1 : Word := (st &&& ~~~(5 : Word)) ||| (if st.getLsbD 1 then 1 else 0)
      let tpc := getCw x 2 &&& ~~~(3 : Word)
      let y := { setCw x 0 st1 with deferred := none, more := false }
      match x.deferred with
      | none => .jump (setCore s c.toNat y) tpc
      | some t => .jumpTrap (setCore s c.toNat y) tpc t true x.more)

/-- HALT: a release point; the core halts once its unit operations have ended (R96). -/
def execHalt (c : CoreId) (s : State) : Host.Outcome State Fault Refusal :=
  .next (settle (issue s c.toNat ⟨4, [], true⟩ (raSkip 4) fun s =>
    release s c.toNat fun s => .go (modCore s c.toNat fun x => { x with halting := true })) c.toNat)

/-! ### Watchdog and timer (R86, R102) -/

/-- End a wait in the way a watchdog or a halt request does: WAIT with rd = 0, BARRIER with rd = the generation (R95,
R96). -/
def cancelWait (s : State) (c : Nat) : State :=
  match (getCore s c).wait with
  | some (.event _ rd _) => endWait s c fun x => setGpr x rd 0
  | some (.barrier _ _ gen rd _) => endWait s c fun x => setGpr x rd (BitVec.ofNat 64 gen)
  | _ => s

/-- Whether a core waits for the answer of a synchronous instruction, which no interruption ends. -/
def waitsForAnswer (x : CoreSt) : Bool :=
  match x.wait with
  | some (.cache _ _ _ _) => true
  | some (.topen _ _) => true
  | _ => false

/-- cw_wdog reaches zero: trap 0x10 at the instruction boundary, the count at zero (R98, R102). -/
def execWatchdogExpiry (c : CoreId) (s : State) : Host.Outcome State Fault Refusal :=
  .next (
    let s1 := syncCore s c.toNat
    let x := getCore s1 c.toNat
    let off := (getCw x 0xC).toNat % 2 ^ 32 == 0 || !wdogRuns x.run || x.halting || x.dbl.isSome ||
      x.resetting.isSome || !x.loads.isEmpty || waitsForAnswer x || (getCl s (c.toNat / 16)).paused ||
      (getCl s (c.toNat / 16)).power != .on
    if off then s
    else
      let s2 := cancelWait (advanceTo s1 (elapsed s1 + x.wdogNs)) c.toNat
      let s3 := modCore s2 c.toNat fun x => { leaveRunAhead (setCw x 0xC 0) with wdogNs := 0 }
      takeTrap s3 c.toNat ⟨0x10, 0, 0⟩ (getCore s3 c.toNat).pc false false)

/-- The hallmark reaches cw_timer: event 48, and cw_timer is cleared (Table 3.13). -/
def execTimerEvent (c : CoreId) (s : State) : Host.Outcome State Fault Refusal :=
  .next (
    let t := (getCw (getCore s c.toNat) 0xB).toNat
    if t = 0 then s
    else
      let s1 := advanceTo s (elapsed s + (t - s.hallmark))
      signalEvent (modCore s1 c.toNat fun x => setCw x 0xB 0) c.toNat 48)

/-! ### Run-ahead (R83, R84) -/

/-- Whether a load may stall its core long enough: its address lies in a vein, far memory, or a local store outside the
core's cluster. -/
def raLoad (c : Nat) (l : OutLoad) : Bool :=
  match placeOf l.addr with
  | .ls d _ => d / 16 != c / 16
  | .vein _ _ => true
  | .far _ _ => true
  | _ => false

/-- Whether the core's next instruction has been found to wait on a load that may stall it (R83). -/
def stallLoad (x : CoreSt) (c : Nat) (l : OutLoad) : Bool := raLoad c l && x.blocked.contains l.rd

/-- The time of 24 cycles of a cluster's clock in ns, rounded up. -/
def raDelay (k : ClusterSt) : Nat := (240 + clTenths k - 1) / clTenths k

/-- Run-ahead begins when the load on which the next instruction waits has been outstanding for 24 cycles: the
checkpoint is taken; the registers still to be written are invalid (R83). -/
def execRunAheadEntry (c : CoreId) (s : State) : Host.Outcome State Fault Refusal :=
  .next (
    let x := getCore s c.toNat
    let w := getCw x 0xE
    match x.loads.find? (stallLoad x c.toNat) with
    | none => s
    | some l =>
      if !canIssue s c.toNat || x.ra.isSome || !w.getLsbD 8 then s
      else
        let left := max 1 (w.toNat % 256)
        let s1 := advanceTo s (l.at_ + raDelay (getCl s (c.toNat / 16)))
        bumpCore (setCore s1 c.toNat { x with ra := some ⟨x.g, x.p, x.pc, left, busyRegs s c.toNat⟩ }) 0x03 5 c.toNat)

/-- The window of run-ahead is used up: the checkpoint is restored (R84). -/
def execRunAheadWindowEnd (c : CoreId) (s : State) : Host.Outcome State Fault Refusal :=
  .next (
    let x := getCore s c.toNat
    if x.ra.any fun r => r.left == 0 then setCore s c.toNat (leaveRunAhead x) else s)

/-! ### CO_CTL and CO_EVENT (R103, R104) -/

/-- CO_CTL.start: a core in its reset state or halted starts; a start that arrives during a reset acts after it (R103,
R509). -/
def ctlStart (s : State) (c : Nat) : State :=
  let x := getCore s c
  if x.resetting.isSome then setCore s c { x with resetting := some true }
  else if takesEvents s c && (x.run == .reset || x.run == .halted) then startCore s c else s

/-- CO_CTL.reset, and whether a start was written with it (Table 3.16); one that arrives during a reset acts after it,
on a core that a start before it may have started (R509). -/
def ctlReset (s : State) (c : Nat) (start : Bool) : State :=
  if (getCore s c).resetting.isSome then modCore s c fun x => { x with resetting := some start }
  else if takesEvents s c then settleJobs (resetCore s c (some start)) else s

/-- CO_CTL.halt_req: the core halts at its next instruction boundary; a wait ends (R96). -/
def ctlHalt (s : State) (c : Nat) : State :=
  let x := getCore s c
  if takesEvents s c && wdogRuns x.run && x.dbl.isNone && x.resetting.isNone then
    settle (modCore (cancelWait s c) c fun x => { leaveRunAhead x with halting := true }) c
  else s

/-- A write of CO_EVENT: bits [47:0] (R86, Table 3.15). -/
def ctlEvent (s : State) (c : Nat) (w : Word) : State :=
  if takesEvents s c then wake (modCore s c fun x => setEventBits x (w &&& BitVec.ofNat 64 (2 ^ 48 - 1))) c else s

/-- CO_CTL written whole: reset acts first, and then start once it has ended; a halt_req with it is ignored (Table 3.16).
Of a halt_req and a start without reset the halt_req acts first (DESIGN CHOICE, log entry 157). -/
def ctlWrite (s : State) (c : Nat) (w : Word) : State :=
  if w.getLsbD 1 then ctlReset s c (w.getLsbD 0)
  else
    let s1 := if w.getLsbD 2 then ctlHalt s c else s
    if w.getLsbD 0 then ctlStart s1 c else s1

/-- A write of CO_CTL.start. -/
def execCoreStart (r : Req) (c : CoreId) (s : State) : Host.Outcome State Fault Refusal :=
  .next (regWrite s r (oCoCtl c.toNat) fun s => ctlStart s c.toNat)
/-- A write of CO_CTL.reset. -/
def execCoreReset (r : Req) (c : CoreId) (start : Bool) (s : State) : Host.Outcome State Fault Refusal :=
  .next (regWrite s r (oCoCtl c.toNat) fun s => ctlReset s c.toNat start)
/-- The 64 cycles of a core reset end; a start written with it takes effect (R103). -/
def execCoreResetEnd (c : CoreId) (s : State) : Host.Outcome State Fault Refusal :=
  .next (match if takesEvents s c.toNat then (getCore s c.toNat).resetting else none with
    | none => s
    | some start =>
      let s0 := advanceTo s ((getCore s c.toNat).resetAt + cyclesNs (getCl s (c.toNat / 16)) 64)
      let s1 := modCore s0 c.toNat fun x => { x with resetting := none }
      if start then startCore s1 c.toNat else s1)
/-- A write of CO_CTL.halt_req. -/
def execHaltReq (r : Req) (c : CoreId) (s : State) : Host.Outcome State Fault Refusal :=
  .next (regWrite s r (oCoCtl c.toNat) fun s => ctlHalt s c.toNat)
/-- A write of CO_EVENT. -/
def execCoEventWrite (r : Req) (c : CoreId) (w : Word) (s : State) : Host.Outcome State Fault Refusal :=
  .next (regWrite s r (coBase c.toNat + 0x20) fun s => ctlEvent s c.toNat w)

end Sys2Proof.Machine
end

