-- ==== Sys2Proof/Machine/ClusterReset.lean ====
section
/-! DEFINITION. Resets and power of a cluster, and the scrubbing of its local stores (R132, R434, R437 to R439, Table
14.8). -/

namespace Sys2Proof.Machine

/-- The press in its reset state (R132, R112): a failed or absent press stays so, and its registers keep what they hold. -/
def resetPress (x : ClusterSt) : ClusterSt :=
  { x with queues := [], current := none, shadow := none, susp := [], feed := none, fed := false, emptyAt := [], drain := none, lastRun := 15
           lastDrain := 15, acc := [], activity := .idle }

/-- Requests that a reset unit's boundary completes with TARGET_RESET, and replies it discards: counted for the die, and
told by a record (R437, R442, R530). -/
def unitReset (s : State) (die source held discarded : Nat) : State :=
  let s1 := bump (bump s 0x0E 6 held (.die die)) 0x0E 7 discarded (.die die)
  if held = 0 && discarded = 0 then s1 else ledger s1 0x0306 sevNotice none source [held, discarded]

/-- The outstanding loads whose address a test picks take trap 0x0E sub 2: the state and how many there are. -/
def failLoads (s : State) (hit : Nat → Nat → Bool) : State × Nat :=
  s.cores.foldl (fun a e =>
    let n := (e.2.loads.filter fun l => hit e.1 l.addr).length
    if n = 0 then a
    else
      let lose := fun l : OutLoad => if hit e.1 l.addr then { l with reply := .inr ⟨0xE, 2, l.addr⟩ } else l
      (modCore a.1 e.1 fun x => { x with loads := x.loads.map lose }, a.2 + n)) (s, 0)

/-- Reset the cores, the press and the transfer engine of a cluster; the vein controllers keep running, and bank units
follow Table 6.9 (R439). after is what each core's reset is followed by. -/
def resetUnits (s : State) (k : Nat) (after : Option Bool) : State :=
  let held := (getCl s k).xfers.length
  let s1 := (coresOf k).foldl (fun s c => resetCore s c after) (modCl s k fun x => { x with xfers := [] })
  settleJobs (unitReset (modCl s1 k resetPress) (k / 64) (srcCluster k) held 0)

/-- Whether an admitted job names a core of a cluster. -/
def clusterHasJob (s : State) (k : Nat) : Bool := s.jobs.any fun j => j.cores.any (· / 16 == k)

/-- Switch a cluster's rail off (R439): it is reset first. -/
def powerDown (s : State) (k : Nat) : State :=
  if clusterHasJob s k then modCl s k fun x => { x with rej := true }
  else
    let (s1, n) := failLoads (syncCluster s k) fun c a => decide (c / 16 ≠ k && a / 0x80000 / 16 = k)
    let s2 := if n = 0 then s1 else unitReset s1 (k / 64) (srcCluster k) n n
    modCl (resetUnits s2 k none) k fun x => { x with power := .off, paused := false, ramping := false }

/-- The action of a write to CL_RST: 1 reset, 2 power-down, 4 power-up; reset first, then power-down. A write during the
action of an earlier one waits for its end (R439, R509, Table 14.8). -/
def clusterRst (s : State) (k bits : Nat) : State :=
  if !populatedCl s k || !dieUp s (k / 64) then s
  else match (getCl s k).power with
    | .on =>
      if bitNat bits 0 then
        modCl (resetUnits (syncCluster s k) k (some false)) k fun x =>
          { x with power := .resetting, rstAt := elapsed s, rst := if bits / 2 % 4 = 0 then [] else [bits / 2 % 4 * 2] }
      else if bitNat bits 1 then
        let s1 := powerDown s k
        if bitNat bits 2 && (getCl s1 k).power == .off then modCl s1 k fun x => { x with power := .poweringUp, rstAt := elapsed s } else s1
      else s
    | .off =>
      if bitNat bits 2 then modCl (syncCluster s k) k fun x => { x with power := .poweringUp, rstAt := elapsed s } else s
    | _ => modCl s k fun x => { x with rst := x.rst ++ [bits % 8] }

/-- The writes of CL_RST that waited act in order of arrival (R509). -/
def clusterRstNext (s : State) (k : Nat) : State :=
  let ws := (getCl s k).rst
  ws.foldl (fun s w => clusterRst s k w) (modCl s k fun x => { x with rst := [] })

/-- A write of CL_RST: the key 0xA5C3 stands in [31:16] (Table 14.8). -/
def clusterRstWrite (s : State) (k : Nat) (w : Word) : State :=
  if fieldNat w.toNat 16 16 = 0xA5C3 then clusterRst s k (w.toNat % 8) else s

/-- CL_RST.reset. -/
def execClusterReset (r : Req) (k : ClusterId) (s : State) : Host.Outcome State Fault Refusal :=
  .next (regWrite s r (oClRst k.toNat) fun s => clusterRst s k.toNat 1)

/-- The 256 cycles of a cluster reset end: starts written meanwhile take effect, and guests proceed (R439). -/
def execClusterResetEnd (k : ClusterId) (s : State) : Host.Outcome State Fault Refusal :=
  .next (if (getCl s k.toNat).power == .resetting then
    let s0 := advanceTo s ((getCl s k.toNat).rstAt + cyclesNs (getCl s k.toNat) 256)
    let s1 := modCl (syncCluster s0 k.toNat) k.toNat fun x => { x with power := .on }
    let s2 := (coresOf k.toNat).foldl (fun s c =>
      match (getCore s c).resetting with
      | some true => startCore s c
      | some false => modCore s c fun x => { x with resetting := none }
      | none => s) s1
    clusterRstNext s2 k.toNat
  else s)

/-- CL_RST.power-down. -/
def execClusterPowerDown (r : Req) (k : ClusterId) (s : State) : Host.Outcome State Fault Refusal :=
  .next (regWrite s r (oClRst k.toNat) fun s => clusterRst s k.toNat 2)

/-- CL_RST.power-up. -/
def execClusterPowerUp (r : Req) (k : ClusterId) (s : State) : Host.Outcome State Fault Refusal :=
  .next (regWrite s r (oClRst k.toNat) fun s => clusterRst s k.toNat 4)

/-- A cluster returns after 1 ms at OP6, its local stores zero with valid check bits, its cores in the reset state
(R439). -/
def execClusterPowerUpEnd (k : ClusterId) (s : State) : Host.Outcome State Fault Refusal :=
  .next (if (getCl s k.toNat).power == .poweringUp then
    let s0 := advanceTo s ((getCl s k.toNat).rstAt + 1000000)
    let s1 := (coresOf k.toNat).foldl zeroLs (syncCluster s0 k.toNat)
    clusterRstNext (modCl s1 k.toNat fun x => { x with power := .on, op := 6, opTarget := 6, slow := false }) k.toNat
  else s)

/-- One scrub read of a local store, 64 cluster cycles after the last one: the next word; a pass ends at the last word
(R434, R444). -/
def execLocalStoreScrub (k : ClusterId) (i : BitVec 4) (s : State) : Host.Outcome State Fault Refusal :=
  .next (
    let c := k.toNat * 16 + i.toNat
    if !takesEvents s c then s
    else
      let cl := getCl s k.toNat
      let n := look (fun _ => 0) cl.scrub i.toNat
      let s0 := advanceTo s (look (fun _ => 0) cl.scrubAt i.toNat + cyclesNs cl 64)
      let s1 := scrubUnit s0 (unitAt s (lsAddr c (8 * n)))
      let s2 := modCl s1 k.toNat fun x => { x with
        scrub := put (fun _ => 0) x.scrub i.toNat ((n + 1) % 65536)
        scrubAt := put (fun _ => 0) x.scrubAt i.toNat (elapsed s0) }
      if n = 65535 then bumpCore s2 0x0E 8 c else s2)

end Sys2Proof.Machine
end

