-- ==== Sys2Proof/Machine/HostIf.lean ====
section
/-! DEFINITION. The host interface: command rings and completion rings, jobs, aborts, copies, Bus Master Enable, accesses
through BAR2 (R323 to R336). -/

namespace Sys2Proof.Machine

/-! ### Rings (R329, Tables 10.2, 10.6, 10.8) -/

/-- The entries of a ring: 2^(size + 4), sizes above 8 acting as 8. -/
def ringSize (s : State) (f r : Nat) : Nat := 2 ^ (min 8 (regField s (oCrCtl f r) 0 4) + 4)
/-- Whether a ring is served: run is set and its function masters the bus. -/
def ringServed (s : State) (f r : Nat) : Bool :=
  bitNat (getReg s (oCrCtl f r)).toNat 8 && (getFunc s f).bme && s.comp.state == .firmware
/-- The field of n bytes at a byte offset of a descriptor. -/
def descField (d : List Byte) (off n : Nat) : Nat := leNat ((d.drop off).take n)
/-- The MSI-X vector a descriptor asks for. -/
def descIrq (d : List Byte) : Option Nat := if bitNat (descField d 0 4) 8 then some (fieldNat (descField d 0 4) 16 5) else none
/-- The descriptor at a ring's head, when the ring is served and no copy has begun. -/
def headDesc (s : State) (f r : Nat) : Option (List Byte) :=
  let x := getRing s f r
  if ringServed s f r && x.copy.isNone then x.head else none
/-- The same when it has an operation. -/
def headOp (s : State) (f r op : Nat) : Option (List Byte) := (headDesc s f r).filter fun d => descField d 0 1 == op
/-- The head is done with; a descriptor read behind it takes its place. -/
def popHead (s : State) (f r : Nat) : State :=
  let x := getRing s f r
  setRing s f r (match x.line with
    | [] => { x with head := none, copy := none, aborting := none }
    | (i, d) :: l => { x with head := some d, index := i, line := l, copy := none, aborting := none })
/-- The head's command finishes with a status and a detail. -/
def finishHead (s : State) (f r status detail : Nat) (after : Option Nat) : State :=
  match (getRing s f r).head with
  | none => s
  | some d => complete (popHead s f r) f r (descField d 4 4) status (getRing s f r).index detail (descIrq d) after

/-- A ring halts with a status: run is cleared, and the vector of Table 10.8 is signalled. -/
def haltRing (s : State) (f r status : Nat) : State :=
  let s1 := setRegField (setRegField (setRegField s (oCrCtl f r) 8 1 0) (oCrCtl f r) 32 1 1) (oCrCtl f r) 40 8 status
  msix s1 f (regField s (oCrCtl f r) 16 5)

/-- A write of HIF_CRTAILr: values at or above the ring size are ignored (Table 10.6). -/
def crTailWrite (s : State) (f r : Nat) (w : Word) : State :=
  if w.toNat % 4096 < ringSize s f r then setReg s (oCrTail f r) (masked 0xFFF 0 w) else s

/-- DOORBELL (R329). -/
def execDoorbell (r : Req) (f : PartId) (ring : BitVec 2) (w : Word) (s : State) : Host.Outcome State Fault Refusal :=
  .next (regWrite s r (oCrTail f.toNat ring.toNat) fun s => crTailWrite s f.toNat ring.toNat w)

/-- A write of HIF_CRCTLr: run is ignored until the device is ready; a host that sets it has set Bus Master Enable before,
and VF Enable for a virtual function (R329, R336, R337; log entry 30). The first pass writes phase 1 (R333). -/
def crCtlWrite (s : State) (host : Bool) (f r : Nat) (w : Word) : State :=
  let w1 := if s.start.phase = .ready || s.start.phase = .shutdown then w else w &&& ~~~(0x100 : Word)
  let s1 := setReg s (oCrCtl f r) (masked 0x1F010F (getReg s (oCrCtl f r)) w1)
  if !w1.getLsbD 8 then s1
  else
    let s2 := setRegField s1 (oCrCtl f r) 32 1 0
    let s3 := if host then
        { setFunc s2 f { getFunc s2 f with bme := true } with start := { s2.start with vfs := s2.start.vfs || f != 0 } }
      else s2
    let x := getRing s3 f r
    let s4 := if x.started then s3 else setRegField (setRing s3 f r { x with started := true }) (oCcTail f r) 12 1 1
    msixPending s4 f

/-- COMMAND_RING_RUN. -/
def execCommandRingRun (r : Req) (f : PartId) (ring : BitVec 2) (w : Word) (s : State) : Host.Outcome State Fault Refusal :=
  .next (regWrite s r (oCrCtl f.toNat ring.toNat) fun s =>
    crCtlWrite s (match r with | .host _ => true | _ => false) f.toNat ring.toNat w)

/-- Whether the completion ring has room: the record before software's index is never written (R333). -/
def ringRoom (s : State) (f r : Nat) : Bool :=
  (regField s (oCcTail f r) 0 12 + 1) % ringSize s f r != regField s (oCcHead f r) 0 12

/-- Whether a ring reads its next descriptor: its head is free, or is a run that waits, behind which the ring looks for
aborts, which never wait behind one (R335; log entry 173); not while a record waits for room (R329, R333). -/
def readsNext (s : State) (f r : Nat) : Bool :=
  let x := getRing s f r
  ringServed s f r && x.copy.isNone && x.head.all (fun d => descField d 0 1 == 1) && (x.recs.isEmpty || ringRoom s f r) &&
    regField s (oCrHead f r) 0 12 != regField s (oCrTail f r) 0 12

/-- A function's AER capability records an error (R323). -/
def aerNote (s : State) (f : Nat) (e : PcieError) : State :=
  let x := getFunc s f
  if x.aer.contains e then s else setFunc s f { x with aer := x.aer ++ [e] }

/-- COMMAND_DESCRIPTOR_READ: the device reads the next descriptor, and the host answers (R329, Table 10.8). -/
def execCommandDescriptorRead (f : PartId) (ring : BitVec 2) (a : HostReply) (s : State) :
    Host.Outcome State Fault Refusal :=
  .next (
    let p := f.toNat
    let r := ring.toNat
    if !readsNext s p r then s
    else
      let i := regField s (oCrHead p r) 0 12
      let s1 := emit s (.hostRead p ((getReg s (oCrBase p r)).toNat + 64 * i) 64)
      match a with
      | .data bs =>
        let d := (bs ++ List.replicate 64 0).take 64
        let x := getRing s1 p r
        let s2 := setRing s1 p r (if x.head.isNone then { x with head := some d, index := i }
          else { x with line := x.line ++ [(i, d)] })
        setRegField s2 (oCrHead p r) 0 12 ((i + 1) % ringSize s p r)
      | .poisoned _ => haltRing (aerNote s1 p .poisoned) p r stUncorrectable
      | .unsupported => haltRing (aerNote s1 p .unsupported) p r stAborted
      | .completerAbort => haltRing (aerNote s1 p .completerAbort) p r stAborted)

/-! ### No operation, run, admission (R330) -/

/-- NO_OPERATION: op 0x00 completes with OK; an op that Table 10.2 does not assign, with ABORTED (log entry 31). -/
def execNoOperation (f : PartId) (ring : BitVec 2) (s : State) : Host.Outcome State Fault Refusal :=
  .next (match headDesc s f.toNat ring.toNat with
    | none => s
    | some d =>
      if descField d 0 1 = 0 then finishHead s f.toNat ring.toNat stOk 0 none
      else if 4 < descField d 0 1 then finishHead s f.toNat ring.toNat stAborted 0 none
      else s)

/-- The populated clusters of a partition, in increasing cluster ID. -/
def partClusters (s : State) (p : Nat) : List Nat := (allClusters s).filter (getPart s p).clusters.contains

/-- The clusters a run descriptor names. -/
def runClusters (s : State) (p : Nat) (d : List Byte) : List Nat :=
  ((partClusters s p).drop (descField d 24 1)).take (fieldNat (descField d 24 8) 8 9)

/-- The cores a run descriptor names, in core ID order. -/
def runCores (s : State) (p : Nat) (d : List Byte) : List Nat :=
  (runClusters s p d).flatMap fun k => (coresOf k).filter fun c => bitNat (descField d 28 2) (c % 16)

/-- The status and detail with which a run descriptor completes without starting (R330, R438); none: it may start. -/
def runRefusal (s : State) (p : Nat) (d : List Byte) : Option (Nat × Nat) :=
  let n := fieldNat (descField d 24 8) 8 9
  let ks := runClusters s p d
  let off : Nat → Bool := fun k => (getCl s k).power == .off || (getCl s k).power == .poweringUp
  if n = 0 || descField d 28 2 = 0 || ks.length < n then some (stPartitionFault, 0)
  else if s.pwr.state = .shutdown then some (stRefusedPower, 0)
  else match ks.find? off with
    | some k => some (stNotReady, k)
    | none =>
      if ks.any fun k => !dieUp s (k / 64) || (getCl s k).power == .resetting then some (stTargetReset, 0)
      else if s.jobs.any fun j => j.part == p && j.job == descField d 4 4 then some (stAborted, 1)
      else if s.pwr.state = .clamp then some (stRefusedPower, 0)
      else none

/-- RUN: a run descriptor that cannot start completes; any other waits for its admission (R330). -/
def execRun (f : PartId) (ring : BitVec 2) (s : State) : Host.Outcome State Fault Refusal :=
  .next (match headOp s f.toNat ring.toNat 1 with
    | none => s
    | some d =>
      match runRefusal s f.toNat d with
      | some (st, detail) => finishHead s f.toNat ring.toNat st detail none
      | none => s)

/-- Start a job's core: reset, CO_START, g1 = argument, g2 = rank, g3 = job ID (R330). -/
def startJobCore (s : State) (d : List Byte) (c rank : Nat) : State :=
  let s1 := setReg (resetCore s c none) (oCoStart c) (BitVec.ofNat 64 (descField d 8 6 / 4 * 4))
  let s2 := modCore (startCore s1 c) c fun x =>
    setGpr (setGpr (setGpr x 1 (BitVec.ofNat 64 (descField d 16 8))) 2 (BitVec.ofNat 64 rank)) 3
      (BitVec.ofNat 64 (descField d 4 4))
  trace s2 (c / 16) 8 c [1, descField d 4 4]

/-- JOB_ADMISSION: no named core belongs to another admitted job, the partition has fewer than 64, and the device is not in
the maintenance state (R330, R419). The job takes the partition's lowest free slot. -/
def execJobAdmission (f : PartId) (ring : BitVec 2) (s : State) : Host.Outcome State Fault Refusal :=
  .next (
    let p := f.toNat
    match headOp s p ring.toNat 1 with
    | none => s
    | some d =>
      let cores := runCores s p d
      let mine := s.jobs.filter (·.part == p)
      if (runRefusal s p d).isSome || 64 ≤ mine.length || cores.any (fun c => (jobOf s c).isSome) ||
          s.comp.state ≠ .firmware || s.start.maint then s
      else
        let slot := ((List.range 64).find? fun i => !mine.any (·.slot == i)).getD 0
        let j : Job := ⟨p, ring.toNat, (getRing s p ring.toNat).index, descField d 4 4, cores, .running, descField d 32 4,
          elapsed s, s.hallmark, false, descIrq d, 0, 0, false, none, slot⟩
        let s1 := popHead { s with jobs := s.jobs ++ [j] } p ring.toNat
        cores.zipIdx.foldl (fun s e => startJobCore s d e.1 e.2) s1)

/-- JOB_TIME_LIMIT: the comptroller stops a job whose limit has expired (R331). -/
def execJobTimeLimit (p : PartId) (job : BitVec 32) (s : State) : Host.Outcome State Fault Refusal :=
  .next (match s.jobs.find? fun j => j.part == p.toNat && j.job == job.toNat with
    | none => s
    | some j =>
      if j.limit = 0 || j.ending.isSome || s.comp.state ≠ .firmware then s
      else stopJob (advanceTo s (j.start + j.limit * 1000000)) j (if j.paused then stThrottled else stAborted) 0 false)

/-! ### Aborts (R335) -/

/-- Whether a ring's copy has a job ID and is in progress. -/
def copyNamed (x : Ring) (job : Nat) : Bool := x.copy.any fun c => c.job == job && c.status.isNone

/-- The abort that a ring works on: its head, or the first one read behind a run that waits there (R335). -/
def abortOf (s : State) (f r : Nat) : Option (Nat × List Byte) :=
  match headDesc s f r with
  | none => none
  | some d =>
    if descField d 0 1 = 2 then some ((getRing s f r).index, d)
    else if descField d 0 1 = 1 then (getRing s f r).line.find? fun e => descField e.2 0 1 == 2
    else none

/-- The ring's abort finishes with a status and a detail, after its target's record. -/
def finishAbort (s : State) (f r index : Nat) (d : List Byte) (status detail : Nat) (after : Option Nat) : State :=
  let x := getRing s f r
  let s1 := if x.head.any (fun h => descField h 0 1 == 2) then popHead s f r
    else setRing s f r { x with line := x.line.filter (·.1 != index), aborting := none }
  complete s1 f r (descField d 4 4) status index detail (descIrq d) after

/-- An abort whose target has left completes, after the target's record (R335). -/
def abortDone (s : State) (f r target index : Nat) (d : List Byte) (st : Nat × Nat) : State :=
  if (s.jobs.any fun j => j.part == f && j.job == target) || (List.range 4).any fun i => copyNamed (getRing s f i) target then s
  else finishAbort s f r index d st.1 st.2 (some target)

/-- ABORT: the compare-and-swap on the target's job-state word (R335). -/
def execAbort (f : PartId) (ring : BitVec 2) (s : State) : Host.Outcome State Fault Refusal :=
  .next (
    let p := f.toNat
    let r := ring.toNat
    match abortOf s p r with
    | none => s
    | some (i, d) =>
      let target := descField d 8 4
      let x := getRing s p r
      match x.aborting with
      | some st => abortDone s p r target i d st
      | none => match s.jobs.find? fun j => j.part == p && j.job == target with
        | some j =>
          if j.ending.isSome || j.state == .done || j.state == .aborting then
            abortDone (setRing s p r { x with aborting := some (stAlreadyDone, 0) }) p r target i d (stAlreadyDone, 0)
          else
            let s1 := stopJob (setRing s p r { x with aborting := some (stOk, 0) }) j stAborted 0 false
            let s2 := match s1.jobs.find? fun k => k.part == p && k.job == target with
              | some k => setJob s1 { k with state := .aborting }
              | none => s1
            abortDone s2 p r target i d (stOk, 0)
        | none =>
          match (List.range 4).find? fun i => copyNamed (getRing s p i) target with
          | some n =>
            let y := getRing s p n
            let s1 := setRing s p n { y with copy := y.copy.map fun c => { c with stop := true } }
            setRing s1 p r { getRing s1 p r with aborting := some (stOk, 0) }
          | none => finishAbort s p r i d stAlreadyDone 1 none)

/-! ### Copies (R332) -/

/-- The requester that a ring's copy engine is (Table 5.14). -/
def copyReq (f r : Nat) : Requester := ⟨1, f * 4 + r, f, 0, true⟩

/-- A copy as its descriptor asks for it. An address or a length that Table 10.2 does not allow ends it with ABORTED
(log entry 31). -/
def copyOf (d : List Byte) (index : Nat) : Copy :=
  let dev := descField d 8 6
  let host := descField d 16 8
  let n := descField d 24 4
  let bad := dev % 32 ≠ 0 || host % 32 ≠ 0 || n % 32 ≠ 0 || n = 0
  ⟨descField d 0 1 == 4, dev, host, n, descField d 4 4, index, descIrq d, if bad then some stAborted else none, 0, false,
    false, 0⟩

/-- The bytes of a copy's next request: up to the next 4 KiB boundary of the host address. -/
def Copy.chunk (c : Copy) : Nat := min c.left (4096 - c.host % 4096)
/-- A copy past a request of n bytes: at the boundary an abort stops it (R335), and the last request ends it. -/
def Copy.past (c : Copy) (n : Nat) : Copy :=
  let left := c.left - n
  { c with dev := c.dev + n, host := c.host + n, left := left, asked := false
           status := if left = 0 then some stOk else if c.stop then some stAborted else none }
/-- Replace a ring's copy. -/
def setCopy (s : State) (f r : Nat) (c : Copy) : State := setRing s f r { getRing s f r with copy := some c }
/-- A copy that an abort stops, standing at a boundary (R335). -/
def Copy.stopped (c : Copy) : Copy :=
  if c.stop && !c.asked && c.status.isNone && c.host % 4096 = 0 then { c with status := some stAborted } else c
/-- A copy in progress, or the one the ring's head asks for. -/
def currentCopy (s : State) (f r op : Nat) : Option Copy :=
  if !ringServed s f r then none
  else match (getRing s f r).copy with
    | some c => if c.toHost == (op == 4) then some c.stopped else none
    | none => (headOp s f r op).map fun d => copyOf d (getRing s f r).index

/-- The bytes from an address on that lie in a partition. -/
def insidePart (s : State) (p a n : Nat) : Nat :=
  ((piecesOf a n).takeWhile fun e => inPartition s p e.1).foldl (fun m e => m + e.2) 0

/-- Store bytes of a copy in device memory: none while an access waits; otherwise the status of a failure (R332). -/
def copyIn (s : State) (f r dev : Nat) (bs : List (Byte × Bool)) : Option (State × Option Nat) :=
  let n := insidePart s f dev bs.length
  match writeRange s (copyReq f r) dev (bs.take n) 8 with
  | (_, _, some (_, .wait)) => none
  | (s1, _, some (_, e)) => some (s1, some (statusOf e))
  | (s1, bad, none) =>
    some (s1, if n < bs.length then some stPartitionFault
      else if !bad.isEmpty || bs.any (·.2) then some stUncorrectable else none)

/-- Read bytes of a copy from device memory, as far as they are served. -/
def copyOut (s : State) (f r dev n : Nat) : Option (State × List (Byte × Bool) × Option Nat) :=
  let m := insidePart s f dev n
  match readRange s (copyReq f r) dev m 8 with
  | (_, _, _, some (_, .wait)) => none
  | (s1, bs, _, some (_, e)) => some (s1, bs, some (statusOf e))
  | (s1, bs, lost, none) =>
    some (s1, bs, if m < n then some stPartitionFault else if lost.isEmpty then none else some stUncorrectable)

/-- COPY_TO_DEVICE: the copy begins, or asks for its next bytes (R332). -/
def execCopyToDevice (f : PartId) (ring : BitVec 2) (s : State) : Host.Outcome State Fault Refusal :=
  .next (match currentCopy s f.toNat ring.toNat 3 with
    | none => s
    | some c =>
      if c.status.isSome || c.asked then setCopy s f.toNat ring.toNat c
      else setCopy (emit s (.hostRead f.toNat c.host c.chunk)) f.toNat ring.toNat
        { c with asked := true, at_ := elapsed s })

/-- What a function's configuration space shows (Table 10.1): class code, First VF Offset, VF Stride, MSI-X vectors, Max
Payload Size, Max Read Request Size, and what AER has recorded. The functions stand in D0: no row of the table moves one to
D3hot (log entry 172). -/
structure ConfigSpace where
  classCode     : Nat
  firstVfOffset : Nat
  vfStride      : Nat
  vectors       : Nat
  maxPayload    : Nat
  maxRead       : Nat
  aer           : List PcieError
  deriving DecidableEq, Repr

/-- The configuration space of a function. -/
def configSpace (s : State) (f : Nat) : ConfigSpace := ⟨0x120000, 1, 1, 32, 512, 4096, (getFunc s f).aer⟩

/-- Writes of at most 512 bytes each, the Max Payload Size, of which one that holds a lost byte carries EP (R323, R332). -/
def hostWrites (p : Nat) : Nat → State → Nat → List (Byte × Bool) → State
  | 0, s, _, _ => s
  | n + 1, s, a, bs =>
    if bs.isEmpty then s
    else
      let w := bs.take 512
      hostWrites p n (emit s (.hostWrite p a (w.map (·.1)) (w.any (·.2)))) (a + 512) (bs.drop 512)

/-- The next bytes of a copy to the host; none while the memory waits. Bytes of a lost unit go with EP set (R332). -/
def copyPiece (s : State) (p r : Nat) (c : Copy) : Option State :=
  (copyOut s p r c.dev c.chunk).map fun (s1, bs, st) =>
    let s2 := hostWrites p 8 s1 c.host bs
    setCopy s2 p r (match st with
      | some e => { c with status := some e }
      | none => c.past c.chunk)

/-- COPY_TO_HOST: the copy begins, or sends its next bytes (R332). -/
def execCopyToHost (f : PartId) (ring : BitVec 2) (s : State) : Host.Outcome State Fault Refusal :=
  .next (
    let p := f.toNat
    let r := ring.toNat
    match currentCopy s p r 4 with
    | none => s
    | some c =>
      if c.status.isSome then setCopy s p r c else (copyPiece s p r c).getD (setCopy s p r c))

/-- COPY_COMPLETE: a copy that has ended gives its record to the ring (R332). -/
def execCopyComplete (f : PartId) (ring : BitVec 2) (s : State) : Host.Outcome State Fault Refusal :=
  .next (match (getRing s f.toNat ring.toNat).copy with
    | none => s
    | some c =>
      match c.status with
      | some st => if (getFunc s f.toNat).bme then finishHead s f.toNat ring.toNat st c.detail none else s
      | none => s)

/-! ### Completion records (R333) -/

/-- Whether a ring's records are held until software writes run (R336). -/
def recsHeld (s : State) (f r : Nat) : Bool :=
  !(getFunc s f).bme || (bitNat (getReg s (oCrCtl f r)).toNat 32 && regField s (oCrCtl f r) 40 8 == stBmeOff)

/-- The bytes of a completion record (Table 10.3). -/
def Completion.bytes (c : Completion) (phase : Nat) : List Byte :=
  natLe 4 c.job ++ natLe 1 c.status ++ natLe 1 phase ++ natLe 2 c.index ++ natLe 4 c.hm ++ natLe 4 c.detail

/-- COMPLETION_RECORD_WRITE: the oldest record goes to the completion ring once there is room; MSI-X follows it (R333). -/
def execCompletionRecordWrite (f : PartId) (ring : BitVec 2) (s : State) : Host.Outcome State Fault Refusal :=
  .next (
    let p := f.toNat
    let r := ring.toNat
    let x := getRing s p r
    match x.recs with
    | [] => s
    | c :: rest =>
      let before := c.after.any fun j => (s.jobs.any fun k => k.part == p && k.job == j) ||
        (List.range 4).any fun i => i != r && (getRing s p i).recs.any (·.job == j)
      if recsHeld s p r || !ringRoom s p r || before || s.comp.state != .firmware then s
      else
        let tail := regField s (oCcTail p r) 0 12
        let phase := regField s (oCcTail p r) 12 1
        let next := (tail + 1) % ringSize s p r
        let s1 := emit (setRing s p r { x with recs := rest })
          (.hostWrite p ((getReg s (oCcBase p r)).toNat + 16 * tail) (c.bytes phase) false)
        let s2 := setReg s1 (oCcTail p r) (BitVec.ofNat 64 (next + (if next = 0 then 1 - phase else phase) * 4096))
        match c.irq with
        | some v => msix s2 p v
        | none => s2)

/-- COMPLETION_HEAD_WRITE: software has consumed records up to its index (R333). -/
def execCompletionHeadWrite (r : Req) (f : PartId) (ring : BitVec 2) (w : Word) (s : State) :
    Host.Outcome State Fault Refusal :=
  .next (regWrite s r (oCcHead f.toNat ring.toNat) fun s => setReg s (oCcHead f.toNat ring.toNat) (masked 0xFFF 0 w))

/-! ### Bus Master Enable (R336) -/

/-- A ring halts with BME_OFF; a copy in progress stops, and its record goes before those held. -/
def bmeHalt (s : State) (f r : Nat) : State :=
  let x := getRing s f r
  let s1 := match x.copy with
    | some c =>
      if c.status.isSome then s
      else
        let s0 := popHead s f r
        setRing s0 f r { getRing s0 f r with
          recs := ⟨c.job, stBmeOff, c.index, 0, c.irq, s.hallmark, none⟩ :: (getRing s0 f r).recs }
    | none => s
  haltRing s1 f r stBmeOff

/-- A trace channel halts with a status and keeps its buffer (R496). -/
def haltTrace (s : State) (k status : Nat) : State :=
  setRegField (setRegField s (oTrStat k) 0 1 1) (oTrStat k) 8 8 status

/-- BUS_MASTER_ENABLE_CLEAR: each command ring of the function, and its trace channels with work pending, halt (R336). -/
def execBusMasterEnableClear (f : PartId) (s : State) : Host.Outcome State Fault Refusal :=
  .next (
    let p := f.toNat
    let s1 := setFunc s p { getFunc s p with bme := false }
    let s2 := (List.range 4).foldl (fun s r => bmeHalt s p r) s1
    (partClusters s2 p).foldl (fun s k =>
      if bitNat (getReg s (oTrCtl k)).toNat 0 && !(getCl s k).trace.isEmpty then haltTrace s k stBmeOff else s) s2)

/-! ### BAR2 and BAR0 (R324, R325, R438) -/

/-- The device address of a BAR2 offset. -/
def bar2Addr (s : State) (f o : Nat) : Nat := (getReg s (oApbase f)).toNat / 2 ^ 30 % 2 ^ 18 * 2 ^ 30 + o

/-- Why a BAR2 access is refused before it reaches memory (Table 10.7), none when it is not. -/
def bar2Bad (s : State) (f a n : Nat) : Option Nat :=
  if 0x10000000000 < a + max 1 n then some 1
  else if (piecesOf a (max 1 n)).any fun e => !inPartition s f e.1 || !populatedPlace s (placeOf e.1) then some 2
  else none

/-- The reason recorded for an access that was not served. -/
def bar2Reason : AccRes → Nat
  | .refused => 3
  | _ => 2

/-- BAR2_READ. -/
def execBar2Read (f : PartId) (o : BitVec 36) (n : Nat) (s : State) : Host.Outcome State Fault Refusal :=
  .next (
    let p := f.toNat
    let a := bar2Addr s p o.toNat
    let refuse : State → Nat → State := fun s why => emit (hifViol s p false true why a) (.completerAbort p)
    match bar2Bad s p a n with
    | some why => refuse s why
    | none =>
      match readRange s ⟨2, p, p, 0, false⟩ a n 12 with
      | (_, _, _, some (_, .wait)) => s
      | (s1, _, _, some (_, e)) => refuse s1 (bar2Reason e)
      | (s1, bs, lost, none) => emit s1 (.barData p (bs.map (·.1)) (!lost.isEmpty)))

/-- BAR2_WRITE: with EP set the bytes are stored with poisoned check bits. -/
def execBar2Write (f : PartId) (o : BitVec 36) (data : List Byte) (ep : Bool) (s : State) :
    Host.Outcome State Fault Refusal :=
  .next (
    let p := f.toNat
    let a := bar2Addr s p o.toNat
    match bar2Bad s p a data.length with
    | some why => hifViol s p true true why a
    | none =>
      match writeRange s ⟨2, p, p, 0, false⟩ a (data.map fun b => (b, ep)) 13 with
      | (_, _, some (_, .wait)) => s
      | (s1, _, some (_, e)) => hifViol s1 p true true (bar2Reason e) a
      | (s1, _, none) => s1)

/-- A BAR0 read outside the function's view returns zero and is recorded (R324, R512). -/
def execBar0ReadOutsideView (f : PartId) (off : BitVec 26) (s : State) : Host.Outcome State Fault Refusal :=
  .next (match standing s (.host f) off.toNat false with
    | .outside u => emit (hifViol s f.toNat false false (if u then 2 else 4) off.toNat) (.registerRead 0)
    | .aborted => abortBar0 s (.host f)
    | _ => s)

end Sys2Proof.Machine
end

