-- ==== Sys2Proof/Machine/Press.lean ====
section
/-! DEFINITION. The press (chapter 4): the issue of its commands, the arbiter, passes, drains, current steadiness,
faults. -/

namespace Sys2Proof.Machine

/-! ### Issue (R110, R111, R113) -/

/-- A press command to a failed or absent press: it issues and is discarded, and sub 0x01 or 0x02 is reported (R128,
R129), one fault for each discarded command (DESIGN CHOICE, log entry 160). -/
def pressDiscard (s : State) (c : Nat) (failed : Bool) : State :=
  let s1 := modCore s c fun x => { x with
    noPress := x.noPress || failed
    pFaults := x.pFaults ++ [⟨0xB, if failed then 1 else 2, 0⟩] }
  bump s1 0x04 8 1 (.core c)

/-- Queue a command of a core that has passed its checks (R117). -/
def pressIssue (s : State) (c : Nat) (p : PressCmd) (f : CoreSt → CoreSt) : Eff :=
  let k := c / 16
  let x := getCl s k
  let s1 := modCore s c f
  if x.failed || x.absent then .go (pressDiscard s1 c x.failed)
  else if 16 ≤ (pressQueue x (c % 16)).length then .stall s
  else .go (pressAdvance 40 (modCl s1 k fun x => setQueue x (c % 16) (pressQueue x (c % 16) ++ [p])) k)

/-- PLOAD (R110). -/
def execPload (c : CoreId) (d : DReg) (ga : GReg) (pri : Bool) (s : State) : Host.Outcome State Fault Refusal :=
  .next (issue s c.toNat ⟨4, [ga.toNat], true⟩ (raSkip 4) fun s =>
    let x := getCore s c.toNat
    let a := (gpr x ga.toNat).toNat
    let t := pressDesc (dreg x d.toNat).toNat
    let word := 0x18 * 2 ^ 26 + d.toNat * 2 ^ 22 + ga.toNat * 2 ^ 17 + pri.toNat * 2 ^ 11
    if t.kind ≠ 1 || t.rsv then illegal s word
    else if !pressWeight t.fmt then .at s 0xC 0 t.fmt
    else match pressFault (c.toNat / 16) t with
    | some v => .at s 4 0 v
    | none =>
      if a % 2 ^ 32 % 32 ≠ 0 || t.inner ≤ a % 2 ^ 32 || t.outer ≤ a / 2 ^ 32 then .at s 4 0 a
      else pressIssue s c.toNat ⟨0, (dreg x d.toNat).toNat, a, 0, pri, false, elapsed s, 0⟩ fun x =>
        { x with wfmt := t.fmt })

/-- The rows of a PFEED or PDRAIN as the queue entry holds them (R111): none when they leave the core's window. The
window is that of issue (DEDUCED, log entry 26). -/
def windowRows (x : CoreSt) (gb : Nat) : Option Nat :=
  let (base, len) := pressWindow x
  let row := fieldNat gb 16 10
  let count := gb % 2048
  if len < row + count then none else some ((base + row) * 65536 + count)

/-- PFEED (R111). Before its core's first PLOAD no pair is known, and any format that the press takes an activation in
issues; another takes trap 0x0C (R29, Table 2.8). -/
def execPfeed (c : CoreId) (d : DReg) (ga gb : GReg) (acc last : Bool) (s : State) : Host.Outcome State Fault Refusal :=
  .next (issue s c.toNat ⟨4, [ga.toNat, gb.toNat], true⟩ (raSkip 4) fun s =>
    let x := getCore s c.toNat
    let a := (gpr x ga.toNat).toNat
    let b := (gpr x gb.toNat).toNat
    let t := pressDesc (dreg x d.toNat).toNat
    let count := b % 2048
    let word := 0x19 * 2 ^ 26 + d.toNat * 2 ^ 22 + ga.toNat * 2 ^ 17 + gb.toNat * 2 ^ 12 + acc.toNat * 2 ^ 11 +
      last.toNat * 2 ^ 10
    if t.kind ≠ 1 || t.rsv then illegal s word
    else if !(if x.wfmt = 15 then pressAct t.fmt else pressPair x.wfmt t.fmt) then .at s 0xC 0 t.fmt
    else match pressFault (c.toNat / 16) t with
    | some v => .at s 4 0 v
    | none =>
      if count = 0 || 1024 < count || t.outer < a / 2 ^ 32 + count || a % 2 ^ 32 % 32 ≠ 0 || t.inner ≤ a % 2 ^ 32 then
        .at s 4 0 a
      else match windowRows x b with
      | none => .at s 4 0 b
      | some rows => pressIssue s c.toNat ⟨1, (dreg x d.toNat).toNat, a, rows, acc, last, elapsed s, 0⟩ id)

/-- PDRAIN (R113). -/
def execPdrain (c : CoreId) (d : DReg) (ga gb : GReg) (clr : Bool) (s : State) : Host.Outcome State Fault Refusal :=
  .next (issue s c.toNat ⟨4, [ga.toNat, gb.toNat], true⟩ (raSkip 4) fun s =>
    let x := getCore s c.toNat
    let a := (gpr x ga.toNat).toNat
    let b := (gpr x gb.toNat).toNat
    let t := pressDesc (dreg x d.toNat).toNat
    let count := b % 2048
    let word := 0x1A * 2 ^ 26 + d.toNat * 2 ^ 22 + ga.toNat * 2 ^ 17 + gb.toNat * 2 ^ 12 + clr.toNat * 2 ^ 11
    if t.kind ≠ 1 || t.rsv then illegal s word
    else if t.fmt = 0xA || t.fmt = 0xC || t.fmt = 0xF then .at s 0xC 0 t.fmt
    else match pressFault (c.toNat / 16) t with
    | some v => .at s 4 0 v
    | none =>
      if count = 0 || 1024 < count || t.outer < a / 2 ^ 32 + count || t.inner ≤ a % 2 ^ 32 ||
        (blockLen t.fmt ≠ 0 && a % 2 ^ 32 % 32 ≠ 0) then .at s 4 0 a
      else match windowRows x b with
      | none => .at s 4 0 b
      | some rows => pressIssue s c.toNat ⟨2, (dreg x d.toNat).toNat, a, rows, clr, false, elapsed s, 0⟩ id)

/-- PSYNC: waits for the core's commands, or counts them; then the flags, and the oldest pending fault as a trap (R114,
R131). -/
def execPsync (c : CoreId) (rd : GReg) (nw : Bool) (s : State) : Host.Outcome State Fault Refusal :=
  .next (issue s c.toNat ⟨4, [rd.toNat], true⟩ (raSkip 4) fun s =>
    let n := pressOutstanding s c.toNat
    if n ≠ 0 then
      if nw then .go (modCore s c.toNat fun x => setGpr x rd.toNat (BitVec.ofNat 64 n))
      else .stall (pressAdvance 40 (modCore s c.toNat fun x => { x with waitPload := true }) (c.toNat / 16))
    else
      let x := getCore s c.toNat
      let s1 := setCore s c.toNat { setFlags x x.pFlags with pFlags := 0, pFaults := [], waitPload := false }
      match x.pFaults with
      | [] => .go (modCore s1 c.toNat fun x => setGpr x rd.toNat 0)
      | t :: r => .trap s1 t true (!r.isEmpty))

/-! ### The arbiter (R118, R119) -/

/-- Whether a core's queue head is a candidate: a PLOAD whose tile depth is fixed (R110), or a PFEED of a suspended
run (R119). -/
def pressCandidate (s : State) (k i : Nat) : Bool :=
  let x := getCl s k
  (pressQueue x i).head?.any fun h => (h.op == 0 && h.kt != 0) || (h.op == 1 && x.susp.any (·.core == i))

/-- The first of some cores in round-robin order after the last granted one. -/
def roundRobin (last : Nat) (cs : List Nat) : Option Nat :=
  ((List.range 16).map fun j => (last + 1 + j) % 16).find? cs.contains

/-- The choice of the arbiter: aged candidates without pri, then one with pri, then any. -/
def pressChoice (s : State) (k : Nat) : Option Nat :=
  let x := getCl s k
  let cs := (List.range 16).filter (pressCandidate s k)
  let pri := fun i => match (pressQueue x i).head? with
    | some h => if h.op = 0 then h.f1 else x.susp.any fun r => r.core == i && r.load.f1
    | none => false
  let age := regField s (oPrCtl k) 40 8
  let old := fun i => (pressQueue x i).head?.any fun h =>
    decide (32 * age * 10 ≤ (elapsed s - h.at_) * clTenths x)
  let aged := if age = 0 then [] else cs.filter fun i => !pri i && old i
  if !aged.isEmpty then roundRobin x.lastRun aged
  else if (cs.filter pri).isEmpty then roundRobin x.lastRun cs else roundRobin x.lastRun (cs.filter pri)

/-- The arbiter chooses the next run once the shadow weights are free; the load of its tile begins, and an idle or
ramping-down press ramps up, unless the governor pauses it: then the end of the pause does (R118, R126). -/
def execPressGrant (k : ClusterId) (s : State) : Host.Outcome State Fault Refusal :=
  .next (
    let x := getCl s k.toNat
    match pressChoice s k.toNat with
    | none => s
    | some i =>
      if x.failed || x.absent || x.power ≠ .on || x.shadow.isSome || !dieUp s (k.toNat / 64) then s
      else
        let ramp := regField s (oPrCtl k.toNat) 24 1 == 1 && !x.paused &&
          (x.activity == .idle || x.activity == .rampDown)
        let up := fun (y : ClusterSt) => { y with lastRun := i, activity := if ramp then .rampUp else y.activity }
        match (pressQueue x i).head?, x.susp.find? (·.core == i) with
        | some h, old =>
          if h.op = 0 then
            let s1 := modCl s k.toNat fun y => up { y with shadow := some ⟨i, h, h.kt, false, false, [], none, elapsed s⟩ }
            trace (pressAdvance 40 (popPress s1 k.toNat i) k.toNat) k.toNat 5 k.toNat [i, h.f1.toNat]
          else match old with
          | some r =>
            let kt := tileDepth (pressDesc r.load.d).fmt (pressDesc h.d).fmt
            let s1 := bump (modCl s k.toNat fun y => up { y with
              shadow := some { r with kt := kt, loaded := false, again := true }, susp := y.susp.filter (·.core != i) })
              0x04 7 1 (.core (k.toNat * 16 + i))
            trace s1 k.toNat 5 k.toNat [i, r.load.f1.toNat]
          | none => s
        | none, _ => s)

/-- The tile of the run in the shadow weights has been read; older stores of its core have left its buffer (R115). A
pause of the governor does not hold a tile load (DESIGN CHOICE, log entry 161). -/
def execTileLoadComplete (k : ClusterId) (s : State) : Host.Outcome State Fault Refusal :=
  .next (
    let x := getCl s k.toNat
    match x.shadow with
    | none => s
    | some r =>
      if r.loaded || x.failed || x.power ≠ .on || !(getCore s (k.toNat * 16 + r.core)).buf.isEmpty then s
      else
        let (s1, r1) := loadTile s k.toNat r r.kt
        settle (pressAdvance 40 (modCl s1 k.toNat fun y => { y with shadow := some r1 }) k.toNat)
          (k.toNat * 16 + r.core))

/-! ### Passes (R106, R111, R112) -/

/-- The weight of the tile in column n at index t of the tile, zero outside the tensor. -/
def tileWeight (r : PressRun) (n t : Nat) : Num :=
  let d := pressDesc r.load.d
  let n0 := r.load.ga / 2 ^ 32
  let k0 := r.load.ga % 2 ^ 32
  if d.outer ≤ n0 + n || d.inner ≤ k0 + t then .fin false 0 0
  else valueFrom (look memDefault r.tile) (d.ebase + (n0 + n) * d.estride) (d.sbase + (n0 + n) * d.sstride) d.fmt (k0 + t)

/-- The activation of vector v at index t of the pass, zero at or beyond inner. -/
def feedValue (s : State) (p : PressCmd) (v t : Nat) : Num :=
  let d := pressDesc p.d
  let k0 := p.ga % 2 ^ 32
  if d.inner ≤ k0 + t then .fin false 0 0
  else valueFrom (rdByte s) (d.ebase + v * d.estride) (d.sbase + v * d.sstride) d.fmt (k0 + t)

/-- An exact whole number. -/
def numInt (x : Num) : Int :=
  match x with
  | .fin n m _ => if n then -(m : Int) else m
  | _ => 0

/-- An accumulator row. -/
def accRow (x : ClusterSt) (r : Nat) : AccRow := look (fun _ => AccRow.zero) x.acc r
/-- Replace an accumulator row. -/
def setAccRow (x : ClusterSt) (r : Nat) (a : AccRow) : ClusterSt :=
  { x with acc := put (fun _ => AccRow.zero) x.acc r a }

/-- The 128 results of one activation vector on a tile, from the values a row starts with: the codes, and the flags of
an INT32 sum that saturated (R52) and of signalling operands (R31). -/
def passRow (r : PressRun) (acts : List Num) (wf af : Nat) (start : Nat → Nat) : List (Nat × Nat) :=
  (List.range 128).map fun n =>
    let ps := acts.zipIdx.map fun (a, t) => (tileWeight r n t, a)
    if pressInt wf af then
      let e := accumulateInt (start n) (ps.map fun p => (numInt p.1, numInt p.2))
      (e.1, if e.2 then flagSat else 0)
    else (accumulate32 (decide (wf = 1 ∨ wf = 2)) (start n) ps, sigFlag ps)

/-- Vector j of a pass: its row of the accumulators, with poison, type and faults (R111, R112, R130). -/
def passVector (s : State) (k : Nat) (r : PressRun) (p : PressCmd) (j : Nat) : State :=
  let c := k * 16 + r.core
  let d := pressDesc p.d
  let wf := (pressDesc r.load.d).fmt
  let v := p.ga / 2 ^ 32 + j
  let k0 := p.ga % 2 ^ 32
  let row := (cmdRows p).1 + j
  let (s1, bad) := readSpans s c (vectorSpans d v k0 (min (k0 + r.kt) d.inner))
  let s2 := match bad with
    | some a => addPressFault s1 c ⟨0xB, 3, a⟩
    | none => s1
  let isInt := pressInt wf d.fmt
  let old := accRow (getCl s2 k) row
  if p.f1 && old.isInt != isInt then
    addPressFault (modCl s2 k fun x => setAccRow x row { old with poison := true }) c ⟨0xB, 5, row⟩
  else
    let s3 := if p.f1 && old.parity then addPressFault s2 c ⟨0xB, 7, row⟩ else s2
    let acts := (List.range r.kt).map (feedValue s3 p v)
    let start := fun n => if p.f1 then (look (fun _ => 0) old.vals n).toNat else 0
    let rs := passRow r acts wf d.fmt start
    let poison := bad.isSome || r.bad.isSome || (p.f1 && (old.poison || old.parity))
    let new : AccRow := ⟨isInt, poison, cellsFrom (fun _ => 0) 0 (rs.map fun e => BitVec.ofNat 32 e.1), false⟩
    let s4 := modCl s3 k fun x => setAccRow x row new
    modCore s4 c fun x => { x with pFlags := x.pFlags ||| rs.foldl (fun f e => f ||| e.2) 0 }

/-- What the press does when a pass has ended and none follows (R125, R126). -/
def afterPass (s : State) (k : Nat) : Activity :=
  if regField s (oPrCtl k) 0 9 ≠ 0 then .gap else if regField s (oPrCtl k) 24 1 = 1 then .rampDown else .idle

/-- The last result of a pass that has fed is in the accumulators, also in a pause of the governor (R121, R127); a run
whose last pass this was closes. -/
def execPassComplete (k : ClusterId) (s : State) : Host.Outcome State Fault Refusal :=
  .next (
    let x := getCl s k.toNat
    match x.feed, x.current with
    | some (i, p), some r =>
      if !x.fed || x.power ≠ .on then s
      else
        let s1 := (List.range (cmdRows p).2).foldl (fun s j => passVector s k.toNat r p j) s
        let s2 := modCl s1 k.toNat fun y => { y with
          feed := none, fed := false, current := if p.last then none else y.current, passEnd := elapsed s
          activity := if x.activity = .passes then afterPass s k.toNat else y.activity }
        settle (pressAdvance 40 s2 k.toNat) (k.toNat * 16 + i)
    | _, _ => s)

/-! ### Drains (R113, R120) -/

/-- A PDRAIN at a queue head is granted to the drain engine, in round-robin order (R120). -/
def execDrainEngineGrant (k : ClusterId) (s : State) : Host.Outcome State Fault Refusal :=
  .next (
    let x := getCl s k.toNat
    let cs := (List.range 16).filter fun i => (pressQueue x i).head?.any (·.op == 2)
    match roundRobin x.lastDrain cs with
    | none => s
    | some i =>
      match (pressQueue x i).head? with
      | none => s
      | some h =>
        if x.failed || x.absent || x.power ≠ .on || x.drain.isSome then s
        else
          let s1 := modCl s k.toNat fun y => { y with drain := some (i, h), lastDrain := i }
          pressAdvance 40 (popPress s1 k.toNat i) k.toNat)

/-- The bytes that a run of element codes becomes from element n0 on, the half byte beside an odd end kept, and the
addresses of such half bytes (R113). -/
def drainBytes (s : State) (base fmt n0 : Nat) (codes : List Nat) : Nat × List Byte × List Nat :=
  let w := elemBits fmt
  let lo := n0 * w / 8
  let hi := (n0 + codes.length) * w
  let len := (hi + 7) / 8 - lo
  let old := rdNat s (base + lo) len
  (base + lo, natLe len (setFieldNat old (n0 * w - lo * 8) (codes.length * w) (packElems fmt codes)),
    (if n0 * w % 8 = 0 then [] else [base + lo]) ++ (if hi % 8 = 0 then [] else [base + hi / 8]))

/-- Drain row j of a command: narrowed into the output tensor (R49, R113), into E5M2 with e5sat = 0, so that a value
beyond its range becomes an infinity (DESIGN CHOICE, log entry 162); a poisoned row is written with poisoned check bits
(R130). The result: the state, the destination of a poisoned row, partial writes refused. -/
def drainRow (s : State) (k i : Nat) (p : PressCmd) (j : Nat) : State × Option Nat × List (Nat × Nat) :=
  let c := k * 16 + i
  let d := pressDesc p.d
  let v := p.ga / 2 ^ 32 + j
  let n0 := p.ga % 2 ^ 32
  let row := (cmdRows p).1 + j
  let a := accRow (getCl s k) row
  let s1 := if a.parity then addPressFault s c ⟨0xB, 7, row⟩ else s
  let cols := min 128 (d.inner - n0)
  let xs := (List.range cols).map fun n => narrowValue d.fmt a.isInt (look (fun _ => 0) a.vals n).toNat
  let (codes, scales, fl) := encodeList d.fmt true false (fun _ => .even) xs
  let poison := a.poison || a.parity
  let (addr, bytes, halves) := drainBytes s1 (d.ebase + v * d.estride) d.fmt n0 codes
  let (s2, l1) := writeHalves s1 addr (bytes.map fun b => (b, poison)) halves 14 (some c)
  let sa := d.sbase + v * d.sstride + n0 / 32
  let (s3, l2) := if scales.isEmpty then (s2, [])
    else writeMixed s2 sa (scales.map fun x => (BitVec.ofNat 8 x, poison)) 14 (some c)
  let s4 := modCore s3 c fun x => { x with pFlags := x.pFlags ||| fl }
  let s5 := modCl s4 k fun x => setAccRow x row (if p.f1 then AccRow.zero else { a with poison := poison, parity := false })
  (s5, if poison then some addr else none, l1 ++ l2)

/-- Drain the rows of a command in order: the state, the destination of the first poisoned row, partial writes
refused. -/
def drainRows (s : State) (k i : Nat) (p : PressCmd) : State × Option Nat × List (Nat × Nat) :=
  (List.range (cmdRows p).2).foldl (fun r j =>
    let (s1, b, l) := drainRow r.1 k i p j
    (s1, r.2.1.or b, r.2.2 ++ l)) (s, none, [])

/-- What a drain reports of core c: sub 0x06 for its poisoned rows, and each partial write refused (R113, R130). -/
def drainFaults (s : State) (c : Nat) (bad : Option Nat) (lost : List (Nat × Nat)) : State :=
  let s1 := match bad with
    | some a => addPressFault s c ⟨0xB, 6, a⟩
    | none => s
  lost.foldl (fun s l => addPressFault s c ⟨3, l.2, l.1⟩) s1

/-- The data of a drain is visible (R113, R120): every earlier pass over its rows has ended. -/
def execDrainComplete (k : ClusterId) (s : State) : Host.Outcome State Fault Refusal :=
  .next (
    let x := getCl s k.toNat
    match x.drain with
    | none => s
    | some (i, p) =>
      let c := k.toNat * 16 + i
      if x.power ≠ .on || x.feed.any (fun f => rowsMeet f.2 p) || !(getCore s c).buf.isEmpty then s
      else
        let (s1, bad, lost) := drainRows s k.toNat i p
        settle (pressAdvance 40 (modCl (drainFaults s1 c bad lost) k.toNat fun y => { y with drain := none }) k.toNat) c)

/-! ### Suspension and current steadiness (R119, R125 to R127) -/

/-- The current run's core has had an empty queue for PR_CTL.hold cycles, and another core holds a candidate or a chosen
run: it is suspended at the end of those cycles (R119; log entry 161). -/
def execRunSuspend (k : ClusterId) (s : State) : Host.Outcome State Fault Refusal :=
  .next (
    let x := getCl s k.toNat
    match x.current with
    | none => s
    | some r =>
      let others := (List.range 16).any (fun i => i != r.core && pressCandidate s k.toNat i) ||
        x.shadow.any (·.core != r.core)
      if x.feed.isSome || x.power ≠ .on || !(pressQueue x r.core).isEmpty || !others then s
      else
        let hold := cyclesNs x (regField s (oPrCtl k.toNat) 16 8)
        let s1 := advanceTo s (look (fun _ => 0) x.emptyAt r.core + hold)
        pressAdvance 40 (modCl s1 k.toNat fun y => { y with current := none, susp := y.susp ++ [r] }) k.toNat)

/-- A gap of dummy operations has lasted PR_CTL.gap cycles, 256 at most, without a pass (R125, R126). -/
def execGapExpiry (k : ClusterId) (s : State) : Host.Outcome State Fault Refusal :=
  .next (
    let x := getCl s k.toNat
    if x.activity = .gap then
      let s1 := advanceTo s (x.passEnd + cyclesNs x (min 256 (regField s (oPrCtl k.toNat) 0 9)))
      modCl s1 k.toNat fun x => { x with
        activity := if regField s (oPrCtl k.toNat) 24 1 = 1 then .rampDown else .idle }
    else s)

/-- The ramp-down ends: idle, or paused by the governor (R126, R127). -/
def execRampDownEnd (k : ClusterId) (s : State) : Host.Outcome State Fault Refusal :=
  .next (if (getCl s k.toNat).activity = .rampDown then
    modCl s k.toNat fun x => { x with activity := if x.paused then .paused else .idle } else s)

/-- The ramp-up ends; the first feed cycle may follow (R126). With no pass granted the press goes on as it does after a
pass: a gap of dummy operations, none where PR_CTL.gap is 0 (R125; DESIGN CHOICE, log entry 161). -/
def execRampUpEnd (k : ClusterId) (s : State) : Host.Outcome State Fault Refusal :=
  .next (if (getCl s k.toNat).activity = .rampUp then
    modCl s k.toNat fun x => { x with
      fed := x.feed.isSome, passEnd := elapsed s, activity := if x.feed.isSome then .passes else afterPass s k.toNat }
    else s)

/-! ### Failure (R128) -/

/-- A weight parity error or a failed internal check: every command is discarded, the accumulators are lost, the press
is failed until the next start (R128). -/
def pressFail (s : State) (k row col : Nat) : State :=
  let x := getCl s k
  if x.failed || x.absent then s
  else
    let hit := (List.range 16).filter fun i => pressOutstanding s (k * 16 + i) != 0
    let s1 := hit.foldl (fun s i =>
      bump (addPressFault s (k * 16 + i) ⟨0xB, 1, 0⟩) 0x04 8 (pressOutstanding s (k * 16 + i)) (.core (k * 16 + i))) s
    let s2 := modCl s1 k fun x => { x with
      failed := true, queues := [], current := none, shadow := none, susp := [], feed := none, fed := false, drain := none, acc := []
      activity := .idle, prFault := BitVec.ofNat 64 (2 ^ 24 + row * 256 + col) }
    let s3 := ledger s2 0x0202 sevError (partOfCl s k) (srcCluster k) [1, row, col]
    (coresOf k).foldl settle s3

/-- A press failure is found. -/
def execPressFailure (k : ClusterId) (row col : BitVec 7) (s : State) : Host.Outcome State Fault Refusal :=
  .next (if populatedCl s k.toNat then pressFail s k.toNat row.toNat col.toNat else s)

end Sys2Proof.Machine
end

