-- ==== Sys2Proof/Machine/CoreMem.lean ====
section
/-! DEFINITION. A core's own view of memory: the address checks at issue (R63, R65, R68), the store buffer (R79), what a
load takes from it, and the prefetch buffer (R83, R84). -/

namespace Sys2Proof.Machine

/-! ### Checks at issue -/

/-- Whether a core may address a local store, vein or far byte at issue: it lies in its partition, in a populated
cluster or stack (R63). -/
def inOwnPartition (s : State) (c a : Nat) : Bool :=
  match partOf s c with
  | none => false
  | some p => populatedPlace s (placeOf a) && inPartition s p a

/-- Whether an address lies in a core's own vein. -/
def inOwnVein (c a : Nat) : Bool :=
  match placeOf a with
  | .vein d _ => d == c
  | _ => false

/-- The requests in the own-request queue of a core's vein controller: loads that have not returned, granules asked for,
moves in flight (R139, R153; DESIGN CHOICE, log entry 163). -/
def ownQueue (s : State) (c : Nat) : Nat :=
  let x := getCore s c
  (x.loads.filter fun l => inOwnVein c l.addr).length + (x.asked.filter (inOwnVein c)).length +
    (x.moves.filter fun m => inOwnVein c m.ga).length

/-- Whether a core's access to an address waits because the own-request queue of 16 entries is full (R153). -/
def ownFull (s : State) (c a : Nat) : Bool := inOwnVein c a && decide (16 ≤ ownQueue s c)

/-! ### The store buffer (R79) -/

/-- The bytes of a store-buffer line with one of them stored. -/
def setLineByte (m : Map Byte) (i : Nat) (b : Byte) : Map Byte := insertAt i b (m.filter fun e => e.1 != i)
/-- The bytes of a line with several stored from an offset on. -/
def setLineBytes (m : Map Byte) (i : Nat) (bs : List Byte) : Map Byte :=
  bs.zipIdx.foldl (fun m e => setLineByte m (i + e.2) e.1) m

/-- The core's own store in matching entries of its prefetch buffer (R84). -/
def updatePref (m : Map (List Byte)) (a : Nat) (bs : List Byte) : Map (List Byte) :=
  m.map fun e => (e.1, e.2.zipIdx.map fun (b, i) =>
    if a ≤ e.1 + i && e.1 + i < a + bs.length then bs.getD (e.1 + i - a) b else b)

/-- Put a store into the buffer: merged into the youngest entry when it may be and lies in its line; none when all 16
entries are busy. -/
def bufferStore (x : CoreSt) (a : Nat) (bs : List Byte) (merge control : Bool) : Option CoreSt :=
  let line := a / 128
  let y := { x with pref := updatePref x.pref a bs }
  match x.buf.getLast? with
  | some e =>
    if merge && !control && !e.control && e.line == line then
      some { y with buf := x.buf.dropLast ++ [{ e with
        bytes := setLineBytes e.bytes (a % 128) bs, stores := e.stores ++ [(a, bs.length)] }] }
    else if 16 ≤ x.buf.length then none
    else some { y with buf := x.buf ++ [⟨line, setLineBytes [] (a % 128) bs, control, [(a, bs.length)]⟩] }
  | none => some { y with buf := [⟨line, setLineBytes [] (a % 128) bs, control, [(a, bs.length)]⟩] }

/-- What a load meets in the store buffer: nothing, its bytes wholly within one entry, or an entry that holds only a
part of them, or other bytes of their 32-byte granules, for which it waits (R77, R79). -/
inductive Forward where
  | miss
  | hit (bs : List Byte)
  | part
  deriving DecidableEq, Repr

/-- Look a load up in the store buffer, youngest entry first (R79). -/
def forward (x : CoreSt) (a n : Nat) : Forward :=
  let at_ : StoreEnt → List (Option Byte) := fun e =>
    (List.range n).map fun i =>
      if (a + i) / 128 = e.line then (e.bytes.find? fun b => b.1 == (a + i) % 128).map (·.2) else none
  match x.buf.reverse.find? fun e => (at_ e).any (·.isSome) with
  | none =>
    let near := fun e : StoreEnt => !e.control && e.bytes.any fun b =>
      decide (a / 32 ≤ (e.line * 128 + b.1) / 32) && decide ((e.line * 128 + b.1) / 32 ≤ (a + n - 1) / 32)
    if x.buf.any near then .part else .miss
  | some e => if (at_ e).all (·.isSome) then .hit ((at_ e).map (·.getD 0)) else .part

/-! ### The prefetch buffer (R83) -/

/-- The bytes of a load that lie within one filled granule. -/
def prefHit (x : CoreSt) (a n : Nat) : Option (List Byte) :=
  match x.pref.find? fun e => e.1 == a / 32 * 32 with
  | some e => if a % 32 + n ≤ e.2.length then some ((e.2.drop (a % 32)).take n) else none
  | none => none

/-- Fill a granule; with 32 entries filled the oldest is replaced (R84). An entry takes its slot and its age when it is
filled, and granules asked for hold none (DESIGN CHOICE, log entry 156). -/
def prefFill (x : CoreSt) (g : Nat) (bs : List Byte) : CoreSt :=
  let order := x.prefOrder.filter (· != g)
  let drop := if 32 ≤ order.length then order.head?.toList else []
  { x with
    pref := insertAt g bs (x.pref.filter fun e => e.1 != g && !drop.contains e.1)
    prefOrder := order.drop drop.length ++ [g] }

/-! ### Events of a load -/

/-- How a synchronous read by a core ends (R432, R438, R164): its bytes, a stall, or a trap. -/
inductive CoreRead where
  | wait
  | trap (t : TrapInfo)
  | ok (s : State) (bs : List Byte)

/-- The trap of an access that is not served, at an address (Table 14.4). -/
def accessTrap (e : AccRes) (a : Nat) : TrapInfo :=
  match e with
  | .reset => ⟨0xE, 2, a⟩
  | .refused => ⟨0xE, 1, a⟩
  | _ => ⟨4, 0, a⟩

/-- Read n bytes as core c, who being the row of Table 14.3. A lost unit gives trap 0x03 with the unit's address. -/
def coreRead (s : State) (c a n who : Nat) : State × CoreRead :=
  match readRange s (coreReq s c) a n who with
  | (s1, _, _, some (_, .wait)) => (s1, .wait)
  | (s1, _, _, some (b, e)) => (s1, .trap (accessTrap e b))
  | (s1, bs, [], none) => (s1, .ok s1 (bs.map (·.1)))
  | (s1, _, l :: _, none) => (s1, .trap ⟨3, l.2, l.1⟩)

end Sys2Proof.Machine
end

