-- ==== Sys2Proof/Machine/Vein.lean ====
section
/-! DEFINITION. The vein controller (chapter 5): moves and prefetches, refresh, scrubbing, guests, the page cache of
tiered mode. The region table is in Machine/Regions.lean, which needs the bank units' commands. -/

namespace Sys2Proof.Machine

/-! ### MLD, MST, MPF (R166 to R172) -/

/-- The word of a row of major opcode 0x1C (Table 5.5). -/
def encMove (ga gb gc func mode : Nat) : Nat :=
  0x1C * 2 ^ 26 + ga * 2 ^ 21 + gb * 2 ^ 16 + gc * 2 ^ 11 + func * 2 ^ 8 + mode * 2 ^ 6

/-- Whether n bytes at an address lie in one local store of a cluster. -/
def lsSide (k a n : Nat) : Bool :=
  match placeOf a with
  | .ls c off => c / 16 == k && decide (off + n ≤ 0x80000)
  | _ => false

/-- Whether an address is one that a core may name as the vein or far side of a move: populated, in its partition, and in
its own vein in a region it may use (R63, R162, R167). -/
def veinPoint (s : State) (c a : Nat) : Bool :=
  match placeOf a with
  | .vein d off => inOwnPartition s c a && (d != c || ownLegal s c off)
  | .far _ _ => inOwnPartition s c a
  | _ => false

/-- Whether n bytes at an address are a vein or far side that a core may name. Slabs, regions and check parts begin at
multiples of 32 KiB, so the ends and the multiples between them stand for every byte. -/
def veinSide (s : State) (c a n : Nat) : Bool :=
  n == 0 || (veinPoint s c a && veinPoint s c (a + n - 1) &&
    (List.range ((a % 0x8000 + n - 1) / 0x8000)).all fun i => veinPoint s c (a - a % 0x8000 + (i + 1) * 0x8000))

/-- A move as its operands describe it: none and the offending address when they break a rule (R167). -/
def moveOf (s : State) (c mode : Nat) (load : Bool) (ga gb gc : Nat) : Move ⊕ Nat :=
  let (len, cnt, str) :=
    if mode = 0 then (gc % 2 ^ 20, 1, 0) else (fieldNat gc 0 16, fieldNat gc 16 16, fieldNat gc 32 32)
  let badSize :=
    if mode = 0 then decide (len % 32 ≠ 0) || decide (len < 32) || decide (524288 < len)
    else decide (len % 4 ≠ 0) || decide (len < 4) || decide (cnt = 0) || decide (str % 4 ≠ 0) || decide (str < len) ||
      decide (524288 < len * cnt)
  if badSize || ga % (if mode = 0 then 32 else 4) ≠ 0 then .inr ga
  else if gb % 32 ≠ 0 || !lsSide (c / 16) gb (len * cnt) then .inr gb
  else match (List.range cnt).find? fun j => !veinSide s c (ga + j * str) len with
    | some j => .inr (ga + j * str)
    | none => .inl ⟨load, ga, gb, len, cnt, str, none⟩

/-- The issue of a move: 8 may be in flight, older stores must have left the store buffer, and the own-request queue must
have room (R153, R168, R169). -/
def issueMove (s : State) (c : CoreId) (ga gb gc : GReg) (mode : BitVec 2) (load : Bool) : State :=
  issue s c.toNat ⟨4, [ga.toNat, gb.toNat, gc.toNat], true⟩ (raSkip 4) fun s =>
    let x := getCore s c.toNat
    if 1 < mode.toNat then illegal s (encMove ga.toNat gb.toNat gc.toNat (!load).toNat mode.toNat)
    else match moveOf s c.toNat mode.toNat load (gpr x ga.toNat).toNat (gpr x gb.toNat).toNat (gpr x gc.toNat).toNat with
      | .inr a => .at s 4 0 a
      | .inl m =>
        if 8 ≤ x.moves.length || !x.buf.isEmpty || ownFull s c.toNat m.ga then .stall s
        else .go (setCore s c.toNat { x with moves := x.moves ++ [m] })

/-- MLD (R167). -/
def execMld (c : CoreId) (ga gb gc : GReg) (mode : BitVec 2) (s : State) : Host.Outcome State Fault Refusal :=
  .next (issueMove s c ga gb gc mode true)
/-- MST (R167). -/
def execMst (c : CoreId) (ga gb gc : GReg) (mode : BitVec 2) (s : State) : Host.Outcome State Fault Refusal :=
  .next (issueMove s c ga gb gc mode false)

/-- MPF: granules asked for; those that would fault are dropped (R171). -/
def execMpf (c : CoreId) (ga gc : GReg) (s : State) : Host.Outcome State Fault Refusal :=
  .next (issue s c.toNat ⟨4, [ga.toNat, gc.toNat], true⟩ (raSkip 4) fun s =>
    let x := getCore s c.toNat
    let n := (gpr x gc.toNat).toNat % 64
    let a := (gpr x ga.toNat).toNat / 32 * 32
    if n = 0 || 32 < n then illegal s (encMove ga.toNat 0 gc.toNat 2 0)
    else
      let want := ((List.range n).map fun i => a + 32 * i).filter fun g => veinSide s c.toNat g 32 && !x.asked.contains g
      .go (setCore s c.toNat { x with asked := x.asked ++ want }))

/-- A granule asked for arrives: it fills its entry, or is left unfilled when it met an error (R83, R171). Moves of the
core to the granule come first (R77). -/
def execPrefetchFill (c : CoreId) (addr : BitVec 48) (s : State) : Host.Outcome State Fault Refusal :=
  .next (
    let g := addr.toNat
    let x := getCore s c.toNat
    if !x.asked.contains g || movesMeet x.moves g 32 then s
    else
      let done : CoreSt → CoreSt := fun x => { x with asked := x.asked.filter (· != g) }
      match coreRead s c.toNat g 32 2 with
      | (s1, .wait) => s1
      | (s1, .trap _) => modCore s1 c.toNat done
      | (_, .ok s1 bs) => modCore s1 c.toNat fun x =>
        -- the core's own younger stores stand in its entry (R84)
        let bs1 := bs.zipIdx.map fun e => match forward x (g + e.2) 1 with
          | .hit [b] => b
          | _ => e.1
        prefFill (done x) g bs1)

/-- A failure of a core's stores or moves, kept until it is reported (R81, R170). -/
def noteFailure (x : CoreSt) (t : Option TrapInfo) : CoreSt :=
  match t with
  | none => x
  | some t => { x with failed := x.failed ++ [t] }

/-- A core's prefetch buffer without the granules that a move touches (R169). -/
def dropPref (x : CoreSt) (m : Move) : CoreSt :=
  { x with
    pref := x.pref.filter fun e => !movesMeet [m] e.1 32
    prefOrder := x.prefOrder.filter fun g => !movesMeet [m] g 32 }

/-- Move i of a core ends, with its first failure. -/
def moveEnd (s : State) (c i : Nat) (m : Move) (t : Option TrapInfo) : State :=
  settle (modCore s c fun x => noteFailure (dropPref { x with moves := x.moves.eraseIdx i } m) t) c

/-- The i-th oldest move in flight completes, unless an older one touches a granule of it (R77, R168). -/
def execMoveComplete (c : CoreId) (i : BitVec 3) (s : State) : Host.Outcome State Fault Refusal :=
  .next (
    let x := getCore s c.toNat
    match x.moves[i.toNat]? with
    | none => s
    | some m =>
      if (moveSpans m).any fun p => movesMeet (x.moves.take i.toNat) p.1 (p.2 - p.1) then s
      else match runMove s c.toNat m with
        | (s1, some rest, _) => modCore s1 c.toNat fun x => { x with moves := x.moves.set i.toNat rest }
        | (s1, none, t) => moveEnd s1 c.toNat i.toNat m t)

/-! ### Refresh (R144 to R147) -/

/-- The least of some numbers. -/
def leastNat : List Nat → Option Nat
  | [] => none
  | x :: r => some (match leastNat r with
    | some y => min x y
    | none => x)

/-- Whether a core's vein controller runs: its cluster is populated and its die up (R140, R179). -/
def veinRuns (s : State) (c : Nat) : Bool := populated s c && dieUp s (c / 1024)

/-- When a die's vein controllers began (R144). -/
def veinSince (s : State) (c : Nat) : Nat := s.start.upAt.getD (c / 1024) 0

/-- When the next refresh of a pair falls due: the sixteen pairs are staggered over the first interval (R144). -/
def dueOf (s : State) (c q : Nat) : Nat := look (fun q => veinSince s c + q * 3900 / 16) (getVein s c).due q

/-- tREFI of a stratum in strata cycles: 1,950 while it is hot or hot_force is set (R144, R145). -/
def refreshInterval (s : State) (c stratum : Nat) : Nat :=
  if bitNat (getVein s c).hot stratum || regField s (oVctl c) 0 1 == 1 then 1950 else 3900

/-- A refresh interval of a pair falls due: its debt rises, to 8 at most, and the next due point follows at the stratum's
present tREFI (R144 to R146). -/
def execRefreshDue (c : CoreId) (pair : BitVec 4) (s : State) : Host.Outcome State Fault Refusal :=
  .next (
    if !veinRuns s c.toNat then s
    else
      let at_ := dueOf s c.toNat pair.toNat
      let next := at_ + refreshInterval s c.toNat (pair.toNat / 4)
      modVein (advanceTo s at_) c.toNat fun v => { v with
        due := put (fun q => veinSince s c.toNat + q * 3900 / 16) v.due pair.toNat next
        debt := put (fun _ => 0) v.debt pair.toNat (min 8 (debtOf v pair.toNat + 1)) })

/-- Whether a bank-unit command reads or writes rows of its pair. -/
def NbCmd.streams : NbCmd → Bool
  | .load _ _ _ => false
  | .drain _ _ _ => false
  | _ => true

/-- Whether a bank unit holds a bank of its pair: it streams (R151, R209). -/
def heldBank (v : VeinSt) (b : Nat) : Bool :=
  (getUnit v (b / 2)).busy && (getUnit v (b / 2)).queue.head?.any (·.2.streams)

/-- The elapsed times at which the port requests for a bank pair of a vein arrived that have not been answered: queued
guests, and loads of any core (R146, R151). -/
def pairRequests (s : State) (c q : Nat) : List Nat :=
  let on := fun off => (bankRow s c off).1 / 2 == q
  ((getVein s c).guests.filter fun g => g.far.isNone && on g.req.offset.toNat).map (·.at_) ++
    s.cores.flatMap fun e => (e.2.loads.filter fun l => match placeOf l.addr with
      | .vein d off => d == c && on off
      | _ => false).map (·.at_)

/-- Whether a port request for a bank pair is queued (R146). -/
def pairWanted (s : State) (c q : Nat) : Bool := !(pairRequests s c q).isEmpty

/-- The requester of a guest request that has arrived on die d. -/
def guestOf (g : GuestReq) (d : Nat) : Requester := ⟨g.kind.toNat, g.source.toNat, g.part.toNat, d, false⟩

/-- The row of Table 14.3 that a guest's access is: core load or store, DMA, host, comptroller. -/
def guestRow (g : GuestReq) : Nat :=
  match g.kind.toNat with
  | 0 => if g.write then 3 else 2
  | 1 => 8
  | 2 => if g.write then 13 else 12
  | _ => 10

/-- What a guest is told: the status of a read or a write, with the bytes read. -/
def guestTold (s : State) (g : GuestReq) (status : Nat) (bs : List Byte) : State :=
  emit s (.memReply g.kind.toNat g.source.toNat status bs)

/-- Serve or refuse a guest request; false when it waits (R164). -/
def serveGuest (s : State) (c : Nat) (g : GuestReq) : State × Bool :=
  let a := veinAddr c g.offset.toNat
  if g.write then
    match writeRange s (guestOf g (c / 1024)) a (clean g.data) (guestRow g) with
    | (s1, _, some (_, .wait)) => (s1, false)
    | (s1, _, some (_, e)) => (guestTold s1 g (statusOf e) [], true)
    | (s1, [], none) => (guestTold s1 g stOk [], true)
    | (s1, _ :: _, none) => (guestTold s1 g stUncorrectable [], true)
  else
    match readRange s (guestOf g (c / 1024)) a g.size (guestRow g) with
    | (s1, _, _, some (_, .wait)) => (s1, false)
    | (s1, _, _, some (_, e)) => (guestTold s1 g (statusOf e) [], true)
    | (s1, bs, [], none) => (guestTold s1 g stOk (bs.map (·.1)), true)
    | (s1, _, _ :: _, none) => (guestTold s1 g stUncorrectable [], true)

/-- Whether a guest request names a bank that a bank unit holds (R151). -/
def guestHeld (s : State) (c : Nat) (g : GuestReq) : Bool := heldBank (getVein s c) (bankRow s c g.offset.toNat).1

/-- Serve a queued guest: an access that waited for a miss slot begins its miss (R176); one that came before its region
was written unused still finds the region as it was (R157). -/
def serveQueued (s : State) (c : Nat) (g : Guest) : State × Bool :=
  match g.far, g.prior.bind fun n => ((getVein s c).unused.find? (·.1 == n)) with
  | some (k, off), _ => let r := cacheTouch s k off; (r.1, r.2.isSome)
  | none, some (n, old, zf) =>
    let w := getReg s (oRegion c n)
    let r := serveGuest (modVein (setReg s (oRegion c n) (BitVec.ofNat 64 old)) c fun v =>
      { v with unused := v.unused.filter (·.1 != n) }) c g.req
    (modVein (setReg r.1 (oRegion c n) w) c fun v => { v with unused := insertAt n (old, zf) v.unused }, r.2)
  | none, none => serveGuest s c g.req

/-- Try some of the queued guests once, promoted ones first, each rank oldest first (R150). -/
def serveSome (s : State) (c : Nat) (may : State → Guest → Bool) : State :=
  let gs := (getVein s c).guests
  ((gs.filter (·.promoted)) ++ gs.filter (!·.promoted)).foldl (fun s g =>
    if !may s g then s
    else match serveQueued s c g with
    | (s1, true) => modVein s1 c fun v => { v with guests := v.guests.erase g }
    | (s1, false) => s1) s

/-- Try the queued guests that no bank unit holds up (R151). -/
def serveGuests (s : State) (c : Nat) : State := serveSome s c fun s g => g.far.isSome || !guestHeld s c g.req

/-- Serve the queued guests of a pair at a row boundary or a stop of its bank unit (R151). -/
def servePair (s : State) (c q : Nat) : State :=
  serveSome s c fun s g => g.far.isNone && (bankRow s c g.req.offset.toNat).1 / 2 == q

/-- A refresh of a pair under its debt: below 8 it waits while port requests for the pair are queued, and it is taken at
the row boundary of a unit that streams, where waiting requests are served (R146, R151). -/
def execRefreshCommand (c : CoreId) (pair : BitVec 4) (s : State) : Host.Outcome State Fault Refusal :=
  .next (
    let q := pair.toNat
    let n := debtOf (getVein s c.toNat) q
    if !veinRuns s c.toNat || n = 0 || (n < 8 && pairWanted s c.toNat q) then s
    else servePair (refreshPair s c.toNat q) c.toNat q)

/-! ### Scrubbing (R148, R149) -/

/-- The sealed regions of a vein. -/
def sealedRegions (s : State) (c : Nat) : List Region := (regionTable s c).filter (·.kind == kindSealed)

/-- The first sealed data row at or after an offset. -/
def sealedRow (s : State) (c from_ : Nat) : Option Nat :=
  leastNat ((sealedRegions s c).filterMap fun r =>
    if from_ ≤ r.start then (if r.dataSize = 0 then none else some r.start)
    else
      let row := (from_ + 2047) / 2048 * 2048
      if row < r.start + r.dataSize then some row else none)

/-- A scrub step falls due, CO_VSCRUB.step µs after the last; with no sealed region there is no row to scrub (R148). -/
def execScrubStepDue (c : CoreId) (s : State) : Host.Outcome State Fault Refusal :=
  .next (
    let v := getVein s c.toNat
    if !veinRuns s c.toNat || regField s (oVscrub c.toNat) 16 1 = 0 || v.scrubDue.isSome ||
      (sealedRegions s c.toNat).isEmpty then s
    else
      let at_ := v.scrubLast.getD (veinSince s c.toNat) + 1000 * max 1 (regField s (oVscrub c.toNat) 0 16)
      let s1 := advanceTo s at_
      setVein s1 c.toNat { v with scrubLast := some (elapsed s1), scrubDue := some (elapsed s1), urgent := false })

/-- A due step has waited age_lim µs (R149). -/
def execScrubUrgent (c : CoreId) (s : State) : Host.Outcome State Fault Refusal :=
  .next (
    let v := getVein s c.toNat
    match v.scrubDue with
    | none => s
    | some t =>
      if v.urgent then s
      else
        let age := max 1 (regField s (oVscrub c.toNat) 32 16)
        let s1 := advanceTo s (t + age * 1000)
        bump (setVein s1 c.toNat { v with urgent := true }) 0x05 8 1 (.core c.toNat))

/-- Scrub one burst of a sealed region (R148, R442). -/
def scrubBurst (s : State) (c off : Nat) : State := scrubUnit s (unitAt s (veinAddr c off))

/-- Whether a scrub step that is not urgent waits behind the other requests for its bank: a bank unit that holds it, port
requests, refresh debt (ranks 3 to 7 of Table 5.3). -/
def scrubYields (s : State) (c b : Nat) : Bool :=
  heldBank (getVein s c) b || pairWanted s c (b / 2) || debtOf (getVein s c) (b / 2) != 0

/-- One step of the scrub engine: the 64 bursts of the next sealed data row (R148, R149). An urgent step goes before
everything but a refresh at debt 8, another after everything; a region that is being initialised waits. -/
def execScrubStep (c : CoreId) (s : State) : Host.Outcome State Fault Refusal :=
  .next (
    let n := c.toNat
    let v := getVein s n
    let at_ := (sealedRow s n v.scrubAt).or (sealedRow s n 0)
    match v.scrubDue, at_ with
    | some _, some row =>
      let (b, r) := bankRow s n row
      if !veinRuns s n || debtOf v (b / 2) = 8 || regionWaits s n row || (!v.urgent && scrubYields s n b) then s
      else
        let s1 := (List.range 64).foldl (fun s i => scrubBurst s n (row + 32 * i)) s
        let (next, pass) := match sealedRow s1 n (row + 2048) with
          | some o => (o, 0)
          | none => ((sealedRow s1 n 0).getD 0, 1)
        let s2 := modVein s1 n fun v => { v with
          scrubDue := none, urgent := false, scrubAt := next, scrubs := (v.scrubs + pass) % 2 ^ 32
          rows := put noRow v.rows b none }
        let s3 := bump (bump s2 0x05 7 1 (.core n)) 0x05 1 (if (look noRow v.rows b).any (·.1 == r) then 0 else 1) (.core n)
        if pass = 1 then bump s3 0x0E 8 1 (.core n) else s3
    | _, _ => s)

/-! ### The port and its guests (R143, R150 to R153, R163, R164) -/

/-- An open row has been idle for CO_VCTL.page_idle strata cycles: the bank is precharged (R143). -/
def execPageIdlePrecharge (c : CoreId) (bank : BitVec 5) (s : State) : Host.Outcome State Fault Refusal :=
  .next (
    match look noRow (getVein s c.toNat).rows bank.toNat with
    | none => s
    | some (_, t) =>
      if !veinRuns s c.toNat then s
      else modVein (advanceTo s (t + regField s (oVctl c.toNat) 8 8)) c.toNat fun v =>
        { v with rows := put noRow v.rows bank.toNat none })

/-- A port request has waited CO_VCTL.port_wait strata cycles, 16 at least, on a bank that a bank unit holds: the unit
stops, the requests for its pair are served, and it resumes where it stopped; the stop is counted (R151, R215). -/
def execPortWaitStop (c : CoreId) (unit : BitVec 4) (s : State) : Host.Outcome State Fault Refusal :=
  .next (
    let n := c.toNat
    let u := unit.toNat
    match leastNat (pairRequests s n u) with
    | none => s
    | some t =>
      if !veinRuns s n || !heldBank (getVein s n) (2 * u) then s
      else
        let s1 := advanceTo s (t + max 16 (regField s (oVctl n) 16 8))
        let s2 := modVein s1 n fun v => { v with rows := clearIn v.rows (2 * u) 2 }
        servePair (bump (bump s2 0x05 9 1 (.core n)) 0x06 5 1 (.core n)) n u)

/-- The oldest guest not yet promoted has waited 16 × guest_age strata cycles: it takes rank 3 (R150, R152). -/
def execGuestPromotion (c : CoreId) (s : State) : Host.Outcome State Fault Refusal :=
  .next (
    let v := getVein s c.toNat
    let age := regField s (oVctl c.toNat) 24 8
    match v.guests.findIdx? fun g => !g.promoted with
    | none => s
    | some i =>
      match v.guests[i]? with
      | none => s
      | some g =>
        if age = 0 then s
        else modVein (advanceTo s (g.at_ + 16 * age + 1)) c.toNat fun v =>
          { v with guests := v.guests.set i { g with promoted := true } })

/-- Whether a guest request can reach a controller: from outside its own core, whole in the vein, and for a core through
the partition check of R63. -/
def guestComes (s : State) (c : Nat) (g : GuestReq) : Bool :=
  let n := if g.write then g.data.length else g.size
  populated s c && n != 0 && decide (g.offset.toNat + n ≤ 0x4000000) && !(guestOf g (c / 1024)).owns c &&
    (g.kind.toNat != 0 || inOwnPartition s g.source.toNat (veinAddr c g.offset.toNat))

/-- A guest request reaches a vein controller: served, refused, or queued when it must wait, as for a bank that a bank unit
holds; with 32 queued it is delayed at its port (R151, R153, R164). -/
def execGuestAccess (c : CoreId) (g : GuestReq) (s : State) : Host.Outcome State Fault Refusal :=
  .next (
    if !guestComes s c.toNat g then s
    else match if guestHeld s c.toNat g then (s, false) else serveGuest s c.toNat g with
      | (s1, true) => s1
      | (s1, false) =>
        if 32 ≤ (getVein s1 c.toNat).guests.length then s
        else modVein s1 c.toNat fun v => { v with guests := v.guests ++ [⟨g, elapsed s, false, none, none⟩] })

/-! ### The page cache (R173 to R178) -/

/-- The next line of a page to arrive: the first that has not. -/
def nextLine (p : CachePage) : Option Nat := (List.range 256).find? fun l => !p.lines.contains l

/-- A line of a miss arrives from far memory; what waited is served (R176). -/
def execCacheFillLine (c : CoreId) (s : State) : Host.Outcome State Fault Refusal :=
  .next (match (getVein s c.toNat).pages.find? fun e => e.2.filling with
    | none => s
    | some (key, p) =>
      match nextLine p with
      | none => s
      | some l => serveGuests (fillLine s c.toNat key l) c.toNat)

/-- Write back every dirty page of a vein. -/
def flushPages (s : State) (c : Nat) : State :=
  ((getVein s c).pages.filter fun e => e.2.dirty).foldl (fun s e => writeBack s c e.1) s

/-- CO_VTIER.flush: ignored in flat mode; one that arrives during a flush acts after it (R178, R509, Table 5.13). -/
def tierFlush (s : State) (c : Nat) : State :=
  if s.start.tiered && veinRuns s c then
    if (getVein s c).flush then modVein s c fun v => { v with flushes := v.flushes + 1 }
    else modVein (flushPages s c) c fun v => { v with flush := true }
  else s

/-- A write of CO_VTIER.flush (R178). -/
def execTierFlush (r : Req) (c : CoreId) (s : State) : Host.Outcome State Fault Refusal :=
  .next (regWrite s r (coBase c.toNat + 0x130) fun s => tierFlush s c.toNat)

/-- The last write-back of a flush: pages written meanwhile are written back again (R178); then a flush that waited
begins (R509). -/
def execTierFlushComplete (c : CoreId) (s : State) : Host.Outcome State Fault Refusal :=
  .next (if (getVein s c.toNat).flush then
      modVein (flushPages s c.toNat) c.toNat fun v => { v with flush := v.flushes != 0, flushes := v.flushes - 1 }
    else s)

end Sys2Proof.Machine
end

