-- ==== Sys2Proof/Machine/Strips.lean ====
section
/-! DEFINITION. Strips of weights (R185 to R190): the strip descriptor, where rows, elements and scales lie, which strip
rows a command reads and how they are checked; bank-unit queues and the record of latch configurations (R184, R192). -/

namespace Sys2Proof.Machine

/-! ### The strip descriptor (Table 6.2) -/

/-- The fields of a strip descriptor; raw is wfmt as written, wfmt is 0x9 for 0xE. -/
structure StripDesc where
  kind : Nat
  raw  : Nat
  wfmt : Nat
  ns   : Bool
  ck   : Nat
  base : Nat
  len  : Nat
  rows : Nat
  rsv  : Bool
  deriving DecidableEq, Repr

/-- Read a strip descriptor. -/
def stripDesc (d : Nat) : StripDesc :=
  let raw := fieldNat d 248 4
  ⟨fieldNat d 252 4, raw, if raw = 0xE then 9 else raw, bitNat d 247 || raw == 0xE, fieldNat d 245 2,
    fieldNat d 144 48, fieldNat d 64 32, fieldNat d 32 32,
    fieldNat d 192 53 != 0 || fieldNat d 96 48 != 0 || fieldNat d 0 32 != 0⟩

/-- The element format: unscaled INT4 is 0xE (R185). -/
def StripDesc.elem (d : StripDesc) : Nat := if d.wfmt = 9 && d.ns then 0xE else d.wfmt

/-- Element rows to a scale row; 0 for an unscaled strip (R187). -/
def StripDesc.group (d : StripDesc) : Nat :=
  match d.elem with
  | 7 => 16
  | 9 => 16
  | 0xB => 32
  | 0xA => 8
  | _ => 0

/-- Element bytes to a scale (R187). -/
def StripDesc.perScale (d : StripDesc) : Nat := if d.wfmt = 0xB then 32 else 16

/-- The bytes of one data row (R188). -/
def StripDesc.rowBytes (d : StripDesc) : Nat := if d.wfmt = 0xA then d.len / 5 else d.len * elemBits d.elem / 8

/-- The row stride of a block (R188). -/
def StripDesc.stride (d : StripDesc) : Nat := if d.ck = 0 then 256 else 257
/-- The blocks of a strip. -/
def StripDesc.blocks (d : StripDesc) : Nat := (d.rows + 255) / 256
/-- The data rows of a block. -/
def StripDesc.blockRows (d : StripDesc) (b : Nat) : Nat := min 256 (d.rows - 256 * b)

/-- The strip row of an element row (R187). -/
def StripDesc.stripRow (d : StripDesc) (r : Nat) : Nat := if d.group = 0 then r else r + r / d.group + 1
/-- The device address of a strip row (R186). -/
def StripDesc.rowAddr (d : StripDesc) (i : Nat) : Nat := d.base + i / 2 * 65536 + i % 2 * 2048
/-- The device address of an element byte. -/
def StripDesc.elemAddr (d : StripDesc) (e : Nat) : Nat := d.rowAddr (d.stripRow (e / 2048)) + e % 2048
/-- The device address of the scale of an element byte (R187). -/
def StripDesc.scaleAddr (d : StripDesc) (e : Nat) : Nat :=
  let g := e / (d.group * 2048)
  d.rowAddr (g * (d.group + 1)) + (e - g * d.group * 2048) / d.perScale * scaleBytes d.elem

/-- The bank unit of a strip: stratum and pair of its base (R137, R183). -/
def StripDesc.unit (d : StripDesc) : Nat := d.base / 4096 % 16

/-- The formats of R185, with the uses of ns and ck that R194 allows. -/
def StripDesc.formatOk (d : StripDesc) : Bool :=
  (d.raw == 7 || d.raw == 8 || d.raw == 9 || d.raw == 0xA || d.raw == 0xB || d.raw == 0xE) &&
    (!d.ns || d.wfmt == 9) && (d.ck != 2 || d.raw == 7) && d.ck != 3

/-- L under R189. -/
def StripDesc.lenOk (d : StripDesc) : Bool :=
  d.len != 0 && decide (d.len ≤ 8192) &&
    d.len % (if d.wfmt = 0xA then 160 else if elemBits d.elem = 4 then 64 else 32) == 0

/-- Whether a strip's base is the start of a row of bank 2j of the core's own vein (Table 6.2). -/
def StripDesc.baseOk (d : StripDesc) (c : Nat) : Bool :=
  d.base % 2048 == 0 && d.base / 2048 % 2 == 0 &&
    (match placeOf d.base with
     | .vein v _ => v == c
     | _ => false)

/-- The strip rows that a command reading element bytes [lo, hi) reads: the element rows, and the scale rows of their
groups (R187). -/
def StripDesc.rowsRead (d : StripDesc) (lo hi : Nat) : List Nat :=
  if hi ≤ lo then []
  else
    let first := lo / 2048
    let last := (hi - 1) / 2048
    let els := (List.range (last + 1 - first)).map fun i => d.stripRow (first + i)
    if d.group = 0 then els
    else
      let g0 := first / d.group
      ((List.range (last / d.group + 1 - g0)).map fun i => (g0 + i) * (d.group + 1)) ++ els

/-- The scale bursts that element bytes [lo, hi) need. -/
def StripDesc.scaleBursts (d : StripDesc) (lo hi : Nat) : Nat :=
  if d.group = 0 || hi ≤ lo then 0
  else
    let gb := d.group * 2048
    let z := scaleBytes d.elem
    let at_ : Nat → Nat := fun e => (e % gb) / d.perScale * z / 32
    ((List.range ((hi - 1) / gb + 1 - lo / gb)).map fun i =>
      let g := lo / gb + i
      at_ (min hi ((g + 1) * gb) - 1) + 1 - at_ (max lo (g * gb))).sum

/-! ### Elements of a strip -/

/-- The code of element t of the data row at position q. -/
def StripDesc.code (s : State) (d : StripDesc) (q t : Nat) : Nat :=
  elemFrom (fun e => rdByte s (d.elemAddr e)) (q * d.rowBytes) d.elem t

/-- The element byte that holds element t of the data row at position q. -/
def StripDesc.byteOf (d : StripDesc) (q t : Nat) : Nat :=
  q * d.rowBytes + (if d.wfmt = 0xA then t / 5 else t * elemBits d.elem / 8)

/-- The scale code of element t of the data row at position q; 0 for an unscaled strip. -/
def StripDesc.scale (s : State) (d : StripDesc) (q t : Nat) : Nat :=
  if d.group = 0 then 0 else rdNat s (d.scaleAddr (d.byteOf q t)) (scaleBytes d.elem)

/-- The value of element t of the data row at position q (R37). -/
def StripDesc.value (s : State) (d : StripDesc) (q t : Nat) : Num :=
  decodeElem d.elem (d.code s q t) (d.scale s q t)

/-- Whether the data row at position q holds an invalid TQ byte (R35). -/
def StripDesc.tqBad (s : State) (d : StripDesc) (q : Nat) : Bool :=
  d.wfmt == 0xA && (List.range d.rowBytes).any fun i =>
    decide (243 ≤ (rdByte s (d.elemAddr (q * d.rowBytes + i))).toNat)

/-! ### Checks of strip rows (R189, R212) -/

/-- The hidden banks of a bank unit's pair. -/
def hiddenPair (s : State) (c u : Nat) : Bool := fieldNat (hiddenOf s c) (2 * u) 2 != 0

/-- What is wrong with a strip row at an address: the trap it gives (R189, Table 6.8). -/
def rowTrap (s : State) (c u a : Nat) : Option TrapInfo :=
  match placeOf a with
  | .vein v off =>
    if v ≠ c then some ⟨4, 0, a⟩
    else match regionAt s c off with
      | none => some ⟨4, 0, a⟩
      | some r =>
        if hiddenPair s c u then some ⟨9, 3, a⟩
        else if r.kind = kindSealed then some ⟨9, 1, a⟩
        else if r.kind = kindCache then some ⟨9, 2, a⟩ else none
  | _ => some ⟨4, 0, a⟩

/-- The trap of the rows a command reads: 0x04 ranks before 0x09 (R98). -/
def rowsTrap (s : State) (c u : Nat) (as : List Nat) : Option TrapInfo :=
  let ts := as.filterMap (rowTrap s c u)
  (ts.find? (·.code == 4)).or ts.head?

/-- Whether a row a command reads lies in a region whose requests wait (R157). -/
def rowsWait (s : State) (c : Nat) (as : List Nat) : Bool :=
  as.any fun a => match placeOf a with
    | .vein _ off => regionWaits s c off
    | _ => false

/-! ### Latch slots and queues (R184, R192) -/

/-- The slots of a configuration. -/
def slotCount (vcfg : Nat) : Nat := 2 ^ vcfg
/-- The bytes of a slot. -/
def slotBytes (vcfg : Nat) : Nat := 8192 / slotCount vcfg

/-- The fields of a latch load's gb (Table 6.3). -/
structure LatchLoad where
  mask  : Nat
  first : Nat
  vcfg  : Nat
  afmt  : Nat
  bytes : Nat

/-- Read gb of a latch load. -/
def latchLoad (gb : Nat) : LatchLoad :=
  ⟨gb % 65536, fieldNat gb 16 2, fieldNat gb 18 2, fieldNat gb 20 4, fieldNat gb 24 14⟩

/-- The slots a load writes. -/
def LatchLoad.slots (l : LatchLoad) : List Nat :=
  let last := (l.first * slotBytes l.vcfg + l.bytes - 1) / slotBytes l.vcfg
  (List.range (last + 1 - l.first)).map (l.first + ·)

/-- A latch slot. -/
def getSlot (b : BankUnit) (v : Nat) : LatchSlot := look (fun _ => LatchSlot.empty) b.slots v

/-- The configuration and slot formats of a unit once a load has completed (R192). -/
def afterLoad (rec : Nat × Map LatchSlot) (l : LatchLoad) (bad : Nat → Bool) : Nat × Map LatchSlot :=
  let old := if l.vcfg = rec.1 then rec.2 else []
  (l.vcfg, l.slots.foldl (fun m v => put (fun _ => LatchSlot.empty) m v ⟨some l.afmt, bad v, false⟩) old)

/-- The record of a unit's configuration at issue: as its queued loads will leave it. -/
def recordOf (b : BankUnit) : Nat × Map LatchSlot :=
  b.queue.foldl (fun r e => match e.2 with
    | .load _ gb _ => afterLoad r (latchLoad gb) fun _ => false
    | .katt _ _ _ _ _ => (r.1, [])
    | _ => r) (b.vcfg, b.slots)

/-- The formats of a record's slots, none for an unloaded one. -/
def recordFmts (r : Nat × Map LatchSlot) : List (Option Nat) :=
  (List.range (slotCount r.1)).map fun v => (look (fun _ => LatchSlot.empty) r.2 v).fmt

/-- The address of a sequence's record. -/
def seqAddr (s : State) (c seq : Nat) : Nat := (getCw (getCore s c) 0x20).toNat % 2 ^ 48 + 64 * seq

/-- A unit streams the head of its queue; a KATT once it heads all 16, when it reads the state word of its sequence
(R231, R241). -/
def startHeads (s : State) (c : Nat) : State :=
  let v := getVein s c
  let head : Nat → Option (Nat × NbCmd) := fun u => (getUnit v u).queue.head?
  setVein s c ((List.range 16).foldl (fun w u =>
    match head u with
    | none => w
    | some (n, cmd) =>
      let b := getUnit w u
      match cmd with
      | .katt d ga gb rec_ word =>
        if (List.range 16).all fun i => (head i).any (·.1 == n) then
          let seen := word.getD (rdNat s (seqAddr s c (fieldNat d 240 12)) 8)
          setUnit w u { b with busy := true, queue := (n, .katt d ga gb rec_ (some seen)) :: b.queue.drop 1 }
        else setUnit w u { b with busy := false }
      | _ => setUnit w u { b with busy := true }) v)

/-- Put a command into the queues of some units. -/
def enqueueNb (s : State) (c : Nat) (us : List Nat) (cmd : NbCmd) : State :=
  startHeads (modVein s c fun v =>
    let v1 := us.foldl (fun v u =>
      setUnit v u { getUnit v u with queue := (getUnit v u).queue ++ [(v.nbSeq, cmd)] }) v
    { v1 with nbSeq := v.nbSeq + 1 }) c

/-- Whether a unit of some has no free queue entry. -/
def queuesFull (s : State) (c : Nat) (us : List Nat) : Bool :=
  us.any fun u => decide (8 ≤ (getUnit (getVein s c) u).queue.length)

/-- Take a command from the queues of some units: from their heads, but for a latch load that went ahead (R184). -/
def popNb (s : State) (c n : Nat) (us : List Nat) : State :=
  startHeads (modVein s c fun v => us.foldl (fun v u =>
    let b := getUnit v u
    setUnit v u { b with queue := b.queue.filter (·.1 != n), busy := b.busy && b.queue.head?.any (·.1 != n) }) v) c

/-- The numbers of a core's incomplete bank-unit commands. -/
def nbOutstanding (s : State) (c : Nat) : List Nat :=
  let v := getVein s c
  (((List.range 16).flatMap fun u => (getUnit v u).queue.map (·.1)) ++ v.waiting.map (·.seq) ++
    v.drains.map (·.1)).eraseDups

/-- Event 50 once every bank-unit command of a core has completed (R184). -/
def nbEvent (s : State) (c : Nat) : State :=
  settle (if (nbOutstanding s c).isEmpty then signalEvent s c 50 else s) c

/-- Add a pending bank-unit fault of a core (R200). -/
def nbFault (s : State) (c : Nat) (t : TrapInfo) : State :=
  modCore s c fun x => { x with nbFaults := x.nbFaults ++ [t] }
/-- Add flags that NBSYNC will apply. -/
def nbFlag (s : State) (c f : Nat) : State := modCore s c fun x => { x with nbFlags := x.nbFlags ||| f }

end Sys2Proof.Machine
end

