-- ==== Sys2Proof/Machine/NearBank.lean ====
section
/-! DEFINITION. Near-bank processing (chapter 6): latch loads, products with their checksum rows, the combiner and its
drain, gather and reduce, row mode, NBSYNC. KATT, which also runs in the bank units, is in Machine/Attention.lean. -/

namespace Sys2Proof.Machine

/-! ### Instruction words (Table 6.3) -/

/-- The word of a row of major opcodes 0x1D and 0x1E. -/
def encNb (major d ga gb ofmt flags func : Nat) : Nat :=
  major * 2 ^ 26 + d * 2 ^ 22 + ga * 2 ^ 17 + gb * 2 ^ 12 + ofmt * 2 ^ 8 + flags * 2 ^ 4 + func
/-- The word of a row of major opcode 0x1F. -/
def encRow (rd ga gb func nw : Nat) : Nat :=
  0x1F * 2 ^ 26 + rd * 2 ^ 21 + ga * 2 ^ 16 + gb * 2 ^ 11 + func * 2 ^ 8 + nw * 2 ^ 7

/-! ### Operands -/

/-- The fields of a product's ga and gb. -/
structure ProductOp where
  block : Nat
  first : Nat
  count : Nat
  out   : Nat
  k0    : Nat
  slot  : Nat

/-- Read the operands of a product. -/
def productOp (ga gb : Nat) : ProductOp :=
  ⟨ga % 2 ^ 20, fieldNat ga 20 8, fieldNat ga 28 8 + 1, gb % 2 ^ 48, fieldNat gb 48 13, fieldNat gb 62 2⟩

/-- The width of an output format; none for a format R196 does not take. -/
def outWidth (ofmt : Nat) : Option Nat :=
  match ofmt with
  | 0 => some 4
  | 0xD => some 4
  | 1 => some 2
  | _ => none

/-- Whether n bytes of output at an address stand as R196 asks. -/
def outOk (c a n : Nat) : Bool := a % 32 == 0 && lsSide (c / 16) a n

/-- Whether the accumulators of a product are INT32 (R195). -/
def productInt (d : StripDesc) (fmts : List (Option Nat)) : Bool :=
  (d.elem == 8 || d.elem == 0xE) && fmts.all (· == some 8)

/-- The element bytes a product reads: its data rows and, with chk, the checksum row. -/
def productSpan (d : StripDesc) (p : ProductOp) (chk : Bool) : Nat × Nat :=
  let q := d.stride * p.block + p.first
  (q * d.rowBytes, (q + p.count + chk.toNat) * d.rowBytes)

/-- The trap of a product at issue, or what it needs to go on (R191, R194 in the order of R98). -/
def productTrap (s : State) (c : Nat) (d : StripDesc) (p : ProductOp) (ga gb ofmt : Nat) (chk acc out cmb : Bool) :
    Option TrapInfo :=
  let b := getUnit (getVein s c) d.unit
  let rec_ := recordOf b
  let fmts := recordFmts rec_
  let width := slotBytes rec_.1
  let fits := fmts.all fun f => decide (p.k0 + d.len ≤ width / (if f = some 1 then 2 else 1))
  if !d.formatOk then some ⟨0xC, 0, d.raw⟩
  else match fmts.findIdx? (· == none) with
  | some v => some ⟨0xC, 0, 0xF + v * 256⟩
  | none =>
    if acc && b.lastInt != productInt d fmts then some ⟨0xC, 0, d.raw⟩
    else if out && !cmb && (outWidth ofmt).isNone then some ⟨0xC, 0, ofmt⟩
    else if !d.baseOk c then some ⟨4, 0, d.base⟩
    else if !d.lenOk || p.k0 % 32 ≠ 0 || !fits then some ⟨4, 0, gb⟩
    else if d.rows = 0 || 65536 < d.rows || d.blocks ≤ p.block || d.blockRows p.block < p.first + p.count then
      some ⟨4, 0, ga⟩
    else if chk && (d.ck = 0 || p.first ≠ 0 || p.count ≠ d.blockRows p.block) then some ⟨4, 0, ga⟩
    else if out && !cmb && !outOk c p.out (p.count * slotCount rec_.1 * (outWidth ofmt).getD 4) then some ⟨4, 0, gb⟩
    else
      let (lo, hi) := productSpan d p chk
      rowsTrap s c d.unit ((d.rowsRead lo hi).map d.rowAddr)

/-- Whether older accesses of the core that a strip command must follow are still to be accepted (R201). -/
def stripWaits (s : State) (c : Nat) : Bool :=
  let x := getCore s c
  !x.buf.isEmpty || x.moves.any fun m => !m.load && (match placeOf m.ga with
    | .vein v _ => v == c
    | _ => false)

/-- NBMV, product form (R193). -/
def execNbmvProduct (c : CoreId) (d : DReg) (ga gb : GReg) (ofmt : BitVec 4) (chk acc out cmb : Bool) (s : State) :
    Host.Outcome State Fault Refusal :=
  .next (issue s c.toNat ⟨4, [ga.toNat, gb.toNat], true⟩ (raSkip 4) fun s =>
    let x := getCore s c.toNat
    let a := (gpr x ga.toNat).toNat
    let b := (gpr x gb.toNat).toNat
    let t := stripDesc (dreg x d.toNat).toNat
    let p := productOp a b
    let flags := chk.toNat * 8 + acc.toNat * 4 + out.toNat * 2 + cmb.toNat
    let (lo, hi) := productSpan t p chk
    if t.kind ≠ 2 || t.rsv then illegal s (encNb 0x1D d.toNat ga.toNat gb.toNat ofmt.toNat flags 0)
    else if t.formatOk && t.lenOk && rowsWait s c.toNat ((t.rowsRead lo (min hi (lo + 2 ^ 24))).map t.rowAddr) then .stall s
    else match productTrap s c.toNat t p a b ofmt.toNat chk acc out cmb with
    | some e => .trap s e false false
    | none =>
      if queuesFull s c.toNat [t.unit] || stripWaits s c.toNat then .stall s
      else
        let i := productInt t (recordFmts (recordOf (getUnit (getVein s c.toNat) t.unit)))
        let s1 := modVein s c.toNat fun v => setUnit v t.unit { getUnit v t.unit with lastInt := i }
        .go (enqueueNb s1 c.toNat [t.unit] (.product (dreg x d.toNat).toNat a b ofmt.toNat chk acc out cmb)))

/-- The bank units that a mask names. -/
def maskUnits (m : Nat) : List Nat := (List.range 16).filter (bitNat m)

/-- NBMV, load form (R192). -/
def execNbmvLoad (c : CoreId) (ga gb : GReg) (s : State) : Host.Outcome State Fault Refusal :=
  .next (issue s c.toNat ⟨4, [ga.toNat, gb.toNat], true⟩ (raSkip 4) fun s =>
    let x := getCore s c.toNat
    let a := (gpr x ga.toNat).toNat
    let l := latchLoad (gpr x gb.toNat).toNat
    let us := maskUnits l.mask
    let src := a % 2 ^ 48
    if l.vcfg = 3 then illegal s (encNb 0x1D 0 ga.toNat gb.toNat 0 0 1)
    else if l.afmt ≠ 8 && l.afmt ≠ 3 && l.afmt ≠ 1 then .at s 0xC 0 l.afmt
    else if l.bytes % 32 ≠ 0 || l.bytes < 32 || 8192 < l.first * slotBytes l.vcfg + l.bytes || src % 32 ≠ 0 ||
      !lsSide (c.toNat / 16) src l.bytes || us.isEmpty || us.any (hiddenPair s c.toNat) then .at s 4 0 a
    else if queuesFull s c.toNat us || !x.buf.isEmpty then .stall s
    else .go (enqueueNb s c.toNat us (.load src (gpr x gb.toNat).toNat none)))

/-- NBMV, drain form (R198): it waits in the vein controller for the contributions before it. -/
def execNbmvDrain (c : CoreId) (ga gb : GReg) (ofmt : BitVec 4) (s : State) : Host.Outcome State Fault Refusal :=
  .next (issue s c.toNat ⟨4, [ga.toNat, gb.toNat], true⟩ (raSkip 4) fun s =>
    let x := getCore s c.toNat
    let a := (gpr x ga.toNat).toNat % 2 ^ 48
    let b := (gpr x gb.toNat).toNat
    let n := fieldNat b 2 8 + 1
    let vcfg := fieldNat b 10 2
    if vcfg = 3 then illegal s (encNb 0x1D 0 ga.toNat gb.toNat ofmt.toNat 0 2)
    else match outWidth ofmt.toNat with
    | none => .at s 0xC 0 ofmt.toNat
    | some w =>
      if !outOk c.toNat a (n * slotCount vcfg * w) then .at s 4 0 b
      else .go (modVein s c.toNat fun v =>
        { v with drains := v.drains ++ [(v.nbSeq, .drain a b ofmt.toNat)], nbSeq := v.nbSeq + 1 }))

/-! ### Gather and reduce (R199) -/

/-- The list of an NBGR: data-row index and coefficient of each entry. -/
def gatherList (b : BankUnit) (slot count : Nat) : List Nat :=
  (List.range count).map fun e => leNat (lookList (fun _ => 0) b.latch (slot * slotBytes b.vcfg + 4 * e) 4)

/-- The position in the strip of a data row numbered over the whole strip, checksum rows skipped. -/
def StripDesc.position (d : StripDesc) (i : Nat) : Nat := d.stride * (i / 256) + i % 256

/-- NBGR (R199). The list is known at issue once no command of its unit is queued. -/
def execNbgr (c : CoreId) (d : DReg) (ga gb : GReg) (ofmt : BitVec 4) (s : State) : Host.Outcome State Fault Refusal :=
  .next (issue s c.toNat ⟨4, [ga.toNat, gb.toNat], true⟩ (raSkip 4) fun s =>
    let x := getCore s c.toNat
    let a := (gpr x ga.toNat).toNat % 2 ^ 48
    let b := (gpr x gb.toNat).toNat
    let t := stripDesc (dreg x d.toNat).toNat
    let count := b % 2048 + 1
    let slot := fieldNat b 11 2
    let unit := getUnit (getVein s c.toNat) t.unit
    let rec_ := recordOf unit
    let known := unit.queue.isEmpty
    let list := gatherList unit slot count
    let rowsOf : Nat → List Nat := fun i =>
      (t.rowsRead (t.position i * t.rowBytes) ((t.position i + 1) * t.rowBytes)).map t.rowAddr
    let as := if known then (list.filter fun e => decide (e % 65536 < t.rows)).flatMap fun e => rowsOf (e % 65536)
      else (t.rowsRead 0 ((t.position (t.rows - 1) + 1) * t.rowBytes)).map t.rowAddr
    if t.kind ≠ 2 || t.rsv then illegal s (encNb 0x1E d.toNat ga.toNat gb.toNat ofmt.toNat 0 0)
    else if !t.formatOk then .at s 0xC 0 t.raw
    else if slot < slotCount rec_.1 && (look (fun _ => LatchSlot.empty) rec_.2 slot).fmt.isNone then
      .at s 0xC 0 (0xF + slot * 256)
    else match outWidth ofmt.toNat with
    | none => .at s 0xC 0 ofmt.toNat
    | some w =>
      if !t.baseOk c.toNat then .at s 4 0 t.base
      else if !t.lenOk || 1024 < t.len || t.rows = 0 || 65536 < t.rows || slotCount rec_.1 ≤ slot ||
        slotBytes rec_.1 < 4 * count || !outOk c.toNat a (t.len * w) ||
        (known && list.any fun e => decide (t.rows ≤ e % 65536)) then .at s 4 0 b
      else if rowsWait s c.toNat as then .stall s
      else match rowsTrap s c.toNat t.unit as with
      | some e => .trap s e false false
      | none =>
        if queuesFull s c.toNat [t.unit] || stripWaits s c.toNat then .stall s
        else .go (enqueueNb s c.toNat [t.unit] (.gather (dreg x d.toNat).toNat a b ofmt.toNat)))

/-! ### Row mode (R211) -/

/-- A row by physical position: bank 8 × stratum + bank, row number. -/
def physRow (w : Nat) : Nat × Nat := (fieldNat w 10 5, w % 1024)

/-- The vein offset whose bytes a physical row holds: displaced rows lie where R138 puts them, and the rows of hidden
banks, which hold no offset, stand at the offsets that the vein leaves unpopulated. -/
def physOffset (s : State) (c : Nat) (p : Nat × Nat) : Nat :=
  let hid := hiddenOf s c
  let pop := slabsOf s c
  let hb := (List.range 32).filter (bitNat hid)
  let good := (List.range 32).filter fun i => !bitNat hid i
  if bitNat hid p.1 then
    let m := hb.idxOf p.1 * 1024 + p.2
    (pop + m / 32) * 65536 + m % 32 * 2048
  else if p.2 < pop then p.2 * 65536 + p.1 * 2048
  else
    let n := (p.2 - pop) * good.length + good.idxOf p.1
    n % pop * 65536 + hb.getD (n / pop) 0 * 2048

/-- Whether two rows lie in one subarray. -/
def sameSubarray (a b : Nat × Nat) : Bool := a.1 == b.1 && a.2 / 512 == b.2 / 512

/-- A row-mode operation: func and the number of its sources. -/
def nbrow (s : State) (c : CoreId) (ga gb : GReg) (func sources : Nat) : State :=
  issue s c.toNat ⟨4, [ga.toNat, gb.toNat], true⟩ (raSkip 4) fun s =>
    let x := getCore s c.toNat
    let a := (gpr x ga.toNat).toNat % 32768
    let b := (gpr x gb.toNat).toNat
    let dst := physRow a
    let srcs := ([physRow (b % 32768), physRow (fieldNat b 16 15)]).take sources
    if atTask x then privileged s (encRow 0 ga.toNat gb.toNat func 0)
    else if !srcs.all (sameSubarray dst) then .at s 4 0 a
    else if !s.start.maint then .at s 9 4 a
    else if queuesFull s c.toNat [dst.1 / 2] then .stall s
    else .go (enqueueNb s c.toNat [dst.1 / 2] (.row func a b))

/-- NBROW copy (Table 6.7). -/
def execNbrowCopy (c : CoreId) (ga gb : GReg) (s : State) : Host.Outcome State Fault Refusal := .next (nbrow s c ga gb 0 1)
/-- NBROW zero. -/
def execNbrowZero (c : CoreId) (ga gb : GReg) (s : State) : Host.Outcome State Fault Refusal := .next (nbrow s c ga gb 1 0)
/-- NBROW not. -/
def execNbrowNot (c : CoreId) (ga gb : GReg) (s : State) : Host.Outcome State Fault Refusal := .next (nbrow s c ga gb 2 1)
/-- NBROW and. -/
def execNbrowAnd (c : CoreId) (ga gb : GReg) (s : State) : Host.Outcome State Fault Refusal := .next (nbrow s c ga gb 3 2)
/-- NBROW or. -/
def execNbrowOr (c : CoreId) (ga gb : GReg) (s : State) : Host.Outcome State Fault Refusal := .next (nbrow s c ga gb 4 2)

/-- NBSYNC (R200). -/
def execNbsync (c : CoreId) (rd : GReg) (nw : Bool) (s : State) : Host.Outcome State Fault Refusal :=
  .next (issue s c.toNat ⟨4, [rd.toNat], true⟩ (raSkip 4) fun s =>
    let n := (nbOutstanding s c.toNat).length
    if n ≠ 0 then
      if nw then .go (modCore s c.toNat fun x => setGpr x rd.toNat (BitVec.ofNat 64 n)) else .stall s
    else
      let x := getCore s c.toNat
      let s1 := setCore s c.toNat { setFlags x x.nbFlags with nbFlags := 0, nbFaults := [] }
      match x.nbFaults with
      | [] => .go (modCore s1 c.toNat fun x => setGpr x rd.toNat 0)
      | t :: r => .trap s1 t true (!r.isEmpty))

/-! ### Completion of a latch load (R192, Table 14.3) -/

/-- The bytes of a latch load: read once, for every latch that the load names, and reported once. -/
def shareLoad (s : State) (c n src gb : Nat) : State × List (Byte × Bool) :=
  let l := latchLoad gb
  let (s1, lost) := readUnits s src l.bytes 6 (some c)
  let s2 := match lost with
    | e :: _ => nbFault s1 c ⟨3, e.2, e.1⟩
    | [] => s1
  let bs := markedBytes s2 src l.bytes lost
  (modVein s2 c fun v => modUnits v fun b =>
    { b with queue := b.queue.map fun e => if e.1 = n then (n, .load src gb (some bs)) else e }, bs)

/-- Load number n is written into the latch of unit u; slots that take a lost word are poisoned until reloaded. -/
def loadLatch (s : State) (c u n src gb : Nat) (data : Option (List (Byte × Bool))) : State :=
  let l := latchLoad gb
  let (s1, bs) := match data with
    | some bs => (s, bs)
    | none => shareLoad s c n src gb
  let size := slotBytes l.vcfg
  let lo := l.first * size
  let bad : Nat → Bool := fun v => bs.zipIdx.any fun e => e.1.2 && (e.2 + lo) / size == v
  modVein s1 c fun v =>
    let b := getUnit v u
    let r := afterLoad (b.vcfg, b.slots) l bad
    setUnit v u { b with vcfg := r.1, slots := r.2, latch := putList (fun _ => 0) b.latch lo (bs.map (·.1)) }

/-- A latch load that may run beside the older commands of its unit's queue: they are gathers from other slots of the same
configuration, and row operations (R184). A product reads every slot. -/
def earlyLoad (b : BankUnit) : Option (Nat × NbCmd) :=
  let older := b.queue.takeWhile fun e => match e.2 with
    | .gather _ _ _ _ => true
    | .row _ _ _ => true
    | _ => false
  match b.queue.drop older.length with
  | (n, .load src gb data) :: _ =>
    let l := latchLoad gb
    let free := older.all fun e => match e.2 with
      | .gather _ _ g _ => l.vcfg == b.vcfg && !l.slots.contains (fieldNat g 11 2)
      | _ => true
    if !older.isEmpty && free then some (n, .load src gb data) else none
  | _ => none

/-! ### Products (R193, R195, R52) -/

/-- The code of latch element k of a slot. -/
def latchCode (b : BankUnit) (v k : Nat) : Nat :=
  let w := if (getSlot b v).fmt = some 1 then 2 else 1
  leNat (lookList (fun _ => 0) b.latch (v * slotBytes b.vcfg + k * w) w)

/-- The value of latch element k of a slot. -/
def latchValue (b : BankUnit) (v k : Nat) : Num := decodeElem ((getSlot b v).fmt.getD 8) (latchCode b v k) 0

/-- The products of the data row at position q with slot v from latch element k0 on. -/
def rowProducts (s : State) (b : BankUnit) (d : StripDesc) (q v k0 : Nat) : List (Num × Num) :=
  (List.range d.len).map fun t => (d.value s q t, latchValue b v (k0 + t))

/-- A row's sum from a starting value, and the flags it sets (R31, R52). -/
def rowSum (isInt : Bool) (start : Nat) (ps : List (Num × Num)) : Nat × Nat :=
  if isInt then
    let r := accumulateInt start (ps.map fun p => (numInt p.1, numInt p.2))
    (r.1, if r.2 then flagSat else 0)
  else (accumulate32 false start ps, sigFlag ps)

/-- Accumulator i of set v. -/
def accOf (b : BankUnit) (v i : Nat) : Nat := (look (fun _ => 0) b.acc (v * 256 + i)).toNat

/-- The element integer of R205. -/
def elemInt (fmt code : Nat) : Int :=
  match fmt with
  | 7 => code
  | 0xA => tqDigit code 0
  | 8 => signed 8 code
  | 0xB => signed 8 code
  | _ => signed 4 code

/-- The element modulus of R205. -/
def elemMod (fmt : Nat) : Nat := if fmt = 0xA then 3 else if elemBits fmt = 4 then 16 else 256

/-- The element terms of one row against slot v (R206). -/
def residueElems (s : State) (b : BankUnit) (d : StripDesc) (q v k0 : Nat) : Int :=
  (List.range d.len).foldl (fun a t =>
    let code := latchCode b v (k0 + t)
    let w : Nat := if d.elem = 0xA then 1 + code % 2 else 2 * code + 1
    a + elemInt d.elem (d.code s q t) * w) 0

/-- The scale terms of one row (R206). -/
def residueScales (s : State) (d : StripDesc) (q : Nat) : Nat :=
  if d.group = 0 then 0
  else (List.range (d.len / blockLen d.elem)).foldl (fun a i => a + d.scale s q (i * blockLen d.elem) * (2 * i + 1)) 0

/-- The residue comparison of a block: the slots that failed, and the sub code (R206, Table 6.8). -/
def residueCheck (s : State) (b : BankUnit) (d : StripDesc) (q n k0 : Nat) : Nat × Nat :=
  let m := elemMod d.elem
  let ms := if d.elem = 0xA then 65536 else 256
  let rows := (List.range n).map (q + ·)
  let badElem : Nat → Bool := fun v =>
    ((rows.map fun r => residueElems s b d r v k0).sum - residueElems s b d (q + n) v k0) % m != 0
  let badScale := ((rows.map (residueScales s d)).sum % ms) != residueScales s d (q + n) % ms
  let vs := List.range (slotCount b.vcfg)
  let mask := (vs.filter fun v => badElem v || badScale).foldl (fun a v => a + 2 ^ v) 0
  (mask, if vs.any badElem then 1 else 2)

/-- A decoded FP32 value. -/
def num32 (x : Nat) : Num := decodeFloat (floatFmt 0) x
/-- The magnitude of a number. -/
def magOf (x : Num) : Num :=
  match x with
  | .fin _ m e => .fin false m e
  | .inf _ => .inf false
  | n => n
/-- The E8M0 scale of an element as a number. -/
def scaleNum (code : Nat) : Num := if code = 0xFF then .nan false else .fin false 1 ((code : Int) - 127)

/-- The value comparison of a block for slot v (R207): whether it fails. The results of the data rows are the command's
own sums. -/
def valueBad (s : State) (b : BankUnit) (d : StripDesc) (q n v k0 tol : Nat) : Bool :=
  let results := (List.range n).map fun i => (rowSum false 0 (rowProducts s b d (q + i) v k0)).1
  let chk := rowProducts s b d (q + n) v k0
  let rowsum := results.foldl (fun a r => accAdd32 a (num32 r)) 0
  let chksum := accumulate32 false 0 chk
  let mag0 := results.foldl (fun a r => accAdd32 a (magOf (num32 r))) 0
  let mag := chk.foldl (fun a p => accAdd32 a (magOf (mulNum p.1 p.2).1)) mag0
  let spread := (List.range d.len).foldl (fun a t =>
    accAdd32 a (mulNum (scaleNum (d.scale s (q + n) t)) (magOf (latchValue b v (k0 + t)))).1) 0
  let diff := magOf (addNum .even (num32 rowsum) (num32 chksum).neg).1
  let lim := (addNum .even (mulNum (.fin false (max 0x20 tol) (-4)) (num32 spread)).1
    (mulNum (.fin false 1 (-10)) (num32 mag)).1).1
  !diff.isNan && !lim.isNan && !leNum diff lim

/-- The check registers after a comparison (Table 6.1; log entry 165): for each vector the residue sum, element terms in
[15:0] and scale terms in [31:16] as the row side and the checksum side differ, or rowsum, chksum and mag. -/
def checkSums (s : State) (b : BankUnit) (d : StripDesc) (q n k0 : Nat) : Map (BitVec 32) :=
  let vs := List.range (slotCount b.vcfg)
  let rows := (List.range n).map (q + ·)
  cellsFrom (fun _ => 0) 0 (vs.flatMap fun v =>
    if d.ck = 2 then
      let results := (List.range n).map fun i => (rowSum false 0 (rowProducts s b d (q + i) v k0)).1
      let chk := rowProducts s b d (q + n) v k0
      let mag0 := results.foldl (fun a r => accAdd32 a (magOf (num32 r))) 0
      [0, BitVec.ofNat 32 (results.foldl (fun a r => accAdd32 a (num32 r)) 0), BitVec.ofNat 32 (accumulate32 false 0 chk),
        BitVec.ofNat 32 (chk.foldl (fun a p => accAdd32 a (magOf (mulNum p.1 p.2).1)) mag0)]
    else
      let ms := if d.elem = 0xA then 65536 else 256
      let el := ((rows.map fun r => residueElems s b d r v k0).sum - residueElems s b d (q + n) v k0) % elemMod d.elem
      let sc : Int := ((rows.map (residueScales s d)).sum - residueScales s d (q + n) : Int) % ms
      [BitVec.ofNat 32 (el.toNat + 65536 * sc.toNat), 0, 0, 0])

/-- The comparison of a block: the slots that failed and the sub code. -/
def blockCheck (s : State) (c : Nat) (b : BankUnit) (d : StripDesc) (q n k0 : Nat) : Nat × Nat :=
  if d.ck = 2 then
    let tol := (getCw (getCore s c) 0x19).toNat % 256
    (((List.range (slotCount b.vcfg)).filter fun v => valueBad s b d q n v k0 tol).foldl (fun a v => a + 2 ^ v) 0, 3)
  else residueCheck s b d q n k0

/-- The bytes of results narrowed to an output format, with the flags (R49, R196). -/
def narrowBytes (ofmt : Nat) (isInt : Bool) (vals : List Nat) : List Byte × Nat :=
  let es := vals.map fun v => encodeElem ofmt true false .even (narrowValue ofmt isInt v)
  (es.flatMap fun e => natLe ((outWidth ofmt).getD 4) e.1, orFlags (es.map (·.2)))

/-- Deliver results to a local store: poisoned bytes poison their words; a partial write refused is reported (R196,
R208, R431). -/
def deliver (s : State) (c a : Nat) (bs : List (Byte × Bool)) : State :=
  let (s1, bad) := writeMixed s a bs 14 (some c)
  match bad with
  | [] => s1
  | e :: _ => nbFault s1 c ⟨3, e.2, e.1⟩

/-- A comparison that failed: reported, recorded and counted (R208). -/
def blockFailed (s : State) (c u addr mask sub : Nat) : State :=
  let s1 := nbFault s c ⟨0xA, mask * 16 + sub, addr⟩
  let s2 := bump s1 0x06 8 1 (.core c)
  ledger s2 0x0205 sevWarn (partOf s c) (srcCore c) ([c, u] ++ twoWords addr)

/-- The bursts and activates of a command that reads element bytes [lo, hi), of which [chk, hi) is a checksum row. -/
def countStrip (s : State) (c : Nat) (d : StripDesc) (lo chk hi : Nat) : State :=
  let s1 := bump s 0x06 1 ((chk - lo) / 32) (.core c)
  let s2 := bump s1 0x06 2 (d.scaleBursts lo hi + (hi - chk) / 32) (.core c)
  bump s2 0x05 1 (d.rowsRead lo hi).length (.core c)

/-- The scale buffer after a command that ends with element byte e: the scale row of its group (R187, Table 6.1). -/
def StripDesc.scaleRow (s : State) (d : StripDesc) (old : Map Byte) (e : Nat) : Map Byte :=
  if d.group = 0 then old
  else cellsFrom (fun _ => 0) 0 (rdBytes s (d.rowAddr (e / (d.group * 2048) * (d.group + 1))) 2048)

/-- The sum of 2^i over some slots. -/
def slotMask (vs : List Nat) : Nat := vs.foldl (fun a v => a + 2 ^ v) 0

/-- The slots whose latch, or one of whose accumulators [first, first + n) read, holds a parity error (R213). -/
def paritySlots (b : BankUnit) (acc : Bool) (first n : Nat) : List Nat :=
  (List.range (slotCount b.vcfg)).filter fun v => (getSlot b v).parity ||
    (acc && b.parity.any fun k => k / 256 == v && decide (first ≤ k % 256) && decide (k % 256 < first + n))

/-- A product of unit u completes (R193 to R197, R208, R213). seq is its place in program order. -/
def runProduct (s : State) (c u seq : Nat) (d : StripDesc) (p : ProductOp) (ofmt : Nat) (chk acc out cmb : Bool) : State :=
  let b := getUnit (getVein s c) u
  let n := p.count
  let q := d.stride * p.block + p.first
  let vs := List.range (slotCount b.vcfg)
  let isInt := productInt d (recordFmts (b.vcfg, b.slots))
  let rows := vs.flatMap fun v => (List.range n).map fun i =>
    (v * 256 + p.first + i, rowSum isInt (if acc then accOf b v (p.first + i) else 0) (rowProducts s b d (q + i) v p.k0))
  let met := paritySlots b acc p.first n
  let (mask, sub) := if chk then blockCheck s c b d q n p.k0 else (0, 0)
  let bad : Nat → Bool := fun k =>
    !met.isEmpty || mask != 0 || (getSlot b (k / 256)).poison || (acc && b.poison.contains k)
  let keys := rows.map (·.1)
  let (lo, hi) := productSpan d p chk
  let s1 := countStrip s c d lo ((q + n) * d.rowBytes) hi
  let s2 := modVein s1 c fun v => setUnit v u { getUnit v u with
    acc := rows.foldl (fun m r => put (fun _ => 0) m r.1 (BitVec.ofNat 32 r.2.1)) b.acc
    parity := b.parity.filter fun k => !keys.contains k
    poison := (b.poison.filter fun k => !keys.contains k) ++ keys.filter bad
    scales := d.scaleRow s b.scales (hi - 1)
    checks := if chk then checkSums s b d q n p.k0 else b.checks }
  let fl := (if (List.range (n + chk.toNat)).any fun i => d.tqBad s (q + i) then flagFe else 0) ||| orFlags (rows.map (·.2.2))
  let s3 := nbFlag s2 c fl
  let s4 := if met.isEmpty then s3 else nbFault s3 c ⟨0xA, slotMask met * 16 + 4, 0⟩
  let s5 := if mask = 0 then s4 else blockFailed s4 c u (d.elemAddr ((q + n) * d.rowBytes)) mask sub
  if !out then s5
  else if cmb then
    let lost := ((keys.filter bad).map (· % 256)).eraseDups
    modVein s5 c fun v => { v with waiting := v.waiting ++
      [⟨seq, u, p.slot, p.first, n, slotCount b.vcfg, isInt, lost, rows.map fun r => BitVec.ofNat 32 r.2.1⟩] }
  else
    let (bs, f) := narrowBytes ofmt isInt (rows.map (·.2.1))
    let w := (outWidth ofmt).getD 4
    deliver (nbFlag s5 c f) c p.out (bs.zipIdx.map fun e => (e.1, bad (keys.getD (e.2 / w) 0)))

/-! ### The combiner (R197, R198) -/

/-- Whether an older command that names a combiner slot is still to be added or drained. -/
def combinerOlder (v : VeinSt) (slot seq : Nat) (contributions : Bool) : Bool :=
  (List.range 16).any (fun u => (getUnit v u).queue.any fun e => decide (e.1 < seq) && (match e.2 with
    | .product _ _ gb _ _ _ out cmb => out && cmb && fieldNat gb 62 2 == slot
    | _ => false)) ||
  v.drains.any (fun e => decide (e.1 < seq) && (match e.2 with
    | .drain _ gb _ => gb % 4 == slot
    | _ => false)) ||
  (contributions && v.waiting.any fun w => w.slot == slot && decide (w.seq < seq))

/-- The rows of a contribution that meet a parity error in their combiner slot (R213). -/
def parityRows (k : Combiner) (w : Contribution) : List Nat :=
  k.parity.filter fun r => decide (w.row ≤ r) && decide (r < w.row + w.rows)

/-- Add a contribution: entries by row and vector (R197); rows that meet a parity error are poisoned (R213). The result:
the slot, and whether a sum saturated. -/
def addContribution (k : Combiner) (w : Contribution) : Combiner × Bool :=
  if k.first.getD w.isInt ≠ w.isInt then ({ k with poison := List.range 256 }, false)
  else
    let met := parityRows k w
    let r := w.vals.zipIdx.foldl (fun (a : Map (BitVec 32) × Bool) e =>
      let key := (w.row + e.2 % w.rows) * 4 + e.2 / w.rows
      let old := (look (fun _ => 0) a.1 key).toNat
      let (x, sat) := if w.isInt then accumulateInt old [(signed 32 e.1.toNat, 1)]
        else (accAdd32 old (num32 e.1.toNat), false)
      (put (fun _ => 0) a.1 key (BitVec.ofNat 32 x), a.2 || sat)) (k.vals, false)
    (⟨some w.isInt, (k.poison ++ w.poison ++ met).eraseDups, k.parity.filter fun r => !met.contains r, r.1⟩, r.2)

/-- The oldest contribution waiting for a combiner slot is added, once every older command that names the slot has
been (R197). -/
def execCombinerAdd (c : CoreId) (slot : BitVec 2) (s : State) : Host.Outcome State Fault Refusal :=
  .next (
    let v := getVein s c.toNat
    let mine := v.waiting.filter (·.slot == slot.toNat)
    match mine.find? fun w => mine.all fun y => decide (w.seq ≤ y.seq) with
    | none => s
    | some w =>
      if combinerOlder v slot.toNat w.seq false then s
      else
        let k0 := look (fun _ => Combiner.idle) v.comb slot.toNat
        let (k, sat) := addContribution k0 w
        let s1 := setVein s c.toNat { v with
          waiting := v.waiting.filter (·.seq != w.seq)
          comb := put (fun _ => Combiner.idle) v.comb slot.toNat k }
        let s2 := bump s1 0x06 7 ((4 * w.vals.length + 31) / 32) (.core c.toNat)
        let s3 := if k.parity.length < k0.parity.length then nbFault s2 c.toNat ⟨0xA, slotMask [slot.toNat] * 16 + 4, 0⟩
          else s2
        nbEvent (if sat then nbFlag s3 c.toNat flagSat else s3) c.toNat)

/-- A drain of a combiner slot: its rows are written and the slot zeroed (R198); rows that hold a parity error are
poisoned (R213). -/
def runDrain (s : State) (c a gb ofmt : Nat) : State :=
  let slot := gb % 4
  let n := fieldNat gb 2 8 + 1
  let vecs := slotCount (fieldNat gb 10 2)
  let k := look (fun _ => Combiner.idle) (getVein s c).comb slot
  let at_ := (List.range vecs).flatMap fun v => (List.range n).map fun i => (i, v)
  let (bs, f) := narrowBytes ofmt (k.first == some true) (at_.map fun e => (look (fun _ => 0) k.vals (e.1 * 4 + e.2)).toNat)
  let w := (outWidth ofmt).getD 4
  let s1 := modVein s c fun v => { v with comb := put (fun _ => Combiner.idle) v.comb slot Combiner.idle }
  let met := k.parity.filter (· < n)
  let s2 := if met.isEmpty then s1 else nbFault s1 c ⟨0xA, slotMask [slot] * 16 + 4, 0⟩
  deliver (nbFlag s2 c f) c a (bs.zipIdx.map fun e => (e.1, (k.poison ++ met).contains (e.2 / w % n)))

/-! ### Completion of NBGR and NBROW -/

/-- A gather completes (R199): entries in list order; an index out of range ends it and is reported. -/
def runGather (s : State) (c u : Nat) (d : StripDesc) (a gb ofmt : Nat) : State :=
  let b := getUnit (getVein s c) u
  let slot := fieldNat gb 11 2
  let x := getSlot b slot
  let list := gatherList b slot (gb % 2048 + 1)
  let good := list.takeWhile fun e => decide (e % 65536 < d.rows)
  let terms : Nat → List (Num × Num) := fun e => (List.range d.len).map fun t =>
    (decodeFloat (floatFmt 1) (e / 65536), d.value s (d.position (e % 65536)) t)
  let sums := good.foldl (fun acc e => List.zipWith (fun y p => accAdd32 y (mulNum p.1 p.2).1) acc (terms e))
    (List.replicate d.len 0)
  let s1 := good.foldl (fun s e =>
    let lo := d.position (e % 65536) * d.rowBytes
    countStrip s c d lo (lo + d.rowBytes) (lo + d.rowBytes)) s
  let s2 := modVein s1 c fun v => setUnit v u { getUnit v u with
    acc := cellsFrom (fun _ => 0) 0 (sums.map (BitVec.ofNat 32)), parity := []
    poison := if x.poison || x.parity then List.range d.len else []
    scales := match good.getLast? with
      | some e => d.scaleRow s b.scales (d.position (e % 65536) * d.rowBytes + (d.rowBytes - 1))
      | none => b.scales }
  let s3 := nbFlag s2 c ((if good.any fun e => d.tqBad s (d.position (e % 65536)) then flagFe else 0) |||
    orFlags (good.map fun e => sigFlag (terms e)))
  let s4 := if x.parity then nbFault s3 c ⟨0xA, slotMask [slot] * 16 + 4, 0⟩ else s3
  match list.drop good.length with
  | e :: _ => nbFault s4 c ⟨0xA, 5, e⟩
  | [] =>
    let (bs, f) := narrowBytes ofmt false sums
    deliver (nbFlag s4 c f) c a (bs.map fun y => (y, x.poison || x.parity))

/-- A row-mode operation completes (Table 6.7). -/
def runRow (s : State) (c func a b : Nat) : State :=
  let at_ : Nat → Nat := fun w => veinAddr c (physOffset s c (physRow w))
  let x := rdBytes s (at_ (b % 32768)) 2048
  let y := rdBytes s (at_ (fieldNat b 16 15)) 2048
  let s1 := bump s 0x05 1 ([2, 1, 2, 4, 4].getD func 0) (.core c)
  wrBytes s1 (at_ (a % 32768)) (match func with
    | 0 => x
    | 1 => List.replicate 2048 0
    | 2 => x.map (~~~ ·)
    | 3 => List.zipWith (· &&& ·) x y
    | _ => List.zipWith (· ||| ·) x y)

/-- The oldest drain, once every older contribution of its slot has been added. -/
def readyDrain (v : VeinSt) : Option (Nat × NbCmd) :=
  v.drains.find? fun e => match e.2 with
    | .drain _ gb _ => !combinerOlder v (gb % 4) e.1 true
    | _ => false

/-- A combiner drain that is ready completes. -/
def drainReady (s : State) (c : Nat) : State :=
  let v := getVein s c
  match readyDrain v with
  | some (n, .drain a gb ofmt) =>
    nbEvent (runDrain (setVein s c { v with drains := v.drains.filter (·.1 != n) }) c a gb ofmt) c
  | _ => s

/-- Bank units open and close their own rows: the port's rows of a unit's pair are closed, after a refresh at debt 8
(R143, R146). -/
def openPair (s : State) (c u : Nat) : State :=
  modVein (refreshFirst s c u) c fun v => { v with rows := clearIn v.rows (2 * u) 2 }

/-- The bursts that a unit's results hold in its output queue. -/
def outputBursts (v : VeinSt) (u : Nat) : Nat :=
  ((v.waiting.filter (·.unit == u)).map fun w => (4 * w.vals.length + 31) / 32).sum

/-- Whether a unit's output queue of 64 bursts holds up a command that contributes to the combiner (R182; log entry 166). -/
def outputFull (v : VeinSt) (u : Nat) (cmd : NbCmd) : Bool :=
  match cmd with
  | .product _ ga gb _ _ _ out cmb =>
    out && cmb && outputBursts v u != 0 &&
      decide (64 < outputBursts v u + (4 * ((productOp ga gb).count * slotCount (getUnit v u).vcfg) + 31) / 32)
  | _ => false

/-- The effect of a command of unit u, taken from its queue, for the forms of this chapter. -/
def runNb (s : State) (c u seq : Nat) (cmd : NbCmd) : State :=
  match cmd with
  | .product d ga gb ofmt chk acc out cmb =>
    runProduct (openPair s c u) c u seq (stripDesc d) (productOp ga gb) ofmt chk acc out cmb
  | .load src gb data => loadLatch s c u seq src gb data
  | .gather d a gb ofmt => runGather (openPair s c u) c u (stripDesc d) a gb ofmt
  | .row func a b => runRow (openPair s c u) c func a b
  | _ => s

end Sys2Proof.Machine
end

