-- ==== Sys2Proof/Machine/KvCache.lean ====
section
/-! DEFINITION. The key-value cache (R216 to R240, R253 to R258): sequence records, list headers, page-table entries,
frame pools, the synchronous instructions of major opcode 0x20, appends and escrow. -/

namespace Sys2Proof.Machine

/-! ### How an operation on the structures goes -/

/-- It is done; it waits (R255, R157); it takes a trap; the unit that serialises it is being reset (R254). -/
inductive KRes (α : Type) where
  | ok (s : State) (x : α)
  | wait (s : State)
  | trap (s : State) (t : TrapInfo)
  | reset (s : State)

/-- Go on with what an operation gave. -/
def KRes.andThen {α β : Type} (r : KRes α) (f : State → α → KRes β) : KRes β :=
  match r with
  | .ok s x => f s x
  | .wait s => .wait s
  | .trap s t => .trap s t
  | .reset s => .reset s

/-- An operation on each of some things in turn. -/
def kEach {α : Type} (s : State) (xs : List α) (f : State → α → KRes Unit) : KRes Unit :=
  xs.foldl (fun r x => r.andThen fun s _ => f s x) (.ok s ())

/-! ### Structures in memory (R220, R222) -/

/-- Whether n bytes at an address may hold a structure of partition p: in the data of a sealed region, or in far memory
in flat mode (R220). -/
def structPlace (s : State) (p a n : Nat) : Bool :=
  inPartition s p a && populatedPlace s (placeOf a) && (match placeOf a with
    | .vein c off => (regionAt s c off).any fun r => r.kind == kindSealed && decide (off + n ≤ r.start + r.dataSize)
    | .far k off => !s.start.tiered && decide (off + n ≤ farBytes s k)
    | _ => false)

/-- Whether requests to a structure's place wait. -/
def structWaits (s : State) (a : Nat) : Bool :=
  match placeOf a with
  | .vein c off => regionWaits s c off
  | _ => false

/-- Whether the die that holds a structure is up. -/
def structUp (s : State) (a : Nat) : Bool :=
  match placeOf a with
  | .vein c _ => dieUp s (c / 1024)
  | .far k _ => dieUp s (k / 2)
  | _ => true

/-- Read n bytes of a structure as a number. A unit that is being reset answers TARGET_RESET before anything is looked at
(R254). -/
def readStruct (s : State) (p : Nat) (core : Option Nat) (a n : Nat) : KRes Nat :=
  if !structUp s a then .reset s
  else if structWaits s a then .wait s
  else if !structPlace s p a n then .trap s ⟨4, 0, a⟩
  else match readUnits s a n 7 core with
    | (s1, []) => .ok s1 (rdNat s1 a n)
    | (s1, l :: _) => .trap s1 ⟨3, l.2, l.1⟩

/-- Write n bytes of a structure that has just been read. -/
def writeStruct (s : State) (a n x : Nat) : State := (writeUnits s a (natLe n x) 7 none).1

/-- The fields of a state word (Table 7.3). -/
structure SeqState where
  st  : Nat
  esc : Nat
  len : Nat
  gen : Nat

/-- Read a state word. -/
def seqState (w : Nat) : SeqState := ⟨fieldNat w 62 2, fieldNat w 57 5, fieldNat w 36 21, w % 2 ^ 32⟩
/-- A state word. -/
def SeqState.word (x : SeqState) : Nat := x.st * 2 ^ 62 + x.esc * 2 ^ 57 + x.len * 2 ^ 36 + x.gen % 2 ^ 32

/-- A sequence record (Table 7.2). -/
structure SeqRec where
  addr   : Nat
  word   : SeqState
  hbase  : Nat
  layers : Nat
  heads  : Nat
  hd     : Nat
  cfgOk  : Bool

/-- Read a sequence record. -/
def readRecord (s : State) (p : Nat) (core : Option Nat) (a : Nat) : KRes SeqRec :=
  (readStruct s p core a 32).andThen fun s x =>
    let w := fieldNat x 64 64
    let c := fieldNat x 128 64
    .ok s ⟨a, seqState (x % 2 ^ 64), w % 2 ^ 48, fieldNat w 48 8, fieldNat w 56 8, 32 * (c % 8 + 1),
      w % 64 == 0 && fieldNat w 48 8 != 0 && fieldNat w 56 8 != 0 && c / 8 == 0 && fieldNat x 192 64 == 0⟩

/-- The positions a page holds: the largest power of two no greater than 8,192 / hd (R216). -/
def pageP (hd : Nat) : Nat := 2 ^ Nat.log2 (8192 / hd)

/-- A list header (Table 7.4). -/
structure ListHead where
  addr    : Nat
  pages   : Nat
  stamp   : Nat
  tbase   : Nat
  cap     : Nat
  kscale  : Nat
  vscale  : Nat
  g       : Nat
  cursor  : Nat
  members : List Nat

/-- The address of the header of a layer and head. -/
def SeqRec.header (r : SeqRec) (layer head : Nat) : Nat := r.hbase + (layer * r.heads + head) * 64
/-- The addresses of every header of a sequence. -/
def SeqRec.headers (r : SeqRec) : List Nat := (List.range (r.layers * r.heads)).map (r.hbase + · * 64)

/-- Read a list header. -/
def readHead (s : State) (p : Nat) (core : Option Nat) (a : Nat) : KRes ListHead :=
  (readStruct s p core a 64).andThen fun s x =>
    let g := fieldNat x 192 64
    .ok s ⟨a, x % 65536, fieldNat x 32 32, fieldNat x 64 48, fieldNat x 112 16, fieldNat x 128 32, fieldNat x 160 32,
      g % 16 + 1, fieldNat g 4 4, (List.range 16).map fun k => fieldNat x (256 + 12 * k) 12⟩

/-- Write the device's word of a header: pages and stamp. -/
def writeHeadWord (s : State) (a pages stamp : Nat) : State := writeStruct s a 8 (pages + stamp * 2 ^ 32)

/-- The fields of a page-table entry (Table 7.5). -/
structure Entry where
  v     : Bool
  esc   : Bool
  mov   : Bool
  count : Nat
  index : Nat
  core  : Nat
  frame : Nat

/-- Read an obverse. -/
def entryOf (w : Nat) : Entry :=
  ⟨bitNat w 63, bitNat w 62, bitNat w 61, fieldNat w 52 9, fieldNat w 37 15, fieldNat w 16 12, fieldNat w 4 12⟩
/-- The obverse of an entry. -/
def Entry.word (e : Entry) : Nat :=
  e.v.toNat * 2 ^ 63 + e.esc.toNat * 2 ^ 62 + e.mov.toNat * 2 ^ 61 + e.count * 2 ^ 52 + e.index * 2 ^ 37 +
    e.core * 2 ^ 16 + e.frame * 2 ^ 4

/-- Read entry i of a list: halves that disagree are reported and give trap 0x0F (R222, R435). -/
def readEntry (s : State) (p : Nat) (core : Option Nat) (tbase i : Nat) : KRes Entry :=
  let a := tbase + 16 * i
  (readStruct s p core a 16).andThen fun s x =>
    if x / 2 ^ 64 + x % 2 ^ 64 = 2 ^ 64 - 1 then .ok s (entryOf (x % 2 ^ 64))
    else .trap (pairMismatch s 1 a (unitPart s a) (unitSource a)) ⟨0xF, 1, a⟩

/-- Write entry i of a list as an obverse and reverse pair. -/
def writeEntry (s : State) (tbase i : Nat) (e : Entry) : State :=
  writeStruct s (tbase + 16 * i) 16 (e.word + (2 ^ 64 - 1 - e.word) * 2 ^ 64)

/-! ### Frame pools (R225 to R228) -/

/-- A frame of a pool; an unlisted one is not in it. -/
def frameOf (v : VeinSt) (f : Nat) : Frame7 := look (fun _ => Frame7.absent) v.frames f
/-- Replace a frame. -/
def setFrame (v : VeinSt) (f : Nat) (x : Frame7) : VeinSt := { v with frames := put (fun _ => Frame7.absent) v.frames f x }
/-- F: the free frames of a pool. -/
def freeFrames (v : VeinSt) : Nat := (v.frames.filter fun e => e.2 == .free).length

/-- Whether a frame may stand in a pool: wholly in an open region, not retired (R225, R410). -/
def frameFits (s : State) (c f : Nat) : Bool :=
  decide (f < 4096) && (regionAt s c (f * 16384)).any (·.kind == kindOpen) && !(getVein s c).retired.contains f

/-- Whether a KATT runs in a vein's bank units. -/
def kattRuns (v : VeinSt) : Bool :=
  let u := getUnit v 0
  u.busy && u.queue.head?.any fun e => match e.2 with
    | .katt _ _ _ _ _ => true
    | _ => false

/-- A pending frame returns to its pool, or leaves it when it may not stand there. -/
def freeFrame (s : State) (c f : Nat) : State :=
  modVein s c fun v => setFrame v f (if frameFits s c f then .free else .absent)

/-- Release a used frame of a home: it is pending while a KATT that the home has begun runs (R228). -/
def releaseFrame (s : State) (c f : Nat) : State :=
  let v := getVein s c
  match frameOf v f with
  | .used _ =>
    let s1 := bump s 0x07 4 1 (.core c)
    if kattRuns v then setVein s1 c (setFrame v f (.pending true)) else freeFrame s1 c f
  | _ => s

/-- The frame a home takes: the lowest free one in the first stratum, from the given one on, that has one (R226). -/
def chooseFrame (v : VeinSt) (stratum : Nat) : Option Nat :=
  (List.range 4).findSome? fun k =>
    (v.frames.find? fun e => e.2 == .free && e.1 % 4 == (stratum + k) % 4).map (·.1)

/-- Why a home refuses a page: 1 escrow, 2 new sequence, 3 continuing; none when it serves it (R227). -/
def refusalOf (s : State) (home : Nat) (esc : Bool) (len : Nat) : Option Nat :=
  let f := freeFrames (getVein s home)
  let adm := regField s (oKres home) 0 13
  let er := max adm (regField s (oKres home) 16 13)
  if esc then (if er < f then none else some 1)
  else if len = 0 then (if adm < f then none else some 2)
  else if 0 < f then none else some 3

/-- Record a refusal in CO_KREF and count it (R227, Table 7.15). -/
def noteKref (s : State) (home kind core seq part layer head : Nat) : State :=
  let w := (getReg s (oKref home)).toNat
  let s1 := if bitNat w 63 then setRegField s (oKref home) 62 1 1
    else setReg s (oKref home) (BitVec.ofNat 64 (2 ^ 63 + kind * 2 ^ 60 + core * 2 ^ 48 + seq * 2 ^ 36 + part * 2 ^ 32 +
      layer * 2 ^ 24 + head * 2 ^ 16))
  bump s1 0x07 (4 + kind) 1 (.core home)

/-- A pending frame that no earlier KATT of its home still uses returns to its pool (R228). -/
def execFrameRelease (c : CoreId) (s : State) : Host.Outcome State Fault Refusal :=
  .next (match (getVein s c.toNat).frames.find? fun e => e.2 == .pending false with
    | some (f, _) => freeFrame s c.toNat f
    | none => s)

/-- Add or remove frames; those that cannot be acted on are skipped and counted (R225, Table 7.14). -/
def kframe (s : State) (c : Nat) (add : Bool) (w : Word) : State :=
  let first := w.toNat % 4096
  (List.range (fieldNat w.toNat 16 12 + 1)).foldl (fun s i =>
    let f := first + i
    let x := frameOf (getVein s c) f
    if add then
      if x == .absent && frameFits s c f then modVein s c fun v => setFrame v f .free else bump s 0x07 8 1 (.core c)
    else if x == .free then modVein s c fun v => setFrame v f .absent
    else bump s 0x07 8 1 (.core c)) s

/-- A write of CO_KFRAME with op add. -/
def execKframeAdd (r : Req) (c : CoreId) (w : Word) (s : State) : Host.Outcome State Fault Refusal :=
  .next (regWrite s r (coBase c.toNat + 0x210) fun s => kframe s c.toNat true w)
/-- A write of CO_KFRAME with op remove. -/
def execKframeRemove (r : Req) (c : CoreId) (w : Word) (s : State) : Host.Outcome State Fault Refusal :=
  .next (regWrite s r (coBase c.toNat + 0x210) fun s => kframe s c.toNat false w)

/-! ### Trims (R234) -/

/-- Clear the escrow mark of a page's frame. -/
def unescrow (s : State) (e : Entry) : State :=
  modVein s e.core fun v => match frameOf v e.frame with
    | .used _ => setFrame v e.frame (.used false)
    | _ => v

/-- What a trim makes of entry i: invalidated with its frame released, its count lowered, its escrow mark cleared. -/
def trimEntry (s : State) (h : ListHead) (pp len esc i : Nat) (e : Entry) : KRes Unit :=
  let bound := len + esc
  if !e.v then .ok s ()
  else if bound ≤ i * pp then
    if e.mov then .wait s else .ok (releaseFrame (writeEntry s h.tbase i { e with v := false }) e.core e.frame) ()
  else
    let most := if bound ≤ (i + 1) * pp then (bound - 1) % pp + 1 else pp
    let e1 := { e with count := min e.count most, esc := e.esc && decide (len ≤ i * pp) }
    if e1.word = e.word then .ok s ()
    else if e.mov then .wait s
    else .ok (writeEntry (if e.esc && !e1.esc then unescrow s e else s) h.tbase i e1) ()

/-- The core whose vein holds a structure, for the count of trims. -/
def structCore (a : Nat) : Option Nat :=
  match placeOf a with
  | .vein c _ => some c
  | _ => none

/-- Trim a list to a state word (R234). -/
def trimList (s : State) (p : Nat) (core : Option Nat) (h : ListHead) (pp : Nat) (w : SeqState) : KRes ListHead :=
  (kEach s (List.range h.pages) fun s i =>
    (readEntry s p core h.tbase i).andThen fun s e => trimEntry s h pp w.len w.esc i e).andThen fun s _ =>
  let keep := min h.pages ((w.len + w.esc + pp - 1) / pp)
  let s1 := writeHeadWord s h.addr keep w.gen
  let s2 := match structCore h.addr with
    | some k => bump s1 0x07 10 1 (.core k)
    | none => s1
  .ok s2 { h with pages := keep, stamp := w.gen }

/-! ### The synchronous instructions of major 0x20 (R229, R233, R236, R238, R239) -/

/-- The usable size of a core's sequence table (R220). -/
def seqSize (s : State) (c : Nat) : Nat :=
  min ((getCw (getCore s c) 0x20).toNat / 2 ^ 51) (getPart s (partNum s c)).seqs

/-- Write a state word changed in esc or len: gen rises, and before it would pass 0xFFFF_FFFF every list is trimmed and
it becomes 1 (R240). -/
def changeState (s : State) (p : Nat) (core : Option Nat) (r : SeqRec) (w : SeqState) : KRes Nat :=
  let put : State → Nat → KRes Nat := fun s gen =>
    let x := { w with gen := gen }.word
    .ok { writeStruct s r.addr 8 x with seqOps := s.seqOps + 1 } x
  if r.word.gen < 2 ^ 32 - 1 then put s (r.word.gen + 1)
  else
    (kEach s r.headers fun s a => (readHead s p core a).andThen fun s h =>
      (trimList s p core h (pageP r.hd) r.word).andThen fun s _ => .ok s ()).andThen fun s _ => put s 1

/-- A synchronous cache instruction: a release point; its change is applied at once, and rd waits for
CACHE_INSTRUCTION_COMPLETE (R229). -/
def cacheOp (s : State) (c : CoreId) (rd ga gb : GReg) (func : Nat) (super : Bool)
    (f : State → Nat → SeqRec → Nat → KRes Nat) : State :=
  issue s c.toNat ⟨4, [rd.toNat, ga.toNat, gb.toNat], true⟩ (raSkip 4) fun s =>
    let x := getCore s c.toNat
    let seq := (gpr x ga.toNat).toNat % 4096
    let word := 0x20 * 2 ^ 26 + rd.toNat * 2 ^ 21 + ga.toNat * 2 ^ 16 + gb.toNat * 2 ^ 11 + func
    if super && atTask x then privileged s word
    else if seqSize s c.toNat ≤ seq then .at s 4 0 seq
    else release s c.toNat fun s =>
      let a := seqAddr s c.toNat seq
      let p := partNum s c.toNat
      match (readRecord s p (some c.toNat) a).andThen fun s r => f s p r seq with
      | .wait s1 => .stall s1
      | .trap s1 t => .trap s1 t false false
      | .reset s1 => .at s1 6 9 seq
      | .ok s1 w => .stall (modCore s1 c.toNat fun x => { x with
          wait := some (.cache rd.toNat w seq a), waitSince := elapsed s1 })

/-- The operand gb of a cache instruction. -/
def opGb (s : State) (c : CoreId) (gb : GReg) : Nat := (gpr (getCore s c.toNat) gb.toNat).toNat

/-- KMAP open (R233). -/
def execKmapOpen (c : CoreId) (rd ga gb : GReg) (s : State) : Host.Outcome State Fault Refusal :=
  .next (cacheOp s c rd ga gb 0 true fun s p r seq =>
    if r.word.st ≠ 0 || !r.cfgOk then .trap s ⟨6, 7, seq⟩
    else
      (kEach s r.headers fun s a => (readHead s p (some c.toNat) a).andThen fun s h =>
        if h.tbase % 16 ≠ 0 then .trap s ⟨6, 7, seq⟩ else .ok s ()).andThen fun s _ =>
      (changeState s p (some c.toNat) r ⟨1, 0, 0, 0⟩).andThen fun s w =>
        .ok (r.headers.foldl (fun s a => writeHeadWord s a 0 (w % 2 ^ 32)) s) w)

/-- KMAP close: the release of its entries follows (R233). -/
def execKmapClose (c : CoreId) (rd ga gb : GReg) (s : State) : Host.Outcome State Fault Refusal :=
  .next (cacheOp s c rd ga gb 1 true fun s p r seq =>
    if r.word.st ≠ 1 || r.word.esc ≠ 0 then .trap s ⟨6, 7, seq⟩
    else
      let w := { r.word with st := 2 }.word
      .ok { writeStruct s r.addr 8 w with closing := s.closing ++ [(p, seq, r.addr)], seqOps := s.seqOps + 1 } w)

/-- KMAP query (R233). -/
def execKmapQuery (c : CoreId) (rd ga gb : GReg) (s : State) : Host.Outcome State Fault Refusal :=
  .next (cacheOp s c rd ga gb 2 false fun s _ r _ => .ok s r.word.word)

/-- KESC open (R236). -/
def execKescOpen (c : CoreId) (rd ga gb : GReg) (s : State) : Host.Outcome State Fault Refusal :=
  .next (cacheOp s c rd ga gb 3 false fun s p r seq =>
    let n := opGb s c gb
    if r.word.st ≠ 1 then .trap s ⟨6, 7, seq⟩
    else if n = 0 || 16 < n then .trap s ⟨7, 1, n⟩
    else if r.word.esc ≠ 0 then .trap s ⟨7, 2, seq⟩
    else changeState s p (some c.toNat) r { r.word with esc := n })

/-- KCOMMIT (R238). -/
def execKcommit (c : CoreId) (rd ga gb : GReg) (s : State) : Host.Outcome State Fault Refusal :=
  .next (cacheOp s c rd ga gb 4 false fun s p r seq =>
    let j := opGb s c gb
    if r.word.st ≠ 1 then .trap s ⟨6, 7, seq⟩
    else if (r.word.esc ≠ 0 && r.word.esc < j) || 1048576 < r.word.len + j then .trap s ⟨7, 5, j⟩
    else changeState s p (some c.toNat) r { r.word with esc := 0, len := r.word.len + j })

/-- KROLL drop (R239). -/
def execKrollDrop (c : CoreId) (rd ga gb : GReg) (s : State) : Host.Outcome State Fault Refusal :=
  .next (cacheOp s c rd ga gb 5 false fun s p r seq =>
    if r.word.st ≠ 1 then .trap s ⟨6, 7, seq⟩
    else changeState s p (some c.toNat) r { r.word with esc := 0 })

/-- KROLL retract (R239). -/
def execKrollRetract (c : CoreId) (rd ga gb : GReg) (s : State) : Host.Outcome State Fault Refusal :=
  .next (cacheOp s c rd ga gb 6 false fun s p r seq =>
    let n := opGb s c gb
    if r.word.st ≠ 1 then .trap s ⟨6, 7, seq⟩
    else if r.word.esc ≠ 0 || r.word.len < n then .trap s ⟨7, 6, n⟩
    else changeState s p (some c.toNat) r { r.word with len := n })

/-- The change has been applied and distributed: rd is written (R229). -/
def execCacheInstructionComplete (c : CoreId) (s : State) : Host.Outcome State Fault Refusal :=
  .next (match (getCore s c.toNat).wait with
    | some (.cache rd w _ _) =>
      let pc := (getCore s c.toNat).pc
      settle (commit (modCore s c.toNat fun x => setGpr { x with wait := none } rd (BitVec.ofNat 64 w))
        c.toNat pc (pc + 4)) c.toNat
    | _ => s)

/-- Invalidate and release one entry of a closing sequence; one that cannot be read is passed over. -/
def closeEntry (s : State) (p : Nat) (h : ListHead) (i : Nat) : KRes Unit :=
  match readEntry s p none h.tbase i with
  | .ok s e =>
    if !e.v then .ok s ()
    else if e.mov then .wait s
    else .ok (releaseFrame (writeEntry s h.tbase i { e with v := false }) e.core e.frame) ()
  | .trap s _ => .ok s ()
  | .wait s => .wait s
  | .reset s => .reset s

/-- Invalidate and release the entries of every list of a record (R233): a list that cannot be read is passed over. -/
def closeLists (s : State) (p : Nat) (r : SeqRec) : KRes Unit :=
  kEach s r.headers fun s a => match readHead s p none a with
    | .ok s h => (kEach s (List.range h.pages) fun s i => closeEntry s p h i).andThen fun s _ =>
        .ok (writeHeadWord s a 0 h.stamp) ()
    | .trap s _ => .ok s ()
    | .wait s => .wait s
    | .reset s => .reset s

/-- The release of a closing sequence's entries ends: st becomes free (R233). -/
def execKmapCloseReleaseDone (p : PartId) (seq : BitVec 12) (s : State) : Host.Outcome State Fault Refusal :=
  .next (match s.closing.find? fun e => e.1 == p.toNat && e.2.1 == seq.toNat with
    | none => s
    | some x =>
      let r := (readRecord s x.1 none x.2.2).andThen fun s r =>
        (closeLists s x.1 r).andThen fun s _ =>
        .ok (writeStruct s r.addr 8 { r.word with st := 0 }.word) ()
      match r with
      | .ok s1 _ => { s1 with closing := s1.closing.erase x, seqOps := s1.seqOps + 1 }
      | _ => s)

/-! ### Appends (R230, R234 to R237) -/

/-- The fields of a list descriptor (Table 7.8, kind 0x3). -/
structure ListDesc where
  kind  : Nat
  sfmt  : Nat
  seq   : Nat
  layer : Nat
  head  : Nat
  rsv   : Bool

/-- Read a list descriptor. -/
def listDesc (d : Nat) : ListDesc :=
  ⟨fieldNat d 252 4, fieldNat d 248 4, fieldNat d 236 12, fieldNat d 228 8, fieldNat d 220 8, fieldNat d 0 220 != 0⟩

/-- An exact quotient as far as any rounding to fewer than 100 bits needs it: the last bit says that something is left. -/
def divNum (a b : Num) : Num :=
  match a, b with
  | .nan _, _ => .nan false
  | _, .nan _ => .nan false
  | .inf _, .inf _ => .nan false
  | .inf n, .fin m _ _ => .inf (n != m)
  | .fin n _ _, .inf m => .fin (n != m) 0 0
  | .fin n x e, .fin m y f =>
    if y = 0 then (if x = 0 then .nan false else .inf (n != m))
    else
      let q := x * 2 ^ 200 / y
      .fin (n != m) (2 * q + (if x * 2 ^ 200 % y = 0 then 0 else 1)) (e - f - 201)

/-- The E4M3 code of x / s and the flags of the encoding (R218, R49). -/
def cacheElem (sfmt x scale : Nat) : Nat × Nat :=
  encodeElem 3 true false .even (divNum (decodeFloat (floatFmt sfmt) x) (num32 scale))

/-- The offset of key element (j, 0) in a frame (R217). -/
def keyOff (hd j : Nat) : Nat := 2 * (j % 4) * 2048 + j / 4 * hd
/-- The offset of the b-th quarter of value j in a frame (R217). -/
def valueOff (hd j b : Nat) : Nat := (2 * b + 1) * 2048 + j * (hd / 4)

/-- The elements of a position in an append's source, encoded, with their flags: the source holds positions one after
another. -/
def sourceElems (s : State) (src sfmt hd n scale : Nat) : List (Nat × Nat) :=
  let w := if sfmt = 0 then 4 else 2
  (List.range hd).map fun d => cacheElem sfmt (rdNat s (src + (n * hd + d) * w) w) scale
/-- The codes of a position in an append's source. -/
def sourceRow (s : State) (src sfmt hd n scale : Nat) : List Byte :=
  (sourceElems s src sfmt hd n scale).map fun e => BitVec.ofNat 8 e.1

/-- Store position j of a page: its key and its value (R217). -/
def storePosition (s : State) (e : Entry) (hd j : Nat) (key val : List Byte) : State :=
  let base := veinAddr e.core (e.frame * 16384)
  let s1 := (writeUnits s (base + keyOff hd j) key 3 none).1
  (List.range 4).foldl (fun s b =>
    (writeUnits s (base + valueOff hd j b) ((val.drop (b * (hd / 4))).take (hd / 4)) 3 none).1) s1

/-- What an append works on: who asks, the list, where its source lies. -/
structure AppendOp where
  core  : Nat
  part  : Nat
  esc   : Bool
  seq   : Nat
  layer : Nat
  head  : Nat
  sfmt  : Nat
  pos   : Nat
  count : Nat
  keys  : Nat
  vals  : Nat

/-- Take a new page for entry i of a list: the entry, or the refusal (R226, R227). -/
def newPage (s : State) (o : AppendOp) (h : ListHead) (len i : Nat) : State × Option (ListHead × Entry) :=
  let home := h.members.getD h.cursor 0
  match refusalOf s home o.esc len with
  | some kind => (noteKref s home kind o.core o.seq o.part o.layer o.head, none)
  | none =>
    match chooseFrame (getVein s home) (i / h.g % 4) with
    | none => (s, none)
    | some f =>
      let s1 := bump (modVein s home fun v => setFrame v f (.used o.esc)) 0x07 3 1 (.core home)
      let next := (h.cursor + 1) % h.g
      let w := rdNat s1 (h.addr + 24) 8
      let s2 := writeStruct s1 (h.addr + 24) 8 (setFieldNat w 4 4 next)
      let s3 := writeHeadWord s2 h.addr (i + 1) h.stamp
      (s3, some ({ h with pages := i + 1, cursor := next }, ⟨true, o.esc, false, 0, i, home, f⟩))

/-- Whether the home a new page would go to can hold it: populated, of the partition, its die up. -/
def homeOk (s : State) (o : AppendOp) (h : ListHead) : Bool :=
  let home := h.members.getD h.cursor 0
  populated s home && partOf s home == some o.part && dieUp s (home / 1024)

/-- Write positions page by page: n bounds the pages. The result: status and positions written. -/
def appendPages (hd : Nat) (o : AppendOp) (len : Nat) : Nat → State → ListHead → Nat → KRes (Nat × Nat)
  | 0, s, _, written => .ok s (stOk, written)
  | n + 1, s, h, written =>
    if o.count ≤ written then .ok s (stOk, written)
    else
      let pp := pageP hd
      let pos := o.pos + written
      let i := pos / pp
      let take := min (o.count - written) (pp - pos % pp)
      let fill : State → ListHead → Entry → KRes (Nat × Nat) := fun s h e =>
        let s1 := (List.range take).foldl (fun s j =>
          storePosition s e hd (pos % pp + j) (sourceRow s o.keys o.sfmt hd (written + j) h.kscale)
            (sourceRow s o.vals o.sfmt hd (written + j) h.vscale)) s
        appendPages hd o len n (writeEntry s1 h.tbase i { e with count := pos % pp + take }) h (written + take)
      if pos % pp = 0 then
        if !homeOk s o h then
          if dieUp s (h.members.getD h.cursor 0 / 1024) then .trap s ⟨0xE, 1, h.addr⟩ else .ok s (stTargetReset, written)
        else match newPage s o h len i with
          | (s1, none) => .ok s1 (if o.esc then stEscrowRefused else stPoolFull, written)
          | (s1, some (h1, e)) => fill s1 h1 e
      else
        (readEntry s o.part (some o.core) h.tbase i).andThen fun s e =>
          if e.mov then .wait s
          else if !dieUp s (e.core / 1024) then .ok s (stTargetReset, written)
          else fill s h e

/-- The flags that encoding the first n positions of an append sets (R46, R49, R218). -/
def sourceFlags (s : State) (o : AppendOp) (h : ListHead) (hd n : Nat) : Nat :=
  orFlags ((List.range n).flatMap fun j =>
    (sourceElems s o.keys o.sfmt hd j h.kscale ++ sourceElems s o.vals o.sfmt hd j h.vscale).map (·.2))

/-- One append to one list (R234, R237): status, positions written, flags. Its faults rank as R98 ranks them: 0x04, then
0x03, 0x06 and 0x07, and among those of one code in the order of R234 and R237 (DEDUCED, log entry 167). -/
def appendList (s : State) (o : AppendOp) (srcEnd : Nat → Bool) : KRes (Nat × Nat × Nat) :=
  if seqSize s o.core ≤ o.seq then .trap s ⟨4, 0, o.seq⟩
  else
    (readRecord s o.part (some o.core) (seqAddr s o.core o.seq)).andThen fun s r =>
    let pp := pageP r.hd
    let w := if o.sfmt = 0 then 4 else 2
    if !srcEnd r.hd then .trap s ⟨4, 0, o.keys⟩
    else
      let (s1, l1) := readUnits s o.keys (o.count * r.hd * w) 2 (some o.core)
      let (s2, l2) := readUnits s1 o.vals (o.count * r.hd * w) 2 (some o.core)
      match l1 ++ l2 with
      | l :: _ => .trap s2 ⟨3, l.2, l.1⟩
      | [] =>
        if r.word.st ≠ 1 || r.layers ≤ o.layer || r.heads ≤ o.head then .trap s2 ⟨6, 7, o.seq⟩
        else
          (readHead s2 o.part (some o.core) (r.header o.layer o.head)).andThen fun s h0 =>
          (if h0.stamp = r.word.gen then .ok s h0 else trimList s o.part (some o.core) h0 pp r.word).andThen fun s h =>
          (if h.pages = 0 then .ok s 0
            else (readEntry s o.part (some o.core) h.tbase (h.pages - 1)).andThen fun s e =>
              .ok s ((h.pages - 1) * pp + e.count)).andThen fun s fill =>
          let len := r.word.len
          let top := len + r.word.esc
          if o.pos ≠ fill then .trap s ⟨6, 4, fill⟩
          else if min h.cap 32768 < (o.pos + o.count + pp - 1) / pp then .trap s ⟨6, 6, h.addr⟩
          else if o.esc && (o.pos < len || top < o.pos + o.count) then
            .trap s ⟨7, 3, if o.pos < len || top ≤ o.pos then o.pos else top⟩
          else if !o.esc && r.word.esc ≠ 0 then .trap s ⟨7, 4, o.seq⟩
          else (appendPages r.hd o len (o.count / pp + 2) s h 0).andThen fun s x =>
            .ok s (x.1, x.2, sourceFlags s o h r.hd x.2)

/-- The dies of the records and list headers that an append works on (R254). -/
def appendDies (s : State) (c layer head : Nat) (seqs : List Nat) : List Nat :=
  ((seqs.flatMap fun q =>
    let a := seqAddr s c q
    let w := rdNat s (a + 8) 8
    [a, w % 2 ^ 48 + (layer * fieldNat w 56 8 + head) * 64]).filterMap fun a => match placeOf a with
      | .vein v _ => some (v / 1024)
      | .far k _ => some (k / 2)
      | _ => none).eraseDups

/-- The word of a row of major opcode 0x21. -/
def encAppend (d ga gb rd func : Nat) : Nat :=
  0x21 * 2 ^ 26 + d * 2 ^ 22 + ga * 2 ^ 17 + gb * 2 ^ 12 + rd * 2 ^ 7 + func

/-- An append is on its way: what it did, or its fault, is told when it completes (R230). -/
def launchAppend (c rd : Nat) (dies : List Nat) (r : KRes (Nat × Nat × Nat)) : Eff :=
  let go : State → Append → Eff := fun s a => .go (modCore s c fun x => { x with appends := x.appends ++ [a] })
  match r with
  | .wait s1 => .stall s1
  | .trap s1 t => go s1 ⟨rd, stAborted, 0, some t, 0, dies⟩
  | .reset s1 => go s1 ⟨rd, stTargetReset, 0, none, 0, dies⟩
  | .ok s1 (st, n, f) => go s1 ⟨rd, st, n, none, f, dies⟩

/-- KAPP and the append form of KESC. -/
def appendOp (s : State) (c : CoreId) (d : DReg) (ga gb rd : GReg) (esc : Bool) : State :=
  issue s c.toNat ⟨4, [ga.toNat, gb.toNat, rd.toNat], true⟩ (raSkip 4) fun s =>
    let x := getCore s c.toNat
    let t := listDesc (dreg x d.toNat).toNat
    let a := (gpr x ga.toNat).toNat % 2 ^ 48
    let b := (gpr x gb.toNat).toNat
    let count := fieldNat b 20 16
    let w := if t.sfmt = 0 then 4 else 2
    if t.kind ≠ 3 || t.rsv then illegal s (encAppend d.toNat ga.toNat gb.toNat rd.toNat esc.toNat)
    else if 1 < t.sfmt then .at s 0xC 0 t.sfmt
    else if a % 32 ≠ 0 || !lsSide (c.toNat / 16) a 1 then .at s 4 0 a
    else if count = 0 || 4096 < count then .at s 4 0 b
    else if seqSize s c.toNat ≤ t.seq then .at s 4 0 t.seq
    else if 8 ≤ x.appends.length || !x.buf.isEmpty || movesMeet x.moves a 0x80000 then .stall s
    else
      -- the record gives hd, and with it where the values begin
      let dies := appendDies s c.toNat t.layer t.head [t.seq]
      match readRecord s (partNum s c.toNat) (some c.toNat) (seqAddr s c.toNat t.seq) with
      | .ok s1 r => launchAppend c.toNat rd.toNat dies (appendList s1
          ⟨c.toNat, partNum s c.toNat, esc, t.seq, t.layer, t.head, t.sfmt, b % 2 ^ 20, count, a, a + count * r.hd * w⟩
          fun hd => lsSide (c.toNat / 16) a (2 * count * hd * w))
      | .wait s1 => .stall s1
      | .trap s1 e => launchAppend c.toNat rd.toNat dies (.trap s1 e)
      | .reset s1 => launchAppend c.toNat rd.toNat dies (.reset s1)

/-- KAPP (R234). -/
def execKapp (c : CoreId) (d : DReg) (ga gb rd : GReg) (s : State) : Host.Outcome State Fault Refusal :=
  .next (appendOp s c d ga gb rd false)
/-- KESC, append form (R237). -/
def execKesc (c : CoreId) (d : DReg) (ga gb rd : GReg) (s : State) : Host.Outcome State Fault Refusal :=
  .next (appendOp s c d ga gb rd true)

/-- An entry of a length table (R235): sequence, first position, count; none when it is malformed. -/
def lengthEntry (w : Nat) : Option (Nat × Nat × Nat) :=
  if w % 4096 ≠ 0 || fieldNat w 12 20 = 0 then none else some (fieldNat w 52 12, fieldNat w 32 20, fieldNat w 12 20)

/-- The entries of a length table in order; a malformed one ends in its address. -/
def lengthTable (s : State) (a n : Nat) : List (Nat × Nat × Nat) ⊕ Nat :=
  (List.range n).foldl (fun r i => match r with
    | .inr x => .inr x
    | .inl l => match lengthEntry (rdNat s (a + 8 * i) 8) with
      | some e => .inl (l ++ [e])
      | none => .inr (a + 8 * i)) (.inl [])

/-- The entries of a ragged append in turn, up to the first that does not complete OK: status, positions, flags (R235). -/
def raggedLoop (o : AppendOp) (hd w total : Nat) (k : Nat) : List (Nat × Nat × Nat) → State → Nat → Nat →
    KRes (Nat × Nat × Nat) ⊕ (State × TrapInfo × Nat × Nat)
  | [], s, done, fl => .inl (.ok s (stOk, done, fl))
  | (seq, pos, count) :: r, s, done, fl =>
    let o1 := { o with
      seq := seq, pos := pos, count := count
      keys := o.keys + done * hd * w, vals := o.keys + (total + done) * hd * w }
    match appendList s o1 fun h => h == hd && lsSide k o.keys (2 * total * hd * w) with
    | .ok s1 (st, n, f) =>
      if st = stOk then raggedLoop o hd w total k r s1 (done + n) (fl ||| f) else .inl (.ok s1 (st, done + n, fl ||| f))
    | .wait s1 => .inl (.wait s1)
    | .reset s1 => .inl (.ok s1 (stTargetReset, done, fl))
    | .trap s1 t => .inr (s1, t, done, fl)

/-- KAPP, ragged form (R235). -/
def execKappRagged (c : CoreId) (d : DReg) (ga gb rd : GReg) (s : State) : Host.Outcome State Fault Refusal :=
  .next (issue s c.toNat ⟨4, [ga.toNat, gb.toNat, rd.toNat], true⟩ (raSkip 4) fun s =>
    let x := getCore s c.toNat
    let t := listDesc (dreg x d.toNat).toNat
    let a := (gpr x ga.toNat).toNat % 2 ^ 48
    let b := (gpr x gb.toNat).toNat
    let tbl := b % 2 ^ 48
    let n := fieldNat b 48 11
    let w := if t.sfmt = 0 then 4 else 2
    if t.kind ≠ 3 || t.rsv then illegal s (encAppend d.toNat ga.toNat gb.toNat rd.toNat 2)
    else if 1 < t.sfmt then .at s 0xC 0 t.sfmt
    else if a % 32 ≠ 0 || !lsSide (c.toNat / 16) a 1 then .at s 4 0 a
    else if n = 0 || 1024 < n || tbl % 8 ≠ 0 || !lsSide (c.toNat / 16) tbl (8 * n) then .at s 4 0 tbl
    else if 8 ≤ x.appends.length || !x.buf.isEmpty || !x.moves.isEmpty then .stall s
    else match coreRead s c.toNat tbl (8 * n) 2 with
    | (s1, .wait) => .stall s1
    | (s1, .trap e) => .trap s1 e false false
    | (_, .ok s1 _) =>
      match lengthTable s1 tbl n with
      | .inr e => .at s1 4 0 e
      | .inl [] => .stall s1
      | .inl ((seq0, p0, c0) :: rest) =>
        let dies := appendDies s1 c.toNat t.layer t.head (seq0 :: rest.map (·.1))
        if seqSize s1 c.toNat ≤ seq0 then launchAppend c.toNat rd.toNat dies (.trap s1 ⟨4, 0, seq0⟩)
        else match readRecord s1 (partNum s c.toNat) (some c.toNat) (seqAddr s1 c.toNat seq0) with
        | .wait s2 => .stall s2
        | .trap s2 e => launchAppend c.toNat rd.toNat dies (.trap s2 e)
        | .reset s2 => launchAppend c.toNat rd.toNat dies (.reset s2)
        | .ok s2 r =>
          let es := (seq0, p0, c0) :: rest
          let o : AppendOp := ⟨c.toNat, partNum s c.toNat, false, 0, t.layer, t.head, t.sfmt, 0, 0, a, 0⟩
          match raggedLoop o r.hd w ((es.map (·.2.2)).sum) (c.toNat / 16) es s2 0 0 with
          | .inl (.wait _) => .stall s
          | .inl k => launchAppend c.toNat rd.toNat dies k
          | .inr (s3, e, done, fl) => .go (modCore s3 c.toNat fun x =>
              { x with appends := x.appends ++ [⟨rd.toNat, stAborted, done, some e, fl, dies⟩] }))

/-- An append reaches its end: rd takes its status and count, the flags of its encodings are set; a fault is kept for the
next release point (R218, R230). -/
def execAppendComplete (c : CoreId) (rd : GReg) (s : State) : Host.Outcome State Fault Refusal :=
  .next (match (getCore s c.toNat).appends.find? (·.rd == rd.toNat) with
    | none => s
    | some a => settle (modCore s c.toNat fun x =>
        noteFailure { lateGpr (setFlags x a.flags) rd.toNat (BitVec.ofNat 64 (a.status + a.count * 256)) with
          appends := x.appends.eraseP (·.rd == rd.toNat) } a.trap) c.toNat)

end Sys2Proof.Machine
end

