-- ==== Sys2Proof/Machine/Remint.lean ====
section
/-! DEFINITION. The remint engines (R265 to R272): descriptor rings, page moves, clears, completions and halts. -/

namespace Sys2Proof.Machine

/-! ### Rings and descriptors -/

/-- The descriptors in progress on a ring, oldest first. -/
def getRem (s : State) (d p : Nat) : List RemintJob := look (fun _ => []) s.remints (d * 16 + p)
/-- Replace the descriptors in progress on a ring. -/
def setRem (s : State) (d p : Nat) (l : List RemintJob) : State :=
  { s with remints := put (fun _ => []) s.remints (d * 16 + p) l }
/-- Replace descriptor n of those in progress on a ring. -/
def setRemJob (s : State) (d p n : Nat) (j : RemintJob) : State := setRem s d p ((getRem s d p).set n j)

/-- Whether a status halts its ring (Table 8.5). -/
def remHalts (st : Nat) : Bool :=
  st == stAborted || st == stPartitionFault || st == stUncorrectable || st == stTargetReset

/-- The pages that an engine has in flight (R265, Table 8.8). -/
def remInflight (s : State) (d : Nat) : Nat :=
  (List.range 16).foldl (fun n p => (getRem s d p).foldl (fun n j => n + j.flight.length) n) 0

/-- A remint engine as a requester (R163); its channel number is its die. -/
def remintReq (d p : Nat) : Requester := ⟨1, d, p, d, true⟩

/-- The number of descriptors in a ring (Table 8.9). -/
def remSize (s : State) (d p : Nat) : Nat := 2 ^ (min 8 (regField s (oRemRctl d p) 0 4) + 4)

/-- Whether an engine serves a ring: its die is up, its clusters have not been switched off, en and run are set. -/
def remServes (s : State) (d p : Nat) : Bool :=
  dieUp s d && !s.pwr.regsOff && regField s (oRemCtl d) 8 1 == 1 && regField s (oRemRctl d p) 8 1 == 1

/-- A field of a remint descriptor. -/
def RemintJob.field (j : RemintJob) (lo n : Nat) : Nat := fieldNat (leNat j.desc) lo n
/-- op. -/
def RemintJob.op (j : RemintJob) : Nat := j.field 0 4
/-- The sequence. -/
def RemintJob.seq (j : RemintJob) : Nat := j.field 4 12
/-- The layer. -/
def RemintJob.layer (j : RemintJob) : Nat := j.field 16 8
/-- The head. -/
def RemintJob.head (j : RemintJob) : Nat := j.field 24 8
/-- The first entry. -/
def RemintJob.first (j : RemintJob) : Nat := j.field 64 16
/-- The number of entries. -/
def RemintJob.count (j : RemintJob) : Nat := j.field 80 16
/-- Whether a ring's engine may take another descriptor: every one before it has begun all its pages and none of them
halts the ring; a clear waits until none of their pages is in flight (R266; log entry 168). -/
def remReady (l : List RemintJob) (clear : Bool) : Bool :=
  l.all fun j => (j.status.isSome || decide (j.count ≤ j.next)) && !j.status.any remHalts && (!clear || j.flight.isEmpty)

/-- Pages per span. -/
def RemintJob.span (j : RemintJob) : Nat := j.field 96 16
/-- Members per group. -/
def RemintJob.g (j : RemintJob) : Nat := j.field 112 4 + 1
/-- The cluster of span i (R267). -/
def RemintJob.cluster (j : RemintJob) (i : Nat) : Nat := (j.field 128 8 + i * j.field 136 8) % 256
/-- The core that sig signals. -/
def RemintJob.notify (j : RemintJob) : Nat := j.field 144 12
/-- Its event. -/
def RemintJob.event (j : RemintJob) : Nat := j.field 156 6

/-- The home and the stratum of page t (R267). -/
def RemintJob.target (j : RemintJob) (t : Nat) : Nat × Nat :=
  (j.cluster (t / j.span) * 16 + t % j.span % j.g, t % j.span / j.g % 4)

/-- The base and size of a partition's sequence table (R220). Its cores' cw_kseqt locate it; where they differ, the one
an engine goes by is not stated (log entry 5). -/
def seqTable (s : State) (p : Nat) : Nat × Nat :=
  let ws := (s.cores.filter fun e => partOf s e.1 == some p && (getCw e.2 0x20).toNat / 2 ^ 51 != 0).map
    fun e => (getCw e.2 0x20).toNat
  let w := (ws.eraseDups)[freeValue s 2 % (max 1 ws.eraseDups.length)]?.getD 0
  (w % 2 ^ 48, min (w / 2 ^ 51) (getPart s p).seqs)

/-- The status of a trap that an engine meets (Table 8.5). -/
def remStatus (t : TrapInfo) : Nat :=
  if t.code = 3 || t.code = 0xF then stUncorrectable else stPartitionFault

/-- Whether the descriptor's sig names a core and an event that it may (R270). -/
def RemintJob.sigOk (s : State) (j : RemintJob) (p : Nat) : Bool :=
  j.field 33 1 == 0 ||
    (decide (j.event ≤ 47) && populated s j.notify && partOf s j.notify == some p)

/-- What is wrong with a descriptor that has been read (Table 8.5): the state, and a status; or the address of the
list's header. -/
def remPlan (s : State) (p : Nat) (j : RemintJob) : KRes (Nat ⊕ Nat) :=
  let (base, size) := seqTable s p
  if (j.op ≠ 1 && j.op ≠ 2) || j.count = 0 || j.span = 0 || size ≤ j.seq || !j.sigOk s p then .ok s (.inl stAborted)
  else match readRecord s p none (base + 64 * j.seq) with
    | .wait s => .wait s
    | .trap s t => .ok s (.inl (remStatus t))
    | .reset s => .ok s (.inl stTargetReset)
    | .ok s r =>
      if r.layers ≤ j.layer || r.heads ≤ j.head then .ok s (.inl stAborted)
      else if j.op = 1 && (List.range ((j.count + j.span - 1) / j.span)).any fun i =>
        !populatedCl s (j.cluster i) || partOfCl s (j.cluster i) != some p then .ok s (.inl stPartitionFault)
      else .ok s (.inr (r.header j.layer j.head))

/-- Take the next descriptor of a ring, if its op is of the kind asked for; none while the ring's memory waits. An op that
is neither goes with the restripes. -/
def remTake (s : State) (d p : Nat) (clear : Bool) : Option (State × RemintJob) :=
  let head := (getReg s (oRemHead d p)).toNat % remSize s d p
  let tail := (getReg s (oRemTail d p)).toNat
  let a := (getReg s (oRemBase d p)).toNat + 64 * head
  if !remServes s d p || !remReady (getRem s d p) clear || head = tail then none
  else
    let s0 := setReg s (oRemHead d p) (BitVec.ofNat 64 ((head + 1) % remSize s d p))
    let fail : State → Nat → Option (State × RemintJob) := fun s st =>
      if clear then none else some (s, ⟨[], a, 0, 0, 0, 0, 0, 0, some st, 0, []⟩)
    let place := inPartition s p a && (match placeOf a with
      | .vein c off => (regionAt s c off).any (·.kind == kindSealed)
      | .far _ _ => true
      | _ => false)
    if !place then fail s0 stPartitionFault
    else match readLine s0 (remintReq d p) a 64 9 with
      | (_, .wait) => none
      | (s1, .ok bs []) =>
        let j : RemintJob := ⟨bs.map (·.1), a, 0, 0, 0, 0, 0, 0, none, 0, []⟩
        if (j.op == 2) != clear then none
        else match remPlan s1 p j with
          | .ok s2 (.inl st) => some (takeFree s2, { j with status := some st })
          | .ok s2 (.inr h) => some (takeFree s2, { j with list := h })
          | _ => none
      | (s1, .ok _ _) => fail s1 stUncorrectable
      | (s1, e) => fail s1 (statusOf e)

/-- A descriptor joins those in progress on its ring. -/
def remBegin (s : State) (d p : Nat) (j : RemintJob) : State := setRem s d p (getRem s d p ++ [j])

/-- RESTRIPE: the engine takes a descriptor and checks the places it names; pages of those before it may still be in
flight (R266, R267). -/
def execRestripe (die : DieId) (p : PartId) (s : State) : Host.Outcome State Fault Refusal :=
  .next (match remTake s die.toNat p.toNat false with
    | none => s
    | some (s1, j) => remBegin s1 die.toNat p.toNat j)

/-- Entry i of the list whose header is at an address, and where its table lies. -/
def remEntry (s : State) (p h i : Nat) : KRes (Nat × Entry) :=
  (readHead s p none h).andThen fun s l => (readEntry s p none l.tbase i).andThen fun s e => .ok s (l.tbase, e)

/-- Clear mov on the entries of a range from the t-th on, until one cannot be read (R269). -/
def clearMarks (p h : Nat) : Nat → State → RemintJob → KRes RemintJob
  | 0, s, j => .ok s { j with next := j.count }
  | n + 1, s, j =>
    let i := j.first + j.next
    match remEntry s p h i with
    | .wait s => .wait s
    | .trap s t => .ok s { j with status := some (remStatus t), at_ := i % 65536 }
    | .reset s => .ok s { j with status := some stTargetReset, at_ := i % 65536 }
    | .ok s (tb, e) =>
      if e.mov then clearMarks p h n (writeEntry s tb i { e with mov := false }) { j with next := j.next + 1, moved := j.moved + 1 }
      else clearMarks p h n s { j with next := j.next + 1 }

/-- CLEAR: the engine takes a descriptor with op 0x2 and clears the marks of its range (R269). -/
def execClear (die : DieId) (p : PartId) (s : State) : Host.Outcome State Fault Refusal :=
  .next (match remTake s die.toNat p.toNat true with
    | none => s
    | some (s1, j) =>
      if j.status.isSome then remBegin s1 die.toNat p.toNat j
      else match clearMarks p.toNat j.list j.count s1 j with
        | .ok s2 j2 => remBegin s2 die.toNat p.toNat j2
        | _ => s)

/-! ### Page moves (R268) -/

/-- The descriptor of a ring whose next page may start: the first with pages left, behind none that halts. -/
def remStarter (l : List RemintJob) : Option Nat :=
  (l.takeWhile fun j => !j.status.any remHalts).findIdx? fun j => j.status.isNone && decide (j.next < j.count)

/-- Whether it is a ring's turn to start a page: a buffer is free, and rings alternate in the order of partitions (R265,
R266). -/
def remTurn (s : State) (d p : Nat) : Bool :=
  let wants : Nat → Bool := fun q => remServes s d q && (remStarter (getRem s d q)).isSome
  let from_ := look (fun _ => 0) s.remNext d
  decide (remInflight s d < 128) && ((List.range 16).map fun k => (from_ + k) % 16).find? wants == some p

/-- The oldest page that a ring has in flight, with the place of its descriptor. -/
def remFlying (l : List RemintJob) : Option (Nat × RemintPage) :=
  l.zipIdx.findSome? fun e => e.1.flight.head?.map fun g => (e.2, g)

/-- The source frame as a guest read: none while it waits; a status when it cannot be read. -/
def readFrame (s : State) (q : Requester) (c f : Nat) : Option (State × (List Byte ⊕ Nat)) :=
  match readRange s q (veinAddr c (f * 16384)) 16384 9 with
  | (_, _, _, some (_, .wait)) => none
  | (s1, _, _, some (_, e)) => some (s1, .inr (statusOf e))
  | (s1, bs, [], none) => some (s1, .inl (bs.map (·.1)))
  | (s1, _, _, none) => some (s1, .inr stUncorrectable)

/-- A frame written as a guest: none while it waits; a status when it cannot be written. -/
def writeFrameBytes (s : State) (q : Requester) (c f : Nat) (bs : List Byte) : Option (State × Option Nat) :=
  match writeRange s q (veinAddr c (f * 16384)) (clean bs) 9 with
  | (_, _, some (_, .wait)) => none
  | (s1, _, some (_, e)) => some (s1, some (statusOf e))
  | (s1, [], none) => some (s1, none)
  | (s1, _, none) => some (s1, some stUncorrectable)

/-- A page is in flight no longer. -/
def RemintJob.land (j : RemintJob) (g : RemintPage) : RemintJob :=
  { j with flight := j.flight.filter fun x => x.index != g.index }
/-- A descriptor ends with a status, of which one that halts stays (R270, R271). -/
def RemintJob.stop (j : RemintJob) (st i : Nat) : RemintJob :=
  if j.status.any remHalts then j else { j with status := some st, at_ := i % 65536 }

/-- The next page of a descriptor is not moved: it is counted as skipped. -/
def skipPage (s : State) (d p n : Nat) (j : RemintJob) : State :=
  setRemJob (bump s 0x08 2 1 (.die d)) d p n { j with next := j.next + 1, skipped := j.skipped + 1 }

/-- A page in flight is undone: mov is cleared where it can be, the new frame goes back to its pool, and the descriptor
ends with a status (R271). -/
def undoPage (s : State) (d p n : Nat) (j : RemintJob) (g : RemintPage) (st : Nat) : State :=
  let s1 := match remEntry s p j.list g.index with
    | .ok s (tb, e) => writeEntry s tb g.index { e with mov := false }
    | _ => s
  let s2 := match frameOf (getVein s1 g.home) g.dest with
    | .used _ => freeFrame (bump s1 0x07 4 1 (.core g.home)) g.home g.dest
    | _ => s1
  setRemJob s2 d p n ((j.land g).stop st g.index)

/-- Copy the buffer's page into the new frame and keep it in flight, the youngest of its descriptor. -/
def copyPage (s : State) (d p n : Nat) (j : RemintJob) (g : RemintPage) : Option State :=
  if !dieUp s (g.home / 1024) then some (undoPage s d p n j g stTargetReset)
  else match writeFrameBytes s (remintReq d p) g.home g.dest g.buf with
    | none => none
    | some (s1, some st) => some (undoPage s1 d p n j g st)
    | some (s1, none) => some (setRemJob s1 d p n { j.land g with flight := (j.land g).flight ++ [g] })

/-- Steps 1 to 3 of the next page of a descriptor: the mark, the new frame, the copy. None while something waits. -/
def startPage (s : State) (d p n : Nat) (j : RemintJob) : Option State :=
  let i := j.first + j.next
  let (home, stratum) := j.target j.next
  let stop : State → Nat → Option State := fun s st => some (setRemJob s d p n (j.stop st i))
  match remEntry s p j.list i with
  | .wait _ => none
  | .trap s1 t => stop s1 (remStatus t)
  | .reset s1 => stop s1 stTargetReset
  | .ok s1 (tb, e) =>
    if !e.v || e.esc || e.mov || (e.core = home && e.frame % 4 = stratum) then some (skipPage s1 d p n j)
    else if !dieUp s1 (home / 1024) || !dieUp s1 (e.core / 1024) then stop s1 stTargetReset
    else if freeFrames (getVein s1 home) ≤ regField s1 (oKres home) 0 13 then stop s1 stPoolFull
    else match chooseFrame (getVein s1 home) stratum with
      | none => stop s1 stPoolFull
      | some f =>
        let s2 := bump (modVein (writeEntry s1 tb i { e with mov := true }) home fun v => setFrame v f (.used false))
          0x07 3 1 (.core home)
        let g : RemintPage := ⟨i, e.core, e.frame, home, f, [], false⟩
        let j1 := { j with next := j.next + 1 }
        match readFrame s2 (remintReq d p) e.core e.frame with
        | none => none
        | some (s3, .inr st) => some (undoPage s3 d p n j1 g st)
        | some (s3, .inl bs) => copyPage s3 d p n j1 { g with buf := bs }

/-- A page that matched: the entry is swapped, the source frame released (step 5). -/
def swapPage (s : State) (d p n : Nat) (j : RemintJob) (g : RemintPage) : Option State :=
  match remEntry s p j.list g.index with
  | .wait _ => none
  | .trap s1 t => some (undoPage s1 d p n j g (remStatus t))
  | .reset s1 => some (undoPage s1 d p n j g stTargetReset)
  | .ok s1 (tb, e) =>
    let s2 := releaseFrame (writeEntry s1 tb g.index { e with core := g.home, frame := g.dest, mov := false }) g.core g.frame
    let s3 := { bump s2 0x08 1 1 (.die d) with
      remMoved := put (fun _ => 0) s2.remMoved d ((look (fun _ => 0) s2.remMoved d + 1) % 2 ^ 48) }
    some (setRemJob s3 d p n { j.land g with moved := j.moved + 1 })

/-- A page that did not match twice: mov is cleared, the new frame is withheld and named in a record (step 6). -/
def withholdPage (s : State) (d p n : Nat) (j : RemintJob) (g : RemintPage) : State :=
  let s1 := match remEntry s p j.list g.index with
    | .ok s (tb, e) => writeEntry s tb g.index { e with mov := false }
    | _ => s
  let s2 := modVein s1 g.home fun v => setFrame v g.dest .withheld
  let s3 := bump (bump s2 0x08 3 1 (.die d)) 0x08 4 1 (.die d)
  let s4 := ledger s3 0x0401 sevWarn (some p) (srcCore g.home) [g.dest]
  setRemJob s4 d p n { j.land g with failed := j.failed + 1, withheld := j.withheld + 1 }

/-- Steps 4 to 6: the new frame is read back and compared with the buffer. None while something waits. -/
def checkPage (s : State) (d p n : Nat) (j : RemintJob) (g : RemintPage) : Option State :=
  if !dieUp s (g.home / 1024) || !dieUp s (g.core / 1024) then some (undoPage s d p n j g stTargetReset)
  else match readFrame s (remintReq d p) g.home g.dest with
    | none => none
    | some (s1, .inr st) => some (undoPage s1 d p n j g st)
    | some (s1, .inl bs) =>
      if bs = g.buf then swapPage s1 d p n j g
      else if g.again then some (withholdPage s1 d p n j g)
      else copyPage s1 d p n j { g with again := true }

/-- The next page of a ring is started, and the turn passes on. -/
def remStart (s : State) (d p : Nat) : Option State :=
  (remStarter (getRem s d p)).bind fun n => ((getRem s d p)[n]?.bind fun j => startPage s d p n j).map fun t =>
    { t with remNext := put (fun _ => 0) t.remNext d ((p + 1) % 16) }

/-- The oldest page in flight of a ring is read back and compared. -/
def remCheck (s : State) (d p : Nat) : Option State :=
  (remFlying (getRem s d p)).bind fun (n, g) => (getRem s d p)[n]?.bind fun j => checkPage s d p n j g

/-- REMINT_PAGE_MOVE: the next page of a ring is marked and copied, or the oldest in flight is read back, compared and
swapped; where either may come, which does is a free value (R268, log entries 5 and 27). -/
def execRemintPageMove (die : DieId) (p : PartId) (s : State) : Host.Outcome State Fault Refusal :=
  .next (
    let d := die.toNat
    let k := p.toNat
    let flying := (remFlying (getRem s d k)).isSome
    if !dieUp s d || s.pwr.regsOff then s
    else if !remTurn s d k then (remCheck s d k).getD s
    else if !flying then (remStart s d k).getD s
    else if freeValue s 7 % 2 = 0 then (remStart (takeFree s) d k).getD s
    else (remCheck (takeFree s) d k).getD s)

/-! ### Descriptor ends and halts (R270, R271) -/

/-- hdr = 1: the header's group becomes the one the next span would have (R270). -/
def remWriteHeader (s : State) (p : Nat) (j : RemintJob) : KRes Unit :=
  let h := j.list
  (readHead s p none h).andThen fun s _ =>
    let k := j.cluster (j.count / j.span)
    let w := rdNat s (h + 24) 32
    let w1 := setFieldNat (setFieldNat w 0 4 (j.g - 1)) 4 4 (j.count % j.span % j.g)
    let w2 := (List.range j.g).foldl (fun w m => setFieldNat w (64 + 12 * m) 12 (k * 16 + m)) w1
    .ok (writeStruct s (h + 24) 32 w2) ()

/-- Bytes 48 to 63 of a completed descriptor (Table 8.4). -/
def RemintJob.completion (s : State) (j : RemintJob) (st : Nat) : List Byte :=
  natLe 4 (s.hallmark % 2 ^ 32) ++ natLe 2 j.at_ ++ natLe 2 j.withheld ++ natLe 1 st ++ natLe 1 1 ++ natLe 2 j.moved ++
    natLe 2 j.skipped ++ natLe 2 j.failed

/-- A halt of a ring: the pages in flight of the descriptors behind the halted one are undone and the ring stands at the
descriptor after it; run cleared, its halted bit, a record (R271). -/
def remHalt (s : State) (d p : Nat) : State :=
  let size := remSize s d p
  let later := getRem s d p
  let s1 := (later.zipIdx.flatMap fun e => e.1.flight.map fun g => (e.2, g)).foldl (fun s f =>
    match (getRem s d p)[f.1]? with
    | some j => undoPage s d p f.1 j f.2 stAborted
    | none => s) s
  let head := ((getReg s1 (oRemHead d p)).toNat + size - later.length % size) % size
  let s2 := setReg (setRem s1 d p []) (oRemHead d p) (BitVec.ofNat 64 head)
  ledger (setRegField (setRegField s2 (oRemRctl d p) 8 1 0) (oRemStat d) (16 + p) 1 1) 0x0402 sevError (some p) (srcDie d) []

/-- The oldest descriptor of a ring is completed with a status: its completion bytes and its signal (R270). -/
def remComplete (s : State) (d p : Nat) (j : RemintJob) (st : Nat) : State :=
  let s1 := (writeRange s (remintReq d p) (j.addr + 48) (clean (j.completion s st)) 9).1
  let sig := !j.desc.isEmpty && j.field 33 1 == 1 && j.sigOk s p
  let s2 := if sig then { s1 with signals := s1.signals ++ [⟨4096 + d, j.notify, j.event⟩] } else s1
  setRem s2 d p ((getRem s2 d p).drop 1)

/-- End the oldest descriptor of a ring with a status, which may halt the ring (R270, R271). -/
def remEnd (s : State) (d p : Nat) (j : RemintJob) (st : Nat) : State :=
  let s1 := remComplete s d p j st
  if remHalts st then remHalt s1 d p else s1

/-- Whether hdr asks for the header, and the descriptor found its list (log entry 168). -/
def RemintJob.header (j : RemintJob) : Bool := j.field 32 1 == 1 && j.list != 0

/-- REMINT_DESCRIPTOR_END: the oldest descriptor of a ring, once none of its pages is in flight (R270). A header that
cannot be written halts the ring where nothing has. -/
def execRemintDescriptorEnd (die : DieId) (p : PartId) (s : State) : Host.Outcome State Fault Refusal :=
  .next (
    let d := die.toNat
    let k := p.toNat
    match getRem s d k with
    | [] => s
    | j :: _ =>
      if !dieUp s d || !j.flight.isEmpty || (j.status.isNone && j.next < j.count) then s
      else
        let st := j.status.getD (if j.failed = 0 then stOk else stChecksum)
        match rangeGate s (remintReq d k) (j.addr + 48) 16 true with
        | some (_, .wait) => s
        | _ =>
          if !j.header then remEnd s d k j st
          else match remWriteHeader s k j with
            | .ok s1 _ => remEnd s1 d k j st
            | .wait _ => s
            | .trap s1 t => remEnd s1 d k j (if remHalts st then st else remStatus t)
            | .reset s1 => remEnd s1 d k j (if remHalts st then st else stTargetReset))

/-- Every page of a ring's descriptors that a test picks is undone, and its descriptor ends with a status (R271). -/
def undoPages (s : State) (d p st : Nat) (hit : RemintJob → RemintPage → Bool) : State :=
  let l := getRem s d p
  (l.zipIdx.flatMap fun e => (e.1.flight.filter (hit e.1)).map fun g => (e.2, g)).foldl (fun s f =>
    match (getRem s d p)[f.1]? with
    | some j => undoPage s d p f.1 j f.2 st
    | none => s) s

/-- Every descriptor of a ring in flight ends with a status that halts the ring, its pages undone (R271, R337). -/
def remStop (s : State) (d p st : Nat) : State :=
  let l := getRem s d p
  let s1 := undoPages s d p st fun _ _ => true
  if l.isEmpty then s1
  else remHalt (l.foldl (fun s _ => match (getRem s d p).head? with
    | some j => remComplete s d p j st
    | none => s) s1) d p

/-! ### Ring registers (Tables 8.6 and 8.9) -/

/-- A write of DEV_REM_TAILp: values at or above the ring's size are ignored. -/
def remTail (s : State) (d p : Nat) (w : Word) : State :=
  if w.toNat % 65536 < remSize s d p then setReg s (oRemTail d p) (masked 0xFFFF 0 w) else s

/-- REMINT_DOORBELL (R266). -/
def execRemintDoorbell (r : Req) (die : DieId) (p : PartId) (w : Word) (s : State) : Host.Outcome State Fault Refusal :=
  .next (regWrite s r (oRemTail die.toNat p.toNat) fun s => remTail s die.toNat p.toNat w)

/-- A write of DEV_REM_RCTLp. -/
def remRctl (s : State) (d p : Nat) (w : Word) : State := setReg s (oRemRctl d p) (masked 0x10F 0 w)

/-- REMINT_RING_RUN: the ring goes on at the descriptor after the halted one (R271). -/
def execRemintRingRun (r : Req) (die : DieId) (p : PartId) (w : Word) (s : State) : Host.Outcome State Fault Refusal :=
  .next (regWrite s r (oRemRctl die.toNat p.toNat) fun s => remRctl s die.toNat p.toNat w)

end Sys2Proof.Machine
end

