-- ==== Sys2Proof/Machine/Seam.lean ====
section
/-! DEFINITION. The seams (R300 to R309): plain-engine records, replays and retrains, and what a lost bundle does to the
roles and the streams. -/

namespace Sys2Proof.Machine

/-! ### Plain-engine records (R304, R307) -/

/-- The requester of a record, which has arrived at die d: agent kind and number of bytes 4 to 5, with the kinds of Table 5.14
(log entry 29). -/
def recordReq (r : PlainRec) (d : Nat) : Requester :=
  ⟨r.agent.toNat / 4096 % 4, r.agent.toNat % 4096, r.part.toNat, d, false⟩

/-- Execute a record: status and data of its response; none while it waits. A signal record brings the oldest signal of
its sender for a core of the receiving die; a controller request acts with the instruction that sends it. -/
def runRecord (s : State) (d : Nat) (r : PlainRec) : Option (State × Nat × List Byte) :=
  let q := recordReq r d
  let who := agentRow q.kind (r.kind.toNat == 2)
  match r.kind.toNat with
  | 1 =>
    match readRange s q r.addr.toNat r.len who with
    | (_, _, _, some (_, .wait)) => none
    | (s1, _, _, some (_, e)) => some (s1, statusOf e, [])
    | (s1, bs, [], none) => some (s1, stOk, bs.map (·.1))
    | (s1, _, _, none) => some (s1, stUncorrectable, [])
  | 2 =>
    match writeRange s q r.addr.toNat (clean r.data) who with
    | (_, _, some (_, .wait)) => none
    | (s1, _, some (_, e)) => some (s1, statusOf e, [])
    | (s1, [], none) => some (s1, stOk, [])
    | (s1, _, none) => some (s1, stUncorrectable, [])
  | 3 =>
    match s.signals.find? fun g => g.source == q.source && g.target / 1024 == d with
    | none => none
    | some g =>
      let s1 := { s with signals := s.signals.erase g }
      some (if takesEvents s g.target then signalEvent s1 g.target g.event else s1, stOk, [])
  | _ => some (s, stOk, [])

/-- Whether a signal record is on its way to another die: its sender has no signal out for a core of this one. -/
def passesOn (s : State) (r : PlainRec) (d : Nat) : Bool :=
  let mine := s.signals.filter (·.source == r.agent.toNat % 4096)
  !mine.isEmpty && mine.all fun g => g.target / 1024 != d

/-- PLAIN_RECORD: a record arrives at the receiving plain engine: executed once, its response kept among the last 1,024 and
resent when its number comes again (R307); a record for another die is passed on (R305). -/
def execPlainRecord (i : SeamId) (up : Bool) (r : PlainRec) (s : State) : Host.Outcome State Fault Refusal :=
  .next (
    let d := seamEnd i.toNat up
    let n := 16 + r.data.length
    let counted : State → State := fun s => bump s 0x09 3 n (.seamDir i.toNat up)
    let x := getSeamDir s i.toNat up
    let retraining := (getSeam s i.toNat).retraining.contains (plainEngine s i.toNat)
    if !seamUp s i.toNat || !dieUp s d || retraining || (getSeam s i.toNat).movePlain then s
    else if ((r.kind.toNat = 1 || r.kind.toNat = 2) && dieOfAddr r.addr.toNat ≠ d) || (r.kind.toNat = 3 && passesOn s r d) then
      bump (counted s) 0x09 4 1 (.die d)
    else if r.kind.toNat = 8 || r.kind.toNat = 9 then counted s
    else match x.done.find? (·.1 == r.seq.toNat) with
      | some (_, st, bs) => emit (counted s) (.seamResponse i.toNat up r.seq.toNat st bs)
      | none =>
        match runRecord s d r with
        | none => s
        | some (s1, st, bs) =>
          let y := getSeamDir s1 i.toNat up
          let s2 := setSeamDir s1 i.toNat up { y with done := ((r.seq.toNat, (st, bs)) :: y.done).take 1024 }
          emit (counted s2) (.seamResponse i.toNat up r.seq.toNat st bs))

/-! ### Streams that end (Table 9.13) -/

/-- A stream entry that a fault ends: what it has queued is lost, its fault is kept for the next TCLOSE (R316). -/
def Stream.ended (t : Stream) (sub : Nat) : Stream := { t with closed := true, queue := [], faults := t.faults ++ [sub] }

/-- End every open stream that a test picks, at both ends. -/
def endStreams (s : State) (hit : Stream → Bool) (sub : Nat) : State :=
  (s.cores.filter fun e => !e.2.streams.isEmpty).foldl (fun s e =>
    modCore s e.1 fun x => { x with streams := x.streams.map fun t =>
      if (t.2.kind == .send || t.2.kind == .recv) && !t.2.closed && hit t.2 then (t.1, t.2.ended sub) else t }) s

/-- Whether an engine of a seam carries a stream. -/
def carries (s : State) (i e : Nat) : Bool :=
  s.cores.any fun c => c.2.streams.any fun t =>
    !t.2.closed && (t.2.kind == .send || t.2.kind == .opening) && t.2.engines.contains (i, e)

/-! ### Bundles that fail (R308, R309) -/

/-- The source of a record about a seam. -/
def srcSeam (i : Nat) : Nat := sourceOf 5 i

/-- A seam with fewer than two working bundles fails (R309, Table 9.10). -/
def seamFails (s : State) (i : Nat) : State :=
  let s1 := setRegField s (oSeamStat i) 0 2 3
  let s2 := endStreams s1 (fun t => t.engines.any (·.1 == i)) 2
  let s3 := setSeam (setSeamDir (setSeamDir s2 i true SeamDir.idle) i false SeamDir.idle) i SeamSt.idle
  ledger s3 0x0502 sevError none (srcSeam i) []

/-- A bundle is disabled after ready, with the effects of its engine's role (Table 9.10). -/
def bundleFails (s : State) (i b : Nat) : State :=
  if !bundleWorks s i b then s
  else
    let isPlain := plainEngine s i == b
    let isStream := (streamEngines s i).contains b
    let s1 := setRegField (setRegField s (oSeamStat i) (48 + b) 1 1) (oSeamStat i) 0 2 1
    let s2 := ledger s1 0x0502 sevError none (srcSeam i) []
    let x := getSeam s2 i
    let s3 := setSeam s2 i { x with
      retraining := x.retraining.filter (· != b)
      replays := clearIn x.replays b 1 }
    if (workingBundles s3 i).length < 2 then seamFails s3 i
    else if isPlain then setSeam s3 i { getSeam s3 i with movePlain := true }
    else if isStream then
      endStreams (setRegField s3 (oSeamStat i) (16 + b) 1 0) (fun t => t.engines.contains (i, b)) 1
    else
      let n := (bulkEngines s3 i).length
      let s4 := setRegField s3 (oSeamStat i) 12 4 n
      if n = 0 then setSeam s4 i { getSeam s4 i with moveBulk := true } else s4

/-- Take a stream engine out of the stream role, its stream ending with sub 0x1. -/
def takeEngine (s : State) (i e : Nat) : State :=
  endStreams (setRegField s (oSeamStat i) (16 + e) 1 0) (fun t => t.engines.contains (i, e)) 1

/-- The plain role moves: to the lowest stream engine without a stream, else the lowest stream engine, else the lowest
bulk engine (Table 9.10). -/
def movePlainRole (s : State) (i : Nat) : State :=
  let es := streamEngines s i
  let done : State → State := fun s => setSeam s i { getSeam s i with movePlain := false }
  match (es.find? (!carries s i ·)).or es.head? with
  | some e => done (setRegField (takeEngine s i e) (oSeamStat i) 8 4 e)
  | none =>
    match (bulkEngines s i).head? with
    | some e =>
      let s1 := setRegField s (oSeamStat i) 8 4 e
      done (setRegField s1 (oSeamStat i) 12 4 (bulkEngines s1 i).length)
    | none => s

/-- The bulk role moves to the highest stream engine (Table 9.10). -/
def moveBulkRole (s : State) (i : Nat) : State :=
  match (streamEngines s i).getLast? with
  | some e =>
    let s1 := setRegField (takeEngine s i e) (oSeamStat i) 12 4 1
    setSeam s1 i { getSeam s1 i with moveBulk := false }
  | none => s

/-- A CRC of a bundle fails: the sender replays, and with more than 16 replays in a millisecond the bundle retrains
(R308). -/
def execBundleCrcFailure (i : SeamId) (b : BundleId) (s : State) : Host.Outcome State Fault Refusal :=
  .next (
    let x := getSeam s i.toNat
    if !bundleWorks s i.toNat b.toNat || x.retraining.contains b.toNat then s
    else
      let s1 := bump (addRegField s (oSeamLink i.toNat) 0 32 1) 0x09 6 1 (.seam i.toNat)
      let ts := (look (fun _ => []) x.replays b.toNat).filter (fun t => decide (elapsed s < t + 1000000)) ++ [elapsed s]
      if 16 < ts.length then
        setSeam s1 i.toNat { x with
          retraining := x.retraining ++ [b.toNat], retrainAt := put (fun _ => 0) x.retrainAt b.toNat (elapsed s), replays := put (fun _ => []) x.replays b.toNat [] }
      else setSeam s1 i.toNat { x with replays := put (fun _ => []) x.replays b.toNat ts })

end Sys2Proof.Machine
end

