-- ==== Sys2Proof/Machine/Streams.lean ====
section
/-! DEFINITION. Streams (R311 to R317) and transfers (R318, R319). -/

namespace Sys2Proof.Machine

/-- The word of a row of major opcode 0x24. -/
def encStream (d ga gb rd e func : Nat) : Nat :=
  0x24 * 2 ^ 26 + d * 2 ^ 22 + ga * 2 ^ 17 + gb * 2 ^ 12 + rd * 2 ^ 7 + e * 2 ^ 4 + func

/-! ### Stream descriptors (Table 9.11) -/

/-- The fields of a stream descriptor. -/
structure StreamDesc where
  kind    : Nat
  peer    : Nat
  pstream : Nat
  way     : Bool
  engine  : Nat
  rsize   : Nat
  rbase   : Nat
  rsv     : Bool

/-- Read a stream descriptor. -/
def streamDesc (d : Nat) : StreamDesc :=
  ⟨fieldNat d 252 4, fieldNat d 236 12, fieldNat d 233 3, bitNat d 232, fieldNat d 228 4,
    2 ^ (min 6 (fieldNat d 225 3) + 12), fieldNat d 144 48,
    fieldNat d 248 4 != 0 || fieldNat d 192 33 != 0 || fieldNat d 0 144 != 0⟩

/-- Whether a peer may not take part: on the issuer's die, in an unpopulated cluster, outside the partition (R313). -/
def badPeer (s : State) (c peer : Nat) : Bool :=
  peer / 1024 == c / 1024 || !populated s peer || partOf s peer != partOf s c

/-- A stream engine of each seam of a route: the named one, or the lowest free one (R311); none when a seam has none. A
sender holds its engines until it closes (R316). -/
def chooseEngines (s : State) (named : Nat) : List (Nat × Bool) → Option (List (Nat × Nat))
  | [] => some []
  | l :: r =>
    let free := (streamEngines s l.1).filter fun e =>
      !(s.cores.any fun c => c.2.streams.any fun t =>
        (t.2.kind == .send || t.2.kind == .opening) && t.2.engines.contains (l.1, e)) && (named == 0 || e == named)
    match free.head?, chooseEngines s named r with
    | some e, some es => some ((l.1, e) :: es)
    | _, _ => none

/-- Commit TOPEN with a status in rd. -/
def topenDone (s : State) (c rd st : Nat) : Eff := .go (modCore s c fun x => setGpr x rd (BitVec.ofNat 64 st))

/-- TOPEN send: the open record goes out, and the core waits for the answer (R313). -/
def execTopenSend (c : CoreId) (d : DReg) (rd : GReg) (e : BitVec 3) (s : State) : Host.Outcome State Fault Refusal :=
  .next (issue s c.toNat ⟨4, [rd.toNat], true⟩ (raSkip 4) fun s =>
    let n := c.toNat
    let x := getCore s n
    let t := streamDesc (dreg x d.toNat).toNat
    if t.kind ≠ 6 || t.rsv then illegal s (encStream d.toNat 0 0 rd.toNat e.toNat 0)
    else if (getStream x e.toNat).kind ≠ .free then topenDone s n rd.toNat stPoolFull
    else if badPeer s n t.peer then topenDone s n rd.toNat stPartitionFault
    else match routeOf s (n / 1024) (t.peer / 1024) t.way with
      | none => topenDone s n rd.toNat stLinkDown
      | some p =>
        match chooseEngines s t.engine (pathLegs p) with
        | none => topenDone s n rd.toNat stPoolFull
        | some es =>
          let st := { Stream.idle with
            kind := .opening, peer := t.peer, pstream := t.pstream, way := t.way, engines := es, since := elapsed s }
          .stall (modCore s n fun x => { setStream x e.toNat st with
            wait := some (.topen rd.toNat e.toNat), waitSince := elapsed s }))

/-- Whether a receiving entry answers an open record of entry e of core c: it is open to receive from that sender and not
yet joined to one. -/
def acceptsFrom (t : Stream) (c e : Nat) : Bool :=
  t.kind == .recv && t.peer == c && t.pstream == e && t.engines.isEmpty && !t.closed

/-- Join a receiving entry to the sender whose record it answers. -/
def joinStream (s : State) (c e : Nat) : State :=
  let t := getStream (getCore s c) e
  let r := getStream (getCore s t.peer) t.pstream
  let s1 := modCore s t.peer fun x => setStream x t.pstream { r with engines := t.engines }
  modCore s1 c fun x => setStream x e { t with setup := 2 }

/-- TOPEN receive (R313): a record held for this entry is answered. -/
def execTopenReceive (c : CoreId) (d : DReg) (rd : GReg) (e : BitVec 3) (s : State) : Host.Outcome State Fault Refusal :=
  .next (issue s c.toNat ⟨4, [rd.toNat], true⟩ (raSkip 4) fun s =>
    let n := c.toNat
    let x := getCore s n
    let t := streamDesc (dreg x d.toNat).toNat
    if t.kind ≠ 6 || t.rsv then illegal s (encStream d.toNat 0 0 rd.toNat e.toNat 1)
    else if t.rbase % t.rsize ≠ 0 || !lsSide (n / 16) t.rbase t.rsize then .at s 4 0 t.rbase
    else if (getStream x e.toNat).kind ≠ .free then topenDone s n rd.toNat stPoolFull
    else if badPeer s n t.peer then topenDone s n rd.toNat stPartitionFault
    else
      let st := { Stream.idle with
        kind := .recv, peer := t.peer, pstream := t.pstream, way := t.way, base := t.rbase, size := t.rsize }
      let s1 := modCore s n fun x => setStream x e.toNat st
      let o := getStream (getCore s1 t.peer) t.pstream
      let s2 := if o.kind = .opening && o.setup = 1 && o.peer = n && o.pstream = e.toNat then joinStream s1 t.peer t.pstream
        else s1
      topenDone s2 n rd.toNat stOk)

/-- STREAM_OPEN_RECORD: the open record of entry e of core c reaches the receiving die: accepted, or held (R313). -/
def execStreamOpenRecord (c : CoreId) (e : BitVec 3) (s : State) : Host.Outcome State Fault Refusal :=
  .next (
    let t := getStream (getCore s c.toNat) e.toNat
    if t.kind ≠ .opening || t.setup ≠ 0 then s
    else if acceptsFrom (getStream (getCore s t.peer) t.pstream) c.toNat e.toNat then joinStream s c.toNat e.toNat
    else modCore s c.toNat fun x => setStream x e.toNat { t with setup := 1, since := elapsed s })

/-- A TOPEN send that waits ends with a status. -/
def topenAnswer (s : State) (c e st : Nat) (t : Stream) : State :=
  match (getCore s c).wait with
  | some (.topen rd e2) =>
    if e2 ≠ e then s
    else
      let pc := (getCore s c).pc
      settle (commit (modCore s c fun x =>
        { setGpr (setStream x e t) rd (BitVec.ofNat 64 st) with wait := none }) c pc (pc + 4)) c
  | _ => s

/-- STREAM_SETUP_ANSWER: the accept reaches the sender, and TOPEN send completes (R313). -/
def execStreamSetupAnswer (c : CoreId) (e : BitVec 3) (s : State) : Host.Outcome State Fault Refusal :=
  .next (
    let t := getStream (getCore s c.toNat) e.toNat
    if t.kind ≠ .opening || t.setup ≠ 2 then s
    else
      let size := (getStream (getCore s t.peer) t.pstream).size
      topenAnswer s c.toNat e.toNat stOk { t with kind := .send, setup := 0, credit := size, size := size })

/-- STREAM_OPEN_TIMEOUT: a held record has waited 100 µs, and TOPEN send returns NOT_READY (R313). -/
def execStreamOpenTimeout (c : CoreId) (e : BitVec 3) (s : State) : Host.Outcome State Fault Refusal :=
  .next (
    let t := getStream (getCore s c.toNat) e.toNat
    if t.kind ≠ .opening || t.setup ≠ 1 then s
    else topenAnswer (advanceTo s (t.since + 100000)) c.toNat e.toNat stNotReady Stream.idle)

/-! ### Data (R314, R315) -/

/-- TSEND (R314). An entry that a fault has ended takes the bytes and loses them. -/
def execTsend (c : CoreId) (ga gb : GReg) (e : BitVec 3) (s : State) : Host.Outcome State Fault Refusal :=
  .next (issue s c.toNat ⟨4, [ga.toNat, gb.toNat], true⟩ (raSkip 4) fun s =>
    let n := c.toNat
    let x := getCore s n
    let a := (gpr x ga.toNat).toNat
    let b := (gpr x gb.toNat).toNat
    let t := getStream x e.toNat
    if b % 32 ≠ 0 || b < 32 || 65536 < b then .at s 4 0 b
    else if a % 32 ≠ 0 || !lsSide (n / 16) a b then .at s 4 0 a
    else if t.kind ≠ .send then .at s 8 5 e.toNat
    else if 8 ≤ t.queue.length || !x.buf.isEmpty then .stall s
    else match readRange s (coreReq s n) a b 8 with
      | (s1, _, _, some (_, .wait)) => .stall s1
      | (s1, _, _, some (w, r)) => .trap s1 (accessTrap r w) false false
      | (s1, bs, lost, none) =>
        .go (modCore s1 n fun x => setStream x e.toNat { t with
          queue := if t.closed then [] else t.queue ++ [bs]
          faults := if lost.isEmpty then t.faults else t.faults ++ [4] }))

/-- The sending entry that an event names by either end. -/
def senderEnd (s : State) (c e : Nat) : Nat × Nat :=
  let t := getStream (getCore s c) e
  if t.kind = .recv then (t.peer, t.pstream) else (c, e)

/-- The receiving entry that a sending entry is joined to, while it is. -/
def receiverOf (s : State) (c e : Nat) : Option Stream :=
  let t := getStream (getCore s c) e
  let r := getStream (getCore s t.peer) t.pstream
  if t.kind = .send && r.kind = .recv && r.peer = c && r.pstream = e && !r.engines.isEmpty then some r else none

/-- Bytes into a ring from a place on, wrapping at its end. -/
def ringPut (s : State) (base size at_ : Nat) (bs : List (Byte × Bool)) : State :=
  let n := min bs.length (size - at_)
  let s1 := (writeMixed s (base + at_) (bs.take n) 3 none).1
  if n < bs.length then (writeMixed s1 base (bs.drop n) 3 none).1 else s1

/-- STREAM_DATA_ARRIVAL: bytes of the oldest queued TSEND, as far as the credit goes, become visible in the ring; the
write pointer is published and event 51 set (R314). A receiver that has closed discards them (R316). -/
def execStreamDataArrival (c : CoreId) (e : BitVec 3) (s : State) : Host.Outcome State Fault Refusal :=
  .next (
    let (k, i) := senderEnd s c.toNat e.toNat
    let t := getStream (getCore s k) i
    match t.queue with
    | [] => s
    | bs :: rest =>
      match receiverOf s k i with
      | none => modCore s k fun x => setStream x i { t with queue := rest }
      | some r =>
        let n := min bs.length t.credit
        let legs := t.engines.map (·.1)
        let stuck := legs.any fun g => t.engines.any fun x => x.1 == g && (getSeam s g).retraining.contains x.2
        if n = 0 || stuck || (getCl s (r.base / 0x800000)).power ≠ .on || (getCl s (t.peer / 16)).power ≠ .on then s
        else
          let s1 := ringPut s r.base r.size r.wptr (bs.take n)
          let s2 := match routeOf s1 (k / 1024) (t.peer / 1024) t.way with
            | some p => countPath s1 p n n
            | none => s1
          let s3 := modCore s2 k fun x => setStream x i { t with
            credit := t.credit - n
            queue := if n < bs.length then bs.drop n :: rest else rest }
          let s4 := modCore s3 t.peer fun x => setStream x t.pstream
            { r with wptr := (r.wptr + n) % r.size, unread := r.unread + n }
          signalEvent s4 t.peer 51)

/-- TRECV query: an acquire point (R315). -/
def execTrecvQuery (c : CoreId) (rd : GReg) (e : BitVec 3) (s : State) : Host.Outcome State Fault Refusal :=
  .next (issue s c.toNat ⟨4, [rd.toNat], true⟩ (raSkip 4) fun s =>
    let t := getStream (getCore s c.toNat) e.toNat
    if t.kind ≠ .recv then .at s 4 0 e.toNat
    else .go (modCore s c.toNat fun x => setGpr (acquire x) rd.toNat (BitVec.ofNat 64 (t.unread + t.rptr * 2 ^ 32))))

/-- TRECV consume (R315). -/
def execTrecvConsume (c : CoreId) (gb : GReg) (e : BitVec 3) (s : State) : Host.Outcome State Fault Refusal :=
  .next (issue s c.toNat ⟨4, [gb.toNat], true⟩ (raSkip 4) fun s =>
    let x := getCore s c.toNat
    let t := getStream x e.toNat
    let b := (gpr x gb.toNat).toNat
    if t.kind ≠ .recv then .at s 4 0 e.toNat
    else if b % 32 ≠ 0 || t.unread < b then .at s 4 0 b
    else .go (setCore s c.toNat (setStream x e.toNat { t with rptr := (t.rptr + b) % t.size, unread := t.unread - b })))

/-- STREAM_CREDIT: the credit for what the receiver has consumed reaches the sender, in an 8-byte word on the reverse
direction (R315). -/
def execStreamCredit (c : CoreId) (e : BitVec 3) (s : State) : Host.Outcome State Fault Refusal :=
  .next (
    let (k, i) := senderEnd s c.toNat e.toNat
    match receiverOf s k i with
    | none => s
    | some r =>
      let t := getStream (getCore s k) i
      let s1 := match routeOf s (t.peer / 1024) (k / 1024) t.way with
        | some p => countPath s p 8 8
        | none => s
      modCore s1 k fun x => setStream x i { getStream x i with credit := r.size - r.unread })

/-! ### TCLOSE (R316) -/

/-- The sync of TCLOSE: a sender waits for its queue; the oldest pending fault is reported. -/
def tcloseSync (s : State) (c e : Nat) (k : State → Eff) : Eff :=
  let t := getStream (getCore s c) e
  if t.kind = .free then .go s
  else if t.kind = .send && !t.queue.isEmpty then .stall s
  else match t.faults with
    | [] => k s
    | f :: r => .trap (modCore s c fun x => setStream x e { t with faults := [] }) ⟨8, f, e⟩ true (!r.isEmpty)

/-- TCLOSE sync. -/
def execTcloseSync (c : CoreId) (e : BitVec 3) (s : State) : Host.Outcome State Fault Refusal :=
  .next (issue s c.toNat ⟨4, [], true⟩ (raSkip 4) fun s => tcloseSync s c.toNat e.toNat .go)

/-- TCLOSE close: the entry is free, and the peer has yet to learn of it (STREAM_CLOSE_RECORD). -/
def execTcloseClose (c : CoreId) (e : BitVec 3) (s : State) : Host.Outcome State Fault Refusal :=
  .next (issue s c.toNat ⟨4, [], true⟩ (raSkip 4) fun s => tcloseSync s c.toNat e.toNat fun s =>
    .go (modCore s c.toNat fun x => setStream x e.toNat Stream.idle))

/-- STREAM_CLOSE_RECORD: entry e of core c learns that its peer has closed, was reset or was stopped (R316, R317). -/
def execStreamCloseRecord (c : CoreId) (e : BitVec 3) (s : State) : Host.Outcome State Fault Refusal :=
  .next (
    let t := getStream (getCore s c.toNat) e.toNat
    let p := getStream (getCore s t.peer) t.pstream
    let joined := p.peer == c.toNat && p.pstream == e.toNat && !p.engines.isEmpty &&
      (if t.kind == .send then p.kind == .recv else p.kind == .send || p.kind == .opening)
    if (t.kind ≠ .send && t.kind ≠ .recv) || t.engines.isEmpty || t.closed || joined then s
    else modCore s c.toNat fun x => setStream x e.toNat (t.ended 3))

/-! ### Transfers (R318, R319) -/

/-- The die of a cluster's transfer engine, and whether routes lead from it to both sides of a piece. -/
def xferRoute (s : State) (k src dst : Nat) : Option (List Nat × List Nat) :=
  match routeOf s (dieOfAddr src) (k / 64) false, routeOf s (k / 64) (dieOfAddr dst) false with
  | some a, some b => some (a, b)
  | _, _ => none

/-- The bytes of a transfer. -/
def Transfer.total (t : Transfer) : Nat := t.row * t.rows
/-- The next piece of a transfer: source, destination and length, at most 512 bytes of one row (R304). -/
def Transfer.piece (t : Transfer) : Nat × Nat × Nat :=
  let r := t.done / t.row
  let o := t.done % t.row
  (t.src + r * t.sstr + o, t.dst + r * t.dstr + o, min 512 (t.row - o))

/-- One piece of a transfer of cluster k: none while it waits. Lost units reach the destination poisoned and end the
transfer with UNCORRECTABLE; any other failure leaves the piece unwritten (R319, R430). -/
def xferPiece (s : State) (k : Nat) (t : Transfer) : Option (State × Transfer) :=
  let (src, dst, n) := t.piece
  let p := partNum s t.core
  let q : Requester := ⟨1, k, p, k / 64, true⟩
  let stop : State → Nat → Option (State × Transfer) := fun s st => some (s, { t with fail := some st })
  let inside := (piecesOf src n).all (fun a => inPartition s p a.1) && (piecesOf dst n).all fun a => inPartition s p a.1
  if !inside then stop s stPartitionFault
  else match xferRoute s k src dst with
    | none => stop s stLinkDown
    | some _ =>
      match rangeGate s q dst n true with
      | some (_, .wait) => none
      | some (w, .refused) => stop (noteRefusal s q w true) stPartitionFault
      | some (_, e) => stop s (statusOf e)
      | none =>
        match readRange s q src n 8 with
        | (_, _, _, some (_, .wait)) => none
        | (s1, _, _, some (_, e)) => stop s1 (statusOf e)
        | (s1, bs, lost, none) =>
          match writeRange s1 q dst bs 8 with
          | (_, _, some (_, .wait)) => none
          | (s2, _, some (_, e)) => stop s2 (statusOf e)
          | (s2, bad, none) =>
            let s3 := bump s2 0x09 16 n (.cluster k)
            if lost.isEmpty && bad.isEmpty then some (s3, { t with done := t.done + n })
            else stop s3 stUncorrectable

/-- The pieces of a transfer that remain, as far as they go: what is left of it while one waits. -/
def xferPieces (k : Nat) : Nat → State → Transfer → State × Transfer × Bool
  | 0, s, t => (s, t, true)
  | n + 1, s, t =>
    if t.fail.isSome || t.total ≤ t.done then (s, t, true)
    else match xferPiece s k t with
      | none => (s, t, false)
      | some (s1, t1) => xferPieces k n s1 t1

/-- The word of XFER. -/
def encXfer (d rd : Nat) : Nat := 0x25 * 2 ^ 26 + d * 2 ^ 22 + rd * 2 ^ 17

/-- XFER: queued to the cluster's transfer engine (R318). -/
def execXfer (c : CoreId) (d : DReg) (rd : GReg) (s : State) : Host.Outcome State Fault Refusal :=
  .next (issue s c.toNat ⟨4, [rd.toNat], true⟩ (raSkip 4) fun s =>
    let n := c.toNat
    let x := getCore s n
    let w := (dreg x d.toNat).toNat
    let src := fieldNat w 192 48
    let dst := fieldNat w 144 48
    let row := fieldNat w 112 32
    let sstr := fieldNat w 64 32
    let dstr := fieldNat w 32 32
    let k := getCl s (n / 16)
    if fieldNat w 252 4 ≠ 7 || fieldNat w 240 12 ≠ 0 || w % 2 ^ 32 ≠ 0 then illegal s (encXfer d.toNat rd.toNat)
    else if row = 0 || 2 ^ 31 < row || row % 32 ≠ 0 then .at s 4 0 row
    else match [src, dst, sstr, dstr].find? (· % 32 ≠ 0) with
      | some a => .at s 4 0 a
      | none =>
        if 4 ≤ (k.xfers.filter (·.core == n)).length || 32 ≤ k.xfers.length || !x.buf.isEmpty then .stall s
        else .go (modCl s (n / 16) fun k => { k with
          xfers := k.xfers ++ [⟨n, rd.toNat, src, dst, row, fieldNat w 96 16 + 1, sstr, dstr, false, 0, none⟩] }))

/-- The transfer at the head of an engine's queue ends: its status in rd and event 52, or a discarded reply (R319). -/
def xferEnd (s : State) (k : Nat) (t : Transfer) (st : Nat) : State :=
  let s1 := modCl s k fun x => { x with xfers := x.xfers.drop 1 }
  if t.drop then settleJobs (bump (modCore s1 t.core fun x => { x with discarded := x.discarded + 1 }) 0x05 16 1 (.core t.core))
  else
    let s2 := signalEvent (modCore s1 t.core fun x => lateGpr x t.rd (BitVec.ofNat 64 st)) t.core 52
    settle s2 t.core

/-- XFER_COMPLETE: the transfer engine of a cluster finishes the transfer at its head; a paused engine starts no piece
(R319, R386). -/
def execXferComplete (k : ClusterId) (s : State) : Host.Outcome State Fault Refusal :=
  .next (
    let x := getCl s k.toNat
    match x.xfers with
    | [] => s
    | t :: r =>
      if x.paused || s.pwr.regsOff then s
      else match xferPieces k.toNat (t.total / 32 + 1) s t with
        | (s1, t1, true) => xferEnd s1 k.toNat t1 (t1.fail.getD stOk)
        | (s1, t1, false) => modCl s1 k.toNat fun x => { x with xfers := t1 :: r })

end Sys2Proof.Machine
end

