-- ==== Sys2Proof/Machine/Bulk.lean ====
section
/-! DEFINITION. The pieces that the bulk engines of a seam carry, in round-robin order of the die's agents (R304). -/

namespace Sys2Proof.Machine

/-- An agent of a die that sends bulk traffic over a seam (R304). -/
inductive BulkAgent where
  | remint
  | transfers (k : Nat)
  | moves (k : Nat)
  | hostDma
  deriving DecidableEq, Repr

/-- Agent n of a die in round-robin order: the remint engine, each cluster's transfer engine, each cluster's moves, host
DMA (R304; log entry 171). -/
def bulkAgent (d n : Nat) : BulkAgent :=
  if n = 0 then .remint
  else if n ≤ 64 then .transfers (d * 64 + n - 1)
  else if n ≤ 128 then .moves (d * 64 + n - 65)
  else .hostDma

/-- Whether bytes from one die to another, worked on at a third, cross a leg: from the source to the agent's die, and on to
the destination. -/
def legUsed (s : State) (leg : Nat × Bool) (src at_ dst : Nat) : Bool :=
  let via : Nat → Nat → Bool := fun a b => (routeOf s a b false).any fun p => (pathLegs p).contains leg
  via src at_ || via at_ dst

/-- Whether the next piece of a transfer engine crosses a leg. -/
def xferCrosses (s : State) (leg : Nat × Bool) (k : Nat) : Bool :=
  match (getCl s k).xfers with
  | [] => false
  | t :: _ =>
    let (src, dst, _) := t.piece
    t.fail.isNone && decide (t.done < t.total) && !(getCl s k).paused && legUsed s leg (dieOfAddr src) (k / 64) (dieOfAddr dst)

/-- Whether a move of a core crosses a leg: its data goes to the core's die, or from it (R168). -/
def moveCrosses (s : State) (leg : Nat × Bool) (c : Nat) (m : Move) : Bool :=
  if m.load then legUsed s leg (dieOfAddr m.ga) (c / 1024) (c / 1024) else legUsed s leg (c / 1024) (c / 1024) (dieOfAddr m.ga)

/-- The oldest moves of a cluster's cores that cross a leg, by core. -/
def crossingMoves (s : State) (leg : Nat × Bool) (k : Nat) : List (Nat × Move) :=
  (coresOf k).filterMap fun c => match (getCore s c).moves with
    | m :: _ => if moveCrosses s leg c m then some (c, m) else none
    | [] => none

/-- The die of the home that the next page of a ring goes to, and of the core it comes from, by what the ring does next. -/
def remCrosses (s : State) (leg : Nat × Bool) (d p : Nat) : Bool :=
  match remFlying (getRem s d p) with
  | some (_, g) => legUsed s leg (g.core / 1024) d (g.home / 1024)
  | none => match remStarter (getRem s d p) with
    | some n => ((getRem s d p)[n]?).any fun j => legUsed s leg ((j.target j.next).1 / 1024) d ((j.target j.next).1 / 1024)
    | none => false

/-- Whether a ring's copy to the host has bytes that cross a leg: the host interface lies on die 0 (log entry 170). A copy
to the device crosses as the bytes it asked for arrive (HOST_READ_COMPLETION). -/
def copyCrosses (s : State) (leg : Nat × Bool) (i : Nat) : Bool :=
  match (getRing s (i / 4) (i % 4)).copy with
  | some c => c.status.isNone && c.toHost && legUsed s leg (dieOfAddr c.dev) 0 0
  | none => false

/-- The next piece of an agent over a leg; none when it has none, or it waits. -/
def bulkStep (s : State) (leg : Nat × Bool) (d : Nat) : BulkAgent → Option State
  | .remint => ((List.range 16).find? (remCrosses s leg d)).bind fun p =>
    if (remFlying (getRem s d p)).isSome then remCheck s d p else if remTurn s d p then remStart s d p else none
  | .transfers k =>
    if !xferCrosses s leg k then none
    else match (getCl s k).xfers with
      | [] => none
      | t :: r => (xferPiece s k t).map fun (s1, t1) => modCl s1 k fun y => { y with xfers := t1 :: r }
  | .moves k => (crossingMoves s leg k).head?.bind fun (c, m) =>
    match (if m.load then loadSeg s (moveReq s c) m else storeSeg s (moveReq s c) m) with
    | (_, .wait) => none
    | (s1, .done e stop) =>
      let rest := m.advance e
      some (if stop || rest.cnt = 0 then moveEnd s1 c 0 m rest.fail
        else modCore s1 c fun x => dropPref { x with moves := rest :: x.moves.drop 1 } m)
  | .hostDma => ((List.range 64).find? (copyCrosses s leg)).bind fun i =>
    (currentCopy s (i / 4) (i % 4) 4).bind fun c => copyPiece s (i / 4) (i % 4) c

/-- BULK_PIECE: the bulk engines of a direction of a seam carry the next piece of an agent of the sending die, in
round-robin order (R304). -/
def execBulkPiece (i : SeamId) (up : Bool) (s : State) : Host.Outcome State Fault Refusal :=
  .next (
    let n := i.toNat
    let d := seamEnd n !up
    let turn := (getSeamDir s n up).turn
    let order := (List.range 130).map fun j => (turn + j) % 130
    if (bulkEngines s n).isEmpty || legHeld s true (n, up) || s.pwr.regsOff then s
    else match order.findSome? fun a => (bulkStep s (n, up) d (bulkAgent d a)).map fun t => (a, t) with
      | none => s
      | some (a, t) => setSeamDir t n up { getSeamDir t n up with turn := (a + 1) % 130 })

end Sys2Proof.Machine
end

