-- ==== Sys2Proof/Machine/Far.lean ====
section
/-! DEFINITION. The commands of the far-memory controllers (R288 to R292, R434). -/

namespace Sys2Proof.Machine

/-- A far-memory access arrives at its controller: queued, delayed while its queue is full, or answered at once when its
line does not exist or the controller is being reset (R286, R290, R437). -/
def execFarRequest (k : StackId) (q : FarReq) (s : State) : Host.Outcome State Fault Refusal :=
  .next (
    let off := q.offset.toNat
    let n := if q.write then q.data.length else q.size
    let pc := (farPlace s k.toNat off).1
    let x := getPc s k.toNat pc
    let same := (x.queue.filter fun e => e.req.write == q.write).length
    if n = 0 || 64 < off % 64 + n then s
    else if farBytes s k.toNat ≤ off then farTold s q stPartitionFault []
    else if !dieUp s (k.toNat / 2) then farTold s q stTargetReset []
    else if (if q.write then 16 else 32) ≤ same then s
    else setPc s k.toNat pc { x with queue := x.queue ++ [⟨q, off / 64, elapsed s, false⟩] })

/-- Whether a queued request has waited 200 ns. -/
def farAged (s : State) (e : FarEnt) : Bool := e.aged || decide (e.at_ + 200 ≤ elapsed s)

/-- The entry that a pseudo-channel serves next: an aged one, a read to an open row, another read (R291). -/
def farNext (s : State) (k : Nat) (x : PseudoCh) : Option Nat :=
  (x.queue.findIdx? (farAged s)).or
    ((x.queue.findIdx? fun e => !e.req.write && x.rows.any (·.1 == (farPlace s k e.req.offset.toNat).2)).or
      (x.queue.findIdx? fun e => !e.req.write))

/-- A pseudo-channel serves one request. -/
def execFarLineAccess (k : StackId) (pc : BitVec 6) (s : State) : Host.Outcome State Fault Refusal :=
  .next (match farNext s k.toNat (getPc s k.toNat pc.toNat) with
    | some i => if dieUp s (k.toNat / 2) then farServe s k.toNat pc.toNat i else s
    | none => s)

/-- The queued writes of a pseudo-channel. -/
def farWrites (x : PseudoCh) : Nat := (x.queue.filter (·.req.write)).length

/-- Serve writes, oldest first and each behind the older reads of its line, until 4 remain (R291). -/
def drainFar (k pc : Nat) : Nat → State → State
  | 0, s => s
  | n + 1, s =>
    let x := getPc s k pc
    if farWrites x ≤ 4 then s
    else match x.queue.find? (·.req.write) with
      | none => s
      | some w =>
        match x.queue.findIdx? (·.line == w.line) with
        | some i => drainFar k pc n (farServe s k pc i)
        | none => s

/-- A drain of queued writes: 12 or more are queued, or no read is. -/
def execFarWriteDrain (k : StackId) (pc : BitVec 6) (s : State) : Host.Outcome State Fault Refusal :=
  .next (
    let x := getPc s k.toNat pc.toNat
    if dieUp s (k.toNat / 2) && (decide (12 ≤ farWrites x) || decide (farWrites x = x.queue.length)) then
      drainFar k.toNat pc.toNat 48 s
    else s)

/-- The oldest request that has not aged has waited 200 ns. -/
def execFarAgedRequest (k : StackId) (pc : BitVec 6) (s : State) : Host.Outcome State Fault Refusal :=
  .next (
    let x := getPc s k.toNat pc.toNat
    match x.queue.findIdx? (!farAged s ·) with
    | none => s
    | some i =>
      match x.queue[i]? with
      | none => s
      | some e =>
        setPc (advanceTo s (e.at_ + 200)) k.toNat pc.toNat { x with queue := x.queue.set i { e with aged := true } })

/-- FAR_ROW_CLOSE: the row that was reached least recently has been idle for 40 ns, or refresh needs a bank and closes its
row; which of the two, and which bank, is a free value, since the manual gives no refresh times of a stack (R291, R293, log
entry 5). -/
def execFarRowClose (k : StackId) (pc : BitVec 6) (s : State) : Host.Outcome State Fault Refusal :=
  .next (
    let x := getPc s k.toNat pc.toNat
    let w := freeValue s 8
    let banks := max 1 Config.farBanks
    match leastNat (x.rows.map (·.2)) with
    | none => s
    | some t =>
      if w % 2 = 1 then
        setPc (takeFree s) k.toNat pc.toNat { x with rows := x.rows.filter fun r => r.1 % banks != w / 2 % banks }
      else setPc (advanceTo (takeFree s) (t + 40)) k.toNat pc.toNat { x with rows := x.rows.filter (·.2 != t) })

/-- The pseudo-channels of a stack in use, as 2 × channel + half, in the order of R287. -/
def farUnits (s : State) (k : Nat) : List Nat :=
  ((List.range 32).filter (bitNat (farChannels s k))).flatMap fun c => [2 * c, 2 * c + 1]

/-- One line of a pseudo-channel is scrubbed every 2 µs, behind every other request (R434). -/
def execFarScrubStep (k : StackId) (pc : BitVec 6) (s : State) : Host.Outcome State Fault Refusal :=
  .next (
    let n := k.toNat
    let units := farUnits s n
    let x := getPc s n pc.toNat
    let lines := farBytes s n / 64 / units.length
    if !units.contains pc.toNat || !dieUp s (n / 2) || !x.queue.isEmpty then s
    else
      let line := x.scrub * units.length + units.idxOf pc.toNat
      let s0 := advanceTo s (x.scrubAt + 2000)
      let s1 := scrubUnit s0 (unitAt s (farAddr n (line * 64)))
      let s2 := setPc s1 n pc.toNat { x with
        scrubAt := elapsed s0, scrub := if lines ≤ x.scrub + 1 then 0 else x.scrub + 1 }
      if lines ≤ x.scrub + 1 && units.getLast? == some pc.toNat then bump s2 0x0E 8 1 (.stack n) else s2)

/-- A far channel fails after ready (R288). -/
def execFarChannelFailure (k : StackId) (ch : BitVec 5) (s : State) : Host.Outcome State Fault Refusal :=
  .next (
    let old := s.start.farFail.getD k.toNat 0
    if !bitNat (farChannels s k.toNat) ch.toNat || bitNat old ch.toNat then s
    else
      let s1 := { s with start := { s.start with farFail := s.start.farFail.set k.toNat (old + 2 ^ ch.toNat) } }
      ledger s1 0x0307 sevError none (srcStack k.toNat) [])

end Sys2Proof.Machine
end

