-- ==== Sys2Proof/Machine/Attention.lean ====
section
/-! DEFINITION. Attention over cached pages (R241 to R252): KATT in the bank units, KMERGE, KMASK; and the completion of
a bank-unit command. -/

namespace Sys2Proof.Machine

/-! ### Attention descriptors (Table 7.8, kind 0x4) -/

/-- The fields of an attention descriptor. -/
structure AttnDesc where
  kind   : Nat
  seq    : Nat
  layer  : Nat
  head   : Nat
  hd     : Nat
  npos   : Nat
  hq     : Nat
  qfmt   : Nat
  spec   : Bool
  mkind  : Nat
  qaddr  : Nat
  maddr  : Nat
  sscale : Nat
  qpos0  : Nat
  win    : Nat
  rsv    : Bool

/-- Read an attention descriptor. -/
def attnDesc (d : Nat) : AttnDesc :=
  ⟨fieldNat d 252 4, fieldNat d 240 12, fieldNat d 232 8, fieldNat d 224 8, 32 * (fieldNat d 221 3 + 1),
    fieldNat d 216 5 + 1, fieldNat d 212 4 + 1, fieldNat d 208 4, bitNat d 207, fieldNat d 205 2, fieldNat d 144 48,
    fieldNat d 96 48, fieldNat d 64 32, fieldNat d 44 20, fieldNat d 28 16,
    fieldNat d 192 13 != 0 || fieldNat d 0 28 != 0⟩

/-- Query rows: positions × heads. -/
def AttnDesc.nq (t : AttnDesc) : Nat := t.npos * t.hq
/-- The bytes of a query element. -/
def AttnDesc.width (t : AttnDesc) : Nat := if t.qfmt = 1 then 2 else 1

/-- The bytes of a partial record (R245). -/
def recordSize (nq hd : Nat) : Nat := (nq * hd * 4 + nq * 8 + 31) / 32 * 32 + 32

/-- The first of some addresses with lengths that does not stand as R232 asks. -/
def badSide (c : Nat) (as : List (Nat × Nat)) : Option Nat :=
  (as.find? fun a => a.1 % 32 != 0 || !lsSide (c / 16) a.1 a.2).map (·.1)

/-- The word of a row of major opcode 0x22. -/
def encKatt (d ga gb func : Nat) : Nat := 0x22 * 2 ^ 26 + d * 2 ^ 22 + ga * 2 ^ 17 + gb * 2 ^ 12 + func * 2 ^ 8

/-- The issue of a KATT: an entry in each of the 16 queues (R231). -/
def issueKatt (s : State) (c : CoreId) (d : DReg) (ga gb : GReg) (rec_ : Bool) : State :=
  issue s c.toNat ⟨4, [ga.toNat, gb.toNat], true⟩ (raSkip 4) fun s =>
    let x := getCore s c.toNat
    let a := (gpr x ga.toNat).toNat
    let b := (gpr x gb.toNat).toNat % 2 ^ 48
    let t := attnDesc (dreg x d.toNat).toNat
    let count := fieldNat a 24 16
    let qlen := t.nq * t.hd * t.width + (if rec_ then 8 * t.nq else 0)
    let olen := if rec_ then count * t.nq * pageP t.hd * 2 else recordSize t.nq t.hd
    if t.kind ≠ 4 || t.rsv || t.mkind = 3 then illegal s (encKatt d.toNat ga.toNat gb.toNat rec_.toNat)
    else if t.qfmt ≠ 1 && t.qfmt ≠ 3 then .at s 0xC 0 t.qfmt
    else if seqSize s c.toNat ≤ t.seq then .at s 4 0 t.seq
    else if fieldNat a 16 8 = 0 || count = 0 then .at s 4 0 a
    else match badSide c.toNat ([(t.qaddr, qlen)] ++ (if t.mkind = 2 then [(t.maddr, 32)] else []) ++ [(b, olen)]) with
    | some e => .at s 4 0 e
    | none =>
      if queuesFull s c.toNat (List.range 16) || !x.buf.isEmpty || !x.moves.isEmpty then .stall s
      else .go (enqueueNb s c.toNat (List.range 16) (.katt (dreg x d.toNat).toNat a b rec_ none))

/-- KATT forward (R241). -/
def execKattForward (c : CoreId) (d : DReg) (ga gb : GReg) (s : State) : Host.Outcome State Fault Refusal :=
  .next (issueKatt s c d ga gb false)
/-- KATT recompute (R252). -/
def execKattRecompute (c : CoreId) (d : DReg) (ga gb : GReg) (s : State) : Host.Outcome State Fault Refusal :=
  .next (issueKatt s c d ga gb true)

/-! ### Pages and masks (R241, R242, R247) -/

/-- An address is brought to the front of a cache of n, replaced least recently used first (R224). -/
def cacheList (n : Nat) (l : List Nat) (a : Nat) : List Nat := (a :: l.filter (· != a)).take n

/-- A vein controller looks for a state word or an entry in its caches: a miss is counted and makes a guest read of the n
bytes, which the unit that holds them may refuse or delay (R163, R164, R224). -/
def cacheMiss (s : State) (c a n : Nat) (held : List Nat) : KRes Unit :=
  if held.contains a then .ok s ()
  else
    let s1 := bump s 0x07 2 1 (.core c)
    match gate s1 (coreReq s1 c) a false with
    | some .wait => .wait s
    | some .reset => .reset s1
    | some .refused => .trap (noteRefusal s1 (coreReq s1 c) a false) ⟨0xE, 1, a⟩
    | some _ => .trap s1 ⟨4, 0, a⟩
    | none => .ok (portServe s1 a n) ()

/-- The trap of a page's frame that bank units may not read (R225, R241). -/
def frameTrap (s : State) (c f : Nat) : Option TrapInfo :=
  let a := veinAddr c (f * 16384)
  match regionAt s c (f * 16384) with
  | none => some ⟨4, 0, a⟩
  | some r =>
    if r.kind = kindSealed then some ⟨9, 1, a⟩
    else if r.kind = kindCache then some ⟨9, 2, a⟩
    else if fieldNat (hiddenOf s c) (f % 4 * 8) 8 ≠ 0 then some ⟨9, 3, a⟩ else none

/-- Read and check the entry of page i below a bound (R241). The entry cache keeps entries of pages homed here (R224). -/
def pageEntry (s : State) (p c : Nat) (h : ListHead) (pp bound i : Nat) : KRes Entry :=
  let a := h.tbase + 16 * i
  (cacheMiss s c a 16 (getVein s c).enCache).andThen fun s _ =>
  (readEntry s p (some c) h.tbase i).andThen fun s e =>
    if !e.v then .trap s ⟨6, 1, a⟩
    else if e.index ≠ i then .trap s ⟨6, 2, a⟩
    else if e.count < min pp (bound - i * pp) then .trap s ⟨6, 3, a⟩
    else if e.core ≠ c then .trap s ⟨6, 5, a⟩
    else if e.mov then .wait s
    else match frameTrap s c e.frame with
      | some t => .trap s t
      | none => .ok (modVein s c fun v => { v with enCache := cacheList 256 v.enCache a }) e

/-- What a KATT works on: generation, bound, page capacity, and the pages in order with their entries. -/
structure KattPlan where
  gen   : Nat
  bound : Nat
  pp    : Nat
  pages : List (Nat × Entry)

/-- The view and the pages of a KATT (R240, R241): ga as read at issue, the state word as read at the start. -/
def kattPlan (s : State) (c : Nat) (t : AttnDesc) (ga : Nat) (word : Option Nat) : KRes KattPlan :=
  let p := partNum s c
  let ra := seqAddr s c t.seq
  (cacheMiss s c ra 32 (getVein s c).stCache).andThen fun s _ =>
  (readRecord (modVein s c fun v => { v with stCache := cacheList 64 v.stCache ra }) p (some c) ra).andThen fun s r =>
  if r.hd ≠ t.hd || r.layers ≤ t.layer || r.heads ≤ t.head then .trap s ⟨6, 7, t.seq⟩
  else
    let w := seqState (word.getD r.word.word)
    let pp := pageP t.hd
    let bound := w.len + (if t.spec then w.esc else 0)
    (readHead s p (some c) (r.header t.layer t.head)).andThen fun s h =>
    let is := ((List.range (fieldNat ga 24 16)).map fun k => ga % 65536 + k * fieldNat ga 16 8).filter
      fun i => decide (i * pp < bound)
    is.foldl (fun (k : KRes KattPlan) i => k.andThen fun s plan =>
      (pageEntry s p c h pp bound i).andThen fun s e => .ok s { plan with pages := plan.pages ++ [(i, e)] })
      (.ok s ⟨w.gen, bound, pp, []⟩)

/-- Whether the mask map admits key position k to query position j of the block; the address of a code 0b11 that is met
(R247, R248). -/
def mapSees (s : State) (t : AttnDesc) (j k : Nat) : Bool ⊕ Nat :=
  let head := rdNat s t.maddr 32
  let base := t.qpos0 / 64 * 64
  let cols := fieldNat head 16 16
  let ct := (k - base) / 64
  if k < base then .inl true
  else if cols ≤ ct then .inl false
  else
    let a := t.maddr + 32 + 2 * (j / 64 * cols + ct)
    let e := rdNat s a 2
    match e / 2 ^ 14 with
    | 0 => .inl false
    | 1 => .inl true
    | 2 => .inl (bitNat (rdNat s (fieldNat head 64 48 + e % 2 ^ 14 * 512 + 8 * (j % 64)) 8) ((k - base) % 64))
    | _ => .inr a

/-- Whether key position k is visible to query row r (R242, R247). -/
def rowSees (s : State) (t : AttnDesc) (bound r k : Nat) : Bool :=
  let p := t.qpos0 + r / t.hq
  decide (k < bound) && (match t.mkind with
    | 0 => true
    | 1 => decide (k ≤ p) && (t.win == 0 || decide (p - k < t.win))
    | _ => match mapSees s t (r / t.hq) k with
      | .inl b => b
      | .inr _ => false)

/-- The first code 0b11 that a KATT meets in its mask map. -/
def mapFault (s : State) (t : AttnDesc) (plan : KattPlan) : Option Nat :=
  if t.mkind ≠ 2 then none
  else (List.range t.npos).findSome? fun j => plan.pages.findSome? fun e =>
    (List.range ((plan.pp + 63) / 64)).findSome? fun b =>
      let k := e.1 * plan.pp + 64 * b
      if plan.bound ≤ k then none
      else match mapSees s t j k with
        | .inr a => some a
        | .inl _ => none

/-! ### Scores and partials (R242, R243) -/

/-- Query element (r, d). -/
def queryValue (s : State) (t : AttnDesc) (r d : Nat) : Num :=
  decodeElem t.qfmt (rdNat s (t.qaddr + (r * t.hd + d) * t.width) t.width) 0

/-- Key element (j, d) of a page. -/
def keyValue (s : State) (e : Entry) (hd j d : Nat) : Num :=
  decodeElem 3 (rdByte s (veinAddr e.core (e.frame * 16384) + keyOff hd j + d)).toNat 0
/-- Value element (j, d) of a page. -/
def valueValue (s : State) (e : Entry) (hd j d : Nat) : Num :=
  let q := hd / 4
  decodeElem 3 (rdByte s (veinAddr e.core (e.frame * 16384) + valueOff hd j (d / q) + d % q)).toNat 0

/-- The score of query row r at position j of a page (R242). -/
def scoreOf (s : State) (t : AttnDesc) (e : Entry) (r j : Nat) : Nat :=
  mul32 t.sscale (accumulate32 false 0 ((List.range t.hd).map fun d => (keyValue s e t.hd j d, queryValue s t r d)))

/-- The positions of a page that a row sees, in order. -/
def seenIn (s : State) (t : AttnDesc) (plan : KattPlan) (i : Nat) (e : Entry) (r : Nat) : List Nat :=
  (List.range (min plan.pp e.count)).filter fun j => rowSees s t plan.bound r (i * plan.pp + j)

/-- The larger of two FP32 values. -/
def max32 (a b : Nat) : Nat := (maxLane 0 a b).1

/-- An FP32 value rounded to BF16, as a number (R243). -/
def toBf16 (x : Nat) : Nat := (encodeIeee (floatFmt 1) .even (num32 x)).1

/-- The running partial of a row: m, l, o. -/
structure Partial where
  m : Nat
  l : Nat
  o : List Nat

/-- A page's own partial for row r: its maximum, its weights' sum, its weighted values. The weighted values are exact in
groups of 32 positions (R52). -/
def pagePartial (s : State) (t : AttnDesc) (e : Entry) (r : Nat) (js : List Nat) : Partial :=
  let sc := js.map fun j => (j, scoreOf s t e r j)
  let m := sc.foldl (fun a x => max32 a x.2) negInf32
  let ws := sc.map fun x => (x.1, toBf16 (exp32 (sub32 x.2 m)))
  let wn : Nat → Num := fun w => decodeFloat (floatFmt 1) w
  let l := ws.foldl (fun a w => accAdd32 a (wn w.2)) 0
  let groups := (js.map (· / 32)).eraseDups
  let o := (List.range t.hd).map fun d => groups.foldl (fun a g =>
    accAdd32 a (sumProducts ((ws.filter fun w => w.1 / 32 == g).map fun w => (valueValue s e t.hd w.1 d, wn w.2)))) 0
  ⟨m, l, o⟩

/-- Whether an FP32 value exceeds another. -/
def gt32 (a b : Nat) : Bool := !ge32 b a && !(num32 a).isNan

/-- Combine a page's partial with the running one, in page order (R243): the side with the smaller maximum is rescaled. -/
def joinPartial (a b : Partial) : Partial :=
  if gt32 b.m a.m then
    let f := exp32 (sub32 a.m b.m)
    ⟨b.m, add32 (mul32 a.l f) b.l, List.zipWith (fun x y => add32 (mul32 x f) y) a.o b.o⟩
  else
    let f := exp32 (sub32 b.m a.m)
    ⟨a.m, add32 a.l (mul32 b.l f), List.zipWith (fun x y => add32 x (mul32 y f)) a.o b.o⟩

/-- The partial of row r over the pages of a plan. -/
def rowPartial (s : State) (t : AttnDesc) (plan : KattPlan) (r : Nat) : Partial :=
  plan.pages.foldl (fun a p =>
    let js := seenIn s t plan p.1 p.2 r
    if js.isEmpty then a else joinPartial a (pagePartial s t p.2 r js)) ⟨negInf32, 0, List.replicate t.hd 0⟩

/-- The bytes of a partial record (R245). -/
def recordBytes7 (ps : List Partial) (hd gen bound pages : Nat) : List Byte :=
  let nq := ps.length
  let body := (ps.flatMap (·.o)).flatMap (natLe 4) ++ (ps.map (·.m)).flatMap (natLe 4) ++ (ps.map (·.l)).flatMap (natLe 4)
  body ++ List.replicate (recordSize nq hd - 32 - body.length) 0 ++
    natLe 4 gen ++ natLe 4 bound ++ natLe 4 pages ++ List.replicate 20 0

/-- The probabilities of a recompute: per page, row-major (R252). -/
def recomputeBytes (s : State) (t : AttnDesc) (plan : KattPlan) : List Byte :=
  let stats := t.qaddr + t.nq * t.hd * t.width
  plan.pages.flatMap fun p => (List.range t.nq).flatMap fun r =>
    let m := rdNat s (stats + 4 * r) 4
    let l := rdNat s (stats + 4 * (t.nq + r)) 4
    let js := seenIn s t plan p.1 p.2 r
    (List.range plan.pp).flatMap fun j => natLe 2 (
      if js.contains j then
        (encodeIeee (floatFmt 1) .even (divNum (num32 (exp32 (sub32 (scoreOf s t p.2 r j) m))) (num32 l))).1
      else 0)

/-! ### Completion of bank-unit commands (R200, R231) -/

/-- A KATT has ended: latch slots unloaded, accumulators zero, frames that waited for it may go (R228, R231). -/
def kattEnd (s : State) (c : Nat) : State :=
  modVein s c fun v =>
    let v1 := modUnits v fun u => { u with slots := [], acc := [], parity := [], poison := [] }
    { v1 with frames := framesGo v1.frames }

/-- The bursts that the bank units read for a KATT: each group of rows passes over the keys of every page, and over its
values unless it recomputes; each pass opens a row in every pair of the page's stratum (Table 7.1, R244, R252). -/
def countKatt (s : State) (c : Nat) (t : AttnDesc) (pages : Nat) (rec_ : Bool) : State :=
  let g := min 8 (1024 / t.hd)
  let passes := (t.nq + g - 1) / g * (if rec_ then 1 else 2)
  let s1 := bump s 0x06 1 (passes * pages * (pageP t.hd * t.hd / 32)) (.core c)
  bump (bump s1 0x05 1 (passes * pages * 4) (.core c)) 0x07 1 pages (.core c)

/-- A KATT that runs: none while a page it needs is being moved (R241, R255). Lost query or map words poison the record
(Table 14.3). -/
def runKatt (s : State) (c d ga gb : Nat) (rec_ : Bool) (word : Option Nat) : Option State :=
  let t := attnDesc d
  match kattPlan s c t ga word with
  | .wait _ => none
  | .trap s1 e => some (kattEnd (nbFault s1 c e) c)
  | .reset s1 => some (kattEnd (nbFault s1 c ⟨0xE, 2, seqAddr s c t.seq⟩) c)
  | .ok s1 plan =>
    match mapFault s1 t plan with
    | some a => some (kattEnd (nbFault s1 c ⟨4, 0, a⟩) c)
    | none =>
      let n := t.nq * t.hd * t.width + (if rec_ then 8 * t.nq else 0)
      let (s2, l1) := readUnits s1 t.qaddr n 6 (some c)
      let (s3, l2) := if t.mkind = 2 then readUnits s2 t.maddr 32 6 (some c) else (s2, [])
      let s4 := match l1 ++ l2 with
        | l :: _ => nbFault s3 c ⟨3, l.2, l.1⟩
        | [] => s3
      let bad := !(l1 ++ l2).isEmpty
      let bs := if rec_ then recomputeBytes s4 t plan
        else recordBytes7 ((List.range t.nq).map (rowPartial s4 t plan)) t.hd plan.gen plan.bound plan.pages.length
      let sig := !plan.pages.isEmpty && (List.range t.nq).any fun r => (List.range t.hd).any fun k =>
        (queryValue s4 t r k).isSig
      let s5 := nbFlag (countKatt s4 c t plan.pages.length rec_) c (if sig then flagNv else 0)
      some (kattEnd (deliver s5 c gb (bs.map fun b => (b, bad))) c)

/-- The command of a unit that completes next: its head, once it streams, or a latch load that runs beside it; which of
the two ends first is open (R184; log entry 5). -/
def nextNb (s : State) (c u : Nat) : Option (State × Nat × NbCmd) :=
  let b := getUnit (getVein s c) u
  match b.queue.head? with
  | none => none
  | some (n, cmd) =>
    if !b.busy then none
    else match earlyLoad b with
      | some (m, ld) => some (if freeValue s 6 % 2 = 1 then (takeFree s, m, ld) else (takeFree s, n, cmd))
      | none => some (s, n, cmd)

/-- A command of a bank unit completes, or, with none running there, the oldest drain that is ready (R200); a paused
cluster's units hold (R386). Port requests to its banks are served at this row boundary (R151). -/
def execBankUnitCommandComplete (c : CoreId) (unit : BitVec 4) (s : State) : Host.Outcome State Fault Refusal :=
  .next (
    let n := c.toNat
    if (getCl s (n / 16)).paused || !veinRuns s n then s
    else match nextNb s n unit.toNat with
    | none => drainReady s n
    | some (s0, seq, cmd) =>
      match cmd with
      | .katt d ga gb rec_ word =>
        match runKatt ((List.range 16).foldl (fun s u => openPair s n u) s0) n d ga gb rec_ word with
        | none => s
        | some s1 => nbEvent ((List.range 16).foldl (fun s u => servePair s n u) (popNb s1 n seq (List.range 16))) n
      | _ =>
        if outputFull (getVein s n) unit.toNat cmd then s
        else nbEvent (servePair (popNb (runNb s0 n unit.toNat seq cmd) n seq [unit.toNat]) n unit.toNat) n)

/-! ### KMERGE (R250) -/

/-- The word of a row of major opcode 0x23. -/
def encMerge (d ga gb gc ofmt rec func : Nat) : Nat :=
  0x23 * 2 ^ 26 + d * 2 ^ 22 + ga * 2 ^ 17 + gb * 2 ^ 12 + gc * 2 ^ 7 + ofmt * 2 ^ 3 + rec * 4 + func

/-- The merged row of records: mm, l, o. -/
def mergeRow (ps : List Partial) (hd : Nat) : Partial :=
  let mm := ps.foldl (fun a p => max32 a p.m) negInf32
  ps.foldl (fun a p =>
    if p.l % 2 ^ 31 = 0 then a
    else
      let f := exp32 (sub32 p.m mm)
      ⟨mm, add32 a.l (mul32 p.l f), List.zipWith (fun x y => add32 x (mul32 y f)) a.o p.o⟩)
    ⟨mm, 0, List.replicate hd 0⟩

/-- Row r of a record's bytes. -/
def recordRow (s : State) (a nq hd r : Nat) : Partial :=
  let w : Nat → Nat := fun o => rdNat s (a + o) 4
  ⟨w (nq * hd * 4 + 4 * r), w (nq * hd * 4 + nq * 4 + 4 * r), (List.range hd).map fun d => w ((r * hd + d) * 4)⟩

/-- The read of n records of a size from an address on, a stride apart: the first that waits or traps ends it. -/
def mergeReads (s : State) (c a stride size n : Nat) : State × CoreRead :=
  (List.range n).foldl (fun (r : State × CoreRead) i => match r.2 with
    | .ok s1 _ => coreRead s1 c (a + i * stride) size 2
    | _ => r) (s, .ok s [])

/-- The word at byte k of the trailer of record i: generation and bound at 0, pages at 8 (R245). -/
def trailerOf (s : State) (a stride size i k n : Nat) : Nat := rdNat s (a + i * stride + size - 32 + k) n

/-- The merged rows of n records. -/
def mergedRows (s : State) (a stride n nq hd : Nat) : List Partial :=
  (List.range nq).map fun r => mergeRow ((List.range n).map fun i => recordRow s (a + i * stride) nq hd r) hd

/-- The merged record (R250). -/
def mergedRecord (s : State) (a stride size n nq hd : Nat) : List Byte :=
  let w := trailerOf s a stride size 0 0 8
  recordBytes7 (mergedRows s a stride n nq hd) hd (w % 2 ^ 32) (w / 2 ^ 32)
    ((List.range n).map fun i => trailerOf s a stride size i 8 4).sum

/-- The elements o / l of merged rows in the output format, with their flags; a row that saw nothing gives zeros. -/
def mergedElems (x : CoreSt) (ofmt : Nat) (rows : List Partial) : List (Nat × Nat) :=
  rows.flatMap fun r => r.o.map fun o =>
    if r.l % 2 ^ 31 = 0 then (0, 0) else encodeElem ofmt (e4satOf x) (e5satOf x) (rmOf x) (num32 (div32 o r.l))

/-- KMERGE (R250): it writes whole, or nothing. -/
def execKmerge (c : CoreId) (d : DReg) (ga gb gc : GReg) (ofmt : BitVec 4) (rec : Bool) (s : State) :
    Host.Outcome State Fault Refusal :=
  .next (issue s c.toNat ⟨4, [ga.toNat, gb.toNat, gc.toNat], true⟩ (raSkip 4) fun s =>
    let x := getCore s c.toNat
    let a := (gpr x ga.toNat).toNat % 2 ^ 48
    let b := (gpr x gb.toNat).toNat
    let out := (gpr x gc.toNat).toNat % 2 ^ 48
    let t := attnDesc (dreg x d.toNat).toNat
    let n := b % 65536
    let stride := b / 65536
    let size := recordSize t.nq t.hd
    let w := if ofmt.toNat = 0 then 4 else 2
    let at_ : Nat → Nat := fun i => a + i * stride
    let bad := (List.range n).find? fun i => !(match placeOf (at_ i) with
      | .ls _ off => inOwnPartition s c.toNat (at_ i) && decide (off + size ≤ 0x80000)
      | _ => false)
    if t.kind ≠ 4 || t.rsv || t.mkind = 3 then
      illegal s (encMerge d.toNat ga.toNat gb.toNat gc.toNat ofmt.toNat rec.toNat 0)
    else if !rec && 1 < ofmt.toNat then .at s 0xC 0 ofmt.toNat
    else if n = 0 || 4096 < n || stride % 32 ≠ 0 then .at s 4 0 b
    else if out % 32 ≠ 0 || !lsSide (c.toNat / 16) out (if rec then size else t.nq * t.hd * w) then .at s 4 0 out
    else match bad with
    | some i => .at s 4 0 (at_ i)
    | none =>
      if !x.buf.isEmpty || !x.moves.isEmpty then .stall s
      else
        match mergeReads s c.toNat a stride size n with
        | (s1, .wait) => .stall s1
        | (s1, .trap e) => .trap s1 e false false
        | (_, .ok s1 _) =>
          let trailer : Nat → Nat := fun i => trailerOf s1 a stride size i 0 8
          match (List.range n).find? fun i => trailer i != trailer 0 with
          | some i => .at s1 6 8 (at_ i)
          | none =>
            if rec then .go (writeUnits s1 out (mergedRecord s1 a stride size n t.nq t.hd) 3 (some c.toNat)).1
            else
              let es := mergedElems x ofmt.toNat (mergedRows s1 a stride n t.nq t.hd)
              .go (modCore (writeUnits s1 out (es.flatMap fun e => natLe w e.1) 3 (some c.toNat)).1 c.toNat fun y =>
                setFlags y (orFlags (es.map (·.2)))))

/-! ### KMASK (R249) -/

/-- The fields of a mask descriptor (Table 7.8, kind 0x5). -/
structure MaskDesc where
  kind  : Nat
  form  : Nat
  lt    : Bool
  map   : Nat
  tiles : Nat
  rows  : Nat
  cols  : Nat
  qpos0 : Nat
  kpos0 : Nat
  win   : Nat
  rsv   : Bool

/-- Read a mask descriptor. -/
def maskDesc (d : Nat) : MaskDesc :=
  ⟨fieldNat d 252 4, fieldNat d 250 2, bitNat d 249, fieldNat d 192 48, fieldNat d 144 48, fieldNat d 128 16 + 1,
    fieldNat d 112 16 + 1, fieldNat d 92 20, fieldNat d 72 20, fieldNat d 56 16,
    fieldNat d 240 9 != 0 || fieldNat d 0 56 != 0⟩

/-- The entry of a length table that holds the i-th position over all of them: its place in the table, the position. -/
def raggedAt : List (Nat × Nat × Nat) → Nat → Nat → Option (Nat × Nat)
  | [], _, _ => none
  | (_, pos, n) :: r, e, i => if i < n then some (e, pos + i) else raggedAt r (e + 1) (i - n)

/-- The causal rule of R247. -/
def causal (win p k : Nat) : Bool := decide (k ≤ p) && (win == 0 || decide (p - k < win))

/-- Whether row r of a mask sees column k: a ragged mask is causal within each entry whatever its form (R249; DEDUCED, log
entry 130). -/
def maskSees (t : MaskDesc) (es : List (Nat × Nat × Nat)) (r k : Nat) : Bool :=
  if t.lt then
    match raggedAt es 0 r, raggedAt es 0 k with
    | some (e, p), some (f, q) => e == f && causal t.win p q
    | _, _ => false
  else t.form == 1 || causal t.win (t.qpos0 + r) (t.kpos0 + k)

/-- A tile of a mask: 0 hidden, 1 visible, 2 a bitmap with its 64 words; cells beyond rows and cols do not count and are
clear in a bitmap. -/
def maskTile (t : MaskDesc) (es : List (Nat × Nat × Nat)) (rt ct : Nat) : Nat × List Nat :=
  let words := (List.range 64).map fun r => (List.range 64).foldl (fun a k =>
    if rt * 64 + r < t.rows && ct * 64 + k < t.cols && maskSees t es (rt * 64 + r) (ct * 64 + k) then a + 2 ^ k else a) 0
  let full := (List.range 64).map fun r =>
    if rt * 64 + r < t.rows then 2 ^ (min 64 (t.cols - ct * 64)) - 1 else 0
  if words.all (· == 0) then (0, []) else if words = full then (1, []) else (2, words)

/-- The bytes of a mask's map and of its bitmap tiles, numbered from index 0 upwards (R248, R249). -/
def maskBytes (t : MaskDesc) (es : List (Nat × Nat × Nat)) : List Byte × List Byte :=
  let rts := (t.rows + 63) / 64
  let cts := (t.cols + 63) / 64
  let tiles := (List.range rts).flatMap fun r => (List.range cts).map (maskTile t es r)
  let out := tiles.foldl (fun (a : List Nat × List Nat × Nat) y =>
    if y.1 = 2 then (a.1 ++ [2 * 2 ^ 14 + a.2.2], a.2.1 ++ y.2, a.2.2 + 1)
    else (a.1 ++ [y.1 * 2 ^ 14], a.2.1, a.2.2)) ([], [], 0)
  let head := natLe 2 rts ++ natLe 2 cts ++ natLe 4 out.2.2 ++ natLe 6 t.tiles ++ List.replicate 18 0
  (head ++ out.1.flatMap (natLe 2), out.2.1.flatMap (natLe 8))

/-- KMASK (R249): the map at once, its bitmaps from index 0 upwards. -/
def execKmask (c : CoreId) (d : DReg) (ga : GReg) (s : State) : Host.Outcome State Fault Refusal :=
  .next (issue s c.toNat ⟨4, [ga.toNat], true⟩ (raSkip 4) fun s =>
    let x := getCore s c.toNat
    let g := (gpr x ga.toNat).toNat
    let tbl := g % 2 ^ 48
    let n := fieldNat g 48 11
    let t := maskDesc (dreg x d.toNat).toNat
    let rts := (t.rows + 63) / 64
    let cts := (t.cols + 63) / 64
    let room := rts * (2 + (if t.win = 0 then 0 else 2)) + (if t.lt then 2 * n else 0)
    if t.kind ≠ 5 || t.rsv || 1 < t.form then illegal s (encMerge d.toNat ga.toNat 0 0 0 0 1)
    else match badSide c.toNat [(t.map, 32 + 2 * rts * cts), (t.tiles, 512 * room)] with
    | some a => .at s 4 0 a
    | none =>
      if t.lt && (n = 0 || 1024 < n || tbl % 8 ≠ 0 || !lsSide (c.toNat / 16) tbl (8 * n)) then .at s 4 0 tbl
      else if !x.buf.isEmpty || !x.moves.isEmpty then .stall s
      else match (if t.lt then coreRead s c.toNat tbl (8 * n) 2 else (s, .ok s [])) with
      | (s1, .wait) => .stall s1
      | (s1, .trap e) => .trap s1 e false false
      | (_, .ok s1 _) =>
        match (if t.lt then lengthTable s1 tbl n else .inl []) with
        | .inr a => .at s1 4 0 a
        | .inl es =>
          let total := (es.map (·.2.2)).sum
          if t.lt && (t.rows ≠ total || t.cols ≠ total) then .at s1 4 0 tbl
          else
            let bs := maskBytes t es
            let s2 := (writeUnits s1 t.map bs.1 3 (some c.toNat)).1
            .go (writeUnits s2 t.tiles bs.2 3 (some c.toNat)).1)

end Sys2Proof.Machine
end

