-- ==== Sys2Proof/Machine/Regions.lean ====
section
/-! DEFINITION. Writes of the region table and what follows them (R155 to R157, R225). -/

namespace Sys2Proof.Machine

/-- Whether two regions overlap. -/
def Region.meets (a b : Region) : Bool :=
  a.kind != 0 && b.kind != 0 && decide (a.base < b.base + b.count) && decide (b.base < a.base + a.count)

/-- The region that an entry stands for until a write of unused has taken effect (R157). -/
def entryRegion (s : State) (c n : Nat) : Region :=
  match (getVein s c).unused.find? (·.1 == n) with
  | some (_, old, _) => regionOf old
  | none => regionOf (getReg s (oRegion c n)).toNat

/-- Whether a write of an entry is ignored (R156). An entry whose unused has not taken effect is not unused yet, and no
write of it goes through until then; entry 7 cannot be written in tiered mode (R173). -/
def regionRefused (s : State) (c n : Nat) (r : Region) : Bool :=
  let old := entryRegion s c n
  (getVein s c).unused.any (·.1 == n) || (s.start.tiered && n == 7) ||
    (r.kind != 0 && (r.count == 0 || decide (slabsOf s c < 8 * (r.base + r.count)))) ||
    r.kind == kindCache || (old.kind != 0 && r.kind != 0 && r.kind != old.kind) ||
    (List.range 8).any fun m => m != n && r.meets (entryRegion s c m)

/-- The device addresses of the strip rows that a bank-unit command reads. -/
def stripRowsOf (s : State) (c : Nat) (cmd : NbCmd) : List Nat :=
  match cmd with
  | .product d ga gb _ chk _ _ _ =>
    let t := stripDesc d
    let (lo, hi) := productSpan t (productOp ga gb) chk
    (t.rowsRead lo hi).map t.rowAddr
  | .gather d _ gb _ =>
    let t := stripDesc d
    let list := gatherList (getUnit (getVein s c) t.unit) (fieldNat gb 11 2) (gb % 2048 + 1)
    list.flatMap fun e =>
      (t.rowsRead (t.position (e % 65536) * t.rowBytes) ((t.position (e % 65536) + 1) * t.rowBytes)).map t.rowAddr
  | .katt d ga _ _ word =>
    match kattPlan s c (attnDesc d) ga word with
    | .ok _ plan => plan.pages.map fun p => veinAddr c (p.2.frame * 16384)
    | _ => []
  | _ => []

/-- Whether a command queued in a vein's bank units reads a row of a region (R157). -/
def regionRead (s : State) (c : Nat) (r : Region) : Bool :=
  (List.range 16).any fun u => (getUnit (getVein s c) u).queue.any fun e =>
    (stripRowsOf s c e.2).any fun a => match placeOf a with
      | .vein _ off => r.covers off
      | _ => false

/-- The free frames of a region leave the pool (R225). -/
def dropFrames (s : State) (c : Nat) (r : Region) : State :=
  modVein s c fun v => { v with
    frames := v.frames.filter fun e => !(e.2 == .free && r.covers (e.1 * 16384)) }

/-- Whether a guest request that came before an entry was written unused still waits (R157). -/
def priorWaits (s : State) (c n : Nat) : Bool := (getVein s c).guests.any (·.prior == some n)

/-- The guest requests to a region that wait as its entry is written unused: those of before (R157). -/
def markPrior (s : State) (c n : Nat) (r : Region) : State :=
  modVein s c fun v => { v with guests := v.guests.map fun g =>
    if g.far == none && r.covers (g.req.offset.toNat) then { g with prior := some n } else g }

/-- A write of unused takes effect, once nothing accepted reads the region and no request of before waits: with zf the
zero-fill begins (R157). -/
def unusedEffect (s : State) (c n : Nat) : State :=
  match (getVein s c).unused.find? (·.1 == n) with
  | none => s
  | some (_, old, zf) =>
    if (getVein s c).initing.contains n || regionRead s c (regionOf old) || priorWaits s c n then s
    else
      let s1 := dropFrames s c (regionOf old)
      if zf then modVein s1 c fun v => { v with initing := v.initing ++ [n] }
      else serveGuests (modVein s1 c fun v => { v with unused := v.unused.filter (·.1 != n) }) c

/-- A write of CO_VREGIONn (R156, R157, Table 5.16). -/
def regionWrite (s : State) (c n : Nat) (w : Word) : State :=
  let r := regionOf w.toNat
  let old := getReg s (oRegion c n)
  if regionRefused s c n r then setRegField s (oVstat c) 2 1 1
  else
    let s1 := setReg s (oRegion c n) (masked 0x78FF7F 0 w)
    if r.kind = 0 then
      if (regionOf old.toNat).kind = 0 then s1
      else
        let s2 := markPrior s1 c n (regionOf old.toNat)
        unusedEffect (modVein s2 c fun v => { v with unused := insertAt n (old.toNat, w.getLsbD 23) v.unused }) c n
    else if r.kind = kindSealed && !w.getLsbD 24 && !(getVein s c).initing.contains n then
      modVein s1 c fun v => { v with initing := v.initing ++ [n] }
    else s1

/-- A write of CO_VREGIONn by a requester. -/
def execRegionWrite (r : Req) (c : CoreId) (n : BitVec 3) (w : Word) (s : State) :
    Host.Outcome State Fault Refusal :=
  .next (regWrite s r (oRegion c.toNat n.toNat) fun s => regionWrite s c.toNat n.toNat w)

/-- A region written unused becomes so (R157). -/
def execRegionUnusedEffect (c : CoreId) (n : BitVec 3) (s : State) : Host.Outcome State Fault Refusal :=
  .next (if veinRuns s c.toNat then unusedEffect s c.toNat n.toNat else s)

/-- A zero-fill or an initialisation ends: what waited for it goes on (R157). -/
def execRegionInitComplete (c : CoreId) (n : BitVec 3) (s : State) : Host.Outcome State Fault Refusal :=
  .next (
    let k := c.toNat
    let v := getVein s k
    if !veinRuns s k || !v.initing.contains n.toNat then s
    else
      let done : State → State := fun s => modVein s k fun v => { v with initing := v.initing.erase n.toNat }
      match v.unused.find? (·.1 == n.toNat) with
      | some (_, old, zf) =>
        let r := regionOf old
        if zf then
          let s1 := done (zeroBytes s (veinAddr k r.start) r.size)
          serveGuests (modVein s1 k fun v => { v with unused := v.unused.filter (·.1 != n.toNat) }) k
        else unusedEffect (done (initSealed s k r)) k n.toNat
      | none => serveGuests (done (initSealed s k (regionOf (getReg s (oRegion k n.toNat)).toNat))) k)

end Sys2Proof.Machine
end

