-- ==== Sys2Proof/Machine/Partition.lean ====
section
/-! DEFINITION. Partition layouts: the commit of a layout and the clearing of what leaves a partition (R326 to R328,
R348, R490). -/

namespace Sys2Proof.Machine

/-- What the obverse registers of a partition ask for (Tables 10.9 and 10.10); the base of its barriers is chosen at the
commit. -/
def askedLayout (s : State) (p : Nat) : Layout :=
  let w : Nat → Nat := fun i => (getReg s (oPart p i)).toNat
  ⟨(List.range 256).filter fun k => bitNat (w (k / 64)) (k % 64), w 4, fieldNat (w 5) 0 13, fieldNat (w 5) 32 11, 0,
    fieldNat (w 5) 44 2, fieldNat (w 5) 48 16⟩

/-- Whether a pair of partition registers agrees (R11). -/
def partPairOk (s : State) (p i : Nat) : Bool :=
  getReg s (oPartR p i) == ~~~ getReg s (oPart p i) &&& BitVec.ofNat 64 (partMask i)

/-- Whether a partition is idle (R327). -/
def partIdle (s : State) (p : Nat) : Bool :=
  !(s.jobs.any (·.part == p)) && (List.range 4).all fun i =>
    !bitNat (getReg s (oCrCtl p i)).toNat 8 && !bitNat (getReg s (oRemRctl i p)).toNat 8 &&
      !bitNat (getReg s (oClrQctl p i)).toNat 4

/-- The partitions but one. -/
def otherParts (p : Nat) : List Nat := (List.range 16).filter (· != p)

/-- The slices of a mask. -/
def sliceList (m : Nat) : List Nat := (List.range 64).filter (bitNat m)

/-- The bases at which a partition's barriers fit beside the others' (R91, R327). -/
def barBases (s : State) (p n : Nat) : List Nat :=
  ((List.range 1025).map (· + 0x100)).filter fun b => b + n ≤ 0x500 && (otherParts p).all fun o =>
    let l := getPart s o
    l.barriers = 0 || n = 0 || l.barBase + l.barriers ≤ b || b + n ≤ l.barBase

/-- Why a commit is refused (R327, Table 10.11); none when it is accepted. A range of barriers that fits nowhere counts as
a total exceeded (log entry 32). -/
def commitRefusal (s : State) (p : Nat) : Option Nat :=
  let l := askedLayout s p
  let others := (otherParts p).map (getPart s)
  if !(List.range 6).all (partPairOk s p) then some 1
  else if others.any fun o => l.clusters.any (fun k => populatedCl s k && o.clusters.contains k) ||
      (sliceList l.slices).any fun i => sliceHere s i && bitNat o.slices i then some 2
  else if !l.clusters.all (populatedCl s) || !(sliceList l.slices).all (sliceHere s) then some 5
  else if 4096 < others.foldl (fun n o => n + o.seqs) l.seqs || 1024 < others.foldl (fun n o => n + o.barriers) l.barriers ||
      (barBases s p l.barriers).isEmpty then some 3
  else if l.domain ≠ 0 && others.any (·.domain == l.domain) then some 6
  else if !partIdle s p then some 4
  else none

/-- Counters and select registers zero, trace buffer empty, trace channel disabled: a cluster joins or leaves a partition
(R490). -/
def clearCounters (s : State) (k : Nat) : State :=
  let s1 := (coresOf k).foldl (fun s c => resetRegs s (oCoSel c 0) 0x80) (resetRegs s (oClSel k 0) 0x80)
  setRegField (modCl s1 k fun x => { x with trace := [], traceLost := 0 }) (oTrCtl k) 0 1 0

/-- A vein leaves its partition: every region but the page cache is zero-filled and unused, its pool is empty; and since no
data passes on through it, bytes that an earlier unused entry left are zeroed and its bank units are cleared (R328; DEDUCED,
log entry 33). -/
def clearVein (s : State) (c : Nat) : State :=
  let s1 := (List.range 8).foldl (fun s n =>
    let r := regionOf (getReg s (oRegion c n)).toNat
    if r.kind = 0 || r.kind = kindCache then s
    else setReg (zeroBytes s (veinAddr c r.start) r.size) (oRegion c n) 0) s
  let kept := (List.range 8).filterMap fun n =>
    let r := regionOf (getReg s (oRegion c n)).toNat
    if r.kind = kindCache then some (r.start, r.start + r.size) else none
  let all := slabsOf s c * 0x10000
  let (lo, hi) := kept.headD (all, all)
  let s2 := zeroBytes (zeroBytes s1 (veinAddr c 0) lo) (veinAddr c hi) (all - hi)
  modVein s2 c fun v =>
    { v with unused := [], initing := [], frames := [], units := [], waiting := [], drains := [], comb := [], stCache := []
             enCache := [] }

/-- A cluster leaves its partition (R328): it is reset, its local stores are zeroed. -/
def clearCluster (s : State) (k : Nat) : State :=
  let s1 := resetUnits (syncCluster s k) k none
  (coresOf k).foldl (fun s c => clearVein (zeroLs s c) c) s1

/-- A slice leaves its partition (R328): its pages leave every page cache without write-back, and it is zero-filled. -/
def clearSlice (s : State) (i : Nat) : State :=
  let k := i / 8
  let lo := i % 8 * 0x120000000
  let keep : CachePage → Bool := fun g =>
    !(g.stack == k && decide (lo ≤ g.page * 16384) && decide (g.page * 16384 < lo + 0x120000000))
  let s1 := { s with veins := s.veins.map fun e => (e.1, { e.2 with pages := e.2.pages.filter fun g => keep g.2 }) }
  { zeroBytes s1 (farAddr k lo) 0x120000000 with chk := clearIn s1.chk (farAddr k lo) 0x120000000 }

/-- The layout that a commit puts in force, its barriers at a base the manual leaves open (R327; log entry 5). -/
def applyLayout (s : State) (p : Nat) : State :=
  let l := askedLayout s p
  let old := getPart s p
  let bases := barBases s p l.barriers
  let base := bases.getD (freeValue s 3 % bases.length) 0x100
  let held := old.clusters.filter (populatedCl s)
  let leaving := held.filter fun k => !l.clusters.contains k
  let joining := l.clusters.filter fun k => !held.contains k
  let s1 := leaving.foldl clearCluster (takeFree s)
  let s2 := ((sliceList old.slices).filter fun i => sliceHere s i && !bitNat l.slices i).foldl clearSlice s1
  let s3 := (leaving ++ joining).foldl clearCounters s2
  let s4 := (List.range l.barriers).foldl (fun s i => setBar s (0x10000 + base + i) Barrier.fresh) s3
  setRegField (setPart s4 p { l with barBase := base }) (oPartStat p) 32 11 base

/-- Report the pairs of a partition that are found in mismatch (R435, Table 14.5). -/
def checkPartPairs (s : State) (p : Nat) : State :=
  (List.range 6).foldl (fun s i =>
    if newMismatch s (oPart p i) (partPairOk s p i) then tellMismatch s (oPart p i) 3 none (sourceOf 9 0) else s) s

/-- A write of 1 to PART_CTLp.commit; a refusal for pairs that do not agree writes a record for each of them (R327, R328). -/
def commitLayout (s : State) (p : Nat) : State :=
  match commitRefusal s p with
  | none => applyLayout s p
  | some why =>
    let bad := (List.range 6).filter fun i => !partPairOk s p i
    let s1 := bad.foldl (fun s i => tellMismatch s (oPart p i) 3 none (sourceOf 9 0)) s
    setRegField (setRegField s1 (oPartStat p) 48 8 why) (oPartStat p) 9 1 1

/-- PARTITION_COMMIT. -/
def execPartitionCommit (r : Req) (p : PartId) (s : State) : Host.Outcome State Fault Refusal :=
  .next (regWrite s r (oPartCtl p.toNat) fun s => commitLayout s p.toNat)

end Sys2Proof.Machine
end

