-- ==== Sys2Proof/Machine/ClearLink.lean ====
section
/-! DEFINITION. The Clearing ports: routes, virtual channels and credits, acknowledgement and replay, retraining (R338 to
R342, R349). -/

namespace Sys2Proof.Machine

/-! ### Ports and routes (R339) -/

/-- The node address of this module. -/
def ownNode (s : State) : Nat := regField s oClrNode 0 12

/-- Whether frames may leave by a port: it is up, or retrains and will be. -/
def portOpen (s : State) (n : Nat) : Bool :=
  decide (n < 8) && ((getPort s n).state == .up || (getPort s n).state == .retraining)

/-- The primary and the alternate port of a node. -/
def routePorts (s : State) (node : Nat) : Nat × Nat :=
  let e := fieldNat (getReg s (oClrRoute (node / 8))).toNat (8 * (node % 8)) 8
  (e % 16, e / 16)

/-- The port a frame for a node leaves by (R339). -/
def clrRoute (s : State) (node : Nat) : Option Nat :=
  let (a, b) := routePorts s node
  if portOpen s a then some a else if portOpen s b then some b else none

/-- The credits of a frame: 64 bytes each (R340). -/
def frameCredits (x : Frame) : Nat := (36 + x.payload.length + 63) / 64

/-- Count a discarded frame of a port (Table 10.16). -/
def discarded (s : State) (n : Nat) : State := bump s 0x0A 6 1 (.port (n % 8))

/-! ### Sending (R340, R341) -/

/-- Whether a frame may be sent now: credit of its channel, and room in the replay buffer of 128 KiB. -/
def mayLeave (p : Port) (x : Frame) : Bool :=
  let v := x.vc.toNat
  decide (frameCredits x ≤ (p.limits.getD v 0 + 65536 - p.spent.getD v 0 % 65536) % 65536) &&
    decide (p.replay.foldl (fun n y => n + 36 + y.payload.length) (36 + x.payload.length) ≤ 131072)

/-- The waiting frames that are first of their origin and channel and may be sent, with their places. -/
def mayGo (p : Port) : List (Nat × Nat) :=
  (p.queue.zipIdx.filter fun e =>
    mayLeave p e.1.2 && !((p.queue.take e.2).any fun o => o.1 == e.1.1 && o.2.vc == e.1.2.vc)).map fun e => (e.2, e.1.1)

/-- The frame that goes next: forwarded and local frames take turns, local partitions in round-robin order. -/
def nextFrame (p : Port) : Option Nat :=
  let cs := mayGo p
  let fwd := cs.find? fun e => decide (16 ≤ e.2)
  let loc := ((List.range 16).map fun i => (p.last + 1 + i) % 16).findSome? fun o => cs.find? fun e => e.2 == o
  let (a, b) := if p.turn then (fwd, loc) else (loc, fwd)
  (a.or b).map fun e => e.1

/-- Credits of a channel given back to a port's peer. -/
def giveCredit (s : State) (n vc k : Nat) : State :=
  let p := getPort s n
  setPort s n { p with given := p.given.set vc ((p.given.getD vc 0 + k) % 65536) }

/-- Send a waiting frame: it takes the next link sequence number and stays in the replay buffer. -/
def sendWaiting (s : State) (n i : Nat) : State :=
  let p := getPort s n
  match p.queue[i]? with
  | none => s
  | some (o, x) =>
    let y := { x with lseq := BitVec.ofNat 16 p.txSeq }
    let v := x.vc.toNat
    let fwd := decide (16 ≤ o)
    let s1 := setPort s n { p with
      txSeq := (p.txSeq + 1) % 65536, spent := p.spent.set v ((p.spent.getD v 0 + frameCredits x) % 65536)
      replay := p.replay ++ [y], times := p.times ++ [elapsed s], queue := p.queue.eraseIdx i, turn := !fwd, last := if fwd then p.last else o }
    let s2 := bump (emit s1 (.frame n y)) 0x0A (if fwd then 7 else 8) x.payload.length (.port n)
    if fwd then giveCredit s2 (o - 16) v (frameCredits x) else s2

/-- Send what may be sent; the count bounds the frames. -/
def pumpPort (n : Nat) : Nat → State → State
  | 0, s => s
  | k + 1, s =>
    match if (getPort s n).state = .up then nextFrame (getPort s n) else none with
    | some i => pumpPort n k (sendWaiting s n i)
    | none => s

/-- A frame joins the frames waiting at a port. -/
def enqueueAt (s : State) (n origin : Nat) (x : Frame) : State :=
  let p := getPort s n
  pumpPort n (p.queue.length + 1) (setPort s n { p with queue := p.queue ++ [(origin, x)] })

/-- Send a frame to another node: none when it has no route. -/
def sendFrame (s : State) (origin : Nat) (x : Frame) : Option State :=
  (clrRoute s x.dst.toNat).map fun n => enqueueAt s n origin x

/-- A frame that this module originates in a partition (R339, Table 10.4). -/
def newFrame (s : State) (part type vc dst tag : Nat) : Frame where
  type := BitVec.ofNat 4 type
  vc := BitVec.ofNat 2 vc
  units := 0
  hops := BitVec.ofNat 5 (max 1 (regField s oClrCtl 33 5))
  lseq := 0
  dst := BitVec.ofNat 12 dst
  src := BitVec.ofNat 12 (ownNode s)
  domain := BitVec.ofNat 16 (getPart s part).domain
  tag := BitVec.ofNat 16 tag
  shortHm := BitVec.ofNat 32 s.hallmark
  addr := 0
  status := 0
  op := 0
  fmt := 0
  collId := 0
  stepNo := 0
  core := 0
  event := 0
  payload := []

/-- A frame with a payload. -/
def carrying (x : Frame) (bs : List Byte) : Frame :=
  { x with payload := bs, units := BitVec.ofNat 5 ((bs.length + 63) / 64) }

/-- The response to a request frame: a read response to a read request, a write response to any other (R344). -/
def responseTo (s : State) (x : Frame) (status : Nat) (bs : List Byte) : Frame :=
  let y := newFrame s 0 (if x.type = 2 then 3 else 6) 1 x.src.toNat x.tag.toNat
  { carrying y bs with domain := x.domain, status := BitVec.ofNat 8 status, addr := x.addr }

/-- Answer a request frame; an answer that has no route is discarded and counted. -/
def answer (s : State) (origin : Nat) (x : Frame) (status : Nat) (bs : List Byte) : State :=
  match sendFrame s origin (responseTo s x status bs) with
  | some s1 => s1
  | none => discarded s (routePorts s x.src.toNat).1

/-- Whether a frame is a request that is answered. -/
def frameAsks (x : Frame) : Bool := x.type == 1 || x.type == 2 || x.type == 5

/-- Answer a frame that cannot go on with LINK_DOWN: a request in the way of its response, data of a collective by a
response that names the collective (log entry 35); a response itself is not answered (R339, R342). -/
def answerLinkDown (s : State) (x : Frame) : State :=
  if frameAsks x then answer s 0 x stLinkDown []
  else if x.type = 4 then
    let y := { responseTo s x stLinkDown [] with op := x.op, collId := x.collId }
    match sendFrame s 0 y with
    | some s1 => s1
    | none => discarded s (routePorts s x.src.toNat).1
  else s

/-! ### Receiving (R341) -/

/-- The next number a port expects. -/
def Port.expects (p : Port) : Nat := (p.rxSeq + 1) % 65536

/-- A frame has been seen at a port, whatever becomes of it (R342). -/
def frameSeen (s : State) (n : Nat) : State := setPort s n { getPort s n with seen := elapsed s }

/-- What a received sequence number does: false when the frame is not delivered. A gap is answered with a nak, and its
frame is discarded and counted. A number already received is discarded (R341). -/
def accept (s : State) (n : Nat) (x : Frame) : State × Bool :=
  let p := getPort s n
  if p.state ≠ .up then (s, false)
  else if x.lseq.toNat = p.expects then
    (setPort s n { p with rxSeq := x.lseq.toNat, unacked := true, seen := elapsed s }, true)
  else if (p.expects + 65536 - x.lseq.toNat) % 65536 ≤ 32768 then (frameSeen s n, false)
  else (emit (discarded (frameSeen s n) n) (.ack n p.expects p.given true), false)

/-- Frames of the replay buffer that a sequence number does not acknowledge. -/
def notAcked (ackSeq : Nat) (xs : List Frame) : List Frame :=
  xs.filter fun x => decide ((x.lseq.toNat + 65536 - (ackSeq + 1) % 65536) % 65536 < 32768)

/-- The replay buffer and its times of sending without the frames that a sequence number acknowledges. -/
def Port.acked (p : Port) (ackSeq : Nat) : Port :=
  let left := notAcked ackSeq p.replay
  { p with replay := left, times := p.times.drop (p.replay.length - left.length) }

/-- Send the replay buffer again, each frame counted (R341). -/
def replayAll (s : State) (n : Nat) : State :=
  let xs := (getPort s n).replay
  let s1 := xs.foldl (fun s x => emit s (.frame n x)) s
  bump (addRegField s1 (oClrPcnt n) 0 32 xs.length) 0x0A 5 xs.length (.port n)

/-- An ack or an idle frame: the replay buffer shrinks, the limits are those advertised; a nak names the next expected
number, from which the sender replays (R340, R341). -/
def ackPort (s : State) (n ackSeq limits : Nat) (nak : Bool) : State :=
  let p := getPort s n
  if p.state ≠ .up then s
  else
    let last := if nak then (ackSeq + 65535) % 65536 else ackSeq
    let s1 := setPort s n { p.acked last with
      seen := elapsed s
      limits := [fieldNat limits 0 16, fieldNat limits 16 16, fieldNat limits 32 16] }
    let s2 := if nak then replayAll s1 n else s1
    pumpPort n (p.queue.length + 1) s2

/-- ACK_FRAME. -/
def execAckFrame (n : PortId) (ackSeq : BitVec 16) (limits : BitVec 48) (nak : Bool) (s : State) :
    Host.Outcome State Fault Refusal :=
  .next (ackPort s n.toNat ackSeq.toNat limits.toNat nak)

/-- IDLE_FRAME: it carries acks when nothing else flows. -/
def execIdleFrame (n : PortId) (ackSeq : BitVec 16) (limits : BitVec 48) (s : State) : Host.Outcome State Fault Refusal :=
  .next (ackPort s n.toNat ackSeq.toNat limits.toNat false)

/-- FRAME_CRC_ERROR: a nak goes out at once and names the next expected number. -/
def execFrameCrcError (n : PortId) (s : State) : Host.Outcome State Fault Refusal :=
  .next (
    let p := getPort s n.toNat
    if p.state = .up then emit (frameSeen s n.toNat) (.ack n.toNat p.expects p.given true) else s)

/-- ACK_DUE: the ack carries the last number received intact. -/
def execAckDue (n : PortId) (s : State) : Host.Outcome State Fault Refusal :=
  .next (
    let p := getPort s n.toNat
    if p.state = .up && p.unacked then
      emit (setPort s n.toNat { p with unacked := false }) (.ack n.toNat p.rxSeq p.given false)
    else s)

/-- When a port declares its path failed: 2 µs after it sent its oldest unacknowledged frame, or after the last frame that it
has seen (R342). -/
def pathDeadline (p : Port) : Nat :=
  match p.times with
  | t :: _ => min t p.seen + 2000
  | [] => p.seen + 2000

/-- LINK_CONTROL_FRAME: the peer retrains the port, and so does this end (R342). -/
def execLinkControlFrame (n : PortId) (_x : Frame) (s : State) : Host.Outcome State Fault Refusal :=
  .next (
    let p := getPort s n.toNat
    if p.state = .up then setPort s n.toNat { p with state := .retraining } else s)

/-- PATH_FAILURE: 2 µs without acknowledgement or without any frame; the port stops sending and retrains (R342). -/
def execPathFailure (n : PortId) (s : State) : Host.Outcome State Fault Refusal :=
  .next (
    let p := getPort s n.toNat
    if p.state = .up then
      addRegField (setPort (advanceTo s (pathDeadline p)) n.toNat { p with state := .retraining })
        (oClrPcnt n.toNat) 48 16 1
    else s)

end Sys2Proof.Machine
end

