-- ==== Sys2Proof/Machine/Clearing.lean ====
section
/-! DEFINITION. Clearing queues, puts, gets, signals and collectives, and the frames that arrive (R343 to R345). -/

namespace Sys2Proof.Machine

/-! ### Queues (R343, Table 10.5) -/

/-- The entries of a Clearing queue. -/
def clrSize (s : State) (p q : Nat) : Nat := 2 ^ (min 8 (regField s (oClrQctl p q) 0 4) + 4)
/-- The Clearing engine as a requester: its channel number is its queue's. -/
def clrReq (p q : Nat) : Requester := ⟨1, 4 * p + q, p, 0, true⟩
/-- op of a Clearing descriptor. -/
def clrOp (d : List Byte) : Nat := fieldNat (descField d 0 8) 0 4
/-- fmt. -/
def clrFmt (d : List Byte) : Nat := fieldNat (descField d 0 8) 4 4
/-- sig. -/
def clrSig (d : List Byte) : Bool := bitNat (descField d 0 8) 8
/-- event. -/
def clrEvent (d : List Byte) : Nat := fieldNat (descField d 0 8) 9 6
/-- notify. -/
def clrNotify (d : List Byte) : Nat := fieldNat (descField d 0 8) 15 12
/-- node. -/
def clrNode (d : List Byte) : Nat := fieldNat (descField d 0 8) 27 12
/-- prev. -/
def clrPrev (d : List Byte) : Nat := fieldNat (descField d 0 8) 39 12
/-- The local address. -/
def clrLocal (d : List Byte) : Nat := descField d 8 6
/-- The remote address of a put or a get. -/
def clrRemote (d : List Byte) : Nat := descField d 16 6
/-- bytes. -/
def clrBytes (d : List Byte) : Nat := descField d 24 4
/-- n, the members of a collective. -/
def clrN (d : List Byte) : Nat := fieldNat (descField d 24 8) 32 12 + 1
/-- r, this member's rank. -/
def clrRank (d : List Byte) : Nat := fieldNat (descField d 24 8) 44 12
/-- The collective ID. -/
def clrColl (d : List Byte) : Nat := descField d 32 4

/-- A write of CLR_QTAILpq. -/
def clrTailWrite (s : State) (p q : Nat) (w : Word) : State := setReg s (oClrQtail p q) (masked 0xFFF 0 w)

/-- CLEARING_DOORBELL. -/
def execClearingDoorbell (r : Req) (p : PartId) (q : BitVec 2) (w : Word) (s : State) :
    Host.Outcome State Fault Refusal :=
  .next (regWrite s r (oClrQtail p.toNat q.toNat) fun s => clrTailWrite s p.toNat q.toNat w)

/-- A queue that cannot be read halts with a status (Table 10.15). -/
def clrHalt (s : State) (p q status : Nat) : State :=
  setRegField (setRegField s (oClrQctl p q) 4 1 0) (oClrQctl p q) 8 8 status

/-- A descriptor completes: bytes 48 to 63, and its signal when it names a core and an event it may (R343). -/
def clrComplete (s : State) (p q : Nat) (d : List Byte) (addr status done : Nat) : State :=
  let s1 := (writeRange s (clrReq p q) (addr + 48)
    (clean (natLe 4 (s.hallmark % 2 ^ 32) ++ natLe 4 done ++ natLe 8 (status + 256))) 8).1
  let ok := clrEvent d ≤ 47 && populated s (clrNotify d) && partOf s (clrNotify d) == some p
  if clrSig d && ok then { s1 with signals := s1.signals ++ [⟨8192 + 4 * p + q, clrNotify d, clrEvent d⟩] } else s1

/-- The descriptor at a queue's head: none where the queue is not served or its memory waits; a halt where it cannot be
read. -/
def clrRead (s : State) (p q : Nat) : Option (State × Option (List Byte × Nat)) :=
  let head := regField s (oClrQhead p q) 0 12 % clrSize s p q
  let a := (getReg s (oClrQbase p q)).toNat % 2 ^ 48 / 64 * 64 + 64 * head
  let place := inPartition s p a && (match placeOf a with
    | .vein c off => (regionAt s c off).any (·.kind == kindSealed)
    | .far _ _ => true
    | _ => false)
  if !bitNat (getReg s (oClrQctl p q)).toNat 4 || head = regField s (oClrQtail p q) 0 12 then none
  else if !place then some (clrHalt s p q stPartitionFault, none)
  else match readLine s (clrReq p q) a 64 8 with
    | (s1, .ok bs []) => some (s1, some (bs.map (·.1), a))
    | (s1, .ok _ _) => some (clrHalt s1 p q stUncorrectable, none)
    | (s1, .unmapped) => some (clrHalt s1 p q stPartitionFault, none)
    | (s1, .refused) => some (clrHalt s1 p q stPartitionFault, none)
    | _ => none

/-- The head has been taken, and its queue has had its turn. -/
def clrAdvance (s : State) (p q : Nat) : State :=
  setReg { s with clrLast := 4 * p + q } (oClrQhead p q) (BitVec.ofNat 64 ((regField s (oClrQhead p q) 0 12 + 1) % clrSize s p q))

/-- Whether a descriptor may be taken beside what its queue has in flight: up to 64 puts, gets and signals together, a
collective alone (R343). -/
def clrMayTake (s : State) (p q : Nat) (coll : Bool) : Bool :=
  let mine := s.clrOps.filter fun o => o.part == p && o.q == q
  !(s.colls.any fun c => c.part == p && c.q == q) && (if coll then mine.isEmpty else decide (mine.length < 64))

/-- Whether a queue's head can be served now: its descriptor may be taken, or the queue halts because it cannot be read. -/
def clrReady (s : State) (k : Nat) : Bool :=
  match clrRead s (k / 4) (k % 4) with
  | none => false
  | some (_, none) => true
  | some (_, some (d, _)) => clrMayTake s (k / 4) (k % 4) (decide (4 ≤ clrOp d ∧ clrOp d ≤ 8))

/-- The queues are served in round-robin order by descriptor: the first after the one served last whose head can be served
is the queue whose turn it is (R343). -/
def clrTurn (s : State) (p q : Nat) : Bool :=
  (((List.range 64).map fun i => (s.clrLast + 1 + i) % 64).find? (clrReady s)) == some (4 * p + q)

/-- Whether a descriptor's sig names an event or a core that it may not (R343). -/
def clrBadSig (s : State) (p : Nat) (d : List Byte) : Bool :=
  clrSig d && (decide (47 < clrEvent d) || !populated s (clrNotify d) || partOf s (clrNotify d) != some p)

/-! ### Incoming requests (R344) -/

/-- The partition whose Clearing domain is the frame's. -/
def domainPart (s : State) (domain : Nat) : Option Nat :=
  if domain = 0 then none else (List.range 16).find? fun p => (getPart s p).domain == domain

/-- Record a failed check in CLR_VIOL, and count it (Tables 10.12 and 10.16). -/
def clrViol (s : State) (why node what : Nat) : State :=
  let w := (getReg s oClrViol).toNat
  let s1 := if bitNat w 63 then setRegField s oClrViol 62 1 1
    else setReg s oClrViol (BitVec.ofNat 64 (2 ^ 63 + why * 2 ^ 60 + node * 2 ^ 48 + what % 2 ^ 48))
  bump s1 0x0A 9 1 .device

/-- A write, read request or signal is checked and applied: none while its target waits; the status and the bytes read. A
signal above event 47 fails the check, because hardware alone sets those (R86, R344; log entry 34). -/
def serveFrame (s : State) (n : Nat) (x : Frame) : Option (State × Nat × List Byte) :=
  let what := if x.type = 5 then x.core.toNat else x.addr.toNat
  let fail : State → Nat → Option (State × Nat × List Byte) := fun s why =>
    some (clrViol s why x.src.toNat what, stPartitionFault, [])
  match domainPart s x.domain.toNat with
  | none => fail s 1
  | some p =>
    let q : Requester := ⟨1, n, p, if n < 8 then n / 2 else 0, true⟩
    let len := if x.type = 2 then 64 * x.units.toNat else x.payload.length
    let a := x.addr.toNat
    if x.type = 5 then
      if !populated s x.core.toNat || partOf s x.core.toNat ≠ some p || 47 < x.event.toNat then fail s 2
      else if !takesEvents s x.core.toNat then some (s, stTargetReset, [])
      else some (signalEvent s x.core.toNat x.event.toNat, stOk, [])
    else if !(piecesOf a len).all fun e => inPartition s p e.1 && populatedPlace s (placeOf e.1) then fail s 2
    else if x.type = 2 then
      match readRange s q a len 8 with
      | (_, _, _, some (_, .wait)) => none
      | (s1, _, _, some (_, .refused)) => fail s1 3
      | (s1, _, _, some (_, e)) => some (s1, statusOf e, [])
      | (s1, bs, lost, none) => some (s1, if lost.isEmpty then stOk else stUncorrectable, bs.map (·.1))
    else
      match writeRange s q a (clean x.payload) 13 with
      | (_, _, some (_, .wait)) => none
      | (s1, _, some (_, .refused)) => fail s1 3
      | (s1, _, some (_, e)) => some (s1, statusOf e, [])
      | (s1, bad, none) => some (s1, if bad.isEmpty then stOk else stUncorrectable, [])

/-! ### Puts, gets and signals (R344) -/

/-- An answer to bytes of an operation: what a get brought is written locally; the first status that is not OK stays. None
while the local memory waits. -/
def clrAnswer (s : State) (o : ClrOp) (off len st : Nat) (bs : List Byte) : Option (State × ClrOp) :=
  let fail : ClrOp → Nat → ClrOp := fun o st => if o.status = 0 then { o with status := st } else o
  if o.kind = 2 && (st = stOk || st = stUncorrectable) && !bs.isEmpty then
    match writeRange s (clrReq o.part o.q) (clrLocal o.desc + off) (bs.map fun b => (b, st == stUncorrectable)) 8 with
    | (_, _, some (_, .wait)) => none
    | (s1, _, some (_, e)) => some (s1, fail o (statusOf e))
    | (s1, bad, none) =>
      some (s1, if st = stOk && bad.isEmpty then { o with done := o.done + len } else fail o stUncorrectable)
  else some (s, if st = stOk then { o with done := o.done + len } else fail o st)

/-- The next frame of an operation: up to 1,024 bytes; bytes that cannot be read locally end it. None while it waits. -/
def clrPiece (s : State) (o : ClrOp) : Option (State × ClrOp) :=
  let d := o.desc
  let len := min 1024 (o.total - o.next)
  let ends : Nat → Option (State × ClrOp) := fun st => some (s, { o with status := st })
  let go : State → Frame → Option (State × ClrOp) := fun s1 x =>
    let o1 := { o with next := o.next + len, sent := true }
    if clrNode d = ownNode s then
      match serveFrame s1 8 x with
      | none => none
      | some (s2, st, bs) => clrAnswer s2 o1 o.next len st bs
    else match sendFrame { s1 with clrTag := (s.clrTag + 1) % 65536 } o.part x with
      | none => some (discarded s1 (routePorts s1 (clrNode d)).1, { o1 with status := stLinkDown })
      | some s2 => some (s2, { o1 with frames := o.frames ++ [(s.clrTag, o.next, len)], at_ := elapsed s })
  if s.clrOps.any fun p => p.frames.any (·.1 == s.clrTag) then none
  else if o.kind = 3 then
    go s { newFrame s o.part 5 0 (clrNode d) s.clrTag with
      core := BitVec.ofNat 12 (fieldNat (descField d 16 8) 0 12), event := BitVec.ofNat 6 (fieldNat (descField d 16 8) 12 6) }
  else
    let a := clrLocal d + o.next
    let x := { newFrame s o.part o.kind 0 (clrNode d) s.clrTag with addr := BitVec.ofNat 48 (clrRemote d + o.next) }
    if !(piecesOf a len).all fun e => inPartition s o.part e.1 && populatedPlace s (placeOf e.1) then ends stPartitionFault
    else if o.kind = 2 then go s { x with units := BitVec.ofNat 5 (len / 64) }
    else match readRange s (clrReq o.part o.q) a len 8 with
      | (_, _, _, some (_, .wait)) => none
      | (s1, _, _, some (_, e)) => some (s1, { o with status := statusOf e })
      | (s1, bs, lost, none) =>
        if lost.isEmpty then go s1 (carrying x (bs.map (·.1))) else some (s1, { o with status := stUncorrectable })

/-- The frames of an operation, at most 16 without an answer; the count bounds them. -/
def clrPieces : Nat → State → ClrOp → State × ClrOp
  | 0, s, o => (s, o)
  | n + 1, s, o =>
    if o.status ≠ 0 || 16 ≤ o.frames.length || (if o.kind = 3 then o.sent else o.total ≤ o.next) then (s, o)
    else match clrPiece s o with
      | none => (s, o)
      | some (s1, o1) => clrPieces n s1 o1

/-- Whether an operation has ended: nothing is left to send, or it has failed, and every frame is answered. -/
def clrEnded (o : ClrOp) : Bool :=
  o.frames.isEmpty && (o.status != 0 || (if o.kind = 3 then o.sent else decide (o.total ≤ o.next)))

/-- Replace operation i, or end it. -/
def clrSettle (s : State) (i : Nat) (o : ClrOp) : State :=
  if clrEnded o then clrComplete { s with clrOps := s.clrOps.eraseIdx i } o.part o.q o.desc o.addr o.status o.done
  else { s with clrOps := s.clrOps.set i o }

/-- Whether a signal waits for an earlier put of its queue to the same node (R344). -/
def clrBehind (s : State) (i : Nat) (o : ClrOp) : Bool :=
  o.kind == 3 && (s.clrOps.take i).any fun p =>
    p.kind == 1 && p.part == o.part && p.q == o.q && clrNode p.desc == clrNode o.desc

/-- Go on with operation i. -/
def clrGo (s : State) (i : Nat) : State :=
  match s.clrOps[i]? with
  | none => s
  | some o =>
    if clrBehind s i o then s
    else
      let (s1, o1) := clrPieces (o.total / 1024 + 2) s o
      clrSettle s1 i o1

/-- Go on with every operation, from the youngest, so that places stay. -/
def clrGoAll (s : State) : State := (List.range s.clrOps.length).reverse.foldl clrGo s

/-- The same twice: an operation that ends may let a signal go. -/
def clrKick (s : State) : State := clrGoAll (clrGoAll s)

/-- Take a put, get or signal at a queue's head. An op that Table 10.5 does not assign goes with the puts and completes with
ABORTED, as does an address or a length that it does not allow and an event above 47 (log entry 31). -/
def clrTake (s : State) (p q kind : Nat) : State :=
  match clrRead s p q with
  | none => clrKick s
  | some (s1, none) => s1
  | some (s1, some (d, a)) =>
    let odd := clrOp d = 0 || 8 < clrOp d
    if !(clrOp d = kind || (kind = 1 && odd)) || !clrMayTake s p q false || !clrTurn s p q then clrKick s
    else
      let s2 := clrAdvance s1 p q
      let bad := odd || clrBadSig s2 p d || (if kind = 3 then decide (47 < fieldNat (descField d 16 8) 12 6)
        else clrLocal d % 64 != 0 || clrRemote d % 64 != 0 || clrBytes d % 64 != 0)
      if bad then clrComplete s2 p q d a stAborted 0
      else
        let o : ClrOp := ⟨p, q, kind, d, a, 0, if kind = 3 then 0 else clrBytes d, 0, [], 0, elapsed s2, false⟩
        clrKick { s2 with clrOps := s2.clrOps ++ [o] }

/-- PUT. -/
def execPut (p : PartId) (q : BitVec 2) (s : State) : Host.Outcome State Fault Refusal :=
  .next (clrTake s p.toNat q.toNat 1)
/-- GET. -/
def execGet (p : PartId) (q : BitVec 2) (s : State) : Host.Outcome State Fault Refusal :=
  .next (clrTake s p.toNat q.toNat 2)
/-- CLEARING_SIGNAL. -/
def execClearingSignal (p : PartId) (q : BitVec 2) (s : State) : Host.Outcome State Fault Refusal :=
  .next (clrTake s p.toNat q.toNat 3)

/-! ### Collectives (R345) -/

/-- The bytes of a collective; a barrier has one block. -/
def collBytes (d : List Byte) : Nat := if clrOp d = 8 then 64 else clrBytes d
/-- Where chunk i lies, and its length: the last chunks are shorter or empty. -/
def collChunk (d : List Byte) (i : Nat) : Nat × Nat :=
  let size := (collBytes d + 64 * clrN d - 1) / (64 * clrN d) * 64
  let lo := min (collBytes d) (i % clrN d * size)
  (lo, min size (collBytes d - lo))

/-- What a step does: what it sends, what it receives, whether it adds, whether it sends only what it has received. -/
structure CollStep where
  send : Nat × Nat
  recv : Nat × Nat
  adds : Bool
  late : Bool

/-- Step t of a reduce-scatter for rank r of n. -/
def stepReduce (d : List Byte) (t : Nat) : CollStep :=
  let n := clrN d
  let r := clrRank d
  ⟨collChunk d (r + n - t), collChunk d (r + 2 * n - t - 1), true, false⟩
/-- Step t of an all-gather. -/
def stepGather (d : List Byte) (t : Nat) : CollStep :=
  let n := clrN d
  let r := clrRank d
  ⟨collChunk d (r + 1 + n - t), collChunk d (r + n - t), false, false⟩
/-- Step t of a broadcast: a piece of 64 KiB passes from rank to rank. -/
def stepBroadcast (d : List Byte) (t : Nat) : CollStep :=
  let piece := (t * 65536, min 65536 (clrBytes d - t * 65536))
  let none_ := (t * 65536, 0)
  ⟨if clrRank d + 1 < clrN d then piece else none_, if clrRank d = 0 then none_ else piece, false, clrRank d != 0⟩

/-- The number of steps of a collective. -/
def collSteps (d : List Byte) : Nat :=
  match clrOp d with
  | 4 => 2 * (clrN d - 1)
  | 8 => 2 * (clrN d - 1)
  | 7 => (clrBytes d + 65535) / 65536
  | _ => clrN d - 1

/-- A step of a collective; an all-reduce numbers its all-gather's steps on from its reduce-scatter's (log entry 35). -/
def collStep (d : List Byte) (t : Nat) : CollStep :=
  match clrOp d with
  | 5 => stepReduce d t
  | 6 => stepGather d t
  | 7 => stepBroadcast d t
  | _ => if t < clrN d - 1 then stepReduce d t else stepGather d (t - (clrN d - 1))

/-- The sum of two elements of fmt (R345, R52): FP32, BF16 through FP32, INT32 with saturation. -/
def collAdd (fmt a b : Nat) : Nat :=
  match fmt with
  | 0 => add32 a b
  | 1 => (encodeIeee (floatFmt 1) .even (decodeFloat (floatFmt 0) (add32 (a * 65536) (b * 65536)))).1
  | _ => (((satAdd32 (signed 32 a) (signed 32 b)).1 + 2 ^ 32) % 2 ^ 32).toNat

/-- Element by element: received value + own. -/
def collSum (fmt : Nat) (got own : List Byte) : List Byte :=
  let w := if fmt = 1 then 2 else 4
  ((groupsOf w got).zip (groupsOf w own)).flatMap fun e => natLe w (collAdd fmt (leNat e.1) (leNat e.2))

/-- Own bytes of a collective: none while they wait; a status when they cannot be read. A barrier keeps its block. -/
def collGet (s : State) (c : Collective) (off n : Nat) : Option (State × (List Byte ⊕ Nat)) :=
  if clrOp c.desc = 8 then some (s, .inl (((c.scratch ++ List.replicate 64 0).drop off).take n))
  else
    let a := clrLocal c.desc + off
    if insidePart s c.part a n < n then some (s, .inr stPartitionFault)
    else match readRange s (clrReq c.part c.q) a n 8 with
      | (_, _, _, some (_, .wait)) => none
      | (s1, _, _, some (_, e)) => some (s1, .inr (statusOf e))
      | (s1, bs, lost, none) => some (s1, if lost.isEmpty then .inl (bs.map (·.1)) else .inr stUncorrectable)

/-- Write own bytes of a collective. -/
def collPut (s : State) (c : Collective) (off : Nat) (bs : List Byte) : Option (State × Collective × Option Nat) :=
  if clrOp c.desc = 8 then
    let x := (c.scratch ++ List.replicate 64 0).take 64
    some (s, { c with scratch := x.take off ++ bs ++ x.drop (off + bs.length) }, none)
  else
    let a := clrLocal c.desc + off
    if insidePart s c.part a bs.length < bs.length then some (s, c, some stPartitionFault)
    else match writeRange s (clrReq c.part c.q) a (clean bs) 8 with
      | (_, _, some (_, .wait)) => none
      | (s1, _, some (_, e)) => some (s1, c, some (statusOf e))
      | (s1, bad, none) => some (s1, c, if bad.isEmpty then none else some stUncorrectable)

/-- A frame of a collective: its tag carries the queue number, which every member shares (log entry 35). -/
def collFrame (s : State) (c : Collective) (bs : List Byte) : Frame :=
  { carrying (newFrame s c.part 4 2 (clrNode c.desc) c.q) bs with
    op := BitVec.ofNat 4 (clrOp c.desc), fmt := BitVec.ofNat 4 (clrFmt c.desc), collId := BitVec.ofNat 16 (clrColl c.desc)
    stepNo := BitVec.ofNat 12 c.step }

/-- Send the bytes of a step, frame by frame; none where there is no route. A frame for this module's own node waits in the
staging buffer. -/
def collSend (s : State) (c : Collective) (bs : List Byte) : Option State :=
  (groupsOf 1024 bs).foldl (fun r b => r.bind fun s =>
    let x := collFrame s c b
    if clrNode c.desc = ownNode s then some { s with staging := s.staging ++ [(none, x)] }
    else sendFrame s c.part x) (some s)

/-- Whether a staged frame is for a queue of a partition. -/
def stagedFor (s : State) (p q : Nat) (x : Frame) : Bool :=
  x.tag.toNat == q && domainPart s x.domain.toNat == some p

/-- The bytes in the staging buffer. -/
def stagedBytes (s : State) : Nat := s.staging.foldl (fun n e => n + e.2.payload.length) 0

/-- Credit withheld while the staging buffer was full is given back as it empties (R345). -/
def creditStaged (s : State) : State :=
  if 2 ^ 21 ≤ stagedBytes s then s
  else
    let s1 := s.staging.foldl (fun s e => match e.1 with
      | some n => giveCredit s n 2 (frameCredits e.2)
      | none => s) s
    { s1 with staging := s1.staging.map fun e => (none, e.2) }

/-- The first staged frame for a queue, taken out. -/
def unstage (s : State) (p q : Nat) : Option (State × Frame) :=
  (s.staging.findIdx? fun e => stagedFor s p q e.2).bind fun i =>
    (s.staging[i]?).map fun e =>
      let s1 := match e.1 with
        | some n => giveCredit s n 2 (frameCredits e.2)
        | none => s
      (creditStaged { s1 with staging := s1.staging.eraseIdx i }, e.2)

/-- A collective leaves and its descriptor completes. -/
def collEnd (s : State) (c : Collective) (st : Nat) : State :=
  clrComplete { s with colls := s.colls.filter fun x => !(x.part == c.part && x.q == c.q) } c.part c.q c.desc c.addr st
    (if st = stOk then clrBytes c.desc else 0)

/-- Tell the member that sent a frame that the collective has failed (log entry 35). -/
def collRefuse (s : State) (c : Collective) (x : Frame) : State :=
  let y := { newFrame s c.part 6 1 x.src.toNat c.q with
    status := BitVec.ofNat 8 stAborted, op := BitVec.ofNat 4 (clrOp c.desc), collId := x.collId }
  (sendFrame s c.part y).getD s

/-- How a frame or a step of a collective ends: the collective goes on, waits, or ends with a status. -/
inductive CollRes where
  | go (s : State) (c : Collective)
  | wait
  | stop (s : State) (st : Nat)

/-- A frame of data reaches a posted collective: reduced or stored, or discarded when its ID, its operation or its step does
not match (R345). -/
def collTake (s : State) (c : Collective) (x : Frame) : CollRes :=
  let p := collStep c.desc c.step
  let n := x.payload.length
  if x.collId.toNat ≠ clrColl c.desc % 65536 || x.stepNo.toNat ≠ c.step % 4096 || x.op.toNat ≠ clrOp c.desc ||
      x.fmt.toNat ≠ clrFmt c.desc || p.recv.2 < c.got + n || n = 0 then
    .stop (collRefuse s c x) stAborted
  else
    let off := p.recv.1 + c.got
    let store : State → List Byte → CollRes := fun s bs =>
      match collPut s c off bs with
      | none => .wait
      | some (s1, c1, none) => .go s1 { c1 with got := c.got + n }
      | some (s1, _, some st) => .stop s1 st
    if !p.adds then store s x.payload
    else match collGet s c off n with
      | none => .wait
      | some (s1, .inl own) => store s1 (collSum (clrFmt c.desc) x.payload own)
      | some (s1, .inr st) => .stop s1 st

/-- Send the bytes of the present step. -/
def collSendStep (s : State) (c : Collective) : CollRes :=
  let p := collStep c.desc c.step
  if p.send.2 = 0 then .go s { c with sent := true }
  else match collGet s c p.send.1 p.send.2 with
    | none => .wait
    | some (s1, .inr st) => .stop s1 st
    | some (s1, .inl bs) =>
      match collSend s1 c bs with
      | none => .stop (discarded s1 (routePorts s1 (clrNode c.desc)).1) stLinkDown
      | some s2 => .go s2 { c with sent := true }

/-- One action of a collective: send, take a staged frame, pass to the next step; none when it waits for a frame. -/
def collAct (s : State) (c : Collective) : Option CollRes :=
  let p := collStep c.desc c.step
  if !c.sent && !p.late then some (collSendStep s c)
  else if c.got < p.recv.2 then (unstage s c.part c.q).map fun e => collTake e.1 c e.2
  else if !c.sent then some (collSendStep s c)
  else some (.go s { c with step := c.step + 1, sent := false, got := 0, at_ := elapsed s })

/-- Go on with a collective as far as it goes; the count bounds its actions. -/
def collRun : Nat → State → Collective → State
  | 0, s, _ => s
  | k + 1, s, c =>
    let keep : State := { s with colls := s.colls.map fun x => if x.part = c.part && x.q = c.q then c else x }
    if collSteps c.desc ≤ c.step then collEnd s c stOk
    else match collAct s c with
      | none => keep
      | some .wait => keep
      | some (.stop s1 st) => collEnd s1 c st
      | some (.go s1 c1) => collRun k s1 c1

/-- Go on with the collective of a queue. -/
def collGo (s : State) (p q : Nat) : State :=
  match s.colls.find? fun c => c.part == p && c.q == q with
  | none => s
  | some c => collRun (3 * collSteps c.desc + s.staging.length + 3) s c

/-- Whether a collective descriptor asks for what Table 10.5 and R345 give: a rank below n, a format it can add in, whole
blocks (log entry 31). -/
def collBad (d : List Byte) : Bool :=
  let fmtBad := (clrOp d == 4 || clrOp d == 5) && !(clrFmt d == 0 || clrFmt d == 1 || clrFmt d == 0xD)
  decide (clrN d ≤ clrRank d) || fmtBad || clrLocal d % 64 != 0 || clrBytes d % 64 != 0

/-- Take a collective at a queue's head, or go on with the one in progress. -/
def collTakeOp (s : State) (p q op : Nat) : State :=
  if s.colls.any fun c => c.part == p && c.q == q && clrOp c.desc == op then collGo s p q
  else match clrRead s p q with
    | none => s
    | some (s1, none) => s1
    | some (s1, some (d, a)) =>
      if clrOp d ≠ op || !clrMayTake s p q true || !clrTurn s p q then s
      else
        let s2 := clrAdvance s1 p q
        if clrBadSig s2 p d || collBad d then clrComplete s2 p q d a stAborted 0
        else collGo { s2 with colls := s2.colls ++ [⟨p, q, d, a, 0, false, 0, [], elapsed s2⟩] } p q

/-- ALL_REDUCE. -/
def execAllReduce (p : PartId) (q : BitVec 2) (s : State) : Host.Outcome State Fault Refusal :=
  .next (collTakeOp s p.toNat q.toNat 4)
/-- REDUCE_SCATTER. -/
def execReduceScatter (p : PartId) (q : BitVec 2) (s : State) : Host.Outcome State Fault Refusal :=
  .next (collTakeOp s p.toNat q.toNat 5)
/-- ALL_GATHER. -/
def execAllGather (p : PartId) (q : BitVec 2) (s : State) : Host.Outcome State Fault Refusal :=
  .next (collTakeOp s p.toNat q.toNat 6)
/-- BROADCAST. -/
def execBroadcast (p : PartId) (q : BitVec 2) (s : State) : Host.Outcome State Fault Refusal :=
  .next (collTakeOp s p.toNat q.toNat 7)
/-- BARRIER_COLLECTIVE. -/
def execBarrierCollective (p : PartId) (q : BitVec 2) (s : State) : Host.Outcome State Fault Refusal :=
  .next (collTakeOp s p.toNat q.toNat 8)

/-- COLLECTIVE_STEP_TIMEOUT: a step has waited ctime ms. -/
def execCollectiveStepTimeout (p : PartId) (q : BitVec 2) (s : State) : Host.Outcome State Fault Refusal :=
  .next (
    let ms := regField s oClrCtl 16 16
    match s.colls.find? fun c => c.part == p.toNat && c.q == q.toNat with
    | none => s
    | some c => if ms = 0 then s else collEnd (advanceTo s (c.at_ + ms * 1000000)) c stAborted)

/-! ### Frames that arrive (R339, R344, R345) -/

/-- A frame for this node of one of the given types: accepted by its number, then handled; its credit goes back once it
has been (R340, R341). A frame whose target waits stays in the receive buffer. -/
def onFrame (s : State) (n : Nat) (x : Frame) (type : Nat) (f : State → Option State) : State :=
  if x.type.toNat ≠ type || x.dst.toNat ≠ ownNode s then s
  else match accept s n x with
    | (s1, false) => s1
    | (s1, true) =>
      match f s1 with
      | none => s
      | some s2 => giveCredit (bump s2 0x0A 8 x.payload.length (.port n)) n x.vc.toNat (frameCredits x)

/-- A request is served and answered (R344). -/
def requestFrame (s : State) (n : Nat) (x : Frame) (type : Nat) : State :=
  onFrame s n x type fun s => (serveFrame s n x).map fun (s1, st, bs) =>
    answer s1 ((domainPart s x.domain.toNat).getD 0) x st bs

/-- WRITE_FRAME. -/
def execWriteFrame (n : PortId) (x : Frame) (s : State) : Host.Outcome State Fault Refusal :=
  .next (requestFrame s n.toNat x 1)
/-- READ_REQUEST_FRAME. -/
def execReadRequestFrame (n : PortId) (x : Frame) (s : State) : Host.Outcome State Fault Refusal :=
  .next (requestFrame s n.toNat x 2)
/-- SIGNAL_FRAME. -/
def execSignalFrame (n : PortId) (x : Frame) (s : State) : Host.Outcome State Fault Refusal :=
  .next (requestFrame s n.toNat x 5)

/-- A response finds its operation by its tag; one that finds none is dropped. -/
def clrResponse (s : State) (x : Frame) : Option State :=
  let t := x.tag.toNat
  match s.clrOps.findIdx? fun o => o.frames.any (·.1 == t) with
  | none => some s
  | some i =>
    match s.clrOps[i]? with
    | none => some s
    | some o =>
      match o.frames.find? (·.1 == t) with
      | none => some s
      | some (_, off, len) =>
        (clrAnswer s { o with frames := o.frames.filter (·.1 != t) } off len x.status.toNat x.payload).map fun (s1, o1) =>
          clrKick (clrSettle s1 i o1)

/-- READ_RESPONSE_FRAME. -/
def execReadResponseFrame (n : PortId) (x : Frame) (s : State) : Host.Outcome State Fault Refusal :=
  .next (onFrame s n.toNat x 3 fun s => clrResponse s x)

/-- WRITE_RESPONSE_FRAME: it completes a put or a signal; one that names a collective tells its member that it has failed
(log entry 35). -/
def execWriteResponseFrame (n : PortId) (x : Frame) (s : State) : Host.Outcome State Fault Refusal :=
  .next (onFrame s n.toNat x 6 fun s =>
    if x.op = 0 then clrResponse s x
    else some (match s.colls.find? fun c => stagedFor s c.part c.q x && clrColl c.desc % 65536 == x.collId.toNat with
      | some c => collEnd s c (if x.status = 0 then stAborted else x.status.toNat)
      | none => s))

/-- COLLECTIVE_DATA_FRAME: the frame waits in the staging buffer until the collective of its queue takes it, at once where
that is posted; while the buffer is full its credit is withheld (R345). -/
def execCollectiveDataFrame (n : PortId) (x : Frame) (s : State) : Host.Outcome State Fault Refusal :=
  .next (
    if x.type.toNat ≠ 4 || x.dst.toNat ≠ ownNode s then s
    else match accept s n.toNat x with
      | (s1, false) => s1
      | (s1, true) =>
        let s2 := bump s1 0x0A 8 x.payload.length (.port n.toNat)
        match domainPart s x.domain.toNat with
        | none => giveCredit s2 n.toNat 2 (frameCredits x)
        | some p =>
          let full := decide (2 ^ 21 ≤ stagedBytes s2)
          let s3 := { s2 with staging := s2.staging ++ [(if full then some n.toNat else none, x)] }
          collGo (if full then s3 else giveCredit s3 n.toNat 2 (frameCredits x)) p x.tag.toNat)

/-- FORWARDED_FRAME: a frame for another node leaves by its route with one hop less; one with no hops left is discarded and
counted, as is every one while fwd is 0; one without a route is answered with LINK_DOWN (R339). -/
def execForwardedFrame (n : PortId) (x : Frame) (s : State) : Host.Outcome State Fault Refusal :=
  .next (
    if x.dst.toNat = ownNode s || 6 < x.type.toNat then s
    else match accept s n.toNat x with
      | (s1, false) => s1
      | (s1, true) =>
        let s2 := bump s1 0x0A 7 x.payload.length (.port n.toNat)
        let gone : State := discarded (giveCredit s2 n.toNat x.vc.toNat (frameCredits x)) n.toNat
        if x.hops = 0 || !bitNat (getReg s oClrCtl).toNat 32 then gone
        else match sendFrame s2 (16 + n.toNat) { x with hops := x.hops - 1 } with
          | some s3 => s3
          | none => answerLinkDown gone x)

/-- END_TO_END_TIMEOUT: no response to a frame within e2e µs (R344). -/
def execEndToEndTimeout (tag : BitVec 16) (s : State) : Host.Outcome State Fault Refusal :=
  .next (match s.clrOps.findIdx? fun o => o.frames.any (·.1 == tag.toNat) with
    | none => s
    | some i =>
      match s.clrOps[i]? with
      | none => s
      | some o =>
        let s1 := advanceTo s (o.at_ + 1000 * max 1 (regField s oClrCtl 0 16))
        clrKick (clrSettle s1 i { o with frames := [], status := stLinkDown }))

/-! ### Ports that go down (R342, R349) -/

/-- The operations that had a frame of a list complete with LINK_DOWN. -/
def failFrames (s : State) (xs : List Frame) : State :=
  let mine := xs.filter fun x => x.src.toNat == ownNode s
  let hit : ClrOp → Bool := fun o => o.frames.any fun f => mine.any fun x => frameAsks x && x.tag.toNat == f.1
  let s1 := { s with clrOps := s.clrOps.map fun o => if hit o then { o with frames := [], status := stLinkDown } else o }
  let s2 := s1.colls.foldl (fun s c =>
    if mine.any fun x => x.type == 4 && stagedFor s c.part c.q x then collEnd s c stLinkDown else s) s1
  clrKick s2

/-- A frame that waited at a port that has gone down leaves by its other route, or is discarded and answered. -/
def rerouteFrame (s : State) (e : Nat × Frame) : State :=
  match sendFrame s e.1 e.2 with
  | some s1 => s1
  | none =>
    let s1 := discarded s (if 16 ≤ e.1 then e.1 - 16 else (routePorts s e.2.dst.toNat).1)
    if e.1 < 16 then failFrames s1 [e.2]
    else
      let s2 := giveCredit s1 (e.1 - 16) e.2.vc.toNat (frameCredits e.2)
      answerLinkDown s2 e.2

/-- A port goes down or is disabled: its replay buffer is discarded and counted, and each operation that had a frame there
completes at its origin with LINK_DOWN (R342). -/
def portDown (s : State) (n : Nat) (st : PortState) : State :=
  let p := getPort s n
  let s1 := setPort s n { p with state := st, replay := [], times := [], queue := [], fails := 0 }
  let s2 := bump s1 0x0A 6 p.replay.length (.port n)
  let s3 := (p.replay.filter fun x => x.src.toNat != ownNode s).foldl answerLinkDown (failFrames s2 p.replay)
  p.queue.foldl rerouteFrame s3

/-- PORT_RETRAIN_END: each end replays from the peer's last acknowledged number; three failures in a row take the port down.
A port runs on four lanes, on lanes 0 and 1, or on lanes 2 and 3 (R338, R342). -/
def execPortRetrainEnd (n : PortId) (ok : Bool) (lanes : BitVec 4) (peerAck : BitVec 16) (s : State) :
    Host.Outcome State Fault Refusal :=
  .next (
    let k := n.toNat
    let p := getPort s k
    let l := lanes.toNat
    let use := if l = 15 then 15 else if l % 4 = 3 then 3 else if 12 ≤ l then 12 else 0
    if p.state ≠ .retraining then s
    else
      let s1 := addRegField s (oClrPcnt k) 32 16 1
      if ok && use ≠ 0 then
        let q := p.acked peerAck.toNat
        let s2 := setPort s1 k { q with
          state := .up, lanes := use, fails := 0, times := q.times.map fun _ => elapsed s, seen := elapsed s }
        pumpPort k (p.queue.length + 1) (replayAll s2 k)
      else if p.fails + 1 < 3 then setPort s1 k { p with fails := p.fails + 1 }
      else ledger (portDown s1 k .down) 0x0601 sevError none (sourceOf 6 k) [])

/-- A write of CLR_PCTLn: up retrains a port that is down, disable disables a port (Table 10.12). -/
def portCtl (s : State) (n bits : Nat) : State :=
  let p := getPort s n
  if bitNat bits 1 then (if p.state = .disabled then s else portDown s n .disabled)
  else if bitNat bits 0 && p.state == .down then
    setPort s n { Port.trained with state := .retraining, lanes := p.lanes }
  else s

/-- CLR_PCTLn. -/
def oClrPctl (n : Nat) : Nat := 0xA0108 + n * 0x20

/-- PORT_UP. -/
def execPortUp (r : Req) (n : PortId) (s : State) : Host.Outcome State Fault Refusal :=
  .next (regWrite s r (oClrPctl n.toNat) fun s => portCtl s n.toNat 1)
/-- PORT_DISABLE. -/
def execPortDisable (r : Req) (n : PortId) (s : State) : Host.Outcome State Fault Refusal :=
  .next (regWrite s r (oClrPctl n.toNat) fun s => portCtl s n.toNat 2)

/-- Clearing queues of a partition complete their descriptors in flight with ABORTED, and their run bits are cleared
(R337). -/
def clrStop (s : State) (p : Nat) : State :=
  let s1 := (s.clrOps.filter (·.part == p)).foldl (fun s o => clrComplete s p o.q o.desc o.addr stAborted o.done)
    { s with clrOps := s.clrOps.filter (·.part != p) }
  let s2 := (s1.colls.filter (·.part == p)).foldl (fun s c => collEnd s c stAborted) s1
  (List.range 4).foldl (fun s q => setRegField s (oClrQctl p q) 4 1 0) s2

end Sys2Proof.Machine
end

