-- ==== Sys2Proof/Machine/HostReset.lean ====
section
/-! DEFINITION. Function-level and conventional resets (R337, R496), and PERST# (R415). -/

namespace Sys2Proof.Machine

/-- Steps 3 and 4 of an FLR for a partition: its jobs are stopped without records, its remint ring and its Clearing queues
complete what is in flight with ABORTED, and their run bits are cleared (R337). -/
def stopPartition (s : State) (p : Nat) : State :=
  let s1 := (s.jobs.filter (·.part == p)).foldl (fun s j => stopJob s j stAborted 0 true) s
  let s2 := (List.range 4).foldl (fun s d => setRegField (remStop s d p stAborted) (oRemRctl d p) 8 1 0) s1
  clrStop s2 p

/-- Step 5: the function's HIF registers and MSI-X table at their reset values; its rings forget what they held; its trace
channels are disabled and emptied (R337, R496). -/
def resetFunction (s : State) (f : Nat) : State :=
  let s1 := resetRegs (resetRegs s (oHif f) 0x400) (oMsix f 0 0) 0x200
  let s2 := setFunc s1 f { Func.idle with cmbBusy := (getFunc s f).cmbBusy }
  (partClusters s2 f).foldl (fun s k =>
    setRegField (modCl s k fun x => { x with trace := [], traceLost := 0 }) (oTrCtl k) 0 1 0) s2

/-- The reset of one function and its partition. -/
def flrOne (s : State) (f : Nat) : State := resetFunction (stopPartition s f) f

/-- An FLR of the PF or a conventional reset: every partition, and VF Enable is cleared; the layouts are kept. -/
def flrAll (s : State) : State :=
  let s1 := (List.range 16).foldl flrOne s
  { s1 with start := { s1.start with vfs := false } }

/-- Whether a function has a read of host memory outstanding. -/
def readsOut (s : State) (f : Nat) : Bool := (List.range 4).any fun r => (getRing s f r).copy.any (·.asked)

/-- Step 1 of an FLR: the function issues no new request (R337). -/
def flrBegin (s : State) (f : Nat) : State := setFunc s f { getFunc s f with flr := true, bme := false }

/-- Steps 3 to 5, once the function's outstanding reads have ended or been abandoned. -/
def flrEnd (s : State) (f : Nat) : State :=
  if readsOut s f then s else if f = 0 then flrAll s else flrOne s f

/-- FLR: while reads of the function are outstanding, the rest waits for them (R337). -/
def execFlr (f : PartId) (s : State) : Host.Outcome State Fault Refusal :=
  .next (if (getFunc s f.toNat).flr then s else flrEnd (flrBegin s f.toNat) f.toNat)

/-- An outstanding read of a function in FLR ends: what came is discarded. -/
def flrRead (s : State) (f r : Nat) (c : Copy) : State := flrEnd (setCopy s f r { c with asked := false }) f

/-- HOST_READ_COMPLETION: the bytes a copy asked for arrive; in an FLR they are discarded (R332, R336, R337). -/
def execHostReadCompletion (f : PartId) (ring : BitVec 2) (a : HostReply) (s : State) : Host.Outcome State Fault Refusal :=
  .next (
    let p := f.toNat
    let r := ring.toNat
    match (getRing s p r).copy with
    | none => s
    | some c =>
      if c.toHost || !c.asked then s
      else if (getFunc s p).flr then flrRead s p r c
      else
        let store : List Byte → Bool → State := fun bs bad =>
          let n := c.chunk
          let data := ((bs ++ List.replicate n 0).take n).map fun b => (b, bad)
          match copyIn s p r c.dev data with
          | none => s
          | some (s1, some st) => setCopy s1 p r { c with asked := false, status := some st }
          | some (s1, none) => setCopy s1 p r (c.past n)
        match a with
        | .data bs => store bs false
        | .poisoned bs => aerNote (store bs true) p .poisoned
        | .unsupported => aerNote (setCopy s p r { c with asked := false, status := some stAborted, detail := 2 }) p .unsupported
        | .completerAbort =>
          aerNote (setCopy s p r { c with asked := false, status := some stAborted, detail := 2 }) p .completerAbort)

/-- PCIE_COMPLETION_TIMEOUT: a read of host memory has got no completion for 50 ms, the default range (R323, R332, R337,
Table 10.8). -/
def execPcieCompletionTimeout (f : PartId) (ring : BitVec 2) (s : State) : Host.Outcome State Fault Refusal :=
  .next (
    let p := f.toNat
    let r := ring.toNat
    match (getRing s p r).copy with
    | some c =>
      let s1 := aerNote (advanceTo s (c.at_ + 50000000)) p .timeout
      if !c.asked then s
      else if (getFunc s p).flr then flrRead s1 p r c
      else setCopy s1 p r { c with asked := false, status := some stAborted, detail := 2 }
    | none =>
      if readsNext s p r then haltRing (aerNote (advanceTo s (elapsed s + 50000000)) p .timeout) p r stAborted else s)

/-- PCIE_CONVENTIONAL_RESET: none of these resets restarts the device. PERST# takes the link down until it is
deasserted. -/
def execPcieConventionalReset (kind : ConvReset) (s : State) : Host.Outcome State Fault Refusal :=
  .next (
    let s1 := flrAll s
    match kind with
    | .conventional => { s1 with start := { s1.start with perst := true, link := false } }
    | _ => s1)

/-- PERST_DEASSERT: the link trains, unless the module has no power (R415). -/
def execPerstDeassert (s : State) : Host.Outcome State Fault Refusal :=
  .next (if s.start.phase = .unpowered then s
    else { s with start := { s.start with perst := false, link := true } })

end Sys2Proof.Machine
end

