-- ==== Sys2Proof/Machine/Hallmark.lean ====
section
/-! DEFINITION. The hallmark: PPS alignment, slews and steps, die followers, the epoch (R356 to R373). -/

namespace Sys2Proof.Machine

/-- Change the alignment. -/
def modHm (s : State) (f : HmSt → HmSt) : State := { s with hm := f s.hm }
/-- Bring the hallmark up to a value, if it lies ahead. -/
def hallmarkTo (s : State) (h : Nat) : State := { s with hallmark := max s.hallmark h }
/-- The slew rate in ppm (Table 11.6). -/
def slewPpm (s : State) : Nat := min 1000 (max 1 (regField s oHmCtl 32 10))
/-- HM_FREQ in ppb, held within ±200,000 (Table 11.5). -/
def freqPpb (w : Word) : Int := max (-200000) (min 200000 (signed 32 (w.toNat % 2 ^ 32)))
/-- A number as the two's complement of n bits. -/
def twos (n : Nat) (i : Int) : Nat := (i % (2 ^ n : Int)).toNat

/-- The signed error of a captured hallmark, positive when ahead (R366). -/
def ppsError (x : Nat) : Int := if x < 500000000 then (x : Int) else (x : Int) - 1000000000

/-- Whether a pulse at an elapsed time is valid (R364): 1 s ± 500 µs after the last valid one except in the acquire state;
in holdover a whole number of seconds after it (DEDUCED: log entry 36). -/
def ppsValid (s : State) (long : Bool) (t : Nat) : Bool :=
  let m := s.hm
  long && (m.state == .acquire || (match m.lastPulse with
    | none => m.state == .free
    | some l =>
      let d := t - l
      if m.state = .holdover then
        decide (500000 ≤ d) && (decide (d % 1000000000 ≤ 500000) || decide (999500000 ≤ d % 1000000000))
      else decide (999500000 ≤ d) && decide (d ≤ 1000500000)))

/-- What a slew asked for has removed after a time. -/
def slewDone (s : State) (dt : Nat) : Int :=
  let all := s.hm.slew
  let n := min all.natAbs (dt * slewPpm s / 1000000)
  if all < 0 then -(n : Int) else (n : Int)

/-- HM_FREQ after two valid pulses: a quarter of the frequency error is taken off; what a slew moved is no frequency error
(R366; DEDUCED, log entry 36). -/
def adjustFreq (s : State) (t : Nat) : State :=
  match s.hm.lastPulse with
  | none => s
  | some l =>
    let d := t - l
    let secs := (d + 500000000) / 1000000000
    let err := ((d : Int) - (secs * 1000000000 : Nat) + slewDone s d) / (max 1 secs : Nat)
    let f := freqPpb (getReg s oHmFreq) - Int.tdiv err 4
    setReg s oHmFreq (BitVec.ofNat 64 (twos 32 (max (-200000) (min 200000 f))))

/-- Announce a forward step 10 µs ahead (R362). -/
def announceStep (s : State) (size : Nat) : State :=
  if size = 0 then s else modHm s fun m => { m with step := some (s.hallmark + 10000, size), slew := 0 }

/-- The correction of R366 for a captured hallmark modulo 10^9. -/
def correct (s : State) (x : Nat) : State :=
  if x < 500000000 then
    let s1 := modHm s fun m => { m with slew := (x : Int) }
    if x < 1000 then s1
    else ledger (modHm s1 fun m => { m with bigBack := true }) 0x0703 sevWarn none (sourceOf 0 0) [x]
  else
    let f := 1000000000 - x
    if f < 1000 || !bitNat (getReg s oHmCtl).toNat 1 then modHm s fun m => { m with slew := -(f : Int) }
    else announceStep s f

/-- A valid pulse (R365, R366, Table 11.3). -/
def validPulse (s : State) (cap t : Nat) : State :=
  let x := cap % 1000000000
  let e := ppsError x
  let s0 := setReg (setReg s oPpsCap (BitVec.ofNat 64 cap)) oPpsErr (BitVec.ofNat 64 (twos 40 e))
  let s1 := addRegField s0 oPcnt 0 32 1
  let good := if e.natAbs ≤ 100 then s.hm.good + 1 else 0
  let s2 := match s.hm.state with
    | .free => s1
    | .acquire =>
      let s3 := if s.hm.first then announceStep s1 ((1000000000 - x) % 1000000000) else correct (adjustFreq s1 t) x
      modHm s3 fun m => { m with first := false, good := good, state := if 3 ≤ good then .locked else .acquire }
    | _ => modHm (correct (adjustFreq s1 t) x) fun m => { m with state := .locked }
  modHm s2 fun m => { m with lastPulse := some t }

/-- PPS_PULSE: a rising edge captured at a hallmark; long tells that the level stays high for 1 µs (R364). -/
def execPpsPulse (captured : Word) (long : Bool) (s : State) : Host.Outcome State Fault Refusal :=
  .next (
    let s1 := hallmarkTo s captured.toNat
    let t := captured.toNat - s.hm.steps
    if ppsValid s1 long t then validPulse s1 captured.toNat t else addRegField s1 oPcnt 32 32 1)

/-- PPS_HOLDOVER: 2.5 s without a valid pulse (Table 11.3). -/
def execPpsHoldover (s : State) : Host.Outcome State Fault Refusal :=
  .next (match s.hm.state, s.hm.lastPulse with
    | .locked, some l => modHm (advanceTo s (l + 2500000000)) fun m => { m with state := .holdover }
    | _, _ => s)

/-- HALLMARK_STEP: an announced step applies; timers it passes set event 48 at once (R362, R363). -/
def execHallmarkStep (s : State) : Host.Outcome State Fault Refusal :=
  .next (match s.hm.step with
    | none => s
    | some (at_, size) =>
      let s1 := hallmarkTo s at_
      let before := s1.hallmark
      let s2 := modHm { s1 with hallmark := before + size } fun m => { m with step := none, steps := m.steps + size }
      let s3 := setReg s2 oStepAt (BitVec.ofNat 64 (before + size))
      let n := (regField s3 oStepNs 48 16 + 1) % 65536
      let s4 := setReg s3 oStepNs (BitVec.ofNat 64 (n * 2 ^ 48 + size % 2 ^ 40))
      let s5 := ledger s4 0x0702 sevNotice none (sourceOf 0 0) (twoWords before ++ twoWords (before + size))
      s5.cores.foldl (fun s e =>
        let w := (getCw e.2 0xB).toNat
        if before < w && w ≤ before + size then signalEvent (modCore s e.1 fun x => setCw x 0xB 0) e.1 48 else s) s5)

/-- SLEW_END: the error has been removed (R361). -/
def execSlewEnd (s : State) : Host.Outcome State Fault Refusal :=
  .next (if s.hm.slew = 0 then s
    else
      let from_ := s.hm.lastPulse.getD 0
      modHm (advanceTo s (from_ + s.hm.slew.natAbs * 1000000 / slewPpm s)) fun m => { m with slew := 0 })

/-- FOLLOWER_UNLOCK: a die follower loses lock; the master's own die has none (R357, R359). -/
def execFollowerUnlock (die : DieId) (s : State) : Host.Outcome State Fault Refusal :=
  .next (
    let d := die.toNat
    if d = 0 || bitNat s.hm.unlocked d then s
    else ledger (modHm s fun m => { m with unlocked := m.unlocked + 2 ^ d }) 0x0701 sevWarn none (srcDie d) [d])

/-- FOLLOWER_LOCK. -/
def execFollowerLock (die : DieId) (s : State) : Host.Outcome State Fault Refusal :=
  .next (
    let d := die.toNat
    if bitNat s.hm.unlocked d then modHm s fun m => { m with unlocked := m.unlocked - 2 ^ d } else s)

/-- A write of one half of the epoch pair: the new epoch takes effect when the halves agree (R369, R370). -/
def epochWrite (s : State) (rev : Bool) (w : Word) : State :=
  let s0 := setReg s (if rev then oEpochR else oEpoch) w
  let agrees := getReg s0 oEpochR == ~~~ getReg s0 oEpoch
  let s1 := halfWritten s0 oEpoch rev agrees
  if !agrees then s1
  else
    let e := getReg s1 oEpoch
    let s2 := modHm s1 fun m => { m with epochBad := false }
    if e = s.hm.epoch then s2
    else
      let s3 := modHm s2 fun m => { m with epoch := e, egen := (m.egen + 1) % 65536 }
      ledger s3 0x0704 sevNotice none (sourceOf 0 0)
        (twoWords s.hm.epoch.toNat ++ twoWords e.toNat ++ twoWords s.hallmark)

/-- EPOCH_WRITE. -/
def execEpochWrite (r : Req) (rev : Bool) (w : Word) (s : State) : Host.Outcome State Fault Refusal :=
  .next (regWrite s r (if rev then oEpochR else oEpoch) fun s => epochWrite s rev w)

/-- A write of HM_CTL: pps_en = 0 enters free and ends any slew, pps_en = 1 leaves free for acquire (Table 11.3). -/
def hmCtlWrite (s : State) (w : Word) : State :=
  let s1 := setReg s oHmCtl (masked 0x3FF00000003 (getReg s oHmCtl) w)
  if !w.getLsbD 0 then modHm s1 fun m => { m with state := .free, slew := 0 }
  else if s.hm.state = .free then modHm s1 fun m => { m with state := .acquire, first := true, good := 0 }
  else s1

/-- PPS_ENABLE_WRITE. -/
def execPpsEnableWrite (r : Req) (w : Word) (s : State) : Host.Outcome State Fault Refusal :=
  .next (regWrite s r oHmCtl fun s => hmCtlWrite s w)

/-- The check of the epoch pair in each housekeeping round (R370, R435, Table 14.5). -/
def checkEpoch (s : State) : State :=
  if newMismatch s oEpoch (getReg s oEpochR == ~~~ getReg s oEpoch) then
    tellMismatch (modHm s fun m => { m with epochBad := true }) oEpoch 6 none (sourceOf 0 0)
  else s

end Sys2Proof.Machine
end

