-- ==== Sys2Proof/Machine/Power.lean ====
section
/-! DEFINITION. Operating points, droops, the alert wire, pauses, shutdown and the limit registers (R374 to R381, R385 to
R389, R396, R398 to R400). -/

namespace Sys2Proof.Machine

/-- Change the governor's state. -/
def modPwr (s : State) (f : PwrSt → PwrSt) : State := { s with pwr := f s.pwr }
/-- Change the pins and what a start fixed. -/
def modStart (s : State) (f : StartSt → StartSt) : State := { s with start := f s.start }

/-! ### The calibration store (R420, R421) -/

/-- The default of a calibration value by class and number (Table 13.7): class 0 thermal (3 × die + tau, r_self, r_blk),
1 sensor offsets, 2 the 256 trims, then the gains, 3 hallmark, 4 presets. -/
def calDefault (cls i : Nat) : Int :=
  match cls, i % 3 with
  | 0, 0 => 60000
  | 0, 1 => 4000
  | 0, _ => 1000
  | 1, _ => 64
  | 2, _ => if i < 256 then 25 else 1100
  | _, _ => 0

/-- The range of a calibration value (Table 12.6): tau in µs, r in mK/W, offsets in 1/16 °C, trims in mV, gains in
thousandths, HM_FREQ in ppb; presets have none. -/
def calRange (cls i : Nat) : Option (Int × Int) :=
  match cls, i % 3 with
  | 0, 0 => some (20000, 500000)
  | 0, 1 => some (0, 8000)
  | 0, _ => some (0, 4000)
  | 1, _ => some (-64, 64)
  | 2, _ => some (if i < 256 then (-25, 25) else (900, 1100))
  | 3, _ => some (-200000, 200000)
  | _, _ => none

/-- A value held within its range. -/
def calHeld (cls i : Nat) (x : Int) : Int :=
  match calRange cls i with
  | some r => max r.1 (min r.2 x)
  | none => x

/-- A calibration value in force: the factory's, the stored one, or its default where its pair disagrees (R421). -/
def calValue (s : State) (cls i : Nat) : Int :=
  match look (fun _ => []) s.start.cal cls with
  | [] => calHeld cls i (Config.calFactory cls i)
  | ps =>
    match ps[i]? with
    | none => calHeld cls i (Config.calFactory cls i)
    | some (o, r) => if r = ~~~o then calHeld cls i (Config.calDecode cls i o) else calDefault cls i

/-! ### Messages of the comptroller (R448) -/

/-- Queue a message for a core; the new head appears and sets event 53. -/
def postMessage (s : State) (c : Nat) (m : List Word) : State :=
  let x := getCore s c
  let s1 := setCore s c { x with msgs := x.msgs ++ [m] }
  if x.msgs.isEmpty then signalEvent s1 c 53 else s1

/-- Word 0 of a message: kind, partition, governor state, short hallmark. -/
def messageWord (s : State) (kind p state : Nat) : Word :=
  BitVec.ofNat 64 (kind + 16 * p + 256 * state + 2 ^ 32 * (s.hallmark % 2 ^ 32))

/-- Replace the youngest power message of a full queue. -/
def replacePower (m : List Word) (q : List (List Word)) : List (List Word) :=
  match q.reverse.findIdx? fun w => (w.getD 0 0).toNat % 16 == 2 with
  | none => q
  | some i => (q.reverse.set i m).reverse

/-- Post a power message to a core (R448). -/
def postPower (s : State) (c : Nat) (m : List Word) : State :=
  let x := getCore s c
  if x.msgs.length < 4 then postMessage s c m
  else
    let q := replacePower m x.msgs
    let s1 := setCore s c { x with msgs := q }
    if q.head? = x.msgs.head? then s1 else signalEvent s1 c 53

/-- The lowest populated cluster of a partition. -/
def lowestCl (s : State) (p : Nat) : Option Nat :=
  ((getPart s p).clusters.filter (populatedCl s)).foldl (fun m k => some (match m with | none => k | some j => min j k)) none

/-- The code of a governor state (Table 12.14). -/
def govCode : GovState → Nat
  | .normal => 0
  | .capped => 1
  | .throttle => 2
  | .clamp => 3
  | .shutdown => 4

/-- Enter a governor state; each change is told to core 0 of each partition's lowest cluster (R448). -/
def setGov (s : State) (g : GovState) : State :=
  if s.pwr.state = g then s
  else
    let s1 := modPwr s fun w => { w with state := g }
    (List.range 16).foldl (fun s p =>
      match lowestCl s p with
      | none => s
      | some k => postPower s (k * 16) [messageWord s 2 p (govCode g), 0, 0, 0]) s1

/-! ### Operating points (R376, R377) -/

/-- The set voltage of a point in mV (Table 12.2). -/
def setMv (op : Nat) : Nat := [550, 580, 610, 640, 670, 710, 750, 800, 850].getD op 850
/-- f × V² relative to OP6, in thousandths (Table 12.2). -/
def fvRatio (op : Nat) : Nat := [215, 299, 397, 510, 638, 807, 1000, 1252, 1541].getD op 1541

/-- The clock of a cluster changes: its cycle counts are brought up first; the change is counted and traced (R377, R401,
Table 16.8). -/
def changeClock (s : State) (k op : Nat) : State :=
  let s1 := syncCluster s k
  let old := (getCl s k).op
  let s2 := modCl s1 k fun x => { x with op := op, slow := x.slow && s.pwr.hwPause }
  bump (trace (addRegField s2 (oVrCnt k) 32 16 1) k 7 k [old, op]) 0x0C 4 1 (.cluster k)

/-- How long the voltage moves between two points: 5 mV per µs (R377). -/
def rampNs (a b : Nat) : Nat := 200 * (max (setMv a) (setMv b) - min (setMv a) (setMv b))

/-- OPERATING_POINT_CHANGE: when lowering the clock changes first and the voltage falls after; when raising the voltage
rises first (R377). -/
def execOperatingPointChange (k : ClusterId) (s : State) : Host.Outcome State Fault Refusal :=
  .next (
    let n := k.toNat
    let x := getCl s n
    if !populatedCl s n || x.power ≠ .on || x.ramping || x.opTarget = x.op then s
    else
      let s1 := if x.opTarget < x.op then changeClock s n x.opTarget else s
      modCl s1 n fun y => { y with
        ramping := true, rampOp := x.opTarget, rampEnd := elapsed s + rampNs x.op x.opTarget })

/-- VOLTAGE_RAMP_END: the voltage has reached its target; when raising, the clock now changes (R377). -/
def execVoltageRampEnd (k : ClusterId) (s : State) : Host.Outcome State Fault Refusal :=
  .next (
    let n := k.toNat
    let x := getCl s n
    if !x.ramping then s
    else
      let s0 := advanceTo s x.rampEnd
      let s1 := if x.op < x.rampOp then changeClock s0 n x.rampOp else s0
      modCl s1 n fun x => { x with ramping := false })

/-! ### Droops (R378, R379) -/

/-- The charge of a droop reserve: full 3 µs after it disconnected, and before that the share of the recharge that has
passed (R378). -/
def reserveCharge (s : State) (x : ClusterSt) : Nat :=
  x.charge + (540 - x.charge) * min 3000 (elapsed s - x.chargeAt) / 3000

/-- DROOP_RESERVE_SWITCH_IN (R378). -/
def execDroopReserveSwitchIn (k : ClusterId) (s : State) : Host.Outcome State Fault Refusal :=
  .next (
    let n := k.toNat
    let x := getCl s n
    if !populatedCl s n || x.power ≠ .on || x.reserve then s
    else
      let s1 := setCl s n { x with reserve := true, charge := if x.chargeAt = 0 then x.charge else reserveCharge s x }
      bump (addRegField s1 (oVrCnt n) 0 16 1) 0x0C 2 1 (.cluster n))

/-- DROOP_RESERVE_DISCONNECT: what charge is left is a free value; the recharge begins (R378). -/
def execDroopReserveDisconnect (k : ClusterId) (s : State) : Host.Outcome State Fault Refusal :=
  .next (
    let n := k.toNat
    let x := getCl s n
    if !x.reserve then s
    else takeFree (setCl s n { x with
      reserve := false, charge := freeValue s 4 % (x.charge + 1), chargeAt := elapsed s }))

/-- DEEP_DROOP: the clock is held at 0.4 GHz; in clamp the cluster is at OP0 already (R379, R398). -/
def execDeepDroop (k : ClusterId) (s : State) : Host.Outcome State Fault Refusal :=
  .next (
    let n := k.toNat
    if !populatedCl s n || (getCl s n).power ≠ .on then s
    else
      let s1 := modCl (syncCluster s n) n fun x => { x with
        slow := x.slow || s.pwr.state != .clamp, deepNew := x.deepNew + 1 }
      bump s1 0x0C 3 1 (.cluster n))

/-! ### Pauses (R385 to R387, R127) -/

/-- Whether a cluster has press work that a ramp-up serves. -/
def pressWork (x : ClusterSt) : Bool := x.feed.isSome || x.current.isSome || x.shadow.isSome

/-- A pause of a cluster begins: nothing further issues, its press ramps down, the jobs with cores in it have been paused
(R127, R331, R386, R387). -/
def pauseBegin (s : State) (k duty : Nat) : State :=
  let ramp := regField s (oPrCtl k) 24 1 == 1
  let s1 := modCl (syncCluster s k) k fun x => { x with
    paused := true, pausedAt := elapsed s
    activity := if x.activity = .idle || !ramp then .paused else .rampDown }
  let s2 := { s1 with jobs := s1.jobs.map fun j => if j.cores.any (· / 16 == k) then { j with paused := true } else j }
  trace s2 k 6 k [1, duty]

/-- What the press does when a pause ends (R126, R127). -/
def resumed (s : State) (k : Nat) (x : ClusterSt) : Activity :=
  if !pressWork x then .idle
  else if regField s (oPrCtl k) 24 1 = 1 then .rampUp
  else if x.feed.isSome then .passes else afterPass s k

/-- A blocking condition of kind pause ends (R497, Table 16.11). -/
def endPauseBlock (s : State) (c : Nat) : State :=
  if (getCore s c).blkobj.toNat / 2 ^ 60 = 9 then modCore s c fun x => { x with blk := 0, blkobj := 0 } else s

/-- A pause of a cluster ends: what arrived takes effect; the time counts for the partition whose lowest cluster this is
(R386, R399). -/
def pauseEnds (s : State) (k : Nat) : State :=
  let x := getCl s k
  let us := (elapsed s - x.pausedAt) / 1000
  let s1 := modCl (syncCluster s k) k fun x => { x with
    paused := false, pauseEnd := 0, activity := if x.failed || x.absent then .idle else resumed s k x
    fed := x.fed || (x.feed.isSome && resumed s k x == .passes) }
  let s2 := match partOfCl s k with
    | some p =>
      if lowestCl s p = some k then
        modPwr s1 fun w => { w with pausedUs := put (fun _ => 0) w.pausedUs p (look (fun _ => 0) w.pausedUs p + us) }
      else s1
    | none => s1
  let s3 := (coresOf k).foldl endPauseBlock (trace s2 k 6 k [0, x.duty])
  (coresOf k).foldl wake (pressAdvance 40 s3 k)

/-- The class of a cluster: 0 where no partition holds it (R384). -/
def classOf (s : State) (k : Nat) : Nat := ((partOfCl s k).map fun p => (getPart s p).pclass).getD 0

/-- The settings decided take effect: operating points are requested, duties hold from the next frame (R382). -/
def applySettings (s : State) : State :=
  let s1 := modPwr s fun w => { w with applyAt := none, duties := w.dutyNext, rem := if w.state = .clamp then 4 else (w.reds.filter (· == 7)).length }
  (allClusters s).foldl (fun s k => modCl s k fun x => { x with
    opTarget := x.opNext, slow := x.slow && (x.op != x.opNext || s.pwr.hwPause) }) s1

/-- Whether the governor runs. -/
def governs (s : State) : Bool := s.comp.state == .firmware && s.start.phase == .ready && s.pwr.state != .shutdown

/-- GOVERNOR_SETTINGS_APPLY, 0.8 ms after the round's end (R382). -/
def execGovernorSettingsApply (s : State) : Host.Outcome State Fault Refusal :=
  .next (match s.pwr.applyAt with
    | none => s
    | some t => if governs s then applySettings (advanceTo s t) else s)

/-- The pause of one cluster in a new frame (R385, R398). -/
def framePause (s : State) (k : Nat) : State :=
  let d := s.pwr.duties.getD (classOf s k) 0
  let x := getCl s k
  let start := s.hallmark - s.hallmark % 800000
  let s1 := if x.paused && (d = 0 || x.pauseEnd ≠ 0) then pauseEnds s k else s
  let s2 := modCl s1 k fun x => { x with duty := d, pauseEnd := if d = 0 then 0 else start + d * 50000 }
  if d = 0 || (getCl s2 k).paused then s2 else pauseBegin s2 k d

/-- PAUSE_FRAME_BOUNDARY: the next multiple of 800,000 ns; a pause by hardware ends and the clamp settings take over
(R380, R385). -/
def execPauseFrameBoundary (s : State) : Host.Outcome State Fault Refusal :=
  .next (if !governs s then s
    else
      let s1 := hallmarkTo s ((s.hallmark / 800000 + 1) * 800000)
      let due := s1.pwr.hwPause || s1.pwr.applyAt.any fun t => decide (t ≤ elapsed s1)
      let s2 := modPwr s1 fun w => { w with hwPause := false }
      let s3 := if due then applySettings s2 else s2
      ((allClusters s).filter fun k => (getCl s k).power != .off).foldl framePause s3)

/-- PAUSE_END: the cluster's share of the frame ends; a frame cut short by a hallmark step ends at the step (R385, R398). -/
def execPauseEnd (k : ClusterId) (s : State) : Host.Outcome State Fault Refusal :=
  .next (
    let x := getCl s k.toNat
    if !x.paused || x.pauseEnd = 0 || s.pwr.hwPause then s
    else pauseEnds (hallmarkTo s x.pauseEnd) k.toNat)

/-- Hardware sets every cluster clock to 0.4 GHz and pauses every cluster (R380, R396, R446). -/
def hardwarePause (s : State) : State :=
  let s1 := modPwr s fun w => { w with hwPause := true }
  ((allClusters s).filter fun k => (getCl s k).power != .off).foldl (fun s k =>
    let s1 := modCl (syncCluster s k) k fun x => { x with slow := true, pauseEnd := 0 }
    if (getCl s1 k).paused then s1 else pauseBegin s1 k (getCl s1 k).duty) s1

/-! ### The alert wire (R380, R381) -/

/-- The lowest settings: every cluster at OP0, every duty 12/16, remint at 1/16 TB/s (Table 12.4). -/
def clampSettings (s : State) : State :=
  let s1 := modPwr s fun w => { w with dutyNext := [12, 12, 12, 12] }
  (allClusters s).foldl (fun s k => modCl s k fun x => { x with opNext := 0, lift := 0, drop := 0 }) s1

/-- The comptroller's interrupt: a record, and clamp with cause alert (R380, R388). -/
def alertClamp (s : State) : State :=
  let s1 := ledger s 0x0801 sevWarn none (sourceOf 0 0) []
  let s2 := if s.pwr.alertCl || s.pwr.rateCl then s1 else addRegField s1 oPwrEvt 16 16 1
  setGov (clampSettings (modPwr s2 fun w => { w with alertCl := true })) .clamp

/-- The bit of a cause of R380. -/
def alertBit : AlertCause → Nat
  | .power => 1
  | .rail => 2
  | .inputVoltage => 4
  | .temperature => 8

/-- VR_ALERT_ASSERT (R380). -/
def execVrAlertAssert (cause : AlertCause) (s : State) : Host.Outcome State Fault Refusal :=
  .next (if s.start.phase = .unpowered then s
    else if s.pwr.alert then modPwr s fun w => { w with causes := w.causes ||| alertBit cause }
    else
      let s1 := modPwr s fun w => { w with alert := true, alertAt := elapsed s, causes := alertBit cause, high := 0 }
      let s2 := statusChange (hardwarePause (addRegField s1 oPwrEvt 0 16 1))
      if governs s then alertClamp s2 else s2)

/-- VR_ALERT_RELEASE: the hold count begins (R380, R398). -/
def execVrAlertRelease (s : State) : Host.Outcome State Fault Refusal :=
  .next (if s.pwr.alert then
    statusChange (modPwr s fun w => { w with alert := false, alertAt := elapsed s, high := 0 }) else s)

/-! ### Shutdown (R396) -/

/-- The shutdown state: clusters stopped, the record, the outputs, every job ended (R396, R522). -/
def shutdownNow (s : State) (thermal : Bool) (payload : List Nat) : State :=
  let s1 := hardwarePause (modPwr s fun w => { w with applyAt := none, shutAt := some (elapsed s) })
  let s2 := ledger s1 0x0808 sevFatal none (sourceOf 0 0) payload
  let s3 := modStart s2 fun t => { t with
    phase := .shutdown, faultN := true, readyPin := false, thermN := t.thermN || thermal }
  let s4 := setGov (statusChange s3) .shutdown
  s4.jobs.foldl (fun s j => stopJob s j stAborted (if thermal then 4 else 3) false) s4

/-- ALERT_SHUTDOWN: the wire has stayed low for 10 ms (R381). -/
def execAlertShutdown (s : State) : Host.Outcome State Fault Refusal :=
  .next (if s.pwr.alert && governs s then
    shutdownNow (advanceTo s (s.pwr.alertAt + 10000000)) false [s.pwr.causes] else s)

/-- A cluster without its rail: what its units were doing is lost (R396). -/
def railOff (s : State) (k : Nat) : State :=
  modCl (resetUnits (syncCluster s k) k none) k fun x => { x with power := .off, paused := false, ramping := false }

/-- SHUTDOWN_REGULATORS_OFF, 10 ms after step 1: presses, bank units, remint engines and transfer engines stop, and the
vein controllers refresh at tREFI 1,950 (R396). -/
def execShutdownRegulatorsOff (s : State) : Host.Outcome State Fault Refusal :=
  .next (match s.pwr.shutAt with
    | none => s
    | some t =>
      if s.pwr.regsOff then s
      else
        let s1 := modPwr (advanceTo s (t + 10000000)) fun w => { w with regsOff := true }
        let s2 := ((allClusters s).flatMap coresOf).foldl (fun s c => modVein s c fun v => { v with
          hot := 15, units := [], waiting := [], drains := [], comb := [] }) s1
        settleJobs ((allClusters s).foldl railOff s2))

/-! ### The limit registers (R389) -/

/-- The defined fields of PWR_LIMIT and PWR_TLIM (Tables 12.11, 12.12). -/
def limitMask : Nat := 0x3FF0FFF03FF
/-- The defined fields of PWR_TLIM. -/
def tlimMask : Nat := 0xFFFFFF

/-- Whether a reverse register holds the complement of each field of its obverse (R389). -/
def halvesAgree (s : State) (o mask : Nat) : Bool := getReg s (o + 8) == (~~~ getReg s o) &&& BitVec.ofNat 64 mask

/-- A write of one half of a limit pair; the value is taken up by the round that begins after both agree. -/
def limitWrite (s : State) (o mask : Nat) (rev : Bool) (w : Word) (take : PwrSt → Word → PwrSt) : State :=
  let s1 := setReg s (if rev then o + 8 else o) (w &&& BitVec.ofNat 64 mask)
  let agrees := halvesAgree s1 o mask
  let s2 := halfWritten s1 o rev agrees
  if agrees then modPwr s2 fun p => take p (getReg s1 o) else s2

/-- A write of a half of PWR_LIMIT. -/
def pwrLimitWrite (s : State) (rev : Bool) (w : Word) : State :=
  limitWrite s oPwrLimit limitMask rev w fun p v => { p with limitNew := some v }
/-- A write of a half of PWR_TLIM. -/
def pwrTlimWrite (s : State) (rev : Bool) (w : Word) : State :=
  limitWrite s oPwrTlim tlimMask rev w fun p v => { p with tlimNew := some v }

/-- PWR_LIMIT_WRITE. -/
def execPwrLimitWrite (r : Req) (rev : Bool) (w : Word) (s : State) : Host.Outcome State Fault Refusal :=
  .next (regWrite s r (if rev then oPwrLimit + 8 else oPwrLimit) fun s => pwrLimitWrite s rev w)

/-- PWR_TLIM_WRITE. -/
def execPwrTlimWrite (r : Req) (rev : Bool) (w : Word) (s : State) : Host.Outcome State Fault Refusal :=
  .next (regWrite s r (if rev then oPwrTlim + 8 else oPwrTlim) fun s => pwrTlimWrite s rev w)

end Sys2Proof.Machine
end

