-- ==== Sys2Proof/Machine/Round.lean ====
section
/-! DEFINITION. The housekeeping round: sensors, the thermal model, the laggard detector, the tally's division of energy and
the governor's decision (R382 to R384, R388 to R395, R397, R461, R501). -/

namespace Sys2Proof.Machine

/-! ### Limits in force (Tables 12.11 to 12.13, R389) -/

/-- A number held within bounds. -/
def within (lo hi x : Nat) : Nat := max lo (min hi x)
/-- Whether the limit pair is in mismatch. -/
def limitBad (s : State) : Bool := (getPair s oPwrLimit).told
/-- Whether the thermal limit pair is in mismatch. -/
def tlimBad (s : State) : Bool := (getPair s oPwrTlim).told
/-- The average input limit in W. -/
def limitW (s : State) : Nat := if limitBad s then 300 else within 300 700 (fieldNat s.pwr.limit.toNat 0 10)
/-- The round limit in W. -/
def shortW (s : State) : Nat := if limitBad s then 700 else within 700 1000 (fieldNat s.pwr.limit.toNat 32 10)
/-- The window in rounds. -/
def windowN (s : State) : Nat := if limitBad s then 500 else within 125 2500 (fieldNat s.pwr.limit.toNat 16 12)
/-- Throttle set in °C. -/
def tsetC (s : State) : Nat := if tlimBad s then 75 else within 75 92 (fieldNat s.pwr.tlim.toNat 8 8)
/-- Throttle clear in °C. -/
def tclrC (s : State) : Nat := if tlimBad s then 73 else min (tsetC s - 2) (fieldNat s.pwr.tlim.toNat 16 8)
/-- The model limit in °C. -/
def tjC (s : State) : Nat := if tlimBad s then 85 else within 85 120 (fieldNat s.pwr.tlim.toNat 0 8)
/-- A power of PWR_LIMIT's unit in µW. -/
def microW (w : Nat) : Nat := w * 1000000

/-- New limits agreed before the round take effect, and the pairs are checked (R389, R435). -/
def takeLimits (s : State) : State :=
  let s1 := modPwr s fun w => { w with
    limit := w.limitNew.getD w.limit, tlim := w.tlimNew.getD w.tlim, limitNew := none, tlimNew := none }
  let s2 := if newMismatch s1 oPwrLimit (halvesAgree s1 oPwrLimit limitMask) then
    tellMismatch s1 oPwrLimit 4 none (sourceOf 0 0) else s1
  let s3 := if newMismatch s2 oPwrTlim (halvesAgree s2 oPwrTlim tlimMask) then
    tellMismatch s2 oPwrTlim 4 none (sourceOf 0 0) else s2
  (List.range 16).foldl checkPartPairs (checkEpoch s3)

/-! ### Strata sensors (R390 to R392) -/

/-- Whether a reading fails its sensor: outside -40 to 150 °C, or the check failed (R392). -/
def badReading : Option Int → Bool
  | none => true
  | some t => decide (t < -640) || decide (2400 < t)

/-- A sensor that fails stays failed until the next start and is recorded once (R392). -/
def noteFailed (x : Readings) (s : State) (i : Nat) : State :=
  if s.pwr.failed.contains i || !badReading (x.sensors.getD i none) then s
  else ledger (modPwr s fun w => { w with failed := w.failed ++ [i] }) 0x0807 sevError none (sourceOf 8 i) []

/-- The valid readings of a sensor's die and stratum. -/
def groupReadings (s : State) (x : Readings) (g : Nat) : List Int :=
  (List.range 16).filterMap fun b => if s.pwr.failed.contains (16 * g + b) then none else x.sensors.getD (16 * g + b) none

/-- The highest of some readings. -/
def highest : List Int → Option Int
  | [] => none
  | t :: r => some (r.foldl max t)

/-- What thresholds, refresh and model take for a sensor: its reading, or the highest valid one of its die and stratum plus
3 °C; none where all have failed (R392). -/
def sensorValue (s : State) (x : Readings) (i : Nat) : Option Int :=
  if s.pwr.failed.contains i then (highest (groupReadings s x (i / 16))).map (· + 48) else x.sensors.getD i none

/-- Sensor states of Table 12.5: 1 warning, 2 throttle, 4 shutdown. -/
def levelOf (s : State) (old : Nat) (t : Int) : Nat :=
  let warn := if 1360 ≤ t then 1 else if t < 1312 then 0 else old % 2
  let thr := if (16 * tsetC s : Nat) ≤ t then 2 else if t < (16 * tclrC s : Nat) then 0 else old / 2 % 2 * 2
  warn + thr + (if 1680 ≤ t || 4 ≤ old then 4 else 0)

/-- The level bits of a sensor. -/
def sensorLevel (s : State) (i : Nat) : Nat := look (fun _ => 0) s.pwr.levels i

/-- Bring one sensor to its new state; entries into warning and throttle are recorded (R391). -/
def stepSensor (x : Readings) (s : State) (i : Nat) : State :=
  match sensorValue s x i with
  | none => s
  | some t =>
    let old := sensorLevel s i
    let new := levelOf s old t
    let s1 := modPwr s fun w => { w with
      levels := put (fun _ => 0) w.levels i new
      sensors := if w.failed.contains i then w.sensors else put (fun _ => 0) w.sensors i t }
    let s2 := if new % 2 = 1 && old % 2 = 0 then ledger s1 0x0803 sevWarn none (sourceOf 8 i) [] else s1
    if new / 2 % 2 = 1 && old / 2 % 2 = 0 then ledger s2 0x0804 sevWarn none (sourceOf 8 i) [] else s2

/-- Whether all sixteen sensors of a die and stratum have failed. -/
def groupFailed (s : State) (g : Nat) : Bool := (List.range 16).all fun b => s.pwr.failed.contains (16 * g + b)

/-- The block of a cluster: 2 × 2 stops (R390, R299). -/
def blockAt (s : State) (k : Nat) : Nat :=
  let slot := (slotsOf s (k / 64)).getD (k % 64) 0
  let (x, y) := if slot < 64 then (slot % 8, slot / 8) else (if slot % 2 = 0 then 0 else 7, if slot < 66 then 0 else 7)
  x / 2 + 4 * (y / 2)

/-- The strata of a cluster's veins that refresh at tREFI 1,950 (R145, R392). -/
def hotOf (s : State) (k : Nat) : Nat :=
  (List.range 4).foldl (fun m t =>
    let g := 4 * (k / 64) + t
    if groupFailed s g || sensorLevel s (16 * g + blockAt s k) % 2 = 1 then m + 2 ^ t else m) 0

/-- Every vein follows its cluster's sensors. -/
def spreadHeat (s : State) : State :=
  (allClusters s).foldl (fun s k =>
    let h := hotOf s k
    (coresOf k).foldl (fun s c => if (getVein s c).hot = h then s else modVein s c fun v => { v with hot := h }) s) s

/-- A list of all sensors. -/
def allSensors : List Nat := List.range 256

/-- The sensor step of a round (R390 to R392). -/
def roundSensors (s : State) (x : Readings) : State :=
  let s1 := allSensors.foldl (noteFailed x) s
  spreadHeat (allSensors.foldl (stepSensor x) s1)

/-! ### The thermal model (R393, R394) -/

/-- 1 - exp(-4 ms / tau) in units of 2^-40, tau in µs: the series to the seventh term (DESIGN CHOICE). -/
def coolShare (tau : Int) : Int :=
  let one : Int := 2 ^ 40
  let x := 4000 * one / max 1 tau
  let term := fun (p : Int × Int) (n : Nat) => (-(p.1 * x / one) / (n : Int), p.2 + -(p.1 * x / one) / (n : Int))
  let sum := ([1, 2, 3, 4, 5, 6, 7].foldl term (one, one)).2
  one - sum

/-- The measured power of a cluster in mW. -/
def clusterMw (x : Readings) (k : Nat) : Nat := x.clusterMw.getD k 0

/-- The mean power in mW of the other populated clusters of a cluster's block. -/
def blockMean (s : State) (x : Readings) (k : Nat) : Int :=
  let others := (allClusters s).filter fun j => j / 64 = k / 64 && j ≠ k && blockAt s j = blockAt s k
  ((others.foldl (fun n j => n + clusterMw x j) 0 / max 1 others.length : Nat) : Int)

/-- est and rise of one cluster (R393). The S0 reading of a die whose S0 sensors have all failed is a free value. -/
def stepModel (x : Readings) (s : State) (k : Nat) : State :=
  let d := k / 64
  let a := coolShare (calValue s 0 (3 * d))
  let cl := getCl s k
  let goal := calValue s 0 (3 * d + 1) * (clusterMw x k : Int) + calValue s 0 (3 * d + 2) * blockMean s x k
  let rise := cl.rise + a * (goal - cl.rise) / 2 ^ 40
  let t0 := (sensorValue s x (64 * d + blockAt s k)).getD (freeValue s 5 : Nat)
  setCl s k { cl with rise := rise, est := t0 * 62500 + rise, estOld := cl.est, powerMw := clusterMw x k }

/-- The model step of a round. -/
def roundModel (s : State) (x : Readings) : State := takeFree ((allClusters s).foldl (stepModel x) s)

/-- The rise of a cluster in the last round, in µ°C. -/
def riseOf (s : State) (k : Nat) : Int := (getCl s k).est - (getCl s k).estOld

/-- The rise guard of one cluster: three rounds in a row above 0.5 °C (R394). -/
def stepQuick (s : State) (k : Nat) : State :=
  let q := if 500000 < riseOf s k then (getCl s k).quick + 1 else 0
  let s1 := modCl s k fun x => { x with quick := q }
  if q = 3 then ledger s1 0x0805 sevWarn none (srcCluster k) [] else s1

/-- The guards of R394, from the third round on: rise throttle and model limit. -/
def roundGuards (s : State) : State :=
  if s.pwr.round < 3 then s
  else
    let ks := allClusters s
    let s1 := ks.foldl stepQuick s
    let hot := ks.any fun k => decide ((tjC s : Int) * 1000000 ≤ (getCl s k).est)
    let cool := ks.all fun k => decide ((getCl s k).est < ((tjC s : Int) - 3) * 1000000)
    modPwr s1 fun w => { w with
      rise := ks.any fun k => decide (3 ≤ (getCl s1 k).quick), model := hot || (w.model && !cool) }

/-- The cluster whose rise enters clamp (R394). -/
def clampBy (s : State) : Option Nat :=
  if s.pwr.round < 3 then none else (allClusters s).find? fun k => decide (1500000 < riseOf s k)

/-! ### The laggard detector (R501) -/

/-- One cluster's laggard decision at the end of a round. -/
def stepLag (s : State) (k : Nat) : State :=
  let x := getCl s k
  let en := regField s oLagCtl 0 1 == 1
  let th := max 1 (regField s oLagCtl 16 16)
  let enough := decide (max 1 (regField s oLagCtl 8 8) ≤ x.lagCnt)
  let lag := en && (if enough then decide (th * x.lagCnt < x.lagSum) || (x.lag && decide (th * x.lagCnt ≤ 2 * x.lagSum)) else x.lag)
  let mean := x.lagSum / max 1 x.lagCnt
  let s1 := setCl s k { x with lag := lag, lagMean := mean, lagGens := x.lagCnt, lagSum := 0, lagCnt := 0 }
  if lag && !x.lag then ledger s1 0x0B03 sevNotice (partOfCl s k) (srcCluster k) [k, mean, x.lagCnt] else s1

/-! ### The tally's division of a round's energy (R461) -/

/-- The energy of a power in mW over a time in ns, in units of 2^-16 µJ. -/
def energyOf (mw ns : Nat) : Nat := mw * ns * 65536 / 1000000

/-- The cores of a job in a cluster that are running, waiting or paused. -/
def activeIn (s : State) (j : Job) (k : Nat) : Nat :=
  (j.cores.filter fun c => c / 16 = k && ((getCore s c).run == .running || (getCore s c).run == .waiting)).length

/-- Add energy to the idle share of a partition. -/
def addIdle (s : State) (p e : Nat) : State :=
  { s with tally := { s.tally with idle := put (fun _ => 0) s.tally.idle p (look (fun _ => 0) s.tally.idle p + e) } }

/-- Add energy that belongs to no partition. -/
def addUnattr (s : State) (e : Nat) : State :=
  { s with tally := { s.tally with unattr := s.tally.unattr + e, unIvl := s.tally.unIvl + e } }

/-- Add energy to a job. -/
def addJob (s : State) (part job e : Nat) : State :=
  { s with jobs := s.jobs.map fun j => if j.part = part && j.job = job then
      { j with energy := j.energy + e, ivl := j.ivl + e } else j }

/-- Divide one cluster's energy: its jobs' shares, then the rest. -/
def divideCluster (e : Nat → Nat) (s : State) (k : Nat) : State :=
  match partOfCl s k with
  | none => addUnattr s (e k)
  | some p =>
    let shares := s.jobs.map fun j => (j, e k * activeIn s j k / 16)
    let s1 := shares.foldl (fun s a => addJob s a.1.part a.1.job a.2) s
    addIdle s1 p (e k - shares.foldl (fun n a => n + a.2) 0)

/-- A job's cluster energy in the round. -/
def jobRoundEnergy (e : Nat → Nat) (s : State) (j : Job) : Nat :=
  (allClusters s).foldl (fun n k => n + e k * activeIn s j k / 16) 0

/-- Divide a partition's share of the common energy. -/
def divideShare (e : Nat → Nat) (s : State) (p share : Nat) : State :=
  match s.jobs.filter (·.part == p) with
  | [] => addIdle s p share
  | js =>
    let all := js.foldl (fun n j => n + jobRoundEnergy e s j) 0
    js.foldl (fun s j =>
      addJob s j.part j.job (if all = 0 then share / js.length else share * jobRoundEnergy e s j / all)) s

/-- A counter that has saturated sets TAL_STAT.sat (R460). -/
def noteSaturation (s : State) : State :=
  let full := fun e : Nat => decide (2 ^ 64 - 1 ≤ e / 65536)
  if full s.tally.unattr || s.tally.idle.any (full ·.2) || s.jobs.any (full ·.energy) then setRegField s oTalStat 16 1 1
  else s

/-- Divide the energies of a round of some ns (R461). -/
def divideEnergy (s : State) (x : Readings) (ns : Nat) : State :=
  let ks := allClusters s
  let e := fun k => energyOf (clusterMw x k) ns
  let common := energyOf (x.inputDw * 100) ns - ks.foldl (fun n k => n + e k) 0
  let s1 := ks.foldl (divideCluster e) s
  let s2 := (List.range 16).foldl (fun t p =>
    let n := ((getPart s p).clusters.filter (populatedCl s)).length
    if n = 0 then t else divideShare e t p (common * n / max 1 ks.length)) s1
  let free := (ks.filter fun k => (partOfCl s k).isNone).length
  noteSaturation (addUnattr s2 (common * free / max 1 ks.length))

/-! ### Reductions and prediction (R384, Table 12.3) -/

/-- The starting point's cap (Table 12.13). -/
def opMaxOf (s : State) : Nat := min 8 (regField s oPwrCtl 0 4)
/-- The lowest point of reduction 1. -/
def opFloorOf (s : State) : Nat := min (opMaxOf s) (regField s oPwrCtl 4 4)
/-- CL_VR_CTL.op_cap of a cluster. -/
def opCapOf (s : State) (k : Nat) : Nat := min 8 (regField s (oVrCtl k) 0 4)
/-- The point of a cluster in the starting setting. -/
def opStart (s : State) (k : Nat) : Nat := min (opMaxOf s) (opCapOf s k)
/-- How many of some reductions are of one order. -/
def redCount (reds : List Nat) (n : Nat) : Nat := (reds.filter (· == n)).length
/-- The point of a cluster under reduction 1. -/
def opFirst (s : State) (reds : List Nat) (k : Nat) : Nat :=
  let st := opStart s k
  if st ≤ opFloorOf s then st else max (opFloorOf s) (st - redCount reds 1)
/-- The point of a cluster under reductions 1 and 6. -/
def opUnder (s : State) (reds : List Nat) (k : Nat) : Nat := opFirst s reds k - redCount reds 6
/-- The highest point a laggard may be raised to (R397). -/
def lagCap (s : State) (k : Nat) : Nat :=
  min (opCapOf s k) (if regField s oPwrCtl 9 1 = 1 then 8 else opMaxOf s)
/-- The point of a cluster under some reductions, with what R379 and R397 do to it. -/
def opOf (s : State) (reds : List Nat) (k : Nat) : Nat :=
  let x := getCl s k
  max (opUnder s reds k) (min (lagCap s k) (opUnder s reds k + x.lift)) - x.drop
/-- The duty of a class under some reductions. -/
def dutyUnder (reds : List Nat) (cls : Nat) : Nat := redCount reds (cls + 2)

/-- Whether a reduction can still be applied. -/
def canReduce (s : State) (ks : List Nat) (reds : List Nat) (n : Nat) : Bool :=
  match n with
  | 1 => ks.any fun k => decide (opFloorOf s < opStart s k) && decide (opFloorOf s < opFirst s reds k)
  | 6 => ks.any fun k => decide (0 < opUnder s reds k)
  | 7 => decide (1 < within 1 16 (regField s (oRemCtl 0) 0 5) / 2 ^ redCount reds 7) ||
      [1, 2, 3].any fun d => decide (1 < within 1 16 (regField s (oRemCtl d) 0 5) / 2 ^ redCount reds 7)
  | _ => decide (redCount reds n < 12) && ks.any fun k => classOf s k == n - 2

/-- Apply reductions in order while more are needed. -/
def reduce (s : State) (ks : List Nat) (more : List Nat → Bool) : Nat → List Nat → List Nat
  | 0, reds => reds
  | n + 1, reds =>
    if !more reds then reds
    else
      match [1, 2, 3, 4, 5, 6, 7].find? (canReduce s ks reds) with
      | none => reds
      | some r => reduce s ks more n (r :: reds)

/-- Every reduction. -/
def allReds (s : State) (ks : List Nat) : List Nat := reduce s ks (fun _ => true) 80 []

/-- The predicted power of a cluster in µW at a point and a duty: the measured power by the ratios of f × V² and of the
unpaused shares (R384). -/
def predictCl (s : State) (x : Readings) (k op duty : Nat) : Int :=
  let c := getCl s k
  ((clusterMw x k * 1000 * fvRatio op * (16 - duty) / (fvRatio c.op * (16 - c.duty)) : Nat) : Int)

/-- The predicted input power in µW with each cluster at a point: the other rails as measured (R384). -/
def predictIn (s : State) (x : Readings) (ks : List Nat) (reds : List Nat) (op : Nat → Nat) : Int :=
  let other : Int := ((x.inputDw * 100000 : Nat) : Int) - ((ks.foldl (fun n k => n + clusterMw x k * 1000) 0 : Nat) : Int)
  ks.foldl (fun (n : Int) k => n + predictCl s x k (op k) (dutyUnder reds (classOf s k))) other

/-! ### The decision (R383, R384, R388, R394, R395, R397) -/

/-- b for the next round in µW: rounds before the first measured one count as drawing the limit (R383). -/
def budgetOf (s : State) : Int :=
  let n := windowN s
  let past := s.pwr.inputs.take (n - 1)
  let drawn := past.foldl (· + ·) 0 * 100000 + (n - 1 - past.length) * microW (limitW s)
  let b := min ((n * microW (limitW s) : Nat) - (drawn : Int)) (microW (shortW s) : Nat)
  match s.pwr.bt with
  | none => b
  | some t => min b (t : Nat)

/-- Whether a sensor stands at throttle. -/
def anyThrottle (s : State) : Bool := s.pwr.levels.any fun e => decide (2 ≤ e.2 % 8)

/-- Whether any die and stratum has no sensor left. -/
def anyGroupFailed (s : State) : Bool := (List.range 16).any (groupFailed s)

/-- The thermal budget (R395). -/
def stepBt (s : State) (x : Readings) : State :=
  let lim := limitW s
  let guard := s.pwr.rise || s.pwr.model
  let above := allSensors.any fun i => 2 ≤ sensorLevel s i && (sensorValue s x i).any fun t => decide (((16 * tsetC s : Nat) : Int) ≤ t)
  if anyThrottle s || anyGroupFailed s || guard then
    match s.pwr.bt with
    | none => modPwr s fun w => { w with bt := some (x.inputDw * 100000 - lim * 5000) }
    | some t => if guard || above then modPwr s fun w => { w with bt := some (max (microW 150) (t - lim * 5000)) } else s
  else
    match s.pwr.bt with
    | none => s
    | some t =>
      let u := t + lim * 2500
      modPwr s fun w => { w with bt := if microW (shortW s) ≤ u then none else some u }

/-- Enter and leave clamp (R380, R388, R394). -/
def stepClamp (s : State) : State :=
  let s1 := match clampBy s with
    | some k =>
      let s1 := modPwr s fun w => { w with rateCl := true, quiet := 0 }
      if s.pwr.rateCl then s1
      else
        let s2 := ledger s1 0x0806 sevError none (srcCluster k) []
        if s.pwr.alertCl then s2 else addRegField s2 oPwrEvt 16 16 1
    | none =>
      if !s.pwr.rateCl then s
      else
        let calm := (allClusters s).all (fun k => decide (riseOf s k ≤ 500000)) && !anyThrottle s
        let q := if calm then s.pwr.quiet + 1 else 0
        if max 1 (regField s oPwrCtl 24 16) ≤ q then
          let half := microW (limitW s) / 2
          modPwr s fun w => { w with rateCl := false, quiet := 0, bt := some (min half (w.bt.getD half)) }
        else modPwr s fun w => { w with quiet := q }
  if s1.pwr.alertCl && !s1.pwr.alert && max 1 (regField s oPwrCtl 16 8) ≤ s1.pwr.high then
    modPwr s1 fun w => { w with alertCl := false } else s1

/-- The clusters of a partition that hold a flagged one. -/
def flaggedWith (s : State) (ks : List Nat) (k : Nat) : Bool :=
  ks.any fun j => (getCl s j).lag && partOfCl s j == partOfCl s k

/-- Whether the remedies of R397 act. -/
def lagActs (s : State) : Bool :=
  regField s oPwrCtl 10 1 == 1 && !s.pwr.rateCl && !s.pwr.alertCl && s.pwr.bt.isNone

/-- Settings that fit: more reductions, or one step back where the prediction leaves limit / 100 (R384). A cluster held
below its setting rises one point before a reduction is taken back (DESIGN CHOICE). -/
def fitBudget (s : State) (x : Readings) (ks : List Nat) : State :=
  let b := s.pwr.budget
  let room := b - ((limitW s * 10000 : Nat) : Int)
  let reds := s.pwr.reds
  if b < predictIn s x ks reds (opOf s reds) then
    modPwr s fun w => { w with reds := reduce s ks (fun r => decide (b < predictIn s x ks r (opOf s r))) 80 reds }
  else
    let low := ks.filter fun k =>
      decide (0 < (getCl s k).drop) && !(getCl s k).deep && !(lagActs s && flaggedWith s ks k)
    if low.isEmpty then
      match reds with
      | [] => s
      | _ :: r => if predictIn s x ks r (opOf s r) ≤ room then modPwr s fun w => { w with reds := r } else s
    else
      let s1 := low.foldl (fun s k => modCl s k fun c => { c with drop := min c.drop (opUnder s reds k) - 1 }) s
      if predictIn s1 x ks reds (opOf s1 reds) ≤ room then s1 else s

/-- The remedy for one flagged cluster: raised where the prediction allows, otherwise it joins those whose neighbours are
lowered (R397). -/
def raiseLaggard (x : Readings) (ks : List Nat) (a : State × List Nat) (k : Nat) : State × List Nat :=
  let s := a.1
  let c := getCl s k
  let op := opOf s s.pwr.reds
  let room := s.pwr.budget - ((limitW s * 10000 : Nat) : Int)
  let up := fun j => if j = k then op k + 1 else op j
  if c.deep then a
  else if op k < lagCap s k && predictIn s x ks s.pwr.reds up ≤ room then
    (setCl s k (if 0 < c.drop then { c with drop := min c.drop (opUnder s s.pwr.reds k) - 1 } else { c with lift := c.lift + 1 }), a.2)
  else (s, a.2 ++ [k])

/-- The laggard remedies of a round (R397). -/
def remedies (s : State) (x : Readings) (ks : List Nat) : State :=
  let s0 := ks.foldl (fun s k => if (getCl s k).lag then s else modCl s k fun c => { c with lift := 0 }) s
  if !lagActs s0 then s0
  else
    let (s1, stuck) := (ks.filter fun k => (getCl s0 k).lag).foldl (raiseLaggard x ks) (s0, [])
    let op := opOf s1 s1.pwr.reds
    let lower := ks.filter fun n => !(getCl s1 n).lag && decide (opFloorOf s1 < op n) && (partOfCl s1 n).isSome &&
      stuck.any fun k => partOfCl s1 k == partOfCl s1 n && decide (op k < op n)
    lower.foldl (fun s n => modCl s n fun c => { c with drop := c.drop + 1 }) s1

/-- A cluster after a round with deep droops: held at OP0 through the next round, recorded and counted (R379). -/
def stepDeep (s : State) (k : Nat) : State :=
  let x := getCl s k
  if x.deepNew = 0 then (if x.deep then modCl s k fun c => { c with deep := false } else s)
  else
    let s1 := addRegField (addRegField s (oVrCnt k) 16 16 x.deepNew) oPwrEvt 48 16 x.deepNew
    if s.pwr.state = .clamp then modCl s1 k fun c => { c with deepNew := 0, deep := false }
    else ledger (modCl s1 k fun c => { c with deepNew := 0, deep := true, drop := 8, lift := 0 })
      0x0802 sevNotice (partOfCl s k) (srcCluster k) []

/-- The settings of the next round, to take effect 0.8 ms after the round's end (R382). -/
def decide_ (s : State) (x : Readings) : State :=
  let ks := allClusters s
  let s1 := stepClamp (stepBt (roundGuards (ks.foldl stepDeep s)) x)
  let s2 := modPwr s1 fun w => { w with budget := budgetOf s1, applyAt := some (elapsed s + 800000) }
  if s2.pwr.rateCl || s2.pwr.alertCl then
    setGov (clampSettings (modPwr s2 fun w => { w with reds := allReds s2 ks })) .clamp
  else
    let s3 := remedies (fitBudget s2 x ks) x ks
    let reds := s3.pwr.reds
    let s4 := ks.foldl (fun s k => modCl s k fun c => { c with opNext := opOf s reds k }) s3
    let s5 := modPwr s4 fun w => { w with dutyNext := [0, 1, 2, 3].map (dutyUnder reds) }
    let g : GovState := if s5.pwr.bt.isSome then .throttle else if reds.isEmpty then .normal else .capped
    setGov (if g = .throttle && s.pwr.state != .throttle then addRegField s5 oPwrEvt 32 16 1 else s5) g

/-! ### The end of a round (R382) -/

/-- PWR_RAIL and PWR_TMAX of a round (Table 12.10). -/
def latchRails (s : State) (x : Readings) : State :=
  let ks := allClusters s
  let cap := fun n : Nat => min 65535 n
  let cl := ks.foldl (fun n k => n + clusterMw x k) 0 / 100
  let rails := cap cl + 2 ^ 16 * cap x.meshDw + 2 ^ 32 * cap x.strataDw + 2 ^ 48 * cap x.farIoDw
  let best := (allSensors.filter fun i => !s.pwr.failed.contains i).foldl (fun (m : Option (Nat × Int)) i =>
    let t := look (fun _ => 0) s.pwr.sensors i
    match m with
    | none => some (i, t)
    | some (_, u) => if u < t then some (i, t) else m) none
  let bestCl := ks.foldl (fun (m : Option (Nat × Int)) k =>
    let t := (getCl s k).est
    match m with
    | none => some (k, t)
    | some (_, u) => if u < t then some (k, t) else m) none
  let lo := match best with
    | none => 0
    | some (i, t) => twos 16 t + 2 ^ 16 * i
  let hi := match bestCl with
    | none => 0
    | some (k, t) => twos 16 (t / 62500) + 2 ^ 16 * k
  modPwr s fun w => { w with rails := BitVec.ofNat 64 rails, tmax := BitVec.ofNat 64 (lo + 2 ^ 32 * hi) }

/-- The sensor at shutdown level, with its reading, if there is one (R396). -/
def shutdownBy (s : State) : Option (Nat × Nat) :=
  (allSensors.find? fun i => 4 ≤ sensorLevel s i).map fun i =>
    (i, if s.pwr.failed.contains i then 0x8000 else twos 16 (look (fun _ => 0) s.pwr.sensors i))

/-- What latches and is decided at the end of a round. -/
def endRound (s : State) (x : Readings) : State :=
  let ns := elapsed s - s.pwr.roundAt
  let held := s.pwr.alert || decide (s.pwr.roundAt < s.pwr.alertAt)
  let s1 := modPwr s fun w => { w with
    round := w.round + 1, roundEnd := (s.hallmark / 4000000 + 1) * 4000000, roundAt := elapsed s
    inputs := (x.inputDw :: w.inputs).take 2500, high := if held then 0 else w.high + 1 }
  let s2 := match s.pwr.state with
    | .throttle => bump s1 0x0C 5 1 .device
    | .clamp => bump s1 0x0C 6 1 .device
    | _ => s1
  let s3 := roundModel (roundSensors (takeLimits (divideEnergy s2 x ns)) x) x
  let s4 := latchRails ((allClusters s3).foldl stepLag s3) x
  match shutdownBy s4 with
  | some (i, t) => shutdownNow s4 true [i, t]
  | none => decide_ s4 x

/-- HOUSEKEEPING_ROUND_END: readings latch and the settings of the next round are decided; a hallmark step that has passed
the boundary ends the round there (R382). -/
def execHousekeepingRoundEnd (x : Readings) (s : State) : Host.Outcome State Fault Refusal :=
  .next (if governs s then endRound (hallmarkTo s s.pwr.roundEnd) x else s)

end Sys2Proof.Machine
end

