-- ==== Sys2Proof/Machine/Start.lean ====
section
/-! DEFINITION. Starts: image choice, the checks of the flash, the assay, hiding, training and the ready declaration
(R402 to R424, R470, R473, R474), the loss of the input, and the maintenance state. A start is one command: what happens
inside it is not shown (log entry 40). -/

namespace Sys2Proof.Machine

/-! ### Units by physical position (Tables 13.3, 13.4) -/

/-- The locator of a cluster slot. -/
def slotLoc (die slot : Nat) : Nat := die * 2 ^ 38 + slot * 2 ^ 31
/-- The locator of a core's vein in a slot. -/
def coreLoc (die slot core : Nat) : Nat := slotLoc die slot + core * 2 ^ 27
/-- Kind and locator of a unit, as kind × 2^40 + locator; none: no kind of the inclusion list names it. -/
def keyOf : Unit13 → Option Nat
  | .cluster d sl => some (1 * 2 ^ 40 + slotLoc d.toNat sl.toNat)
  | .press d sl => some (2 * 2 ^ 40 + slotLoc d.toNat sl.toNat)
  | .veinBank d sl c t b =>
    some (3 * 2 ^ 40 + coreLoc d.toNat sl.toNat c.toNat + t.toNat * 2 ^ 25 + b.toNat * 2 ^ 22)
  | .bankUnit d sl c t q =>
    some (4 * 2 ^ 40 + coreLoc d.toNat sl.toNat c.toNat + t.toNat * 2 ^ 25 + q.toNat * 2 ^ 22)
  | .seamLane i up b l =>
    some (6 * 2 ^ 40 + i.toNat * 2 ^ 38 + up.toNat * 2 ^ 37 + b.toNat * 2 ^ 33 + l.toNat * 2 ^ 26)
  | .farChannel k ch => some (7 * 2 ^ 40 + k.toNat * 2 ^ 37 + ch.toNat * 2 ^ 32)
  | _ => none

/-- Kind of a key. -/
def keyKind (k : Nat) : Nat := k / 2 ^ 40
/-- Die and slot of the cluster that a key of kinds 1 to 5 names. -/
def keySlot (k : Nat) : Nat × Nat := (fieldNat k 38 2, fieldNat k 31 7)
/-- Core-in-cluster of a key of kinds 3 to 5. -/
def keyCore (k : Nat) : Nat := fieldNat k 27 4
/-- The key of an obverse. -/
def slotKey (w : Word) : Nat := w.toNat / 2 ^ 60 * 2 ^ 40 + w.toNat % 2 ^ 40
/-- The obverse of an entry (Table 13.3). -/
def entryWord (key cause start : Nat) : Word :=
  BitVec.ofNat 64 (keyKind key % 16 * 2 ^ 60 + cause * 2 ^ 56 + start % 65536 * 2 ^ 40 + key % 2 ^ 40)

/-- How a slot of the inclusion area reads (R409). -/
inductive SlotRead where
  | empty | valid | incomplete | mismatch
  deriving DecidableEq, Repr

/-- The reading of a slot. -/
def readSlot (p : InclSlot) : SlotRead :=
  let c := ~~~ p.1
  if p.1 = BitVec.allOnes 64 && p.2 = BitVec.allOnes 64 then .empty
  else if p.2 = c then .valid
  else if p.1 ≠ BitVec.allOnes 64 && p.2 ||| c = p.2 then .incomplete
  else .mismatch

/-- The slots of a list before its first empty one. -/
def usedSlots (l : List InclSlot) : List InclSlot := l.takeWhile fun p => readSlot p != .empty
/-- The keys of a list's valid entries. -/
def listedKeys (l : List InclSlot) : List Nat :=
  (usedSlots l).filterMap fun p => if readSlot p = .valid then some (slotKey p.1) else none

/-! ### What a start works with -/

/-- The list as a start extends it: entries appended, units hidden for this start only, whether it was full (R413). -/
structure Hiding where
  added : List Nat
  temp  : List Nat
  full  : Bool
  deriving DecidableEq, Repr

/-- Every unit hidden through the list. -/
def hiddenKeys (s : State) (h : Hiding) : List Nat := listedKeys s.flash.incl ++ h.temp

/-- Change the flash. -/
def modFlash (s : State) (f : Flash → Flash) : State := { s with flash := f s.flash }

/-- Add a unit to the inclusion list unless it stands there (R408, R413). -/
def addUnit (cause : Nat) (a : State × Hiding) (key : Nat) : State × Hiding :=
  let (s, h) := a
  if (hiddenKeys s h).contains key then a
  else if s.flash.incl.length < 4096 then
    let w := entryWord key cause s.flash.starts
    (modFlash s fun f => { f with incl := f.incl ++ [(w, ~~~w)] }, { h with added := h.added ++ [key] })
  else (ledger s 0x0103 sevError none (sourceOf 9 0) [], { h with temp := h.temp ++ [key], full := true })

/-- The enabled slots of a die (R404): 64, 60 or 56 by grade. -/
def enabledSlots (s : State) : List Nat :=
  List.range (if s.start.grade = 1 then 64 else if s.start.grade = 2 then 60 else 56)

/-- Whether the assay tests a unit: those of the enabled slots, listed or not, and every lane that the list does not name
(R407, Table 13.2). -/
def tested (s : State) (key : Nat) : Bool :=
  if keyKind key = 6 then !(listedKeys s.flash.incl).contains key
  else decide (keyKind key ≤ 4) && (enabledSlots s).contains (keySlot key).2

/-- The hidden banks of a vein, as a mask (R138, R190). -/
def hiddenMask (keys : List Nat) (die slot core : Nat) : Nat :=
  (List.range 32).foldl (fun m i =>
    let hit := keys.any fun k => keySlot k == (die, slot) && keyCore k == core && fieldNat k 25 2 == i / 8 &&
      ((keyKind k == 3 && fieldNat k 22 3 == i % 8) || (keyKind k == 4 && fieldNat k 22 2 == i % 8 / 2))
    if hit then m + 2 ^ i else m) 0

/-- The clusters that have a vein with more than four hidden banks (R138, R408). -/
def crowdedClusters (keys : List Nat) : List Nat :=
  ((keys.filter fun k => keyKind k == 3 || keyKind k == 4).filter fun k =>
    decide (4 < ones 32 (hiddenMask keys (keySlot k).1 (keySlot k).2 (keyCore k)))).map fun k =>
      2 ^ 40 + slotLoc (keySlot k).1 (keySlot k).2

/-! ### Steps 2 and 3: the ROM (R470, R473) -/

/-- A device in which nothing but the comptroller works; the flash is kept, and what waits to be commanded. -/
def offState (s : State) (ph : Phase) (c : CompState) (fault : Bool) : State :=
  { State.reset with
    pending := s.pending, out := s.out, freeN := s.freeN + 1, flash := s.flash
    comp := { State.reset.comp with state := c, imageOk := false, step := 1 }
    start := { State.reset.start with
      phase := ph, grade := s.start.grade, slots := [[], [], [], []], farMask := List.replicate 8 0, pins := s.start.pins
      perst := s.start.perst, readyPin := false, faultN := fault } }

/-- Erases cut short, in the order of the journal. -/
def openErases (f : Flash) : List Nat := (f.journal.filter fun j => !j.2).map (·.1)

/-- ROM erases each of them again and marks its entry; a full journal without open entries is erased (R470). -/
def repairErases (s : State) : State :=
  modFlash s fun f => { f with
    erasing := [], programs := 0
    journal := if 3584 ≤ f.journal.length && (openErases f).isEmpty then [] else f.journal.map fun j => (j.1, true) }

/-- An image slot. -/
def imageOf (f : Flash) (b : Bool) : Image := if b then f.slotB else f.slotA
/-- Replace an image slot. -/
def setImage (f : Flash) (b : Bool) (i : Image) : Flash := if b then { f with slotB := i } else { f with slotA := i }

/-- Whether ROM runs the image of a slot: not tried without success, a header, and its checks pass (R473). -/
def imagePasses (s : State) (e : StartEnv) (b : Bool) : Bool :=
  let i := imageOf s.flash b
  !(i.tried && !i.ok) && !i.erased && (if b then e.slotBGood else e.slotAGood)

/-- The slot chosen, and whether the first one tried failed (R473). -/
def chooseImage (s : State) (e : StartEnv) : Option (Bool × Bool) :=
  let p := s.flash.preferB
  if imagePasses s e p then some (p, false) else if imagePasses s e !p then some (!p, true) else none

/-! ### Step 4: the firmware reads the flash -/

/-- The tally counters as the flash holds them; a pair in mismatch is not used (R466). -/
def resumeTally (s : State) : State :=
  (List.range 17).foldl (fun s i =>
    match s.flash.tally.find? (·.1 == i) with
    | none => s
    | some (_, o, r) =>
      if r = ~~~o then
        let e := o.toNat * 65536
        if i = 16 then { s with tally := { s.tally with unattr := e } }
        else { s with tally := { s.tally with cum := put (fun _ => 0) s.tally.cum i e } }
      else
        let s1 := pairMismatch s 9 (0x1100000 + 16 * i) none (sourceOf 9 0)
        ledger (setRegField s1 oTalStat 17 1 1) 0x0A07 sevError none (sourceOf 9 0) []) s

/-- The calibration values on defaults: class and number (R421). -/
def badCal (f : Flash) : List (Nat × Nat) :=
  f.cal.flatMap fun c => (c.2.zipIdx.filter fun p => p.1.2 ≠ ~~~p.1.1).map fun p => (c.1, p.2)

/-- Read and check the calibration store (R420, R421). -/
def readCal (s : State) : State :=
  let bad := badCal s.flash
  let s1 := bad.foldl (fun s b => pairMismatch s 5 (0x40000 + 0x1000 * b.1 + 16 * b.2) none (sourceOf 9 0)) s
  let w := (if s.flash.calUser then 1 else 0) + (if bad.isEmpty then 0 else 2) + 2 ^ 32 * bad.length
  let s2 := setReg (modStart s1 fun t => { t with cal := s.flash.cal }) oCalstat (BitVec.ofNat 64 w)
  setReg s2 oHmFreq (BitVec.ofNat 64 (twos 32 (calValue s2 3 0)))

/-- Read the boot settings; a pair in mismatch starts flat with share 0 (Table 14.5, R416). -/
def readBoot (s : State) : State :=
  let (o, r) := s.flash.boot
  if r = ~~~o then
    let t := o.getLsbD 0
    let c := if t then min 32 (max 1 (fieldNat o.toNat 8 6)) else 0
    let s1 := setReg (modStart s fun x => { x with tiered := t, share := c }) oAsyNext o
    setReg s1 oFarMode (BitVec.ofNat 64 (t.toNat + 256 * c))
  else pairMismatch s 7 0x10000 none (sourceOf 9 0)

/-- The slots of the inclusion area in mismatch: each gives two entries with cause pair mismatch (R412). -/
def inclMismatches (a : State × Hiding) : State × Hiding :=
  ((usedSlots a.1.flash.incl).zipIdx.filter fun p => readSlot p.1 == .mismatch).foldl (fun a p =>
    let s := pairMismatch a.1 2 (0x20000 + 16 * p.2) none (sourceOf 9 0)
    addUnit 4 (addUnit 4 (s, a.2) (slotKey p.1.1)) (slotKey (~~~ p.1.2))) a

/-- The pending retirements become entries; one in mismatch is dropped (R408, Table 14.5). -/
def takeRetirements (a : State × Hiding) : State × Hiding :=
  let (s, h) := a.1.flash.pend.zipIdx.foldl (fun a p =>
    if p.1.2 = ~~~p.1.1 then addUnit 2 a (slotKey p.1.1)
    else (pairMismatch a.1 8 (0x30000 + 16 * p.2) none (sourceOf 9 0), a.2)) a
  (modFlash s fun f => { f with pend := [] }, h)

/-! ### Steps 6 to 8: assay, hiding, training -/

/-- The key of the bank unit whose pair a bank belongs to. -/
def bankPairKey (key : Nat) : Nat := 4 * 2 ^ 40 + key % 2 ^ 40 / 2 ^ 23 * 2 ^ 23

/-- The failures of the assay among the units it tests; the banks of a bank unit that failed take no part in the test of the
strata (R408). -/
def assayKeys (s : State) (e : StartEnv) : List Nat :=
  let all := ((e.assay.filterMap keyOf).filter (tested s)).eraseDups
  all.filter fun k => !(keyKind k == 3 && all.contains (bankPairKey k))

/-- Every addition of step 7 (R408). -/
def additions (s : State) (e : StartEnv) : State × Hiding :=
  let a1 := takeRetirements (inclMismatches (s, ⟨[], [], false⟩))
  let a2 := (assayKeys s e).foldl (addUnit 1) a1
  (crowdedClusters (hiddenKeys a2.1 a2.2)).foldl (addUnit 1) a2

/-- ASY_RESULT: failures at this start, listed or not (Table 13.10). -/
def assayResult (keys : List Nat) : Nat :=
  let n := fun k => (keys.filter (keyKind · == k)).length
  n 1 + n 2 * 2 ^ 16 + (n 3 + 2 * n 4) * 2 ^ 32 + n 6 * 2 ^ 48

/-- Whether training failed a cluster through a vein port (Table 13.6). -/
def portFailed (e : StartEnv) (die slot : Nat) : Bool :=
  e.training.any fun u => match u with
    | .veinPort d sl _ => d.toNat == die && sl.toNat == slot
    | _ => false

/-- The available slots of a die, in order of physical position (R3, R4). -/
def availableSlots (s : State) (keys : List Nat) (e : StartEnv) (die : Nat) : List Nat :=
  (enabledSlots s).filter fun sl => !keys.contains (2 ^ 40 + slotLoc die sl) && !portFailed e die sl

/-- The clusters with their press absent, and the hidden banks and retired frames of their veins (Table 13.5). -/
def hideUnits (s : State) (keys : List Nat) : State :=
  (allClusters s).foldl (fun s k =>
    let d := k / 64
    let sl := (slotsOf s d).getD (k % 64) 0
    let s1 := if keys.contains (2 * 2 ^ 40 + slotLoc d sl) then modCl s k fun x => { x with absent := true } else s
    let mine := keys.filter fun q => keySlot q == (d, sl) && 3 ≤ keyKind q && keyKind q ≤ 5
    if mine.isEmpty then s1
    else (List.range 16).foldl (fun s i =>
      let c := k * 16 + i
      let s2 := modStart s fun t => { t with hidden := put (fun _ => 0) t.hidden c (hiddenMask mine d sl i) }
      let fr := (mine.filter fun q => keyKind q == 5 && keyCore q == i).map fun q => fieldNat q 10 12
      if fr.isEmpty then s2 else modVein s2 c fun v => { v with retired := fr }) s1) s

/-- The good channels of a stack: neither listed nor failed in training; fewer than 28 map the stack out (R288). -/
def goodChannels (keys : List Nat) (e : StartEnv) (k : Nat) : Nat :=
  let m := (List.range 32).foldl (fun m ch =>
    let key := 7 * 2 ^ 40 + k * 2 ^ 37 + ch * 2 ^ 32
    if keys.contains key || (e.training.filterMap keyOf).contains key then m else m + 2 ^ ch) 0
  if ones 32 m < 28 then 0 else m

/-- The listed lanes of a bundle and direction. -/
def listedLanes (keys : List Nat) (i : Nat) (up : Bool) (b : Nat) : Nat :=
  (keys.filter fun k => keyKind k == 6 && fieldNat k 38 2 == i && fieldNat k 37 1 == up.toNat && fieldNat k 33 4 == b).length

/-- The bundles of a seam that work: at most 4 listed lanes in each direction, and trained (R302, Table 13.6). -/
def workingAt (keys : List Nat) (e : StartEnv) (i : Nat) : List Nat :=
  (List.range 16).filter fun b =>
    decide (listedLanes keys i true b ≤ 4) && decide (listedLanes keys i false b ≤ 4) &&
      !(e.training.any fun u => match u with
        | .seamBundle j c => j.toNat == i && c.toNat == b
        | _ => false)

/-- The sum of the bits of some numbers. -/
def maskOf (l : List Nat) : Nat := l.foldl (fun m i => m + 2 ^ i) 0

/-- SEAM_STAT of a seam with some working bundles (R303): the lowest engine plain, the highest bulk, the others streams. -/
def seamRoles (w : List Nat) (bulk : Nat) : Nat :=
  if w.length < 2 then maskOf w * 2 ^ 32 + 2
  else
    let b := if w.length = 2 then 1 else min (max 1 (min 8 bulk)) (w.length - 2)
    let streams := (w.drop 1).take (w.length - 1 - b)
    maskOf w * 2 ^ 32 + maskOf streams * 2 ^ 16 + b * 2 ^ 12 + w.headD 0 * 2 ^ 8

/-- SEAM_LANE of a seam and direction (Table 9.15). -/
def laneWord (keys w : List Nat) (i : Nat) (up : Bool) : Nat :=
  (List.range 16).foldl (fun m b => m + (if w.contains b then listedLanes keys i up b else 15) * 2 ^ (4 * b)) 0

/-- The lanes of a bundle and direction that carry its data lanes 0 to 63: the first 64 of its 68 that the list does not
name, in lane order (R301, R302). -/
def assignLanes (keys : List Nat) (i : Nat) (up : Bool) (b : Nat) : List Nat :=
  ((List.range 68).filter fun l =>
    !keys.contains (6 * 2 ^ 40 + i * 2 ^ 38 + up.toNat * 2 ^ 37 + b * 2 ^ 33 + l * 2 ^ 26)).take 64

/-- The lane that carries data lane n of a bundle and direction (R302). -/
def seamLaneOf (s : State) (i : Nat) (up : Bool) (b n : Nat) : Nat :=
  (look (fun _ => List.range 64) s.start.lanes (i * 32 + up.toNat * 16 + b)).getD n 0

/-- The lane assignment of every bundle and direction. -/
def setLanes (s : State) (keys : List Nat) : State :=
  modStart s fun t => { t with lanes := (List.range 128).foldl (fun m n =>
    put (fun _ => List.range 64) m n (assignLanes keys (n / 32) (n / 16 % 2 == 1) (n % 16))) [] }

/-- Lane assignment and roles of every seam (R302, R303). -/
def setSeams (s : State) (keys : List Nat) (e : StartEnv) (bulk : Nat) : State :=
  (List.range 4).foldl (fun s i =>
    let w := workingAt keys e i
    let s1 := setReg s (oSeamStat i) (BitVec.ofNat 64 (seamRoles w bulk))
    let s2 := setReg s1 (oSeamLane i true) (BitVec.ofNat 64 (laneWord keys w i true))
    setReg s2 (oSeamLane i false) (BitVec.ofNat 64 (laneWord keys w i false))) (setLanes s keys)

/-- Whether every die reaches the comptroller's (Table 13.8). -/
def allReached (s : State) : Bool := [1, 2, 3].all fun d => (routeOf s 0 d false).isSome

/-- Entry 7 of every populated vein becomes the cache region in tiered mode (R416). -/
def cacheRegions (s : State) : State :=
  if !s.start.tiered then s
  else ((allClusters s).flatMap coresOf).foldl (fun s c =>
    setReg s (oRegion c 7) (BitVec.ofNat 64 (slabsOf s c / 8 - s.start.share + s.start.share * 256 + kindCache * 2 ^ 19))) s

/-- A Clearing port that lost lanes in training runs on lanes 0 and 1 or 2 and 3 at half rate, and reads down where neither
pair is left (R338, Table 13.6). -/
def loseLanes (s : State) (n lost : Nat) : State :=
  let left := (getPort s n).lanes &&& (15 - lost)
  setPort s n (if left = 0 then { Port.trained with state := .down, lanes := 0, seen := elapsed s }
    else { Port.trained with lanes := left, seen := elapsed s })

/-- What training found of the Clearing ports; from here on each end watches for frames (R342). -/
def downPorts (s : State) (e : StartEnv) : State :=
  e.training.foldl (fun s u => match u with
    | .clearingPort n => loseLanes s n.toNat 15
    | .clearingLanes n upper => loseLanes s n.toNat (if upper then 12 else 3)
    | _ => s) ((List.range 8).foldl (fun s n => setPort s n { Port.trained with seen := elapsed s }) s)

/-- Partition 0 holds every populated cluster and slice, and its registers name them (R10, R326). -/
def populateParts (s : State) : State :=
  let ks := allClusters s
  let slices := maskOf ((List.range 64).filter (sliceHere s))
  let words := (List.range 4).map (fun i => maskOf ((ks.filter (· / 64 == i)).map (· % 64))) ++ [slices]
  words.zipIdx.foldl (fun s e =>
    setReg (setReg s (oPart 0 e.2) (BitVec.ofNat 64 e.1)) (oPartR 0 e.2) (~~~ BitVec.ofNat 64 e.1))
    (setPart s 0 { Layout.all with clusters := ks, slices := slices })

/-! ### The start as a whole -/

/-- A fatal condition: FAULT_N, a record, and the image is not at fault (R418, R473). -/
def fatalStart (s : State) (b : Bool) (code : Nat) : State :=
  let s1 := ledger s code sevFatal none (sourceOf 0 0) []
  let s2 := modFlash s1 fun f => setImage f b { imageOf f b with ok := true }
  modStart s2 fun t => { t with phase := .fatal, faultN := true, readyPin := false }

/-- The source of a record about a hidden unit: the seam, the stack, or the die. -/
def hiddenSource (key : Nat) : Nat :=
  if keyKind key = 6 then srcSeam (fieldNat key 38 2)
  else if keyKind key = 7 then srcStack (fieldNat key 37 3) else srcDie (keySlot key).1

/-- The unit that a failure in training newly hides, as kind, place and the source of its record: a cluster once for all
its ports, a bundle or a channel; none where the unit is hidden already or not enabled (R7, R417). -/
def trainedUnit (s : State) (keys : List Nat) : Unit13 → Option (Nat × Nat × Nat)
  | .veinPort d sl _ =>
    let key := 2 ^ 40 + slotLoc d.toNat sl.toNat
    if (enabledSlots s).contains sl.toNat && !keys.contains key then some (1, key, srcDie d.toNat) else none
  | .seamBundle i b =>
    if listedLanes keys i.toNat true b.toNat ≤ 4 && listedLanes keys i.toNat false b.toNat ≤ 4 then
      some (6, i.toNat * 16 + b.toNat, srcSeam i.toNat) else none
  | .farChannel k ch =>
    let key := 7 * 2 ^ 40 + k.toNat * 2 ^ 37 + ch.toNat * 2 ^ 32
    if keys.contains key then none else some (7, key, srcStack k.toNat)
  | _ => none

/-- The units that training hid at this start, as the sources of their records (R7, R417). -/
def trainedOut (s : State) (keys : List Nat) (e : StartEnv) : List Nat :=
  ((e.training.filterMap (trainedUnit s keys)).eraseDups).map (·.2.2) ++
    ((List.range 8).filter fun n => (getPort s n).state == .down).map (sourceOf 6)

/-- The counts of available clusters, presses and cores (Table 13.10). -/
def presses (s : State) : Nat := ((allClusters s).filter fun k => !(getCl s k).absent).length

/-- Step 10 (R417). -/
def declareReady (s : State) (h : Hiding) (keys : List Nat) (e : StartEnv) (b : Bool) : State :=
  let s1 := (h.added ++ h.temp).foldl (fun s k => ledger s 0x0102 sevNotice none (hiddenSource k) []) s
  let s2 := (trainedOut s keys e).foldl (fun s src => ledger s 0x0102 sevNotice none src []) s1
  let counts := (List.range 4).map fun d => (slotsOf s d).length
  let s3 := ledger s2 0x0101 sevInfo none (sourceOf 0 0)
    (counts ++ [presses s, 16 * (allClusters s).length, e.ms.toNat])
  let s4 := modFlash s3 fun f => setImage f b { imageOf f b with ok := true }
  modStart { s4 with comp := { s4.comp with step := 10, imageOk := true } } fun t => { t with
    phase := .ready, readyPin := true, link := !t.perst }

/-- Steps 5 to 10. -/
def releaseDies (s : State) (bulk : Nat) (e : StartEnv) (b fallback : Bool) (kind : Nat) : State :=
  let (s1, h) := additions s e
  let keys := hiddenKeys s1 h
  let s2 := modStart s1 fun t => { t with
    slots := (List.range 4).map (availableSlots s1 keys e), farMask := (List.range 8).map (goodChannels keys e) }
  let s3 := downPorts (populateParts (cacheRegions (setSeams (hideUnits s2 keys) keys e bulk))) e
  let stat := s.flash.starts % 65536 * 2 ^ 48 + e.ms.toNat * 2 ^ 32 + h.added.length % 4096 * 2 ^ 20 + h.full.toNat * 64 +
    b.toNat * 32 + fallback.toNat * 16 + kind * 4
  let s4 := setReg s3 oAsyResult (BitVec.ofNat 64 (assayResult (assayKeys s e)))
  let s5 := fun (ready : Nat) => setReg s4 oAsyStat (BitVec.ofNat 64 (stat + ready))
  if e.fatal = some .unreachableDie || e.fatal = some .pciePhy || !allReached s4 then fatalStart (s5 0) b 0x0104
  else declareReady (s5 1) h keys e b

/-- Steps 4 to 10: the firmware runs. The image watchdog cuts a start that has not declared ready within 5 s (R474). -/
def runFirmware (s : State) (old : State) (kind : Nat) (e : StartEnv) (b fallback : Bool) : State :=
  let hall := e.ms.toNat * 1000000 - (if kind = 0 then 30000000 else 0)
  let s0 := modFlash s fun f => { setImage f b { imageOf f b with tried := true, ok := false } with starts := f.starts + 1 }
  let s1 := { s0 with
    hallmark := hall
    comp := { s0.comp with state := .firmware, slotB := b, fallback := fallback, step := 4 }
    pwr := { s0.pwr with roundEnd := (hall / 4000000 + 1) * 4000000, roundAt := hall }
    tally := { s0.tally with ivlStart := hall / 60000000000 * 60000000000
                             ivlEnd := (hall / 60000000000 + 1) * 60000000000 }
    start := { s0.start with faultN := false, pins := e.slotPins.toNat, upAt := List.replicate 4 hall } }
  if 5000 ≤ e.ms.toNat then modStart s1 fun t => { t with phase := .starting }
  else
    let s2 := (openErases old.flash).foldl (fun s _ => ledger s 0x0A03 sevNotice none (sourceOf 9 0) []) s1
    let s3 := if fallback then ledger s2 0x0A02 sevWarn none (sourceOf 9 0) [] else s2
    let s4 := setReg (resumeTally (readBoot (readCal s3))) oClrNode (BitVec.ofNat 64 e.slotPins.toNat)
    let bulk := if kind = 0 then 4 else regField old oSeamCtl 0 4
    match e.fatal with
    | some (.dieRails _) => fatalStart s4 b 0x0104
    | some .identity => fatalStart s4 b 0x0501
    | some (.strata i t) => shutdownNow s4 true [i.toNat, t.toNat]
    | some (.alert c) => shutdownNow s4 false [c.toNat]
    | _ => releaseDies s4 bulk e b fallback kind

/-- A start of a kind: 0 cold, 1 warm, 2 service (R402, Table 13.1). -/
def startDevice (s : State) (kind : Nat) (e : StartEnv) : State :=
  let s0 := repairErases s
  match e.fatal with
  | some .lockstep => offState s0 .fatal .rom true
  | some .noImage => offState s0 .recovery .recovery true
  | _ =>
    match chooseImage s0 e with
    | none => offState s0 .recovery .recovery true
    | some (b, fallback) => runFirmware (offState s0 .starting .rom false) s kind e b fallback

/-- COLD_START: the input passes 48 V (R402, R520). -/
def execColdStart (e : StartEnv) (s : State) : Host.Outcome State Fault Refusal :=
  .next (if s.start.phase = .unpowered then startDevice s 0 e else s)

/-- WARM_START: ASY_CTL.restart written with its key (R402, R403, Table 13.11). -/
def execWarmStart (r : Req) (e : StartEnv) (s : State) : Host.Outcome State Fault Refusal :=
  .next (regWrite s r oAsyCtl fun s => if s.start.phase = .unpowered then s else startDevice s 1 e)

/-- INPUT_LOSS: below 40 V for more than 50 µs every state but the flash is lost; an erase in progress stays without its
mark (R520, R522). -/
def execInputLoss (s : State) : Host.Outcome State Fault Refusal :=
  .next (if s.start.phase = .unpowered then s else offState s .unpowered .rom false)

/-- IMAGE_WATCHDOG_EXPIRY: the image has not confirmed within 5 s; the start begins again from step 2, and the slot is
passed over (R474). -/
def execImageWatchdogExpiry (e : StartEnv) (s : State) : Host.Outcome State Fault Refusal :=
  .next (if s.start.phase = .starting && s.comp.state = .firmware then startDevice s 1 e else s)

/-! ### The maintenance state and the boot settings (R419, R424) -/

/-- The maintenance bit of a write of ASY_CTL with its key (R419). -/
def maintWrite (s : State) (on : Bool) : State :=
  if s.start.phase ≠ .ready then s
  else if !on then modStart s fun t => { t with maint := false }
  else if s.jobs.isEmpty then modStart s fun t => { t with maint := true }
  else setRegField s oAsyStat 7 1 1

/-- MAINTENANCE_ENTER. -/
def execMaintenanceEnter (r : Req) (s : State) : Host.Outcome State Fault Refusal :=
  .next (regWrite s r oAsyCtl fun s => maintWrite s true)

/-- MAINTENANCE_LEAVE. -/
def execMaintenanceLeave (r : Req) (s : State) : Host.Outcome State Fault Refusal :=
  .next (regWrite s r oAsyCtl fun s => maintWrite s false)

/-- A write of ASY_NEXT is stored as a pair and takes effect at the next start (R424). -/
def bootWrite (s : State) (w : Word) : State :=
  let v := w &&& 0x3F01
  setReg (modFlash s fun f => { f with boot := (v, ~~~v), programs := f.programs + 1 }) oAsyNext v

/-- BOOT_SETTINGS_WRITE. -/
def execBootSettingsWrite (r : Req) (w : Word) (s : State) : Host.Outcome State Fault Refusal :=
  .next (regWrite s r oAsyNext fun s => bootWrite s w)

end Sys2Proof.Machine
end

