-- ==== Sys2Proof/Machine/Integrity.lean ====
section
/-! DEFINITION. Resets of a die, retirement requests, and bits that change of themselves (R296, R309, R310, R425, R435 to
R440, R443). -/

namespace Sys2Proof.Machine

/-! ### What a reset unit's requesters see (R437, R438, R254) -/

/-- Cores that wait in a cache instruction whose record a test picks take trap 0x06 sub 9 (R254). -/
def failCacheWaits (s : State) (hit : Nat → Nat → Bool) : State × Nat :=
  s.cores.foldl (fun a e =>
    match e.2.wait with
    | some (.cache _ _ seq addr) =>
      if hit e.1 addr then
        let s1 := modCore (syncCore a.1 e.1) e.1 fun x => { x with wait := none, run := .running, waited := 0 }
        (takeTrap s1 e.1 ⟨6, 9, seq⟩ (getCore s1 e.1).pc false false, a.2 + 1)
      else a
    | _ => a) (s, 0)

/-- Answer the queued guests of a vein with TARGET_RESET: the state and how many there were (R179). -/
def failGuests (s : State) (c : Nat) : State × Nat :=
  let gs := (getVein s c).guests
  (gs.foldl (fun s g => emit s (.memReply g.req.kind.toNat g.req.source.toNat stTargetReset [])) s, gs.length)

/-- Answer the queue of a pseudo-channel with TARGET_RESET; the scrub place is kept with the stack (R296). -/
def failFar (s : State) (k pc : Nat) : State × Nat :=
  let x := getPc s k pc
  (setPc (x.queue.foldl (fun s e => farTold s e.req stTargetReset []) s) k pc { PseudoCh.idle with scrub := x.scrub, scrubAt := x.scrubAt },
    x.queue.length)

/-- The moves of other dies' cores in flight to a die end with TARGET_RESET, and so do their appends that touch it (R179,
R254, R438). -/
def failMoves (s : State) (d : Nat) : State × Nat :=
  let hit : Move → Bool := fun m => dieOfAddr m.ga == d
  (s.cores.filter fun e => decide (e.1 / 1024 ≠ d)).foldl (fun a e =>
    let ms := e.2.moves.filter hit
    let n := ms.length + (e.2.appends.filter (·.dies.contains d)).length
    if n = 0 then a
    else
      let lose : CoreSt → Move → CoreSt := fun x m => noteFailure x (m.fail.or (some ⟨0xE, 2, m.ga⟩))
      let s1 := modCore a.1 e.1 fun x => ms.foldl lose { x with
        moves := x.moves.filter fun m => !hit m
        appends := x.appends.map fun p => if p.dies.contains d then { p with status := stTargetReset, count := 0, trap := none } else p }
      (settle s1 e.1, a.2 + n)) (s, 0)

/-- The transfers at the head of other dies' engines and the host copies in progress whose next piece touches a die end
with TARGET_RESET (R438). -/
def failPieces (s : State) (d : Nat) : State × Nat :=
  let a := s.clusters.foldl (fun a e =>
    match e.2.xfers with
    | t :: r =>
      let (src, dst, _) := t.piece
      if e.1 / 64 ≠ d && decide (0 < t.done) && t.fail.isNone && (dieOfAddr src == d || dieOfAddr dst == d) then
        (setCl a.1 e.1 { e.2 with xfers := { t with fail := some stTargetReset } :: r }, a.2 + 1)
      else a
    | [] => a) (s, 0)
  (List.range 64).foldl (fun a i =>
    match (getRing a.1 (i / 4) (i % 4)).copy with
    | some c =>
      if c.status.isNone && dieOfAddr c.dev == d then
        (setRing a.1 (i / 4) (i % 4) { getRing a.1 (i / 4) (i % 4) with
          copy := some { c with status := some stTargetReset, asked := false } }, a.2 + 1)
      else a
    | none => a) a

/-- Apply a step that counts to each of a list. -/
def countAll {α : Type} (f : State → α → State × Nat) (s : State) (l : List α) : State × Nat :=
  l.foldl (fun a x => let (t, n) := f a.1 x; (t, a.2 + n)) (s, 0)

/-! ### Die reset (R440) -/

/-- The cores of a die, by ID. -/
def coresOfDie (d : Nat) : List Nat := (List.range 1024).map (d * 1024 + ·)

/-- A cluster of a reset die: its units idle; what the governor set stays (R440 step 4). -/
def resetClusterSt (x : ClusterSt) : ClusterSt :=
  { ClusterSt.idle with
    failed := x.failed, absent := x.absent, prFault := x.prFault, op := x.op, opTarget := x.opTarget, opNext := x.opNext
    lift := x.lift, drop := x.drop, ramping := x.ramping, rampOp := x.rampOp, rampEnd := x.rampEnd, slow := x.slow, duty := x.duty, paused := x.paused
    pausedAt := x.pausedAt, pauseEnd := x.pauseEnd, deep := x.deep, deepNew := x.deepNew, est := x.est, rise := x.rise
    estOld := x.estOld, quick := x.quick, powerMw := x.powerMw, activity := if x.paused then .paused else .idle }

/-- The seams that end on a die. -/
def seamsOf (d : Nat) : List Nat := (List.range 4).filter fun i => seamEnd i true == d || seamEnd i false == d

/-- Reset the cores, clusters and veins of a die, with their registers (R104, R179, Table 6.9, R490). -/
def resetDieUnits (s : State) (d : Nat) : State :=
  let ks := (List.range 64).map (d * 64 + ·)
  let s1 := ks.foldl (fun s k => syncCluster s k) s
  let s2 := ks.foldl (fun s k => resetRegs (modCl s k resetClusterSt) (clBase k) 0x4000) s1
  (coresOfDie d).foldl (fun s c =>
    let v := getVein s c
    resetRegs (setVein (setCore s c CoreSt.idle) c { VeinSt.idle with retired := v.retired }) (coBase c) 0x1000) s2

/-- The parts of the state that name units of a die: signals, key requests, closing sequences, cluster barriers, the die's
counters, its remint engine, its seam engines. -/
def resetDieRest (s : State) (d : Nat) : State :=
  let on := fun c : Nat => c / 1024 == d
  let s0 := (List.range 16).foldl (fun s p => remStop s d p stTargetReset) s
  let s1 := (List.range 64).foldl (fun s i => undoPages s (i / 16) (i % 16) stTargetReset fun j g =>
    g.core / 1024 == d || g.home / 1024 == d || dieOfAddr j.list == d) s0
  let s2 := resetRegs (resetRegs s1 (oRemCtl d) 0x400) (oDsel d 0) 0x200
  let s3 := (seamsOf d).foldl (fun s i =>
    setSeam (setSeamDir (setSeamDir s i true SeamDir.idle) i false SeamDir.idle) i SeamSt.idle) s2
  { s3 with
    signals := s3.signals.filter fun g => !on g.source && !on g.target
    keys := s3.keys.filter fun q => !on q.core
    closing := s3.closing.filter fun e => dieOfAddr e.2.2 != d
    barriers := s3.barriers.filter fun e => !(decide (e.1 < 0x10000) && e.1 / 64 / 64 == d)
    remMoved := put (fun _ => 0) s3.remMoved d 0
    remNext := put (fun _ => 0) s3.remNext d 0 }

/-- The streams that end on a die, or are relayed through it, end at their other ends (R310). -/
def resetDieStreams (s : State) (d : Nat) : State :=
  let s1 := endStreams s (fun t => t.peer / 1024 == d) 3
  endStreams s1 (fun t => decide (2 ≤ t.engines.length) &&
    decide (2 ≤ (t.engines.filter fun g => (seamsOf d).contains g.1).length)) 2

/-- The whole die reset, steps 1 to 4 (R440). -/
def resetDie (s : State) (d : Nat) : State :=
  let js := s.jobs.filter fun j => j.cores.any fun c => c / 1024 == d
  let s1 := js.foldl (fun s j => stopJob s j stTargetReset 0 false) s
  let (s2, loads) := failLoads s1 fun c a => decide (c / 1024 ≠ d) && dieOfAddr a == d
  let (s3, waits) := failCacheWaits s2 fun c a => decide (c / 1024 ≠ d) && dieOfAddr a == d
  let (s31, moves) := failMoves s3 d
  let (s32, pieces) := failPieces s31 d
  let (s4, guests) := countAll failGuests s32 (coresOfDie d)
  let (s5, far) := countAll (fun s n => failFar s (2 * d + n / 64) (n % 64)) s4 (List.range 128)
  let down := modStart (resetDieStreams s5 d) fun t => { t with dies := t.dies.set d 1 }
  let s6 := resetDieRest (resetDieUnits down d) d
  let s7 := modStart s6 fun t => { t with
    drops := t.drops.set d loads, dieAt := t.dieAt.set d (elapsed s), resets := (t.resets + 1) % 65536 }
  let s8 := cacheRegionsOf s7 d
  settleJobs (statusChange (unitReset s8 d (srcDie d) (loads + waits + moves + pieces + guests + far) loads))
where
  /-- The controller restores the cache regions of tiered mode (R179). -/
  cacheRegionsOf (s : State) (d : Nat) : State :=
    if !s.start.tiered then s
    else (((allClusters s).filter (· / 64 == d)).flatMap coresOf).foldl (fun s c =>
      setReg s (oRegion c 7)
        (BitVec.ofNat 64 (slabsOf s c / 8 - s.start.share + s.start.share * 256 + kindCache * 2 ^ 19))) s

/-- A request to reset a die: it is recorded, and ignored for the comptroller's die and for one that is not up (R440). -/
def dieRequest (s : State) (d : Nat) : State :=
  let s1 := ledger s 0x0503 sevWarn none (srcDie d) []
  if d = 0 || !dieUp s d then s1 else resetDie s1 d

/-- DIE_RESET: a write of DEV_DRST with its key. -/
def execDieReset (r : Req) (d : DieId) (s : State) : Host.Outcome State Fault Refusal :=
  .next (regWrite s r oDrst fun s => dieRequest s d.toNat)

/-- Reset every die that no longer reaches the comptroller's die over seams that are up (R309, Table 9.10). -/
def cutOffDies (s : State) : State :=
  [1, 2, 3].foldl (fun s d =>
    if dieUp s d && !((diePaths 0 d).any fun p => (pathLegs p).all fun l => seamUp s l.1) then resetDie s d else s) s

/-- The roles of R303 over the bundles of a seam that still work. -/
def rolesAgain (s : State) (i : Nat) : State :=
  if !seamUp s i then s
  else
    let w := workingBundles s i
    let all := maskOf w
    let word := (getReg s (oSeamStat i)).toNat
    let bulk := fieldNat word 12 4
    let new := seamRoles w (max 1 bulk)
    setReg s (oSeamStat i) (BitVec.ofNat 64 (fieldNat word 32 32 * 2 ^ 32 + (new - all * 2 ^ 32) % 2 ^ 32 / 4 * 4 + word % 4))

/-- What training fails at a die's return stays hidden until the next start, and the ledger reports each unit once (R6,
R288, R440 step 5; log entry 169). -/
def returnFailure (d : Nat) (s : State) (u : Unit13) : State :=
  match u with
  | .veinPort e sl _ =>
    if e.toNat ≠ d then s
    else match (slotsOf s d).findIdx? (· == sl.toNat) with
      | some i =>
        if s.start.gone.contains (d * 64 + i) then s
        else ledger (modStart s fun t => { t with gone := t.gone ++ [d * 64 + i] }) 0x0102 sevNotice none (srcDie d) []
      | none => s
  | .seamBundle i b => if (seamsOf d).contains i.toNat then bundleFails s i.toNat b.toNat else s
  | .farChannel k ch =>
    if k.toNat / 2 ≠ d then s
    else
      let old := s.start.farFail.getD k.toNat 0
      if !bitNat (farChannels s k.toNat) ch.toNat || bitNat old ch.toNat then s
      else ledger (modStart s fun t => { t with farFail := t.farFail.set k.toNat (old + 2 ^ ch.toNat) }) 0x0307 sevError none
        (srcStack k.toNat) []
  | _ => s

/-- DIE_RETURN: the die's interfaces have trained, its follower has locked; its local stores hold zero (R440). -/
def execDieReturn (d : DieId) (training : List Unit13) (s : State) : Host.Outcome State Fault Refusal :=
  .next (
    let n := d.toNat
    if s.start.dies.getD n 0 ≠ 1 then s
    else
      let s1 := modHm (modStart s fun t => { t with dies := t.dies.set n 0, upAt := t.upAt.set n (elapsed s) }) fun m => { m with
        unlocked := if bitNat m.unlocked n then m.unlocked - 2 ^ n else m.unlocked }
      let s2 := (seamsOf n).foldl rolesAgain (training.foldl (returnFailure n) s1)
      let s3 := (((allClusters s2).filter (· / 64 == n)).flatMap coresOf).foldl zeroLs s2
      cutOffDies (statusChange (ledger s3 0x0504 sevNotice none (srcDie n) [s.start.drops.getD n 0])))

/-- DIE_RESET_TIMEOUT: 300 ms have passed (R440). -/
def execDieResetTimeout (d : DieId) (s : State) : Host.Outcome State Fault Refusal :=
  .next (
    let n := d.toNat
    if s.start.dies.getD n 0 ≠ 1 then s
    else
      let s1 := advanceTo s (s.start.dieAt.getD n 0 + 300000000)
      let s2 := modStart s1 fun t => { t with dies := t.dies.set n 3 }
      ledger s2 0x0505 sevError none (srcDie n) [])

/-! ### Seams that fail (R308, R309) -/

/-- The loads in flight across a seam that has failed take TARGET_RESET (Table 9.10). -/
def seamLoads (old s : State) (i : Nat) : State :=
  if !seamUp old i || seamUp s i then s
  else
    let (s1, n) := failLoads s fun c a =>
      (routeOf old (c / 1024) (dieOfAddr a) false).any fun p => (pathLegs p).any fun l => l.1 == i
    unitReset s1 0 (srcSeam i) n n

/-- A bundle fails, with what follows from it. -/
def bundleLost (s : State) (i b : Nat) : State := cutOffDies (seamLoads s (bundleFails s i b) i)

/-- BUNDLE_RETRAIN_END: 20 µs have passed; a bundle whose retrain failed is disabled (R308). -/
def execBundleRetrainEnd (i : SeamId) (b : BundleId) (ok : Bool) (s : State) : Host.Outcome State Fault Refusal :=
  .next (
    let x := getSeam s i.toNat
    if !x.retraining.contains b.toNat then s
    else
      let s0 := advanceTo s (look (fun _ => 0) x.retrainAt b.toNat + 20000)
      let s1 := setSeam s0 i.toNat { x with retraining := x.retraining.filter (· != b.toNat) }
      let s2 := bump (addRegField s1 (oSeamLink i.toNat) 32 16 1) 0x09 7 1 (.seam i.toNat)
      if ok then s2 else bundleLost s2 i.toNat b.toNat)

/-- BUNDLE_FAILURE (R309, Table 9.10). -/
def execBundleFailure (i : SeamId) (b : BundleId) (s : State) : Host.Outcome State Fault Refusal :=
  .next (bundleLost s i.toNat b.toNat)

/-- ROLE_MOVE: the plain or the bulk role moves within 25 µs (R309, Table 9.10). -/
def execRoleMove (i : SeamId) (s : State) : Host.Outcome State Fault Refusal :=
  .next (
    let s1 := if (getSeam s i.toNat).movePlain then movePlainRole s i.toNat else s
    if (getSeam s1 i.toNat).moveBulk then moveBulkRole s1 i.toNat else s1)

/-! ### Retirement (R436) -/

/-- Whether a retirement locator names an enabled unit (Table 13.4, R404). -/
def locatorOk (s : State) (kind loc : Nat) : Bool :=
  let inSlots := (enabledSlots s).contains (fieldNat loc 31 7)
  match kind with
  | 3 => inSlots && loc % 2 ^ 22 == 0
  | 4 => inSlots && loc % 2 ^ 22 == 0 && fieldNat loc 24 1 == 0
  | 5 => inSlots && loc % 2 ^ 10 == 0 && fieldNat loc 22 5 == 0
  | _ => loc % 2 ^ 32 == 0

/-- A retired frame leaves its pool: at once if free, and never back when used (R436). -/
def retireFrame (s : State) (key : Nat) : State :=
  match (slotsOf s (keySlot key).1).findIdx? (· == (keySlot key).2) with
  | none => s
  | some i =>
    let c := ((keySlot key).1 * 64 + i) * 16 + keyCore key
    let f := fieldNat key 10 12
    modVein s c fun v =>
      let v1 := { v with retired := v.retired ++ [f] }
      if frameOf v f == .free then setFrame v1 f .absent else v1

/-- The result of a retirement request (Table 14.10). -/
def retireResult (s : State) (o r : Word) : Nat :=
  let kind := o.toNat / 2 ^ 60
  let key := slotKey o
  if r ≠ ~~~o then 1
  else if !([3, 4, 5, 7].contains kind) then 2
  else if !locatorOk s kind (o.toNat % 2 ^ 40) then 3
  else if (listedKeys s.flash.incl).contains key || s.flash.pend.any fun p => slotKey p.1 == key then 4
  else if 256 ≤ s.flash.pend.length then 5
  else 0

/-- A write of ASY_RETIRE begins a request: a write in progress until its reverse is written (R11, R436). -/
def retireObverse (s : State) (w : Word) : State :=
  setPair (setReg s oRetire w) oRetire { getPair s oRetire with obv := true }

/-- A write of ASY_RETIRE_R submits the request; a reverse alone, which disagrees with an obverse not written since the
halves last agreed, is a write in progress and submits none (R11, R436). -/
def retireSubmit (s0 : State) (w : Word) : State :=
  let o := getReg s0 oRetire
  let n := retireResult s0 o w
  let s := setPair s0 oRetire PairSt.settled
  let s1 := setRegField s oRstat 40 8 n
  if n = 1 && !(getPair s0 oRetire).obv then setPair s0 oRetire { getPair s0 oRetire with rev := true }
  else if n = 1 then pairMismatch s1 8 oRetire none (sourceOf 9 0)
  else if n ≠ 0 then s1
  else
    let s2 := modFlash (setRegField s1 oRstat 0 1 1) fun f => { f with
      pend := f.pend ++ [(o, ~~~o)], programs := f.programs + 1 }
    let s3 := ledger s2 0x0305 sevNotice none (sourceOf 9 0) (twoWords o.toNat)
    if o.toNat / 2 ^ 60 = 5 then retireFrame s3 (slotKey o) else s3

/-- RETIREMENT_REQUEST: the write of ASY_RETIRE_R. -/
def execRetirementRequest (r : Req) (w : Word) (s : State) : Host.Outcome State Fault Refusal :=
  .next (regWrite s r oRetireR fun s => retireSubmit s w)

/-! ### Bits that change of themselves (R425, R435) -/

/-- A stored data bit of memory flips; the stored check bits stay (R425). -/
def flipData (s : State) (a bit : Nat) : State :=
  let u := unitAt s a
  let s1 := flipBytes s a [(0, 2 ^ bit)]
  let old := look (fun _ => 0) s.chk u.addr
  match u.code with
  | 1 => { s1 with chk := put (fun _ => 0) s.chk u.addr (old ^^^ BitVec.ofNat 64 (hsiaoColumn (8 * (a - u.addr) + bit))) }
  | 3 =>
    let e := rsCheck 8 ((List.replicate 64 0).set (a - u.addr) (2 ^ bit))
    { s1 with chk := put (fun _ => 0) s.chk u.addr (old ^^^ BitVec.ofNat 64 (leNat (e.map (BitVec.ofNat 8)))) }
  | _ => s1

/-- A stored check bit of the unit at an address flips. -/
def flipCheck (s : State) (a bit : Nat) : State :=
  let u := unitAt s a
  let old := look (fun _ => 0) s.chk u.addr
  match u.code, placeOf u.addr with
  | 1, _ => { s with chk := put (fun _ => 0) s.chk u.addr (old ^^^ BitVec.ofNat 64 (2 ^ (bit % 8))) }
  | 2, .vein c off =>
    match regionAt s c off with
    | some r => flipBytes s (veinAddr c (r.checkAt off) + bit % 32 / 8) [(0, 2 ^ (bit % 8))]
    | none => s
  | 3, _ => { s with chk := put (fun _ => 0) s.chk u.addr (old ^^^ BitVec.ofNat 64 (2 ^ bit)) }
  | _, _ => s

/-- A register's bit flips without a write. -/
def flipReg (s : State) (o bit : Nat) : State := setReg s o (getReg s o ^^^ BitVec.ofNat 64 (2 ^ bit))

/-- What changes of itself. -/
def softChange (s : State) : SoftTarget → State
  | .memoryBit a b => if populatedPlace s (placeOf a.toNat) then flipData s a.toNat b.toNat else s
  | .checkBit a b => if populatedPlace s (placeOf a.toNat) then flipCheck s a.toNat b.toNat else s
  | .bankLatch c u slot =>
    if !populated s c.toNat then s
    else modVein s c.toNat fun v =>
      let x := getUnit v u.toNat
      let sl := look (fun _ => LatchSlot.empty) x.slots slot.toNat
      setUnit v u.toNat { x with slots := put (fun _ => LatchSlot.empty) x.slots slot.toNat { sl with parity := true } }
  | .bankAccumulator c u e =>
    if !populated s c.toNat then s
    else modVein s c.toNat fun v =>
      let x := getUnit v u.toNat
      setUnit v u.toNat { x with parity := e.toNat :: x.parity.filter (· != e.toNat) }
  | .combinerRow c slot row =>
    if !populated s c.toNat then s
    else modVein s c.toNat fun v =>
      let x := look (fun _ => Combiner.idle) v.comb slot.toNat
      let y := { x with parity := row.toNat :: x.parity.filter (· != row.toNat) }
      { v with comb := put (fun _ => Combiner.idle) v.comb slot.toNat y }
  | .pressAccumulator k row =>
    if !populatedCl s k.toNat then s
    else modCl s k.toNat fun x => setAccRow x row.toNat { accRow x row.toNat with parity := true }
  | .epochHalf rev b => flipReg s (if rev then oEpochR else oEpoch) b.toNat
  | .pwrLimitHalf rev b => flipReg s (if rev then oPwrLimit + 8 else oPwrLimit) b.toNat
  | .pwrTlimHalf rev b => flipReg s (if rev then oPwrTlim + 8 else oPwrTlim) b.toNat
  | .partHalf p rev n b =>
    if 6 ≤ n.toNat then s
    else flipReg s (if rev then oPartR p.toNat n.toNat else oPart p.toNat n.toNat) b.toNat

/-- SOFT_ERROR. -/
def execSoftError (t : SoftTarget) (s : State) : Host.Outcome State Fault Refusal := .next (softChange s t)

end Sys2Proof.Machine
end

