-- ==== Sys2Proof/Machine/Comptroller.lean ====
section
/-! DEFINITION. The comptroller: its failure, the mailbox, messages, the ledger's upkeep and the billing intervals (R445 to
R448, R453 to R459, R462 to R466, R514 to R516). -/

namespace Sys2Proof.Machine

/-! ### Failure (R446) -/

/-- Put a record straight into the flash ledger; at the ring's end the oldest sector is erased (R459, R470). -/
def flashRecord (s : State) (r : LedgerRec) : State :=
  modFlash s fun f =>
    let full := decide (131072 ≤ f.ledger.length)
    let old := if full then f.ledger.drop 64 else f.ledger
    { f with
      ledger := old ++ [(f.starts % 65536, r)], ledgerAt := (f.ledgerAt + 1) % 131072
      journal := if full && decide (f.journal.length < 3584) then f.journal ++ [(0x1200 + f.ledgerAt / 64, true)] else f.journal }

/-- Hardware fails the comptroller: clusters pause, READY and FAULT_N, the FATAL record by ROM, jobs end without
completions (R446). Failure kinds: 1 lockstep, 2 SRAM, 3 watchdog (Table 15.9). -/
def compFails (s : State) (kind addr : Nat) : State :=
  if s.start.phase = .unpowered || s.comp.state = .failed then s
  else
    let s1 := hardwarePause (modPwr s fun w => { w with applyAt := none })
    let s2 := modStart s1 fun t => { t with phase := .failed, readyPin := false, faultN := true }
    let s3 := { s2 with comp := { s2.comp with state := .failed, failure := kind }, jobs := [] }
    statusChange (flashRecord s3
      ⟨s.ledger.wseq, 0x0A01, sevFatal, true, 0, s.hallmark, sourceOf 9 0, 0, kind :: twoWords addr, false⟩)

/-- COMPTROLLER_FAILURE. -/
def execComptrollerFailure (kind : CompFailure) (addr : BitVec 32) (s : State) : Host.Outcome State Fault Refusal :=
  .next (compFails s (match kind with | .lockstep => 1 | .sram => 2) addr.toNat)

/-- COMPTROLLER_WATCHDOG_EXPIRY, after the ready declaration: 100 ms after the firmware last reloaded it at the end of a
housekeeping round (R445, R446, R474). -/
def execComptrollerWatchdogExpiry (s : State) : Host.Outcome State Fault Refusal :=
  .next (if s.start.phase = .ready || s.start.phase = .shutdown then
    compFails (advanceTo s (s.pwr.roundAt + 100000000)) 3 0 else s)

/-! ### The mailbox (R447) -/

/-- A mailbox command ends: the status, the clearing of busy, the interrupt. -/
def boxDone (s : State) (f status : Nat) : State :=
  let fn := getFunc s f
  let s1 := setReg (setFunc s f { fn with cmbBusy := none }) (oCmbStat f) (BitVec.ofNat 64 (status * 256))
  match fn.cmbBusy with
  | some (_, some v) => msix s1 f v
  | _ => s1

/-- Run a mailbox command of a function while it is the one running: its state and status. -/
def boxRun (s : State) (f cmd : Nat) (act : State → State × Nat) : State :=
  match (getFunc s f).cmbBusy with
  | some (c, _) =>
    if c ≠ cmd || s.comp.state ≠ .firmware then s
    else
      let (s1, st) := act s
      boxDone s1 f st
  | none => s

/-- An argument of a mailbox. -/
def boxArg (s : State) (f i : Nat) : Nat := (getReg s (oCmbArg f i)).toNat
/-- Write a result of a mailbox. -/
def boxRes (s : State) (f i n : Nat) : State := setReg s (oCmbRes f i) (BitVec.ofNat 64 n)

/-- A write of DEV_CMB_CMD: ignored while busy; an unknown command, or one that is the PF's alone, completes with ABORTED
(R447, Table 15.1). -/
def boxStart (s : State) (f : Nat) (w : Word) : State :=
  if (getFunc s f).cmbBusy.isSome || s.comp.state ≠ .firmware then s
  else
    let cmd := w.toNat % 65536
    let vec := if w.getLsbD 21 then some (fieldNat w.toNat 16 5) else none
    let s1 := setReg (setFunc s f { getFunc s f with cmbBusy := some (cmd, vec) }) (oCmbStat f) 1
    if [1, 2, 3].contains cmd || (f = 0 && [4, 5, 8].contains cmd) then s1 else boxDone s1 f stAborted

/-- The version of an image slot, 0 when none is valid. -/
def slotVersion (s : State) (b : Bool) : Nat :=
  let i := imageOf s.flash b
  if i.erased then 0
  else if i.header.isEmpty then Config.firmwareVersion b else leNat ((i.header.drop 8).take 4)

/-- INFO (Table 15.1). -/
def execInfo (f : PartId) (s : State) : Host.Outcome State Fault Refusal :=
  .next (boxRun s f.toNat 1 fun s =>
    let b := s.comp.slotB
    let s1 := boxRes (boxRes s f.toNat 0 (slotVersion s b)) f.toNat 1 (b.toNat + 2 * s.comp.fallback.toNat)
    (boxRes (boxRes s1 f.toNat 2 (slotVersion s !b)) f.toNat 3 Config.romVersion, stOk))

/-- NOTE: a record of class 0xF0 with the function's partition (Table 15.1). -/
def execNote (f : PartId) (s : State) : Host.Outcome State Fault Refusal :=
  .next (boxRun s f.toNat 2 fun s =>
    let a := boxArg s f.toNat 0
    let sev := fieldNat a 8 3
    if sevWarn < sev then (s, stAborted)
    else
      let words := [1, 2, 3].map fun i => boxArg s f.toNat i % 2 ^ 32
      (ledger s (0xF000 + a % 256) sev (some f.toNat) (sourceOf 7 f.toNat) words, stOk))

/-- CORE_MSG (Table 15.1, R448). -/
def execCoreMsg (f : PartId) (s : State) : Host.Outcome State Fault Refusal :=
  .next (boxRun s f.toNat 3 fun s =>
    let c := boxArg s f.toNat 0 % 4096
    if !populated s c || partOf s c ≠ some f.toNat then (s, stPartitionFault)
    else if 4 ≤ (getCore s c).msgs.length then (s, stPoolFull)
    else (postMessage s c (messageWord s 1 f.toNat 0 :: [1, 2, 3].map fun i => getReg s (oCmbArg f.toNat i)), stOk))

/-- The flash-ledger records from a point on: a start's number and a sequence number. -/
def ledgerFrom (s : State) (start seq n : Nat) : List (Nat × LedgerRec) :=
  (s.flash.ledger.dropWhile fun r => decide (r.1 < start) || (r.1 == start && decide (r.2.seq < seq))).take n

/-- LEDGER_FETCH (Table 15.1). -/
def execLedgerFetch (f : PartId) (s : State) : Host.Outcome State Fault Refusal :=
  .next (boxRun s f.toNat 4 fun s =>
    let rs := ledgerFrom s (boxArg s f.toNat 0 % 65536) (boxArg s f.toNat 1 % 2 ^ 32) 64
    (boxRes { s with ledger := { s.ledger with window := rs } } f.toNat 0 rs.length, stOk))

/-- Save the cumulative tallies and the unattributed one as pairs (R466). -/
def saveTally (s : State) : State :=
  let word := fun e : Nat => BitVec.ofNat 64 (wholeUj e)
  let pair := fun e : Nat => (word e, ~~~ word e)
  let cums := (List.range 16).map fun p => (p, pair (look (fun _ => 0) s.tally.cum p))
  let s1 := modFlash s fun f => { f with tally := cums ++ [(16, pair s.tally.unattr)], programs := f.programs + 1 }
  { s1 with tally := { s1.tally with saved := some (elapsed s) } }

/-- TALLY_SAVE (Table 15.1). -/
def execTallySave (f : PartId) (s : State) : Host.Outcome State Fault Refusal :=
  .next (boxRun s f.toNat 5 fun s => (saveTally s, stOk))

/-! ### Messages (R448, R481) -/

/-- CO_CMSG_ST.pop discards the head; the next message appears and sets event 53. -/
def popMessage (s : State) (c : Nat) : State :=
  let rest := (getCore s c).msgs.drop 1
  let s1 := modCore s c fun x => { x with msgs := rest }
  if rest.isEmpty then s1 else signalEvent s1 c 53

/-- MESSAGE_POP. -/
def execMessagePop (r : Req) (c : CoreId) (s : State) : Host.Outcome State Fault Refusal :=
  .next (regWrite s r (coBase c.toNat + 0x2E0) fun s => popMessage s c.toNat)

/-! ### The ledger's upkeep (R453, R456, R458, R459) -/

/-- When the next token of a code's bucket is due: one refill interval after the last, or after the bucket was last full
(R453, Table 15.5). -/
def refillDue (s : State) (code : Nat) : Nat :=
  let (t, sev) := look (fun _ => (0, 0)) s.ledger.refills code
  t + 1000 * max 1 (regField s (oLdgRate sev) 0 32)

/-- LEDGER_TOKEN_REFILL: a refill interval of a code's bucket has passed; a full bucket gains nothing (R453). -/
def execLedgerTokenRefill (code : BitVec 16) (s : State) : Host.Outcome State Fault Refusal :=
  .next (
    let k := code.toNat
    let taken := look (fun _ => 0) s.ledger.tokens k
    if taken = 0 then s
    else
      let t := refillDue s k
      let s1 := advanceTo s t
      { s1 with ledger := { s1.ledger with
        tokens := put (fun _ => 0) s1.ledger.tokens k (taken - 1)
        refills := put (fun _ => (0, 0)) s1.ledger.refills k (t, (look (fun _ => (0, 0)) s1.ledger.refills k).2) } })

/-- LEDGER_FLASH_COPY: the oldest copy has been programmed (R459). -/
def execLedgerFlashCopy (s : State) : Host.Outcome State Fault Refusal :=
  .next (match s.ledger.queue with
    | [] => s
    | r :: q =>
      if s.comp.state ≠ .firmware then s else flashRecord { s with ledger := { s.ledger with queue := q } } r)

/-- A write of LDG_ACK or TAL_ACK: forward, and not beyond the next seq (R456). -/
def ackOk (ack next v : Nat) : Bool := decide ((v + 2 ^ 32 - ack) % 2 ^ 32 ≤ (next + 2 ^ 32 - ack) % 2 ^ 32)

/-- A write of LDG_ACK. -/
def ledgerAck (s : State) (w : Word) : State :=
  let v := w.toNat % 2 ^ 32
  if ackOk s.ledger.ack s.ledger.wseq v then { s with ledger := { s.ledger with ack := v } } else s

/-- LEDGER_ACK_WRITE. -/
def execLedgerAckWrite (r : Req) (w : Word) (s : State) : Host.Outcome State Fault Refusal :=
  .next (regWrite s r (oLdgCtl + 0x18) fun s => ledgerAck s w)

/-- A write of TAL_ACK (R465). -/
def tallyAck (s : State) (w : Word) : State :=
  let v := w.toNat % 2 ^ 32
  if ackOk s.tally.ack s.tally.wseq v then { s with tally := { s.tally with ack := v } } else s

/-- A hold ends: the records that waited are written in order (R458). -/
def endHold (s : State) : State :=
  let rs := s.ledger.held
  rs.foldl writeRecord { s with ledger := { s.ledger with holdEnd := none, held := [] } }

/-- A write of LDG_HOLD: up to 10,000 µs; 0 ends the hold. -/
def ledgerHold (s : State) (w : Word) : State :=
  let us := min 10000 (w.toNat % 2 ^ 14)
  if us = 0 then endHold s
  else { s with ledger := { s.ledger with holdEnd := some (elapsed s + us * 1000) } }

/-- LEDGER_HOLD. -/
def execLedgerHold (r : Req) (w : Word) (s : State) : Host.Outcome State Fault Refusal :=
  .next (regWrite s r (oLdgCtl + 0x20) fun s => ledgerHold s w)

/-- LEDGER_HOLD_END. -/
def execLedgerHoldEnd (s : State) : Host.Outcome State Fault Refusal :=
  .next (match s.ledger.holdEnd with
    | none => s
    | some t => if s.comp.state ≠ .firmware then s else endHold (advanceTo s t))

/-! ### Billing intervals (R462 to R466) -/

/-- Whether a step of the hallmark passed the whole interval (R464). -/
def steppedOver (s : State) : Bool :=
  let at_ := (getReg s oStepAt).toNat
  let size := regField s oStepNs 0 40
  size != 0 && decide (at_ - size ≤ s.tally.ivlStart) && decide (s.tally.ivlEnd ≤ at_)

/-- The interval tallies of the jobs that ran in it: partition, job ID, energy. -/
def jobIvls (s : State) : List (Nat × Nat × Nat) := s.tally.ended ++ s.jobs.map fun j => (j.part, j.job, j.ivl)

/-- The records of a closing interval (R462). -/
def closeRecords (s : State) : State :=
  let t := s.tally
  let st := steppedOver s
  let rec_ := fun s kind p job e => tallyWrite s kind p job t.ivlLen e t.ivlStart t.ivlEnd st t.short
  let s1 := (List.range 16).foldl (fun s p =>
    if (lowestCl s p).isNone then s else rec_ s 1 p 0 (look (fun _ => 0) t.idle p)) s
  let s2 := (jobIvls s).foldl (fun s j => rec_ s 2 j.1 j.2.1 j.2.2) s1
  rec_ s2 4 0 0 t.unIvl

/-- The next interval: to the next multiple of the length now written (R462). -/
def nextInterval (t : Tally) (len : Nat) : Tally :=
  let l := len * 1000000000
  let e := (t.ivlEnd / l + 1) * l
  { t with idle := [], unIvl := 0, ended := [], ivlLen := len, ivlStart := t.ivlEnd, ivlEnd := e
           short := decide (e - t.ivlEnd < l) }

/-- The close of an interval. -/
def closeInterval (s : State) : State :=
  let add := fun (m : Map Nat) (p e : Nat) => put (fun _ => 0) m p (look (fun _ => 0) m p + e)
  let cum1 := s.tally.idle.foldl (fun m e => add m e.1 e.2) s.tally.cum
  let cum2 := (jobIvls s).foldl (fun m j => add m j.1 j.2.2) cum1
  let s1 := closeRecords s
  let len := within 1 3600 (regField s oTalCtl 16 12)
  let s2 := { s1 with
    tally := nextInterval { s1.tally with cum := cum2 } len, jobs := s1.jobs.map fun j => { j with ivl := 0 } }
  if s2.tally.saved.all fun t => decide (t + 60000000000 ≤ elapsed s2) then saveTally s2 else s2

/-- BILLING_INTERVAL_CLOSE. -/
def execBillingIntervalClose (s : State) : Host.Outcome State Fault Refusal :=
  .next (if s.comp.state ≠ .firmware then s else closeInterval (hallmarkTo s s.tally.ivlEnd))

/-! ### The status interrupt (R515) -/

/-- STATUS_INTERRUPT: the interval's end; sent by hardware. -/
def execStatusInterrupt (s : State) : Host.Outcome State Fault Refusal :=
  .next (match s.start.irqAt with
    | none => s
    | some t => msix (modStart (advanceTo s (t + 10000)) fun x => { x with irqAt := none }) 0 (regField s oDevCtl 0 5))

end Sys2Proof.Machine
end

