-- ==== Sys2Proof/Machine/Readout.lean ====
section
/-! DEFINITION. What each register of the control space reads as (R507, R511; the register tables of every chapter). A
register held as a word reads as it; the others are computed from the state. -/

namespace Sys2Proof.Machine

/-- A word from a natural number. -/
def word (n : Nat) : Word := BitVec.ofNat 64 n
/-- The n low bits of a number, the i-th set where p i holds. -/
def bitsWhere (n : Nat) (p : Nat → Bool) : Nat := (List.range n).foldl (fun m i => m + (p i).toNat * 2 ^ i) 0
/-- Numbers packed into fields of w bits, the first lowest. -/
def packed (w : Nat) (l : List Nat) : Nat := l.foldr (fun x a => a * 2 ^ w + x % 2 ^ w) 0

/-! ### DEV (Tables 8.6 to 8.9, 14.8, 15.9, 17.5 to 17.7) -/

/-- The clusters that were available at the last start, by ID (R417). -/
def startedCl (s : State) : List Nat := (List.range 256).filter fun k => decide (k % 64 < (slotsOf s (k / 64)).length)

/-- DEV_DRSTAT of a die: 0 up, 1 resetting, 2 returning from 10 µs on, 3 failed (R440). -/
def dieState (s : State) (d : Nat) : Nat :=
  let n := s.start.dies.getD d 0
  if n = 1 && decide (s.start.dieAt.getD d 0 + 10000 ≤ elapsed s) then 2 else n

/-- DEV_STAT (Table 17.7). -/
def devStat (s : State) : Nat :=
  bitsWhere 4 (fun d => dieState s d == 0) * 2 ^ 12 + regField s oDevStat 6 1 * 64 + (s.hm.unlocked != 0).toNat * 32 +
    s.start.maint.toNat * 16 + s.pwr.alert.toNat * 8 + s.start.thermN.toNat * 4 + s.start.faultN.toNat * 2 +
    s.start.readyPin.toNat

/-- DEV_CSTAT (Table 15.9); the version reads zero while no firmware runs. -/
def cstat (s : State) : Nat :=
  let st := match s.comp.state with
    | .rom => 0
    | .firmware => 1
    | .recovery => 2
    | .failed => 3
  let v := if s.comp.state = .firmware then slotVersion s s.comp.slotB else 0
  v % 2 ^ 32 * 2 ^ 32 + s.comp.failure % 4 * 4 + st

/-- The DEV block. -/
def readDev (s : State) (o : Nat) : Nat :=
  let held := (getReg s o).toNat
  if o = 0 then 2 ^ 32 + s.start.grade * 2 ^ 24 + 0xB1_0004
  else if o = 8 then Config.serial.toNat
  else if o = 0x10 then devStat s
  else if o = 0x18 then s.start.pins
  else if o = 0x9000 then 0
  else if o = 0x9008 then packed 4 ((List.range 4).map (dieState s)) + s.start.resets % 2 ^ 16 * 2 ^ 48
  else if o = 0xB000 then cstat s
  else if 0x8000 ≤ o && o < 0x9000 && o % 0x400 == 8 then held + remInflight s ((o - 0x8000) / 0x400) * 256
  else if 0x8000 ≤ o && o < 0x9000 && o % 0x400 == 0x10 then look (fun _ => 0) s.remMoved ((o - 0x8000) / 0x400)
  else if 0xA000 ≤ o && o < 0xA800 && o % 0x80 == 0 then 0
  else held

/-! ### HIF, PART, HM (Tables 10.6 to 10.11, 11.5 to 11.7) -/

/-- The HIF block, by offset in it. -/
def readHif (s : State) (o : Nat) : Nat :=
  let f := o / 0x400
  if o < 0x4000 && o % 0x400 == 0 then
    (s.jobs.filter (·.part == f)).length * 256 + (getFunc s f).flr.toNat * 4 + (getFunc s f).bme.toNat * 2 + s.start.readyPin.toNat
  else if 0xA000 ≤ o then bitsWhere 32 fun v => (getFunc s ((o - 0xA000) / 8)).pend.contains v
  else (getReg s (0x10000 + o)).toNat

/-- The PART block, by offset in it. -/
def readPart (s : State) (o : Nat) : Nat :=
  let p := o / 0x100
  if o % 0x100 = 0x80 then 0
  else if o % 0x100 = 0x88 then (getReg s (oPartStat p)).toNat + (!partIdle s p).toNat
  else (getReg s (0x20000 + o)).toNat

/-- HM_STAT (Table 11.7). -/
def hmStat (s : State) : Nat :=
  let st := match s.hm.state with
    | .free => 0
    | .acquire => 1
    | .locked => 2
    | .holdover => 3
  s.hm.egen % 2 ^ 16 * 2 ^ 48 + s.hm.unlocked % 16 * 256 + s.hm.bigBack.toNat * 16 + s.hm.epochBad.toNat * 8 +
    (s.hm.slew != 0).toNat * 4 + st

/-- The HM block. -/
def readHm (s : State) (o : Nat) : Nat :=
  match o with
  | 0 => s.hallmark
  | 8 => wallAt s s.hallmark
  | 0x28 => hmStat s
  | _ => (getReg s (0x40000 + o)).toNat

/-! ### PWR (Tables 12.10 to 12.14) -/

/-- Whether a limit pair's mismatch has been reported and stands (R389). -/
def limitPairBad (s : State) : Bool := (getPair s oPwrLimit).told || (getPair s oPwrTlim).told

/-- PWR_STAT.cause (Table 12.14). -/
def pwrCause (s : State) : Nat :=
  bitsWhere 7 fun i => match i with
    | 0 => anyThrottle s || anyGroupFailed s
    | 1 => s.pwr.rise
    | 2 => s.pwr.model
    | 3 => s.pwr.rateCl
    | 4 => s.pwr.alertCl
    | 5 => !s.pwr.failed.isEmpty
    | _ => limitPairBad s

/-- PWR_STAT (Table 12.14). -/
def pwrStat (s : State) : Nat :=
  let op := ((allClusters s).map fun k => (getCl s k).op).foldl min 15
  s.pwr.alert.toNat * 2 ^ 31 + s.start.thermN.toNat * 2 ^ 30 + pwrCause s * 2 ^ 16 + op % 16 * 256 + govCode s.pwr.state

/-- µW in units of 0.1 W, held within 16 bits. -/
def deciWatts (x : Int) : Nat := min 0xFFFF (x / 100000).toNat

/-- PWR_IN (Table 12.10): rounds of the window that have not been measured count as drawing the limit (R383). -/
def pwrIn (s : State) : Nat :=
  let n := windowN s
  let past := s.pwr.inputs.take n
  let mean := (past.foldl (· + ·) 0 + (n - past.length) * 10 * limitW s) / n
  packed 16 [s.pwr.inputs.headD 0, mean, deciWatts s.pwr.budget, match s.pwr.bt with
    | some t => deciWatts (t : Int)
    | none => 0xFFFF]

/-- A sensor's field of PWR_TEMP. -/
def tempField (s : State) (i : Nat) : Nat :=
  if s.pwr.failed.contains i then 0x8000 else twos 16 (look (fun _ => 0) s.pwr.sensors i)

/-- A sensor's field of PWR_TST: its highest level. -/
def levelField (s : State) (i : Nat) : Nat :=
  let l := look (fun _ => 0) s.pwr.levels i
  if bitNat l 2 then 3 else if bitNat l 1 then 2 else l % 2

/-- The PWR block. -/
def readPwr (s : State) (o : Nat) : Nat :=
  if o = 0x28 then pwrStat s
  else if o = 0x30 then pwrIn s
  else if o = 0x38 then s.pwr.rails.toNat
  else if o = 0x340 then s.pwr.tmax.toNat
  else if 0x100 ≤ o && o < 0x300 then packed 16 ((List.range 4).map fun k => tempField s ((o - 0x100) / 2 + k))
  else if 0x300 ≤ o && o < 0x340 then packed 2 ((List.range 32).map fun k => levelField s ((o - 0x300) * 4 + k))
  else if 0x400 ≤ o then
    let p := (o - 0x400) / 8
    s.pwr.duties.getD (getPart s p).pclass 0 * 2 ^ 48 + look (fun _ => 0) s.pwr.pausedUs p % 2 ^ 48
  else (getReg s (0x50000 + o)).toNat

/-! ### TAL and LDG (Tables 15.5, 15.10, R457, R465) -/

/-- The number of starts, as a WSEQ register shows it. -/
def startsField (s : State) : Nat := s.flash.starts % 65536 * 2 ^ 32

/-- Word i of some bytes. -/
def wordAt (bs : List Byte) (i : Nat) : Nat := leNat ((bs.drop (8 * i)).take 8)

/-- Whether a viewer sees a record of a partition, or a device record (R457). -/
def seesRecord (v : Viewer) (dev : Bool) (part : Nat) : Bool :=
  match v with
  | .full _ => true
  | .part p _ => dev || p == part
  | .none => false

/-- The ledger window (R457, R458). -/
def ledgerWindow (s : State) (v : Viewer) (o : Nat) : Nat :=
  let i := regField s oLdgWbase 0 3 * 512 + o / 64
  match s.ledger.ring.find? (·.1 == i) with
  | none => 0
  | some (_, r) =>
    wordAt (if seesRecord v r.dev r.part then recordBytes (s.flash.starts % 65536) r else hiddenBytes r.seq) (o % 64 / 8)

/-- The flash window, which only the PF and the comptroller see (Table 15.5). -/
def flashWindow (s : State) (v : Viewer) (o : Nat) : Nat :=
  match v, s.ledger.window[o / 64]? with
  | .full _, some (n, r) => wordAt (recordBytes n r) (o % 64 / 8)
  | _, _ => 0

/-- The tally window (R465). -/
def tallyWindow (s : State) (v : Viewer) (o : Nat) : Nat :=
  let i := regField s oTalWbase 0 3 * 512 + o / 64
  match s.tally.ring.find? (·.1 == i) with
  | none => 0
  | some (_, r) =>
    wordAt (if seesRecord v false (r.flags % 16) && (r.kind != 4 || seesRecord v false 16) then
      tallyBytes (s.flash.starts % 65536) r else hiddenBytes r.seq) (o % 64 / 8)

/-- The job that TAL_JIDX selects. -/
def chosenJob (s : State) : Option Job :=
  s.jobs.find? fun j => j.part == regField s oTalJidx 0 4 && j.slot == regField s oTalJidx 4 6

/-- The TAL block. -/
def readTal (s : State) (v : Viewer) (o : Nat) : Nat :=
  if o = 0x10 then startsField s + s.tally.wseq
  else if o = 0x18 then s.tally.ack
  else if o = 0x30 then wholeUj s.tally.unattr
  else if 0x100 ≤ o && o < 0x180 then wholeUj (look (fun _ => 0) s.tally.cum ((o - 0x100) / 8))
  else if o = 0x208 then ((chosenJob s).map fun j => wholeUj j.energy).getD 0
  else if o = 0x210 then ((chosenJob s).map (·.job)).getD 0
  else if 0x8000 ≤ o then tallyWindow s v (o - 0x8000)
  else (getReg s (0x60000 + o)).toNat

/-- The LDG block. -/
def readLdg (s : State) (v : Viewer) (o : Nat) : Nat :=
  if o = 0x10 then startsField s + s.ledger.wseq
  else if o = 0x18 then s.ledger.ack
  else if o = 0x20 then ((s.ledger.holdEnd.map fun t => (t - elapsed s + 999) / 1000).getD 0)
  else if 0x4000 ≤ o && o < 0x5000 then flashWindow s v (o - 0x4000)
  else if 0x8000 ≤ o then ledgerWindow s v (o - 0x8000)
  else (getReg s (0x70000 + o)).toNat

/-! ### ASY, FAR, CLR, SEAM, ENT (Tables 13.10 to 13.13, 14.10, 9.4, 9.5, 10.12 to 10.15, 9.15 to 9.17, 8.13 to 8.16) -/

/-- ASY_STAT (Table 13.12). -/
def asyStat (s : State) : Nat := (getReg s oAsyStat).toNat + s.start.maint.toNat * 2

/-- ASY_AVAIL (Table 13.10). -/
def asyAvail (s : State) : Nat :=
  let ks := startedCl s
  packed 8 ((List.range 4).map fun d => (slotsOf s d).length) + (ks.filter fun k => !(getCl s k).absent).length * 2 ^ 32 +
    16 * ks.length % 65536 * 2 ^ 48

/-- The inclusion slot that ASY_LIDX selects; an empty slot reads all ones. -/
def listSlot (s : State) : InclSlot :=
  s.flash.incl.getD (regField s oAsyLidx 0 12) (BitVec.allOnes 64, BitVec.allOnes 64)

/-- The ASY block. -/
def readAsy (s : State) (o : Nat) : Nat :=
  match o with
  | 0x00 => 0
  | 0x08 => asyStat s
  | 0x18 => asyAvail s
  | 0x20 => (s.flash.incl.filter fun p => readSlot p != .empty).length + 4096 * 65536
  | 0x30 => (listSlot s).1.toNat
  | 0x38 => (listSlot s).2.toNat
  | 0x100 => 0
  | 0x108 => 0
  | 0x110 => (getReg s oRstat).toNat + s.flash.pend.length % 512 * 65536
  | _ => (getReg s (0x80000 + o)).toNat

/-- The FAR block. -/
def readFar (s : State) (o : Nat) : Nat :=
  let k := (o - 0x100) / 0x40
  let bad := s.start.farFail.getD k 0
  if o = 0 then (getReg s oFarMode).toNat
  else match o % 0x40 with
    | 0 => farNc s k * 2 ^ 32 + farChannels s k
    | 8 => bad * 2 ^ 32 + (if farNc s k = 0 then 1 else if bad ≠ 0 then 2 else 0)
    | _ => (getReg s (0x90000 + o)).toNat

/-- The code of a port's state (Table 10.14). -/
def portCode : PortState → Nat
  | .up => 0
  | .retraining => 1
  | .down => 2
  | .disabled => 3

/-- The CLR block. -/
def readClr (s : State) (o : Nat) : Nat :=
  let x := getPort s ((o - 0x100) / 0x20)
  if 0x100 ≤ o && o < 0x200 && o % 0x20 == 0 then x.lanes * 16 + portCode x.state
  else if 0x100 ≤ o && o < 0x200 && o % 0x20 == 8 then 0
  else (getReg s (0xA0000 + o)).toNat

/-- SEAM_CPOS of a cluster (Table 9.17, R299); an unpopulated ID reads zero. -/
def cpos (s : State) (k : Nat) : Nat :=
  if !populatedCl s k then 0
  else
    let slot := (slotsOf s (k / 64)).getD (k % 64) 0
    let corner := decide (64 ≤ slot)
    let x := if corner then (slot - 64) % 2 * 7 else slot % 8
    let y := if corner then (slot - 64) / 2 * 7 else slot / 8
    slot * 256 + 128 + corner.toNat * 64 + y * 8 + x

/-- The SEAM block. -/
def readSeam (s : State) (o : Nat) : Nat :=
  if 0x1000 ≤ o then cpos s ((o - 0x1000) / 8) else (getReg s (0xB0000 + o)).toNat

/-- The ENT block. -/
def readEnt (s : State) (o : Nat) : Nat :=
  match o with
  | 8 => (getReg s oEntStat).toNat + s.keys.length * 256 + (match s.ent with
    | .startUp => 0
    | .ready => 1
    | .failed => 2
    | .off => 3)
  | 0x10 => 0x033B_0400_0051
  | _ => (getReg s (0xC0000 + o)).toNat

/-! ### DBG (Tables 16.1, 16.13, R488) -/

/-- Whether an offset is a count register of partition p's clusters. -/
def isPartCount (s : State) (p off : Nat) : Bool :=
  match blockOf off with
  | .cl k o => 0x440 ≤ o && o < 0x480 && partOfCl s k == some p
  | .co c o => 0x340 ≤ o && o < 0x380 && partOf s c == some p
  | _ => false

/-- Whether an offset is a count register of the die or global bank. -/
def isUpperCount (off : Nat) : Bool :=
  (0xD0200 ≤ off && off < 0xD0300) || (0xD1000 ≤ off && off < 0xD1800 && 0x80 ≤ off % 0x200)

/-- DBG_OVF (Table 16.13). -/
def dbgOvf (s : State) : Nat :=
  let set := s.regs.filter fun e => bitNat e.2.toNat 48
  bitsWhere 17 fun p => if p = 16 then set.any fun e => isUpperCount e.1 else set.any fun e => isPartCount s p e.1

/-- The DBG block: die and global counters read hid = 1, and their select registers zero, outside the PF's and the
comptroller's view (R488). -/
def readDbg (s : State) (v : Viewer) (o : Nat) : Nat :=
  let full := match v with
    | .full _ => true
    | _ => false
  if o = 8 then dbgOvf s
  else if 0x100 ≤ o && o < 0x2000 && !full then (if isUpperCount (0xD0000 + o) then 2 ^ 63 else 0)
  else (getReg s (0xD0000 + o)).toNat

/-! ### CL (Tables 4.10 to 4.14, 12.15, 12.16, 14.8, 16.9, 16.13) -/

/-- The code of PR_STAT.activity (Table 4.13). -/
def activityCode : Activity → Nat
  | .idle => 0
  | .passes => 1
  | .gap => 2
  | .rampUp => 3
  | .rampDown => 4
  | .paused => 5

/-- PR_STAT (Table 4.13). -/
def prStat (s : State) (k : Nat) : Nat :=
  let x := getCl s k
  let own := (x.current.map (·.core)).getD 0
  own * 2 ^ 16 + x.current.isSome.toNat * 2 ^ 15 + activityCode x.activity * 256 +
    (if x.absent then 2 else if x.failed then 1 else 0)

/-- PR_QUEUE (Table 4.10). -/
def prQueue (s : State) (k : Nat) : Nat :=
  let x := getCl s k
  bitsWhere 16 (openRun x) * 2 ^ 16 + bitsWhere 16 fun i => !(pressQueue x i).isEmpty

/-- The set voltage of a cluster in mV, trim included (R376). -/
def setVolt (s : State) (k : Nat) : Nat :=
  (max 550 (min 850 ((setMv (getCl s k).op : Nat) + calValue s 2 k : Int))).toNat

/-- CL_VR_STAT (Table 12.16). -/
def vrStat (s : State) (k : Nat) : Nat :=
  let x := getCl s k
  twos 16 (x.est * 16 / 1000000) * 2 ^ 48 + min 0xFFFF x.powerMw * 2 ^ 32 + setVolt s k * 2 ^ 12 + x.duty * 256 +
    x.lag.toNat * 128 + x.deep.toNat * 64 + x.op

/-- The code of CL_RSTAT (Table 14.8). -/
def powerCode : ClusterPower → Nat
  | .on => 0
  | .resetting => 1
  | .off => 2
  | .poweringUp => 3

/-- A CL block, by cluster and offset. -/
def readCl (s : State) (k o : Nat) : Nat :=
  let x := getCl s k
  match o with
  | 0x008 => prStat s k
  | 0x010 => x.prFault.toNat
  | 0x018 => prQueue s k
  | 0x208 => vrStat s k
  | 0x300 => 0
  | 0x308 => powerCode x.power + x.rej.toNat * 256
  | 0x480 => min (2 ^ 32 - 1) x.lagMean + x.lagGens % 65536 * 2 ^ 32 + x.lag.toNat * 2 ^ 48
  | 0x520 => (getReg s (oTrStat k)).toNat + x.trace.length * 65536
  | 0x528 => 0
  | 0x530 => 0
  | _ => (getReg s (clBase k + o)).toNat

/-! ### CO (Tables 3.15 to 3.17, 5.8 to 5.16, 7.11, 7.12, 14.11, 16.13, R481) -/

/-- CO_STAT (Table 3.17). -/
def coStat (s : State) (c : Nat) : Nat :=
  let x := getCore s c
  let st := match x.run with
    | .reset => 0
    | .running => 1
    | .waiting => 2
    | .halted => 3
    | .doubleTrap => 4
  x.lastCode % 256 * 65536 + (getCw x 0).toNat / 4 % 2 * 128 + (atTask x).toNat * 64 + st

/-- CO_VSTAT (Table 5.10). -/
def vstat (s : State) (c : Nat) : Nat :=
  let v := getVein s c
  (if (getReg s (oVctl c)).getLsbD 0 then 15 else v.hot) * 256 + s.start.tiered.toNat * 16 + (!v.initing.isEmpty).toNat * 8 + regField s (oVstat c) 2 1 * 4 +
    s.start.maint.toNat * 2 + (dieUp s (c / 1024)).toNat

/-- CO_KPOOL (Table 7.12). -/
def kpool (s : State) (c : Nat) : Nat :=
  let n := fun p : Frame7 → Bool => ((getVein s c).frames.filter fun e => p e.2).length
  let pend := n fun f => match f with
    | .pending _ => true
    | _ => false
  let used := n fun f => match f with
    | .used _ => true
    | _ => false
  pend * 2 ^ 48 + n (· == .used true) * 2 ^ 32 + used * 2 ^ 16 + n (· == .free)

/-- A CO block, by core and offset. -/
def readCo (s : State) (c o : Nat) : Nat :=
  let x := getCore s c
  let v := getVein s c
  match o with
  | 0x000 => 0
  | 0x008 => coStat s c
  | 0x018 => x.last.toNat
  | 0x020 => 0
  | 0x108 => vstat s c
  | 0x110 => hiddenOf s c * 2 ^ 32 + slabsOf s c
  | 0x118 => packed 4 ((List.range 16).map (look (fun _ => 0) v.debt))
  | 0x128 => v.scrubs % 2 ^ 32 * 2 ^ 32 + v.scrubAt
  | 0x130 => (v.pages.filter fun e => e.2.dirty).length * 2 ^ 32 + v.flush.toNat * 2
  | 0x200 => kpool s c
  | 0x210 => 0
  | 0x2E0 => x.msgs.length
  | 0x380 => x.blk
  | 0x388 => x.blkobj.toNat
  | _ =>
    if 0x2C0 ≤ o && o < 0x2E0 then ((x.msgs.headD []).getD ((o - 0x2C0) / 8) 0).toNat
    else (getReg s (coBase c + o)).toNat

/-! ### Every register -/

/-- What a register of a block reads as to a viewer, while it is served. -/
def readServed (s : State) (v : Viewer) (off : Nat) : Nat :=
  match blockOf off with
  | .dev b o => match b with
    | 0x0 => readDev s o
    | 0x1 => readHif s o
    | 0x2 => readPart s o
    | 0x3 => readPart s (o + 0x10000)
    | 0x4 => readHm s o
    | 0x5 => readPwr s o
    | 0x6 => readTal s v o
    | 0x7 => readLdg s v o
    | 0x8 => readAsy s o
    | 0x9 => readFar s o
    | 0xA => readClr s o
    | 0xB => readSeam s o
    | 0xC => readEnt s o
    | _ => readDbg s v o
  | .cl k o => readCl s k o
  | .co c o => readCo s c o
  | .reserved => 0

/-- The value of the aligned word at an offset, for a requester in whose read view it lies: a reserved offset reads zero
(R9), and a register that the firmware serves reads zero while the firmware does not run (R510). -/
def readReg (s : State) (q : Req) (off : Nat) : Word :=
  if !isReg off || (byFirmware off && s.comp.state ≠ .firmware) then 0 else word (readServed s (viewerOf s q) off)

/-- The registers whose fields a whole-word read clears (rc: CO_VGREF, CO_VERR, CO_KREF, CO_LSERR, HIF_VIOL, FAR_ERR,
CLR_VIOL). -/
def isRc (off : Nat) : Bool :=
  match blockOf off with
  | .co _ o => o == 0x138 || o == 0x140 || o == 0x218 || o == 0x280
  | .dev 1 o => o < 0x4000 && o % 0x400 == 0x10
  | .dev 9 o => 0x100 ≤ o && o < 0x300 && o % 0x40 == 0x10
  | .dev 0xA o => o == 0x10
  | _ => false

/-- A whole-word read clears an rc register (R9, R507). -/
def clearRc (s : State) (off : Nat) : State := if isRc off then setReg s off 0 else s

/-- RC_REGISTER_READ: a host's whole-word read returns a register and clears its rc fields (R507); outside the view it
returns zero and is recorded (R512). -/
def execRcRegisterRead (r : Req) (off : BitVec 26) (s : State) : Host.Outcome State Fault Refusal :=
  .next (
    let o := off.toNat / 8 * 8
    match standing s r o false with
    | .allowed => emit (clearRc s o) (.registerRead (readReg s r o))
    | .reserved => emit s (.registerRead 0)
    | .aborted => abortBar0 s r
    | .outside u => match r with
      | .host f => emit (hifViol s f.toNat false false (if u then 2 else 4) o) (.registerRead 0)
      | _ => s)

end Sys2Proof.Machine
end

