-- ==== Sys2Proof/Machine/Firmware.lean ====
section
/-! DEFINITION. The firmware flash and the service port (R467 to R479, R411): the commands of Table 15.8 and the ends of
flash operations. -/

namespace Sys2Proof.Machine

/-! ### Port statuses (R476) -/

def ptDone : Nat := 0
def ptBadHeader : Nat := 1
def ptBadDigest : Nat := 2
def ptNotBlank : Nat := 3
def ptOutOfOrder : Nat := 4
def ptNotPermitted : Nat := 5
def ptBadArgument : Nat := 7
def ptFlashError : Nat := 8

/-- Change the comptroller. -/
def modComp (s : State) (f : Comp → Comp) : State := { s with comp := f s.comp }

/-- Answer a command and keep the response (R477): the port status and the rest of the payload. -/
def respond (s : State) (seq status : Nat) (data : List Byte) : State :=
  let r := BitVec.ofNat 8 status :: data
  modComp (emit s (.service seq r)) fun c => { c with lastSeq := some seq, lastResp := r }

/-- Run a service command (R477): one that repeats the sequence number of the last one executed gets the stored response.
The state it leaves and its response; none: it waits. -/
def service (s : State) (seq : Nat) (act : State → Option (State × Nat × List Byte)) : State :=
  if s.start.phase = .unpowered then s
  else if s.comp.lastSeq = some seq then emit s (.service seq s.comp.lastResp)
  else match act s with
    | none => s
    | some (s1, st, data) => respond s1 seq st data

/-! ### Erases and programs (R469, R470) -/

/-- Entries that the erase journal still has room for (Table 15.6). -/
def journalRoom (f : Flash) : Nat := 3584 - f.journal.length

/-- The erase of the first waiting sector begins, with its journal entry; a full journal lets none begin. -/
def beginErase (f : Flash) : Flash :=
  match f.erasing with
  | [] => f
  | n :: _ => if journalRoom f = 0 then f else { f with journal := f.journal ++ [(n, false)] }

/-- Whether the first waiting erase is in progress. -/
def eraseRuns (f : Flash) : Bool :=
  match f.erasing.head? with
  | some n => f.journal.contains (n, false)
  | none => false

/-- Queue erases behind those that wait; the first begins at once when none is in progress. -/
def queueErases (f : Flash) (sectors : List Nat) : Flash :=
  if eraseRuns f then { f with erasing := f.erasing ++ sectors }
  else beginErase { f with erasing := f.erasing ++ sectors }

/-- Sectors erased within one command, with their journal entries. -/
def eraseNow (f : Flash) (sectors : List Nat) : Flash := { f with journal := f.journal ++ sectors.map fun n => (n, true) }

/-- FLASH_ERASE_COMPLETE: the erase-valid mark is programmed, and the next erase begins (R470). -/
def execFlashEraseComplete (s : State) : Host.Outcome State Fault Refusal :=
  .next (if !eraseRuns s.flash then s
    else modFlash s fun f =>
      beginErase { f with
        erasing := f.erasing.drop 1
        journal := f.journal.map fun j => if f.erasing.head? = some j.1 then (j.1, true) else j })

/-- FLASH_PROGRAM_COMPLETE: with the last one ASY_RSTAT.busy clears (R469, Table 14.10). -/
def execFlashProgramComplete (s : State) : Host.Outcome State Fault Refusal :=
  .next (if s.flash.programs = 0 then s
    else
      let s1 := modFlash s fun f => { f with programs := f.programs - 1 }
      if s1.flash.programs = 0 then setRegField s1 oRstat 0 1 0 else s1)

/-! ### Identity and status -/

/-- IDENT (Table 15.8). -/
def execIdent (seq : BitVec 16) (s : State) : Host.Outcome State Fault Refusal :=
  .next (service s seq.toNat fun s =>
    let mode := match s.comp.state with
      | .firmware => 1
      | .recovery => 2
      | _ => 0
    some (s, ptDone, natLe 2 0x0004 ++ natLe 1 0xB1 ++ natLe 8 Config.serial.toNat ++ natLe 1 s.comp.slotB.toNat ++
      natLe 4 (slotVersion s false) ++ natLe 4 (slotVersion s true) ++ natLe 1 mode))

/-- STATUS (Table 15.8). -/
def execStatus (seq : BitVec 16) (s : State) : Host.Outcome State Fault Refusal :=
  .next (service s seq.toNat fun s =>
    some (s, ptDone, natLe 8 (asyStat s) ++ natLe 8 (cstat s) ++ natLe 8 (pwrStat s) ++ natLe 1 s.comp.step))

/-! ### Image update (R472, R478) -/

/-- The body length that a header states. -/
def headerLength (h : List Byte) : Nat := leNat ((h.drop 12).take 4)

/-- Whether a header passes every check of Table 15.7. -/
def headerOk (h : List Byte) : Bool :=
  h.length == 256 && leNat ((h.drop 252).take 4) == crc32c (h.take 252) && leNat (h.take 4) == 0x34514654 &&
    leNat ((h.drop 4).take 2) == 0x0004 && leNat ((h.drop 6).take 1) == 0xB1 && leNat ((h.drop 7).take 1) == 1 &&
    leNat ((h.drop 8).take 4) != 0 && headerLength h % 256 == 0 && decide (256 ≤ headerLength h) &&
    decide (headerLength h ≤ 8388352) && leNat ((h.drop 48).take 204) == 0

/-- The first sector of an image slot (Table 15.6). -/
def slotSector (b : Bool) : Nat := if b then 0x900 else 0x100

/-- IMG_BEGIN (R478 step 1). -/
def execImgBegin (seq : BitVec 16) (slot : Byte) (header : List Byte) (s : State) : Host.Outcome State Fault Refusal :=
  .next (service s seq.toNat fun s =>
    let b := decide (slot.toNat = 1)
    if !headerOk header then some (s, ptBadHeader, [])
    else if 1 < slot.toNat then some (s, ptBadArgument, [])
    else if s.comp.update.isSome || (s.comp.state ≠ .recovery && b = s.comp.slotB) then some (s, ptNotPermitted, [])
    else if journalRoom s.flash = 0 then some (s, ptFlashError, [])
    else
      let s1 := modFlash s fun f =>
        queueErases (setImage f b { imageOf f b with header := [], body := [], erased := true })
          ((List.range 2048).map (slotSector b + ·))
      some (modComp s1 fun c => { c with update := some (b, header, 0) }, ptDone, []))

/-- Whether an erase still to end covers a 64 KiB block that some bytes of a slot lie in. -/
def blockErasing (f : Flash) (b : Bool) (off n : Nat) : Bool :=
  f.erasing.any fun x =>
    decide (slotSector b + off / 65536 * 16 ≤ x) && decide (x < slotSector b + ((off + n - 1) / 65536 + 1) * 16)

/-- IMG_DATA (R478 step 2): it waits for the erase of its blocks. -/
def execImgData (seq : BitVec 16) (off : BitVec 32) (data : List Byte) (s : State) :
    Host.Outcome State Fault Refusal :=
  .next (service s seq.toNat fun s =>
    match s.comp.update with
    | none => some (s, ptOutOfOrder, [])
    | some (b, h, next) =>
      let n := data.length
      if off.toNat ≠ next then some (s, ptOutOfOrder, [])
      else if n % 256 ≠ 0 || n < 256 || 3840 < n || headerLength h < next + n then some (s, ptBadArgument, [])
      else if blockErasing s.flash b (256 + next) n then
        if eraseRuns s.flash then none else some (s, ptFlashError, [])
      else
        let img := imageOf s.flash b
        if (lookList (fun _ => (0xFF : Byte)) img.body next n).any (· != 0xFF) then some (s, ptNotBlank, [])
        else
          let s1 := modFlash s fun f =>
            { setImage f b { img with body := putList (fun _ => 0xFF) img.body next data } with programs := f.programs + 1 }
          some (modComp s1 fun c => { c with update := some (b, h, next + n) }, ptDone, []))

/-- IMG_END (R478 step 3). -/
def execImgEnd (seq : BitVec 16) (s : State) : Host.Outcome State Fault Refusal :=
  .next (service s seq.toNat fun s =>
    match s.comp.update with
    | none => some (s, ptOutOfOrder, [])
    | some (b, h, next) =>
      let img := imageOf s.flash b
      let body := lookList (fun _ => (0xFF : Byte)) img.body 0 (headerLength h)
      if next ≠ headerLength h then some (s, ptOutOfOrder, [])
      else if sha256 body ≠ (h.drop 16).take 32 then
        some (modComp s fun c => { c with update := none }, ptBadDigest, [])
      else
        let s1 := modFlash s fun f =>
          { setImage f b { img with header := h, erased := false, tried := false, ok := false } with
            preferB := b, programs := f.programs + 2 }
        let s2 := modComp s1 fun c => { c with update := none }
        some (ledger s2 0x0A08 sevNotice none (sourceOf 9 0) [], ptDone, []))

/-- IMG_ABORT (Table 15.8). -/
def execImgAbort (seq : BitVec 16) (s : State) : Host.Outcome State Fault Refusal :=
  .next (service s seq.toNat fun s =>
    if s.comp.update.isNone then some (s, ptOutOfOrder, [])
    else some (modComp s fun c => { c with update := none }, ptDone, []))

/-! ### Calibration (R420, R422, R479) -/

/-- The stored pairs of a class. -/
def calPairs (f : Flash) (cls : Nat) : List (Word × Word) :=
  match f.cal.find? (·.1 == cls) with
  | some (_, ps) => ps
  | none => (Config.factoryWords cls).map fun w => (w, ~~~w)

/-- CAL_READ. -/
def execCalRead (seq : BitVec 16) (cls : Byte) (s : State) : Host.Outcome State Fault Refusal :=
  .next (service s seq.toNat fun s =>
    if 4 < cls.toNat then some (s, ptBadArgument, [])
    else some (s, ptDone, (calPairs s.flash cls.toNat).flatMap fun p => natLe 8 p.1.toNat ++ natLe 8 p.2.toNat))

/-- Words taken two by two. -/
def pairUp : List Word → List (Word × Word)
  | a :: b :: r => (a, b) :: pairUp r
  | _ => []

/-- Whether some words are the complete pairs of a class, each value within its range (R479). -/
def calAccepted (cls : Nat) (values : List Word) : Bool :=
  let ps := pairUp values
  decide (cls ≤ 4) && values.length == 2 * (Config.factoryWords cls).length && ps.all (fun p => p.2 == ~~~p.1) &&
    ps.zipIdx.all fun p => match calRange cls p.2 with
      | none => true
      | some (lo, hi) =>
        let x := Config.calDecode cls p.2 p.1.1
        decide (lo ≤ x) && decide (x ≤ hi)

/-- CAL_WRITE: it runs in firmware mode and in recovery (R479). -/
def execCalWrite (seq : BitVec 16) (cls : Byte) (values : List Word) (s : State) : Host.Outcome State Fault Refusal :=
  .next (service s seq.toNat fun s =>
    if s.comp.state ≠ .firmware && s.comp.state ≠ .recovery then some (s, ptNotPermitted, [])
    else if !calAccepted cls.toNat values then some (s, ptBadArgument, [])
    else if journalRoom s.flash = 0 then some (s, ptFlashError, [])
    else
      let s1 := modFlash s fun f =>
        { eraseNow f [64 + cls.toNat] with
          cal := put (fun _ => []) f.cal cls.toNat (pairUp values), calUser := true, programs := f.programs + 1 }
      some (ledger (setRegField s1 oCalstat 0 1 1) 0x0A09 sevNotice none (sourceOf 9 0) [], ptDone, []))

/-! ### Ledger, restart, inclusion clear -/

/-- LEDGER_READ: up to 60 flash-ledger records from a point on (Table 15.8). -/
def execLedgerRead (seq start : BitVec 16) (first : BitVec 32) (s : State) : Host.Outcome State Fault Refusal :=
  .next (service s seq.toNat fun s =>
    some (s, ptDone, (ledgerFrom s start.toNat first.toNat 60).flatMap fun r => recordBytes r.1 r.2))

/-- RESTART: a service start, or ROM recovery (R402, R475). The response goes out before it. -/
def execRestart (seq : BitVec 16) (recovery : Bool) (e : StartEnv) (s : State) : Host.Outcome State Fault Refusal :=
  .next (
    if s.start.phase = .unpowered then s
    else if s.comp.lastSeq = some seq.toNat then emit s (.service seq.toNat s.comp.lastResp)
    else
      let s1 := respond s seq.toNat ptDone []
      let s2 := if recovery then offState (repairErases s1) .recovery .recovery true else startDevice s1 2 e
      modComp s2 fun c => { c with lastSeq := s1.comp.lastSeq, lastResp := s1.comp.lastResp })

/-- INCL_CLEAR: the entries named are removed, in ROM recovery, with the module's credential (R411). -/
def execInclClear (seq : BitVec 16) (credential : Word) (locators : List Word) (s : State) :
    Host.Outcome State Fault Refusal :=
  .next (service s seq.toNat fun s =>
    if s.comp.state ≠ .recovery || credential ≠ Config.factoryCredential then some (s, ptNotPermitted, [])
    else if journalRoom s.flash < 16 then some (s, ptFlashError, [])
    else
      let keys := locators.map slotKey
      let s1 := modFlash s fun f =>
        { eraseNow f ((List.range 16).map (32 + ·)) with
          incl := f.incl.filter fun p => !(readSlot p == .valid && keys.contains (slotKey p.1)), programs := f.programs + 1 }
      some (s1, ptDone, []))

end Sys2Proof.Machine
end

