-- ==== Sys2Proof/Machine/Hang.lean ====
section
/-! DEFINITION. What each core is blocked on, and the wait-for graph (R497 to R500). -/

namespace Sys2Proof.Machine

/-! ### Blocking conditions (R497, Table 16.11) -/

/-- A blocking condition: kind, auxiliary value, object, and the elapsed time at which the wait began. -/
structure Blocking where
  kind  : Nat
  aux   : Nat
  obj   : Nat
  since : Nat
  deriving DecidableEq, Repr

/-- The wait of an instruction that the core holds. -/
def waitBlocking (s : State) (c : Nat) : Option Blocking :=
  let x := getCore s c
  match x.wait with
  | some (.event m _ _) => some ⟨2, 0, m.toNat % 2 ^ 48, x.waitSince⟩
  | some (.barrier _ id g _ _) => some ⟨1, 0, id % 4096 * 2 ^ 32 + g % 2 ^ 32, x.waitSince⟩
  | some (.cache _ _ seq _) => some ⟨8, 0, seq, x.waitSince⟩
  | _ => none

/-- A governor pause of the core's cluster. -/
def pauseBlocking (s : State) (c : Nat) : Option Blocking :=
  let k := getCl s (c / 16)
  if k.paused then some ⟨9, 0, k.duty, k.pausedAt⟩ else none

/-- The first send entry of a core whose ring is full. -/
def fullStream (x : CoreSt) : Option (Nat × Nat) :=
  (x.streams.find? fun e => e.2.kind == .send && (e.2.credit == 0 || !e.2.queue.isEmpty)).map fun e => (e.1, e.2.peer)

/-- The address that a core's moves, transfers or full store buffer wait for. -/
def memoryWait (s : State) (c : Nat) : Option Nat :=
  let x := getCore s c
  match x.moves, (getCl s (c / 16)).xfers.find? fun t => t.core == c && !t.drop with
  | m :: _, _ => some m.ga
  | [], some t => some t.src
  | [], none => if 16 ≤ x.buf.length then x.buf.head?.map (·.line) else none

/-- The entry of the page that a remint engine moves for a core's partition. -/
def movingEntry (s : State) (c : Nat) : Option Nat :=
  s.remints.findSome? fun e =>
    if e.1 % 16 ≠ partNum s c then none
    else e.2.findSome? fun j => match j.flight, readHead s (e.1 % 16) none j.list with
      | g :: _, .ok _ l => some (l.tbase + 16 * g.index)
      | _, _ => none

/-- An instruction that stalls at issue, found from what the core has outstanding; it has stalled for 1 µs. -/
def stallBlocking (s : State) (c : Nat) : Option Blocking :=
  let x := getCore s c
  let at_ := elapsed s - 1000
  let v := getVein s c
  match x.loads, fullStream x with
  | l :: _, _ => some ⟨6, 0, l.addr, at_⟩
  | [], some (e, peer) => some ⟨5, e, peer, at_⟩
  | [], none =>
    if !(pressQueue (getCl s (c / 16)) (c % 16)).isEmpty || openRun (getCl s (c / 16)) (c % 16) then some ⟨3, 0, 0, at_⟩
    else if (List.range 16).any fun u => !(getUnit v u).queue.isEmpty then some ⟨4, 0, 0, at_⟩
    else match memoryWait s c, movingEntry s c with
      | some a, _ => some ⟨6, 0, a, at_⟩
      | none, some a => some ⟨7, 0, a, at_⟩
      | none, none => none

/-- What a core is blocked on, if anything. -/
def blockingOf (s : State) (c : Nat) : Option Blocking :=
  (waitBlocking s c).or ((pauseBlocking s c).or (if (getCore s c).run = .running then stallBlocking s c else none))

/-- BLOCKING_CONDITION_BEGIN: an instruction has waited 1 µs (R497). -/
def execBlockingConditionBegin (c : CoreId) (s : State) : Host.Outcome State Fault Refusal :=
  .next (match blockingOf s c.toNat with
    | none => s
    | some b =>
      if !populated s c.toNat || (getCore s c.toNat).blk ≠ 0 then s
      else
        let s1 := advanceTo s (b.since + 1000)
        let hm := max 1 (s1.hallmark - (elapsed s1 - b.since))
        modCore s1 c.toNat fun x => { x with
          blk := hm, blkobj := word (b.kind * 2 ^ 60 + b.aux % 4096 * 2 ^ 48 + b.obj % 2 ^ 48) })

/-! ### Starting an analysis (R498, R500) -/

/-- Whether the graph buffer is acceptable: in a sealed region of one populated vein, or in one populated far stack. -/
def graphBufferOk (s : State) (a len : Nat) : Bool :=
  let z := a + max 1 len - 1
  match placeOf a, placeOf z with
  | .vein c o, .vein d p =>
    c == d && populatedPlace s (.vein c o) && populatedPlace s (.vein d p) &&
      (regionAt s c o).any fun r => r.kind == kindSealed && r.covers p
  | .far k _, .far j p => k == j && populatedPlace s (.far j p)
  | _, _ => false

/-- The cores in scope that are blocked since m µs or longer (step 1). -/
def keptCores (s : State) (part : Option Nat) (m : Nat) : List (Nat × Nat × Word) :=
  let cs := (allClusters s).flatMap coresOf
  (cs.filter fun c => (part.isNone || partOf s c == part) &&
    (getCore s c).blk ≠ 0 && decide ((getCore s c).blk + m * 1000 ≤ s.hallmark)).map fun c =>
      (c, (getCore s c).blk, (getCore s c).blkobj)

/-- DBG_HANG_STAT (Table 16.13). -/
def hangStat (busy done status cycles number : Nat) : Word :=
  word (busy + 2 * done + status * 256 + min 0xFFFF cycles * 65536 + number % 2 ^ 32 * 2 ^ 32)

/-- An analysis begins. -/
def hangStart (s : State) (part : Option Nat) (buffer len m : Nat) : State :=
  let n := (s.dbg.number + 1) % 2 ^ 32
  setReg { s with dbg := { s.dbg with
    busy := true, part := part, buffer := buffer, len := len, minUs := m, number := n, s0 := s.hallmark
    kept := keptCores s part m } } oHangStat (hangStat 1 0 0 0 n)

/-- HANG_ANALYSIS: mailbox command 0x0008 of the PF. -/
def execHangAnalysis (f : PartId) (s : State) : Host.Outcome State Fault Refusal :=
  .next (boxRun s f.toNat 8 fun s =>
    let a0 := boxArg s f.toNat 0
    let buffer := boxArg s f.toNat 1 % 2 ^ 48 / 64 * 64
    let len := boxArg s f.toNat 2 % 2 ^ 32
    if s.dbg.busy then (s, stPoolFull)
    else if !graphBufferOk s buffer len then (s, stPartitionFault)
    else
      let s1 := hangStart s (if bitNat a0 4 then none else some (a0 % 16)) buffer len (boxArg s f.toNat 3 % 2 ^ 32)
      (boxRes s1 f.toNat 0 s1.dbg.number, stOk))

/-- The threshold of automatic analyses in ms; 0 acts as 1. -/
def hangThresh (s : State) : Nat := max 1 (regField s oHangCtl 16 16)

/-- AUTO_HANG_ANALYSIS: at most one in a second; one that arrives while an analysis runs is dropped (R500). -/
def execAutoHangAnalysis (c : CoreId) (s : State) : Host.Outcome State Fault Refusal :=
  .next (
    let x := getCore s c.toNat
    let len := regField s oHangLen 0 32
    let buffer := regField s oHangBuf 0 48 / 64 * 64
    let due := x.blk ≠ 0 && decide (x.blk + hangThresh s * 1000000 ≤ s.hallmark)
    let rested := s.dbg.lastAuto.all fun t => decide (t + 1000000000 ≤ elapsed s)
    if s.comp.state ≠ .firmware || s.dbg.busy || !(getReg s oHangCtl).getLsbD 0 || len = 0 || !due || !rested ||
      !graphBufferOk s buffer len then s
    else
      let s1 := hangStart s (some (partNum s c.toNat)) buffer len (hangThresh s * 1000)
      { s1 with dbg := { s1.dbg with lastAuto := some (elapsed s) } })

/-! ### The graph (R498, Tables 16.11, 16.12) -/

/-- A node: its kind and its number. -/
abbrev HangNode := Nat × Nat

/-- The unit that holds an address; a retraining seam on the way stands for it. -/
def unitNode (s : State) (c a : Nat) : Option HangNode :=
  let seams := match routeOf s (c / 1024) (dieOfAddr a) false with
    | some p => (pathLegs p).filter fun l : Nat × Bool => !(getSeam s l.1).retraining.isEmpty
    | none => []
  match seams, placeOf a with
  | l :: _, _ => some (5, l.1)
  | [], .vein d _ => some (3, d)
  | [], .far k _ => some (4, k)
  | [], _ => none

/-- The cores that a core in a BARRIER wait waits for: those of its job that have not arrived in the generation. -/
def barrierWaits (s : State) (c id gen : Nat) : List Nat :=
  match barKey s c id, s.jobs.find? (·.cores.contains c) with
  | some key, some j =>
    let b := getBar s key
    if b.gen ≠ gen then []
    else j.cores.filter fun d => !(b.arrivals.any (·.1 == d)) && (0x40 ≤ id || d / 16 == c / 16)
  | _, _ => []

/-- The edges of a kept core; those to cores that are not kept are left out, since they have no node. -/
def edgesOf (s : State) (kept : List Nat) (c : Nat) (w : Word) : List (HangNode × HangNode) :=
  let me : HangNode := (1, c)
  let obj := w.toNat % 2 ^ 48
  let one : Option HangNode → List (HangNode × HangNode) := fun n => n.toList.map fun n => (me, n)
  match w.toNat / 2 ^ 60 with
  | 1 => ((barrierWaits s c (obj / 2 ^ 32 % 4096) (obj % 2 ^ 32)).filter kept.contains).map fun d => (me, (1, d))
  | 2 => [(me, (9, 0))]
  | 3 =>
    let k := c / 16
    let own := ((getCl s k).current.map fun r => k * 16 + r.core).filter kept.contains
    (me, (2, k)) :: own.toList.map fun d => ((2, k), (1, d))
  | 4 => [(me, (3, c))]
  | 5 => if kept.contains obj then [(me, (1, obj))] else []
  | 6 => one (unitNode s c obj)
  | 7 => [(me, (6, dieOfAddr obj))]
  | 8 => match (getCore s c).wait with
    | some (.cache _ _ _ a) => one (unitNode s c a)
    | _ => []
  | _ => [(me, (8, 0))]

/-- A wait-for graph: nodes, and edges by node index. -/
structure HangGraph where
  nodes : List HangNode
  edges : List (Nat × Nat)
  deriving DecidableEq, Repr

/-- The graph of the kept cores, less those whose condition has changed (steps 2 to 4). -/
def hangGraph (s : State) : HangGraph :=
  let kept := s.dbg.kept.filter fun e => (getCore s e.1).blk == e.2.1
  let cs := kept.map (·.1)
  let es := (kept.flatMap fun e => edgesOf s cs e.1 e.2.2).eraseDups
  let nodes := (cs.map fun c => (1, c)) ++ (es.flatMap fun e => [e.1, e.2])
  let ns := nodes.eraseDups
  ⟨ns, es.map fun e => (ns.idxOf e.1, ns.idxOf e.2)⟩

/-- The nodes that one step leads to from a set. -/
def hangNext (es : List (Nat × Nat)) (l : List Nat) : List Nat :=
  (l ++ (es.filter fun e => l.contains e.1).map (·.2)).eraseDups

/-- The nodes reached from a set in at most n steps. -/
def hangReach (es : List (Nat × Nat)) : Nat → List Nat → List Nat
  | 0, l => l
  | n + 1, l => hangReach es n (hangNext es l)

/-- The nodes that an edge or more leads to from a node. -/
def hangAfter (g : HangGraph) (i : Nat) : List Nat :=
  hangReach g.edges g.nodes.length ((g.edges.filter fun e => e.1 == i).map (·.2))

/-- The cycles: strongly connected components of two or more nodes, and nodes with an edge to themselves (step 5), each
listed from its lowest node, in order of that node. -/
def hangCycles (g : HangGraph) : List (List Nat) :=
  let idx := List.range g.nodes.length
  let reach := idx.map (hangAfter g)
  let to_ : Nat → Nat → Bool := fun i j => (reach.getD i []).contains j
  (idx.filter fun i => to_ i i && !((List.range i).any fun j => to_ i j && to_ j i)).map fun i =>
    idx.filter fun j => to_ i j && to_ j i

/-- A node in the buffer (Table 16.12). -/
def nodeBytes (s : State) (n : HangNode) : List Byte :=
  match n.1, s.dbg.kept.find? (·.1 == n.2) with
  | 1, some (c, blk, w) =>
    natLe 1 1 ++ natLe 1 (w.toNat / 2 ^ 60) ++ natLe 2 c ++ natLe 4 ((s.dbg.s0 - blk) / 1000) ++ natLe 8 w.toNat
  | k, _ => natLe 1 k ++ natLe 1 0 ++ natLe 2 n.2 ++ natLe 12 0

/-- The whole buffer of an analysis (Table 16.12). -/
def graphBytes (s : State) (g : HangGraph) (cs : List (List Nat)) : List Byte :=
  let words := cs.flatMap fun c => c ++ [2 ^ 32 - 1]
  let size := 64 + 16 * g.nodes.length + 8 * g.edges.length + 4 * words.length
  natLe 8 s.dbg.s0 ++ natLe 4 s.dbg.number ++ natLe 4 g.nodes.length ++ natLe 4 g.edges.length ++ natLe 4 words.length ++
    natLe 1 (decide (s.dbg.len < size)).toNat ++ natLe 1 (s.dbg.part.getD 0xFF) ++ List.replicate 38 0 ++
    g.nodes.flatMap (nodeBytes s) ++ g.edges.flatMap (fun e => natLe 4 e.1 ++ natLe 4 e.2) ++ words.flatMap (natLe 4)

/-- The ledger record of a cycle: its length and up to seven of its cores. -/
def cycleRecord (g : HangGraph) (s : State) (c : List Nat) : State :=
  let cores := (c.filterMap fun i => g.nodes[i]?).filter (·.1 == 1)
  ledger s 0x0B02 sevError none (sourceOf 9 0) (c.length :: (cores.take 7).map (·.2))

/-- HANG_ANALYSIS_END: the buffer, the records, done (steps 2 to 6, R499). -/
def execHangAnalysisEnd (s : State) : Host.Outcome State Fault Refusal :=
  .next (if !s.dbg.busy || s.comp.state ≠ .firmware then s
    else
      let g := hangGraph s
      let cs := hangCycles g
      let bytes := (graphBytes s g cs).take s.dbg.len
      match writeRange s ⟨3, 0, 0, 0, false⟩ s.dbg.buffer (clean bytes) 10 with
      | (s1, _, e) =>
        let st := (e.map fun p => statusOf p.2).getD stOk
        let s2 := ledger s1 0x0B01 sevNotice none (sourceOf 9 0) [s.dbg.number, g.nodes.length, g.edges.length, cs.length]
        let s3 := cs.foldl (cycleRecord g) s2
        setReg { s3 with dbg := { s3.dbg with busy := false, kept := [] } } oHangStat
          (hangStat 0 1 st cs.length s.dbg.number))

end Sys2Proof.Machine
end

