-- ==== Sys2Proof/Machine/Debug.lean ====
section
/-! DEFINITION. Writes of the counter registers (R485 to R489) and the trace channels (R493 to R496). -/

namespace Sys2Proof.Machine

/-! ### Counters -/

/-- A counter: its bank (0 core, 1 cluster, 2 die, 3 global), its select and count registers, and its scope's bit in
DBG_PCTL (17: no partition holds it). -/
structure CounterAt where
  bank  : Nat
  sel   : Nat
  cnt   : Nat
  scope : Nat
  deriving DecidableEq, Repr

/-- The counter whose select (want = false) or count register (want = true) lies at an offset (Table 16.13). -/
def counterAt (s : State) (off : Nat) (want : Bool) : Option CounterAt :=
  let scope := fun k => (partOfCl s k).getD 17
  match blockOf off with
  | .co c o =>
    let i := o % 0x40 / 8
    if o / 0x40 = (if want then 0xD else 0xC) then some ⟨0, oCoSel c i, oCoPmc c i, scope (c / 16)⟩ else none
  | .cl k o =>
    let i := o % 0x40 / 8
    if o / 0x40 = (if want then 0x11 else 0x10) then some ⟨1, oClSel k i, oClPmc k i, scope k⟩ else none
  | .dev 0xD o =>
    let n := o % 0x100 / 8
    if o / 0x100 = (if want then 2 else 1) then some ⟨3, oGsel n, oGcnt n, 16⟩
    else if 0x1000 ≤ o && o < 0x1800 && o % 0x200 / 0x80 == want.toNat then
      some ⟨2, oDsel ((o - 0x1000) / 0x200) (o % 0x80 / 8), oDcnt ((o - 0x1000) / 0x200) (o % 0x80 / 8), 16⟩
    else none
  | _ => none

/-- A write of a select register: one that names an event its bank may not select reads back with en = 0 (R485,
Table 16.4). -/
def selectWrite (s : State) (k : CounterAt) (w : Word) : State :=
  let v := masked 0x1BF_FF00_FFFF 0 w
  let ok := bankSelects k.bank (fieldNat v.toNat 8 8) (fieldNat v.toNat 0 8)
  setReg s k.sel (if ok then v else v &&& ~~~(1 <<< 39 : Word))

/-- A write of a count register: the count is replaced, ovf is cleared where the write has it set (R487,
Table 16.5). -/
def countWrite (s : State) (k : CounterAt) (w : Word) : State :=
  let ovf := bitNat (getReg s k.cnt).toNat 48 && !w.getLsbD 48
  setReg s k.cnt (word (w.toNat % 2 ^ 48 + ovf.toNat * 2 ^ 48))

/-- COUNT_REGISTER_WRITE. -/
def execCountRegisterWrite (r : Req) (off : BitVec 26) (w : Word) (s : State) : Host.Outcome State Fault Refusal :=
  .next (match counterAt s off.toNat true with
    | none => s
    | some k => regWrite s r off.toNat fun s => countWrite s k w)

/-- COUNTER_OVERFLOW: the count of an enabled counter that is not frozen wraps; ovf, and with frz its scope freezes
(R487, R489). -/
def execCounterOverflow (off : BitVec 26) (s : State) : Host.Outcome State Fault Refusal :=
  .next (match counterAt s off.toNat true with
    | none => s
    | some k =>
      let sel := (getReg s k.sel).toNat
      if !isReg off.toNat || !bitNat sel 39 || bitNat (getReg s oPctl).toNat k.scope then s
      else
        let s1 := setReg s k.cnt (word (2 ^ 48))
        if bitNat sel 40 then setRegField s1 oPctl k.scope 1 1 else s1)

/-- A write of DBG_PCTL: the PF and the comptroller write every bit, a partition its own (R489, Table 17.3). -/
def freezeWrite (s : State) (q : Req) (w : Word) : State :=
  match viewerOf s q with
  | .full _ => setReg s oPctl (masked 0x1FFFF 0 w)
  | .part p _ => setRegField s oPctl p 1 (fieldNat w.toNat p 1)
  | .none => s

/-- FREEZE_CONTROL_WRITE. -/
def execFreezeControlWrite (r : Req) (w : Word) (s : State) : Host.Outcome State Fault Refusal :=
  .next (regWrite s r oPctl fun s => freezeWrite s r w)

/-! ### Trace channels -/

/-- The bytes of a trace record (Table 16.7). -/
def traceBytes (r : TraceRec) : List Byte :=
  natLe 8 r.hallmark ++ natLe 2 r.source ++ natLe 1 r.kind ++ natLe 1 0 ++ natLe 4 r.lost ++
    ((r.payload ++ List.replicate 4 0).take 4).flatMap (natLe 4)

/-- The records of a trace ring (R493). -/
def traceRing (s : State) (k : Nat) : Nat := 2 ^ (regField s (oTrCtl k) 24 4 + 7)

/-- Write the oldest buffered record of a cluster to the ring of function f, if the ring has room. -/
def traceOne (s : State) (f k : Nat) : State :=
  let x := getCl s k
  let head := regField s (oTrHead k) 0 23
  let next := (head + 1) % traceRing s k
  match x.trace with
  | [] => s
  | r :: rest =>
    if next = regField s (oTrTail k) 0 23 then s
    else
      let a := (getReg s (oTrBase k)).toNat + 32 * head
      let s1 := emit s (.hostWrite f a (traceBytes { r with lost := x.traceLost }) false)
      setReg (setCl s1 k { x with trace := rest, traceLost := 0 }) (oTrHead k) (word next)

/-- A host write of a trace channel that is answered with UR or CA: the channel halts with UNCORRECTABLE and keeps its buffer
(R496). -/
def traceRefused (s : State) (f k : Nat) : State :=
  match (getCl s k).trace with
  | [] => s
  | r :: _ =>
    let a := (getReg s (oTrBase k)).toNat + 32 * regField s (oTrHead k) 0 23
    haltTrace (emit s (.hostWrite f a (traceBytes { r with lost := (getCl s k).traceLost }) false)) k stUncorrectable

/-- TRACE_CHANNEL_WRITE: 16 records stand in the buffer, or the oldest is 100 µs old (R493); where the host answers
the write with UR or CA, the channel halts (R496). -/
def execTraceChannelWrite (x : TraceWrite) (s : State) : Host.Outcome State Fault Refusal :=
  .next (
    let n := x.cluster.toNat
    let held := (getCl s n).trace
    match partOfCl s n, held with
    | some f, r :: _ =>
      if !populatedCl s n || !bitNat (getReg s (oTrCtl n)).toNat 0 || bitNat (getReg s (oTrStat n)).toNat 0 then s
      else if !(getFunc s f).bme then haltTrace s n stBmeOff
      else
        let s1 := if 16 ≤ held.length then s else hallmarkTo s (r.hallmark + 100000)
        if x.refused then traceRefused s1 f n else (List.range held.length).foldl (fun s _ => traceOne s f n) s1
    | _, _ => s)

/-- A write of CL_TR_CTL: en = 1 runs the channel and clears halted (R496, Table 16.10). A host that enables it has set
its function's Bus Master Enable (log entry 30). -/
def traceCtl (s : State) (q : Req) (k : Nat) (w : Word) : State :=
  let s1 := setReg s (oTrCtl k) (masked 0xF00_FF03 0 w)
  if !w.getLsbD 0 then s1
  else
    let s2 := setRegField s1 (oTrStat k) 0 1 0
    match q, partOfCl s k with
    | .host _, some f => msixPending (setFunc s2 f { getFunc s2 f with bme := true }) f
    | _, _ => s2

/-- TRACE_CHANNEL_ENABLE. -/
def execTraceChannelEnable (r : Req) (k : ClusterId) (w : Word) (s : State) : Host.Outcome State Fault Refusal :=
  .next (regWrite s r (oTrCtl k.toNat) fun s => traceCtl s r k.toNat w)

/-- A write of CL_TR_SW1: the record carries the writing core, or 0xFFF (R495). -/
def softwareRecord (s : State) (q : Req) (k : Nat) (w : Word) : State :=
  let source := match q with
    | .core c => c.toNat
    | _ => 0xFFF
  trace s k 1 source (twoWords (getCl s k).sw0.toNat ++ twoWords w.toNat)

/-- SOFTWARE_RECORD. -/
def execSoftwareRecord (r : Req) (k : ClusterId) (w : Word) (s : State) : Host.Outcome State Fault Refusal :=
  .next (regWrite s r (clBase k.toNat + 0x530) fun s => softwareRecord s r k.toNat w)

end Sys2Proof.Machine
end

