-- ==== Sys2Proof/Machine/Sampling.lean ====
section
/-! DEFINITION. The sampling class (R273 to R280) and the entropy source (R281, R282). -/

namespace Sys2Proof.Machine

/-- The word of an instruction of major opcode 0x26 (Table 8.10). -/
def encSample (rd ga gb gc func : Nat) : Nat :=
  0x26 * 2 ^ 26 + rd * 2 ^ 21 + ga * 2 ^ 16 + gb * 2 ^ 11 + gc * 2 ^ 6 + func

/-! ### SEED (R274) -/

/-- Write n bytes of a sequence record that may stand where it does; a word that a partial write could not merge is a
deferred failure of the core (R431). -/
def writeGenerator (s : State) (c a : Nat) (bs : List Byte) : KRes Unit :=
  if structWaits s a then .wait s
  else if !structPlace s (partNum s c) a bs.length then .trap s ⟨4, 0, a⟩
  else if !structUp s a then .trap s ⟨0xE, 2, a⟩
  else
    let (s1, bad) := writeUnits s a bs 3 (some c)
    .ok (modCore s1 c fun x => noteFailure x (bad.head?.map fun l => ⟨3, l.2, l.1⟩)) ()

/-- Release the bound generator of a core: its counter goes back to its record. -/
def seedDrop (s : State) (c : Nat) : KRes Unit :=
  match (getCore s c).bind with
  | none => .ok s ()
  | some b => (writeGenerator s c (b.record + 48) (natLe 8 b.counter)).andThen fun s _ =>
      .ok (modCore s c fun x => { x with bind := none }) ()

/-- A form of SEED that works on a sequence's record: the record's address; older stores and moves of the core come
first. -/
def onRecord (s : State) (c : Nat) (seq : Nat) (k : State → Nat → KRes Nat) (rd : Nat) : Eff :=
  let x := getCore s c
  if seqSize s c ≤ seq then .at s 4 0 seq
  else if !x.buf.isEmpty || !x.moves.isEmpty then .stall s
  else match k s (seqAddr s c seq) with
    | .wait s1 => .stall s1
    | .trap s1 t => .trap s1 t false false
    | .reset s1 => .at s1 0xE 2 (seqAddr s c seq)
    | .ok s1 w => .go (modCore s1 c fun x => setGpr x rd (BitVec.ofNat 64 w))

/-- SEED bind. -/
def execSeedBind (c : CoreId) (rd ga : GReg) (s : State) : Host.Outcome State Fault Refusal :=
  .next (issue s c.toNat ⟨4, [rd.toNat, ga.toNat], true⟩ (raSkip 4) fun s =>
    let n := c.toNat
    let seq := (gpr (getCore s n) ga.toNat).toNat
    onRecord s n seq (fun s a =>
      (seedDrop s n).andThen fun s _ => (readStruct s (partNum s n) (some n) (a + 32) 32).andThen fun s w =>
        match fieldNat w 192 2 with
        | 1 => .ok (modCore s n fun x => { x with bind := some ⟨seq, a, fieldNat w 0 128, fieldNat w 128 64⟩ }) stOk
        | 3 => .ok s stEntropyFail
        | _ => .ok s stNotReady) rd.toNat)

/-- SEED release. -/
def execSeedRelease (c : CoreId) (rd : GReg) (s : State) : Host.Outcome State Fault Refusal :=
  .next (issue s c.toNat ⟨4, [rd.toNat], true⟩ (raSkip 4) fun s =>
    let x := getCore s c.toNat
    if !x.buf.isEmpty || !x.moves.isEmpty then .stall s
    else match seedDrop s c.toNat with
      | .ok s1 _ => .go (modCore s1 c.toNat fun x => setGpr x rd.toNat 0)
      | .trap s1 t => .trap s1 t false false
      | .wait s1 => .stall s1
      | .reset s1 => .stall s1)

/-- SEED set key: it also rebinds the sequence if this core holds it. -/
def execSeedSetKey (c : CoreId) (rd ga gb gc : GReg) (s : State) : Host.Outcome State Fault Refusal :=
  .next (issue s c.toNat ⟨4, [rd.toNat, ga.toNat, gb.toNat, gc.toNat], true⟩ (raSkip 4) fun s =>
    let n := c.toNat
    let x := getCore s n
    let seq := (gpr x ga.toNat).toNat
    let key := (gpr x gb.toNat).toNat + (gpr x gc.toNat).toNat * 2 ^ 64
    onRecord s n seq (fun s a =>
      (writeGenerator s n (a + 32) (natLe 16 key ++ natLe 8 0 ++ natLe 8 1)).andThen fun s _ =>
        .ok (modCore s n fun x => { x with bind := x.bind.map fun b =>
          if b.seq = seq then { b with key := key, counter := 0 } else b }) 0) rd.toNat)

/-- SEED request: queued, or refused at once (R281, Table 8.12). -/
def execSeedRequest (c : CoreId) (rd ga gb : GReg) (s : State) : Host.Outcome State Fault Refusal :=
  .next (issue s c.toNat ⟨4, [rd.toNat, ga.toNat, gb.toNat], true⟩ (raSkip 4) fun s =>
    let n := c.toNat
    let x := getCore s n
    let seq := (gpr x ga.toNat).toNat
    let event := (gpr x gb.toNat).toNat % 64
    if 47 < event then illegal s (encSample rd.toNat ga.toNat gb.toNat 0 3)
    else onRecord s n seq (fun s a =>
      if s.ent = .ready && s.keys.length < 64 then
        (readStruct s (partNum s n) (some n) (a + 56) 8).andThen fun s w =>
        (writeGenerator s n (a + 56) (natLe 8 (setFieldNat w 0 2 2))).andThen fun s _ =>
          .ok { s with keys := s.keys ++ [⟨n, a, event⟩] } stOk
      else .ok (bump s 0x08 7 1 .device) (if s.ent = .failed then stEntropyFail else stNotReady)) rd.toNat)

/-- SEED set counter. -/
def execSeedSetCounter (c : CoreId) (gb : GReg) (s : State) : Host.Outcome State Fault Refusal :=
  .next (issue s c.toNat ⟨4, [gb.toNat], true⟩ (raSkip 4) fun s =>
    let x := getCore s c.toNat
    match x.bind with
    | none => .at s 0xC 0 0
    | some b => .go (setCore s c.toNat { x with bind := some { b with counter := (gpr x gb.toNat).toNat } }))

/-! ### RAND (R275) -/

/-- n blocks of a core's bound generator, counted, with the counter advanced. -/
def takeBlocks (s : State) (c : Nat) (b : Binding) (n : Nat) : State × List (List Nat) :=
  (bump (modCore s c fun x => { x with bind := some { b with counter := (b.counter + n) % 2 ^ 64 } }) 0x08 6 n (.core c),
    philoxBlocks b.key b.counter n)

/-- RAND, vector forms: what the 32 words become. -/
def randVector (c : CoreId) (vd : VReg) (lane : Nat → Nat) (s : State) : State :=
  issue s c.toNat ⟨4, [], true⟩ (raSkip 4) fun s =>
    match (getCore s c.toNat).bind with
    | none => .at s 0xC 0 0
    | some b =>
      let (s1, bs) := takeBlocks s c.toNat b 8
      .go (modCore s1 c.toNat fun x => setVreg x vd.toNat (ofLanes 32 (bs.flatten.map lane)))

/-- RAND scalar. -/
def execRandScalar (c : CoreId) (rd : GReg) (s : State) : Host.Outcome State Fault Refusal :=
  .next (issue s c.toNat ⟨4, [rd.toNat], true⟩ (raSkip 4) fun s =>
    match (getCore s c.toNat).bind with
    | none => .at s 0xC 0 0
    | some b =>
      let (s1, bs) := takeBlocks s c.toNat b 1
      let ws := bs.flatten
      .go (modCore s1 c.toNat fun x => setGpr x rd.toNat (BitVec.ofNat 64 (ws.getD 0 0 + ws.getD 1 0 * 2 ^ 32))))

/-- RAND bits. -/
def execRandBits (c : CoreId) (vd : VReg) (s : State) : Host.Outcome State Fault Refusal :=
  .next (randVector c vd (fun w => w) s)

/-- The FP32 code of a word's upper 24 bits × 2^-24. -/
def unit32 (w : Nat) : Nat := (encodeIeee (floatFmt 0) .even (.fin false (w / 256) (-24))).1

/-- RAND uniform. -/
def execRandUniform (c : CoreId) (vd : VReg) (s : State) : Host.Outcome State Fault Refusal :=
  .next (randVector c vd unit32 s)

/-! ### SMPLK and SMPLP (R276 to R279) -/

/-- An FP32 code as an integer in the order of its values; a NaN stands with -∞ (R277). -/
def rank32 (x : Nat) : Int :=
  if (num32 x).isNan then -0x7F800000 else if bitNat x 31 then -(abs32 x : Int) else (abs32 x : Int)

/-- Whether candidate a (token and value) comes before b: greater value first, then lower token. -/
def before (a b : Nat × Nat) : Bool :=
  decide (rank32 b.2 < rank32 a.2) || (rank32 a.2 == rank32 b.2 && decide (a.1 < b.1))

/-- Insert a candidate into a descending list, behind its equals. -/
def insertCand (a : Nat × Nat) : List (Nat × Nat) → List (Nat × Nat)
  | [] => [a]
  | b :: r => if before a b then a :: b :: r else b :: insertCand a r

/-- The k first of some candidates. -/
def topK (k : Nat) (xs : List (Nat × Nat)) : List (Nat × Nat) := xs.foldl (fun l a => (insertCand a l).take k) []

/-- The weights of a candidate list (R279 step 1). -/
def weightsOf (xs : List (Nat × Nat)) (isWeights : Bool) (tau : Nat) : List Nat :=
  let x0 := (xs.head?.map (·.2)).getD 0
  xs.map fun x => if isWeights then x.2 else exp32 (mul32 (sub32 x.2 x0) tau)

/-- Running sums in list order (R279 step 2). -/
def runningSums : Nat → List Nat → List Nat
  | _, [] => []
  | a, w :: r => add32 a w :: runningSums (add32 a w) r

/-- Whether an FP32 value is greater than another; false with a NaN. -/
def above32 (a b : Nat) : Bool := ge32 a b && !ge32 b a

/-- Whether a total is zero or not finite. -/
def badTotal (t : Nat) : Bool := decide (abs32 t = 0) || decide (0x7F800000 ≤ abs32 t)

/-- The entry that a word draws from weights (R279 step 3). -/
def drawEntry (ws : List Nat) (word : Nat) : Nat :=
  let cs := runningSums 0 ws
  let u := mul32 (unit32 word) (cs.getLast?.getD 0)
  match cs.findIdx? (above32 · u) with
  | some i => i
  | none => ((ws.zipIdx.filter fun w => above32 w.1 0).getLast?.map (·.2)).getD 0

/-- What is wrong with τ: negative or NaN (R279). -/
def badTau (tau : Nat) : Bool := (num32 tau).isNan || (bitNat tau 31 && decide (abs32 tau ≠ 0))

/-- A draw over weights that keep has cut: rd takes the token; a bad total takes entry 0 with nv, and no block. -/
def finishDraw (s : State) (c rd tau : Nat) (xs : List (Nat × Nat)) (ws : List Nat) (keep : List Nat → List Nat) : Eff :=
  let token : Nat → Word := fun i => BitVec.ofNat 64 ((xs.getD i (0, 0)).1)
  if abs32 tau = 0 then .go (modCore s c fun x => setGpr x rd (token 0))
  else if badTotal ((runningSums 0 ws).getLast?.getD 0) then
    .go (modCore s c fun x => setFlags (setGpr x rd (token 0)) flagNv)
  else match (getCore s c).bind with
    | none => .at s 0xC 0 0
    | some b =>
      let (s1, bs) := takeBlocks s c b 1
      .go (modCore s1 c fun x => setGpr x rd (token (drawEntry (keep ws) (bs.flatten.getD 0 0))))

/-- Candidates of a source: raw values with their tokens, or a candidate list. -/
def candidates (bs : List Byte) (n : Nat) (list : Bool) (first : Nat) : List (Nat × Nat) :=
  (groupsOf (if list then 8 else 4) bs).zipIdx.take n |>.map fun g =>
    if list then (leNat (g.1.take 4), leNat (g.1.drop 4)) else ((first + g.2) % 2 ^ 32, leNat g.1)

/-- A source or an output of the sampling class (R276). -/
def sampleSide (c a n : Nat) : Bool := a % 32 == 0 && lsSide (c / 16) a n

/-- SMPLK (R276, R277, R279). -/
def execSmplk (c : CoreId) (rd ga gb gc : GReg) (s : State) : Host.Outcome State Fault Refusal :=
  .next (issue s c.toNat ⟨4, [rd.toNat, ga.toNat, gb.toNat, gc.toNat], true⟩ (raSkip 4) fun s =>
    let x := getCore s c.toNat
    let a := (gpr x ga.toNat).toNat
    let b := (gpr x gb.toNat).toNat
    let g := (gpr x gc.toNat).toNat
    let out := g % 2 ^ 48
    let n := b % 2 ^ 18 + 1
    let k := min n (fieldNat b 18 6 + 1)
    let list := bitNat b 24
    let draw := bitNat b 26
    let tau := fieldNat b 32 32
    let size := n * (if list then 8 else 4)
    if draw && (badTau tau || (abs32 tau != 0 && x.bind.isNone)) then .at s 0xC 0 0
    else if !sampleSide c.toNat a size then .at s 4 0 a
    else if !sampleSide c.toNat out (8 * k) then .at s 4 0 out
    else if !x.buf.isEmpty || !x.moves.isEmpty then .stall s
    else match coreRead s c.toNat a size 2 with
      | (s1, .wait) => .stall s1
      | (s1, .trap t) => .trap s1 t false false
      | (_, .ok s1 bs) =>
        let top := topK k (candidates bs n list (g / 2 ^ 48 * 65536))
        let (s2, bad) := writeUnits s1 out (top.flatMap fun e => natLe 4 e.1 ++ natLe 4 e.2) 3 (some c.toNat)
        let s3 := modCore s2 c.toNat fun x => noteFailure x (bad.head?.map fun l => ⟨3, l.2, l.1⟩)
        if draw then finishDraw s3 c.toNat rd.toNat tau top (weightsOf top (bitNat b 25) tau) id
        else .go (modCore s3 c.toNat fun x => setGpr x rd.toNat (BitVec.ofNat 64 k)))

/-- The shortest prefix of weights whose running sum reaches p × S (R278). -/
def topP (p : Nat) (ws : List Nat) : List Nat :=
  let cs := runningSums 0 ws
  if ge32 0 p then ws.take 1
  else if ge32 p 0x3F800000 then ws
  else match cs.findIdx? (ge32 · (mul32 p (cs.getLast?.getD 0))) with
    | some i => ws.take (i + 1)
    | none => ws

/-- SMPLP (R278, R279). A count outside 1 to 64 or a mode other than 0b01 and 0b11 takes trap 0x04 as an operand that is
out of its range (log entry 28). -/
def execSmplp (c : CoreId) (rd ga gb gc : GReg) (s : State) : Host.Outcome State Fault Refusal :=
  .next (issue s c.toNat ⟨4, [rd.toNat, ga.toNat, gb.toNat, gc.toNat], true⟩ (raSkip 4) fun s =>
    let x := getCore s c.toNat
    let a := (gpr x ga.toNat).toNat
    let b := (gpr x gb.toNat).toNat
    let m := b % 128
    let tau := (gpr x gc.toNat).toNat % 2 ^ 32
    if badTau tau || (abs32 tau != 0 && x.bind.isNone) then .at s 0xC 0 0
    else if m = 0 || 64 < m || !bitNat b 7 then .at s 4 0 b
    else if !sampleSide c.toNat a (8 * m) then .at s 4 0 a
    else if !x.buf.isEmpty || !x.moves.isEmpty then .stall s
    else match coreRead s c.toNat a (8 * m) 2 with
      | (s1, .wait) => .stall s1
      | (s1, .trap t) => .trap s1 t false false
      | (_, .ok s1 bs) =>
        let xs := candidates bs m true 0
        finishDraw s1 c.toNat rd.toNat tau xs (weightsOf xs (bitNat b 8) tau) (topP (fieldNat b 32 32)))

/-! ### The entropy source (R281, R282) -/

/-- Write what a key request made of its record's generator bytes, where the record's unit is up, and set its event. -/
def finishKey (s : State) (k : KeyReq) (off : Nat) (bs : List Byte) : State :=
  let s1 := if structUp s k.record then (writeUnits s (k.record + off) bs 3 none).1 else s
  if takesEvents s1 k.core then signalEvent s1 k.core k.event else s1

/-- Every queued request completes without a key: gs, and its event. -/
def failKeys (s : State) (gs : Nat) : State :=
  s.keys.foldl (fun s k => finishKey s k 56 (natLe 8 (setFieldNat (rdNat s (k.record + 56) 8) 0 2 gs))) { s with keys := [] }

/-- A conditioned key completes the oldest request; it is whatever the source produced (log entry 5). -/
def execEntropyKeyReady (s : State) : Host.Outcome State Fault Refusal :=
  .next (match s.ent, s.keys with
    | .ready, k :: r =>
      let key := Config.entropyKey s.freeN % 2 ^ 128
      let s1 := addRegField (takeFree { s with keys := r }) oEntCnt 0 32 1
      finishKey s1 k 32 (natLe 16 key ++ natLe 8 0 ++ natLe 8 5)
    | _, _ => s)

/-- The start-up tests have passed. -/
def execEntropyStartupComplete (s : State) : Host.Outcome State Fault Refusal :=
  .next (if s.ent = .startUp then { s with ent := .ready } else s)

/-- A health test fails, the adaptive proportion test or the repetition count test (R281). -/
def execEntropyTestFailure (apt : Bool) (s : State) : Host.Outcome State Fault Refusal :=
  .next (if s.ent = .startUp || s.ent = .ready then
      let s1 := addRegField (setRegField { s with ent := .failed } oEntStat (if apt then 4 else 3) 1 1) oEntCnt 32 32 1
      ledger (failKeys s1 3) 0x0901 sevError none 0 []
    else s)

/-- ENT_CTL.restart: from failed, start-up (Table 8.14). -/
def entRestart (s : State) : State := if s.ent = .failed then { s with ent := .startUp } else s

/-- ENT_CTL.en (R281, Table 8.14). -/
def entEnable (s : State) (en : Bool) : State :=
  let s1 := setRegField s oEntCtl 0 1 en.toNat
  if en then (if s1.ent = .off then { s1 with ent := .startUp } else s1) else failKeys { s1 with ent := .off } 0

/-- A write of ENT_CTL.restart. -/
def execEntropyRestart (r : Req) (s : State) : Host.Outcome State Fault Refusal := .next (regWrite s r oEntCtl entRestart)
/-- A write of ENT_CTL.en. -/
def execEntropyEnableWrite (r : Req) (en : Bool) (s : State) : Host.Outcome State Fault Refusal :=
  .next (regWrite s r oEntCtl fun s => entEnable s en)

end Sys2Proof.Machine
end

