-- ==== Sys2Proof/Machine/ControlSpace.lean ====
section
/-! DEFINITION. What a write of each register of the control space does (R8, R507 to R513; the register tables of every
chapter): the triggers act, the plain registers take the bits that are writable. -/

namespace Sys2Proof.Machine

/-- Hold the writable bits of a word that has no reserved bits of its own to keep. -/
def holdBits (s : State) (off mask : Nat) (w : Word) : State := setReg s off (masked mask (getReg s off) w)
/-- Clear the w1c bits of a mask that a write has set. -/
def clearBits (s : State) (off mask : Nat) (w : Word) : State := setReg s off (getReg s off &&& ~~~(w &&& word mask))

/-- DEV (Tables 8.6 to 8.9, 14.8, 15.9, 17.5 to 17.7). -/
def writeDev (s : State) (o : Nat) (w : Word) : State :=
  let d := (o - 0x8000) / 0x400
  let r := o % 0x400
  let p := (r - 0x100) / 0x20
  if o = 0x10 then clearBits s oDevStat 0x40 w
  else if o = 0x20 then holdBits s o 0x11F w
  else if o = 0x28 then setReg s o w
  else if o = 0x9000 then
    if fieldNat w.toNat 16 16 = 0xA5C3 && w.getLsbD 0 then dieRequest s (fieldNat w.toNat 4 2) else s
  else if 0x8000 ≤ o && o < 0x9000 then
    if r = 0 then holdBits s o 0x11F w
    else if r = 8 then clearBits s o 0xFFFF_0000 w
    else if r < 0x100 then s
    else match r % 0x20 with
      | 0x00 => holdBits s o (2 ^ 48 - 64) w
      | 0x08 => remRctl s d p w
      | 0x18 => remTail s d p w
      | _ => s
  else if 0xA000 ≤ o && o < 0xA800 then
    if o % 0x80 = 0 then boxStart s ((o - 0xA000) / 0x80) w
    else if 0x10 ≤ o % 0x80 && o % 0x80 < 0x30 then setReg s o w else s
  else s

/-- The rings and aperture of a function, and the MSI-X tables (Tables 10.6, 10.8, R347). -/
def writeHif (s : State) (host : Bool) (o : Nat) (w : Word) : State :=
  let f := o / 0x400
  let k := (o % 0x400 - 0x40) / 0x40
  if 0x8000 ≤ o then
    if 0xA000 ≤ o then s
    else if o % 16 = 0 then setReg s (0x10000 + o) w
    else msixPending (holdBits s (0x10000 + o) 0x1_FFFF_FFFF w) ((o - 0x8000) / 0x200)
  else if o % 0x400 = 8 then holdBits s (oApbase f) (2 ^ 48 - 2 ^ 30) w
  else if o % 0x400 < 0x40 then s
  else match o % 0x40 with
    | 0x00 => holdBits s (oCrBase f k) (2 ^ 64 - 4096) w
    | 0x08 => crCtlWrite s host f k w
    | 0x10 => crTailWrite s f k w
    | 0x20 => holdBits s (oCcBase f k) (2 ^ 64 - 4096) w
    | 0x28 => holdBits s (oCcHead f k) 0xFFF w
    | _ => s

/-- A partition's registers (Tables 10.9 to 10.11, R11). -/
def writePart (s : State) (o : Nat) (w : Word) : State :=
  let p := o / 0x100
  let r := o % 0x100
  if r = 0x80 then (if w.getLsbD 0 then commitLayout s p else s)
  else if r = 0x88 then clearBits s (oPartStat p) 0x200 w
  else
    let i := r % 0x40 / 8
    let s1 := setReg s (0x20000 + o) (w &&& BitVec.ofNat 64 (partMask i))
    halfWritten s1 (oPart p i) (decide (0x40 ≤ r)) (partPairOk s1 p i)

/-- HM (Tables 11.5 to 11.7). -/
def writeHm (s : State) (o : Nat) (w : Word) : State :=
  match o with
  | 0x10 => epochWrite s false w
  | 0x18 => epochWrite s true w
  | 0x20 => hmCtlWrite s w
  | 0x28 => if w.getLsbD 4 then modHm s fun m => { m with bigBack := false } else s
  | 0x30 => setReg s oHmFreq (word (twos 32 (freqPpb w)))
  | _ => s

/-- PWR (Tables 12.10 to 12.13). -/
def writePwr (s : State) (o : Nat) (w : Word) : State :=
  match o with
  | 0x00 => pwrLimitWrite s false w
  | 0x08 => pwrLimitWrite s true w
  | 0x10 => pwrTlimWrite s false w
  | 0x18 => pwrTlimWrite s true w
  | 0x20 => holdBits s oPwrCtl 0xFF_FFFF_06FF w
  | _ => s

/-- TAL (Table 15.10). -/
def writeTal (s : State) (o : Nat) (w : Word) : State :=
  match o with
  | 0x00 => holdBits s oTalCtl 0xFFF_0001 w
  | 0x08 => clearBits s oTalStat 0x3_0000 w
  | 0x18 => tallyAck s w
  | 0x28 => holdBits s oTalWbase 7 w
  | 0x200 => holdBits s oTalJidx 0x3FF w
  | _ => s

/-- LDG (Table 15.5). -/
def writeLdg (s : State) (o : Nat) (w : Word) : State :=
  match o with
  | 0x00 => holdBits s oLdgCtl 1 w
  | 0x18 => ledgerAck s w
  | 0x20 => ledgerHold s w
  | 0x28 => holdBits s oLdgWbase 7 w
  | _ => if 0x40 ≤ o && o < 0x68 then holdBits s (0x70000 + o) 0xFF_FFFF_FFFF w else s

/-- ASY (Tables 13.10 to 13.13, 14.8): the restart of ASY_CTL is WARM_START, which names what the start finds. -/
def writeAsy (s : State) (o : Nat) (w : Word) : State :=
  match o with
  | 0x00 => if fieldNat w.toNat 16 16 ≠ 0xA5C3 || w.getLsbD 0 then s else maintWrite s (w.getLsbD 1)
  | 0x08 => clearBits s oAsyStat 0x80 w
  | 0x10 => bootWrite s w
  | 0x28 => holdBits s oAsyLidx 0xFFF w
  | 0x100 => retireObverse s w
  | 0x108 => retireSubmit s w
  | _ => s

/-- CLR (Tables 10.12, 10.13, 10.15). -/
def writeClr (s : State) (o : Nat) (w : Word) : State :=
  if o = 0 then holdBits s oClrNode 0xFFF w
  else if o = 8 then holdBits s oClrCtl 0x3F_FFFF_FFFF w
  else if 0x100 ≤ o && o < 0x200 then (if o % 0x20 = 8 then portCtl s ((o - 0x100) / 0x20) (w.toNat % 4) else s)
  else if 0x1000 ≤ o && o < 0x2000 then setReg s (0xA0000 + o) w
  else if 0x2000 ≤ o then
    let n := (o - 0x2000) / 0x20
    match o % 0x20 with
    | 0x00 => holdBits s (0xA0000 + o) (2 ^ 48 - 64) w
    | 0x08 => holdBits s (0xA0000 + o) 0x1F w
    | 0x10 => clrTailWrite s (n / 4) (n % 4) w
    | _ => s
  else s

/-- ENT (Tables 8.14, 8.15): restart, then en. -/
def writeEnt (s : State) (o : Nat) (w : Word) : State :=
  match o with
  | 0x00 => entEnable (if w.getLsbD 1 then entRestart s else s) (w.getLsbD 0)
  | 0x08 => clearBits s oEntStat 0x18 w
  | _ => s

/-- DBG (Tables 16.13, 16.14). -/
def writeDbg (s : State) (q : Req) (o : Nat) (w : Word) : State :=
  match o with
  | 0x0000 => freezeWrite s q w
  | 0x2000 => holdBits s oHangCtl 0xFFFF_0001 w
  | 0x2010 => holdBits s oHangBuf (2 ^ 48 - 64) w
  | 0x2018 => holdBits s oHangLen (2 ^ 32 - 1) w
  | 0x3000 =>
    let s1 := holdBits s oLagCtl 0xFFFF_FF01 w
    if w.getLsbD 0 then s1 else (allClusters s1).foldl (fun s k => modCl s k fun x => { x with lag := false }) s1
  | _ => s

/-- A CL block (Tables 4.10, 12.15, 14.8, 16.9, 16.13). -/
def writeCl (s : State) (q : Req) (k o : Nat) (w : Word) : State :=
  match o with
  | 0x300 => clusterRstWrite s k w
  | 0x308 => if w.getLsbD 8 then modCl s k fun x => { x with rej := false } else s
  | 0x500 => traceCtl s q k w
  | 0x528 => modCl s k fun x => { x with sw0 := w }
  | 0x530 => softwareRecord s q k w
  | _ => holdBits s (clBase k + o) (clMask o) w

/-- CO_KFRAME (Table 7.14). -/
def kframeWrite (s : State) (c : Nat) (w : Word) : State :=
  match w.toNat / 2 ^ 62 with
  | 1 => kframe s c true w
  | 2 => kframe s c false w
  | _ => s

/-- A CO block (Tables 3.15, 3.16, 5.8 to 5.16, 7.11, R481). -/
def writeCo (s : State) (c o : Nat) (w : Word) : State :=
  if 0x180 ≤ o && o < 0x1C0 then regionWrite s c ((o - 0x180) / 8) w
  else match o with
    | 0x000 => ctlWrite s c w
    | 0x020 => ctlEvent s c w
    | 0x108 => clearBits s (oVstat c) 4 w
    | 0x130 => if w.getLsbD 0 then tierFlush s c else s
    | 0x210 => kframeWrite s c w
    | 0x2E0 => if w.getLsbD 8 then popMessage s c else s
    | _ => holdBits s (coBase c + o) (coMask o) w

/-- The effect of a write of a register on the device, by block; counters first, which every block may hold. -/
def writeServed (s : State) (q : Req) (off : Nat) (w : Word) : State :=
  let host := match q with
    | .host _ => true
    | _ => false
  match counterAt s off false, counterAt s off true, blockOf off with
  | some k, _, _ => selectWrite s k w
  | none, some k, _ => countWrite s k w
  | none, none, .dev b o => match b with
    | 0x0 => writeDev s o w
    | 0x1 => writeHif s host o w
    | 0x2 => writePart s o w
    | 0x4 => writeHm s o w
    | 0x5 => writePwr s o w
    | 0x6 => writeTal s o w
    | 0x7 => writeLdg s o w
    | 0x8 => writeAsy s o w
    | 0xA => writeClr s o w
    | 0xB => if o = 0 then holdBits s oSeamCtl 0xF w else s
    | 0xC => writeEnt s o w
    | 0xD => writeDbg s q o w
    | _ => s
  | none, none, .cl k o => writeCl s q k o w
  | none, none, .co c o => writeCo s c o w
  | none, none, .reserved => s

/-- A core's control-space store takes effect; its view was checked at issue (R507, R510). -/
def writeControl (s : State) (q : Req) (off : Nat) (w : Word) : State :=
  if !isReg off || (byFirmware off && s.comp.state ≠ .firmware) then s else writeServed s q off w

/-- REGISTER_WRITE: a write of one aligned word; another host write is discarded and recorded (R507, R512). -/
def execRegisterWrite (r : Req) (off : BitVec 26) (w : Word) (s : State) : Host.Outcome State Fault Refusal :=
  .next (if off.toNat % 8 ≠ 0 then
      (if inFlr s r then abortBar0 s r else refuseBar0 s r true false off.toNat)
    else regWrite s r off.toNat fun s => writeServed s r off.toNat w)

end Sys2Proof.Machine
end

