-- ==== Sys2Proof/Machine/Vector.lean ====
section
/-! DEFINITION. The vector instructions (R67 to R76): VLD and VST, lane arithmetic, reductions, permutation, rotation,
conversion. -/

namespace Sys2Proof.Machine

/-! ### VLD and VST (R68) -/

/-- The transfer sizes of VLD and VST by sub: a vector, a descriptor, a predicate register (Table 3.9). -/
def vmSize (sub : Nat) : Nat := if sub = 0 then 128 else if sub = 1 then 32 else 16

/-- Whether sub or the register number is illegal (R60, R68). -/
def vmIllegal (reg sub : Nat) : Bool := decide (2 < sub) || (sub == 1 && decide (15 < reg)) || (sub == 2 && decide (7 < reg))

/-- The address of VLD and VST: ga + offset × size. -/
def vmAddr (x : CoreSt) (ga : Nat) (off : BitVec 12) (sub : Nat) : Word :=
  gpr x ga + sext off * BitVec.ofNat 64 (vmSize sub)

/-- Whether the address faults: misaligned, outside the local-store range, or outside the partition (R63, R68). -/
def vmFault (s : State) (c a n : Nat) : Bool :=
  a % n != 0 || !(match placeOf a with
    | .ls _ _ => true
    | _ => false) || !inOwnPartition s c a

/-- Write what VLD brings into its register. -/
def vmWrite (x : CoreSt) (reg sub : Nat) (bs : List Byte) : CoreSt :=
  if sub = 0 then setVreg x reg (BitVec.ofNat 1024 (leNat bs))
  else if sub = 1 then setDreg x reg (BitVec.ofNat 256 (leNat bs))
  else setPreg x reg (BitVec.ofNat 128 (leNat bs))

/-- The bytes that VST stores. -/
def vmRead (x : CoreSt) (reg sub : Nat) : List Byte :=
  if sub = 0 then natLe 128 (vreg x reg).toNat
  else if sub = 1 then natLe 32 (dreg x reg).toNat
  else natLe 16 (preg x reg).toNat

/-- VLD (R68). -/
def execVld (c : CoreId) (reg : BitVec 5) (ga : GReg) (off : BitVec 12) (sub : BitVec 4) (s : State) :
    Host.Outcome State Fault Refusal :=
  let n := vmSize sub.toNat
  .next (issue s c.toNat ⟨4, [ga.toNat], false⟩ (raSkip 4) fun s =>
    let x := getCore s c.toNat
    let a := (vmAddr x ga.toNat off sub.toNat).toNat
    if vmIllegal reg.toNat sub.toNat then illegal s (encVm 0x10 reg.toNat ga.toNat off.toNat sub.toNat)
    else if vmFault s c.toNat a n then .at s 4 0 a
    else if movesMeet x.moves a n then .stall s
    else match forward x a n with
      | .part => .stall s
      | .hit bs => .go (modCore s c.toNat fun x => vmWrite x reg.toNat sub.toNat bs)
      | .miss => match coreRead s c.toNat a n 2 with
        | (s1, .wait) => .stall s1
        | (s1, .trap t) => .trap s1 (if t.code = 3 then t else { t with val := a }) false false
        | (_, .ok s1 bs) => .go (modCore s1 c.toNat fun x => vmWrite x reg.toNat sub.toNat bs))

/-- VST: an entry of the store buffer (R68, R79). -/
def execVst (c : CoreId) (reg : BitVec 5) (ga : GReg) (off : BitVec 12) (sub : BitVec 4) (s : State) :
    Host.Outcome State Fault Refusal :=
  let n := vmSize sub.toNat
  .next (issue s c.toNat ⟨4, [ga.toNat], true⟩ (raSkip 4) fun s =>
    let x := getCore s c.toNat
    let a := (vmAddr x ga.toNat off sub.toNat).toNat
    if vmIllegal reg.toNat sub.toNat then illegal s (encVm 0x11 reg.toNat ga.toNat off.toNat sub.toNat)
    else if vmFault s c.toNat a n then .at s 4 0 a
    else match bufferStore x a (vmRead x reg.toNat sub.toNat) false false with
      | none => .stall s
      | some y => .go (setCore s c.toNat y))

/-! ### Lanes under a predicate (R57, R67) -/

/-- The lanes of vd after an instruction that computes lane i with f (code and flags) where predicate pk is 1. -/
def mapLanes (x : CoreSt) (vd pk w : Nat) (f : Nat → Nat × Nat) : CoreSt :=
  let p := preg x pk
  let old := vreg x vd
  let rs := (List.range (1024 / w)).map fun i => if p.getLsbD i then f i else (laneOf w old i, 0)
  setFlags (setVreg x vd (ofLanes w (rs.map (·.1)))) (orFlags (rs.map (·.2)))

/-- A vector instruction of fmt 0x0 to 0x2 (R67): any other format takes trap 0x0C. -/
def vecOp (s : State) (c fmt : Nat) (f : CoreSt → Nat → CoreSt) : State :=
  issue s c ⟨4, [], false⟩ (raSkip 4) fun s =>
    match vecWidth fmt with
    | none => .at s 0xC 0 fmt
    | some w => .go (modCore s c fun x => f x w)

/-- VADD (R53). -/
def execVadd (c : CoreId) (vd va vb : VReg) (pk : PReg) (fmt : BitVec 4) (s : State) :
    Host.Outcome State Fault Refusal :=
  .next (vecOp s c.toNat fmt.toNat fun x w => mapLanes x vd.toNat pk.toNat w fun i =>
    addLane fmt.toNat (rmOf x) (ftzOf x) (laneOf w (vreg x va.toNat) i) (laneOf w (vreg x vb.toNat) i))
/-- VMUL (R53). -/
def execVmul (c : CoreId) (vd va vb : VReg) (pk : PReg) (fmt : BitVec 4) (s : State) :
    Host.Outcome State Fault Refusal :=
  .next (vecOp s c.toNat fmt.toNat fun x w => mapLanes x vd.toNat pk.toNat w fun i =>
    mulLane fmt.toNat (rmOf x) (ftzOf x) (laneOf w (vreg x va.toNat) i) (laneOf w (vreg x vb.toNat) i))
/-- VFMA: va × vb + vd with one rounding (R53). -/
def execVfma (c : CoreId) (vd va vb : VReg) (pk : PReg) (fmt : BitVec 4) (s : State) :
    Host.Outcome State Fault Refusal :=
  .next (vecOp s c.toNat fmt.toNat fun x w => mapLanes x vd.toNat pk.toNat w fun i =>
    fmaLane fmt.toNat (rmOf x) (ftzOf x) (laneOf w (vreg x va.toNat) i) (laneOf w (vreg x vb.toNat) i)
      (laneOf w (vreg x vd.toNat) i))

/-- The predicate that the compare form of VMAX writes: bit i is 1 where lane i was taken from va (R69); no bit stands
beyond the lanes (DEDUCED, log entry 23). -/
def maxPred (x : CoreSt) (va vb pk fmt w : Nat) : BitVec 128 :=
  let p := preg x pk
  BitVec.ofNat 128 ((List.range (1024 / w)).foldr (fun i a => a * 2 +
    (p.getLsbD i && (maxLane fmt (laneOf w (vreg x va) i) (laneOf w (vreg x vb) i)).2.1).toNat) 0)

/-- VMAX, and its compare form, which also writes a predicate register (R53, R69). -/
def execVmax (c : CoreId) (vd va vb : VReg) (pk : PReg) (fmt : BitVec 4) (cmp : Option PReg) (s : State) :
    Host.Outcome State Fault Refusal :=
  let sub := match cmp with
    | none => 2
    | some p => 8 + p.toNat
  .next (issue s c.toNat ⟨4, [], false⟩ (raSkip 4) fun s =>
    if cmp = some 0 then illegal s (encV 0x12 vd.toNat va.toNat vb.toNat pk.toNat fmt.toNat sub)
    else match vecWidth fmt.toNat with
    | none => .at s 0xC 0 fmt.toNat
    | some w => .go (modCore s c.toNat fun x =>
      let y := mapLanes x vd.toNat pk.toNat w fun i =>
        let r := maxLane fmt.toNat (laneOf w (vreg x va.toNat) i) (laneOf w (vreg x vb.toNat) i)
        (r.1, r.2.2)
      match cmp with
      | none => y
      | some p => setPreg y p.toNat (maxPred x va.toNat vb.toNat pk.toNat fmt.toNat w)))

/-- A function of one lane; a vb that is not zero is a reserved field in use (Table 3.9). -/
def vecUnary (s : State) (c vd va vb pk fmt sub : Nat) (f : Nat → Bool → Nat → Nat × Nat) : State :=
  issue s c ⟨4, [], false⟩ (raSkip 4) fun s =>
    if vb ≠ 0 then illegal s (encV 0x14 vd va vb pk fmt sub)
    else match vecWidth fmt with
    | none => .at s 0xC 0 fmt
    | some w => .go (modCore s c fun x => mapLanes x vd pk w fun i => f (rmCode x) (ftzOf x) (laneOf w (vreg x va) i))

/-- VEXP: e^x within 2 ulp (R53). -/
def execVexp (c : CoreId) (vd va vb : VReg) (pk : PReg) (fmt : BitVec 4) (s : State) :
    Host.Outcome State Fault Refusal :=
  .next (vecUnary s c.toNat vd.toNat va.toNat vb.toNat pk.toNat fmt.toNat 0 (expLane fmt.toNat))
/-- VRSQ: 1 / √x within 1 ulp (R53). -/
def execVrsq (c : CoreId) (vd va vb : VReg) (pk : PReg) (fmt : BitVec 4) (s : State) :
    Host.Outcome State Fault Refusal :=
  .next (vecUnary s c.toNat vd.toNat va.toNat vb.toNat pk.toNat fmt.toNat 1 (rsqLane fmt.toNat))

/-! ### Reductions (R53, R70) -/

/-- One level of the fixed tree: pairs (0, 1), (2, 3) and so on, with the flags met. -/
def treeLevel (f : Nat → Nat → Nat × Nat) : List Nat → List Nat × Nat
  | a :: b :: r =>
    let x := f a b
    let rest := treeLevel f r
    (x.1 :: rest.1, x.2 ||| rest.2)
  | l => (l, 0)

/-- The tree of n levels. -/
def treeReduce (f : Nat → Nat → Nat × Nat) : Nat → List Nat → Nat → Nat × Nat
  | 0, ls, fl => (ls.headD 0, fl)
  | n + 1, ls, fl =>
    let l := treeLevel f ls
    treeReduce f n l.1 (fl ||| l.2)

/-- A reduction: the active lanes, off for the others; lane 0 takes the result and every other lane zero. -/
def reduceLanes (x : CoreSt) (vd va pk w off : Nat) (f : Nat → Nat → Nat × Nat) : CoreSt :=
  let p := preg x pk
  let ls := (List.range (1024 / w)).map fun i => if p.getLsbD i then laneOf w (vreg x va) i else off
  let r := treeReduce f (if w = 32 then 5 else 6) ls 0
  setFlags (setVreg x vd (BitVec.ofNat 1024 r.1)) r.2

/-- VRED, sum form: a lane predicated off enters as -0 (R70). -/
def execVredSum (c : CoreId) (vd va : VReg) (pk : PReg) (fmt : BitVec 4) (s : State) :
    Host.Outcome State Fault Refusal :=
  .next (vecOp s c.toNat fmt.toNat fun x w =>
    reduceLanes x vd.toNat va.toNat pk.toNat w (signBit (floatFmt fmt.toNat) true)
      (addLane fmt.toNat (rmOf x) (ftzOf x)))
/-- VRED, maximum form: a lane predicated off enters as -∞ (R70). -/
def execVredMax (c : CoreId) (vd va : VReg) (pk : PReg) (fmt : BitVec 4) (s : State) :
    Host.Outcome State Fault Refusal :=
  .next (vecOp s c.toNat fmt.toNat fun x w =>
    reduceLanes x vd.toNat va.toNat pk.toNat w (infCode (floatFmt fmt.toNat) true) fun a b =>
      let r := maxLane fmt.toNat a b
      (r.1, r.2.2))

/-! ### Permutation and rotation (R71, R72) -/

/-- The lane width of VPERM (Table 3.11). -/
def permWidth (fmt : Nat) : Option Nat :=
  if fmt = 0 then some 32 else if fmt = 1 || fmt = 2 then some 16
  else if fmt = 3 || fmt = 4 || fmt = 8 then some 8 else none

/-- VPERM: lane i takes the lane of va that vb lane i names, or zero when its top bit is 1 (R71). -/
def execVperm (c : CoreId) (vd va vb : VReg) (pk : PReg) (fmt : BitVec 4) (s : State) :
    Host.Outcome State Fault Refusal :=
  .next (issue s c.toNat ⟨4, [], false⟩ (raSkip 4) fun s =>
    match permWidth fmt.toNat with
    | none => .at s 0xC 0 fmt.toNat
    | some w => .go (modCore s c.toNat fun x => mapLanes x vd.toNat pk.toNat w fun i =>
      let k := laneOf w (vreg x vb.toNat) i
      (if bitNat k (w - 1) then 0 else laneOf w (vreg x va.toNat) (k % (1024 / w)), 0)))

/-- One rotated coordinate: a × b + c × d formed exactly and rounded once, c × d negated when asked (R72). -/
def rotLane (fmt : Nat) (rm : Rounding) (neg : Bool) (a b c d : Nat) : Nat × Nat :=
  let f := floatFmt fmt
  let p := mulNum (decodeFloat f a) (decodeFloat f b)
  let q := mulNum (decodeFloat f c) (decodeFloat f d)
  let r := addNum rm p.1 (if neg then q.1.neg else q.1)
  finishLane f rm false (r.1, p.2 ||| q.2 ||| r.2)

/-- VROPE: pairs of lanes rotated, adjacent or half apart; the predicate of the first lane governs both (R72). -/
def execVrope (c : CoreId) (vd va vb : VReg) (pk : PReg) (fmt : BitVec 4) (half : Bool) (s : State) :
    Host.Outcome State Fault Refusal :=
  .next (vecOp s c.toNat fmt.toNat fun x w =>
    let n := 1024 / w
    let first := fun i => if half then i % (n / 2) else i / 2 * 2
    let second := fun i => if half then i % (n / 2) + n / 2 else i / 2 * 2 + 1
    let p := preg x pk.toNat
    let a := vreg x va.toNat
    let b := vreg x vb.toNat
    let rs := (List.range n).map fun i =>
      let (j, k) := (first i, second i)
      if !p.getLsbD j then (laneOf w (vreg x vd.toNat) i, 0)
      else if i = j then rotLane fmt.toNat (rmOf x) true (laneOf w a j) (laneOf w b j) (laneOf w a k) (laneOf w b k)
      else rotLane fmt.toNat (rmOf x) false (laneOf w a j) (laneOf w b k) (laneOf w a k) (laneOf w b j)
    setFlags (setVreg x vd.toNat (ofLanes w (rs.map (·.1)))) (orFlags (rs.map (·.2))))

/-! ### VCVT (R73 to R76) -/

/-- Whether VCVT accepts a format code (R73). -/
def cvtFormat (f : Nat) : Bool := decide (f ≤ 0xB) || f == 0xE

/-- Registers of a group of n elements (R74). -/
def groupLen (fmt n : Nat) : Nat := (n + elemsPerReg fmt - 1) / elemsPerReg fmt

/-- Whether the groups of a VCVT break R74. -/
def cvtGroups (vd va vs vt src dst n : Nat) : Bool :=
  let gs := groupLen src n
  let gd := groupLen dst n
  let inS := fun r => decide (va ≤ r) && decide (r < va + gs)
  let inD := fun r => decide (vd ≤ r) && decide (r < vd + gd)
  decide (32 < va + gs) || decide (32 < vd + gd) || (List.range 32).any (fun r => inS r && inD r) ||
    (blockLen src != 0 && (inS vs || inD vs)) || (blockLen dst != 0 && (inS vt || inD vt))

/-- Draw i of a generator: 16 bits of output block i / 8 (R44). -/
def drawAt (key counter i : Nat) : Nat :=
  let ws := philox key ((counter + i / 8) % 2 ^ 64)
  fieldNat (ws.getD (i % 8 / 2) 0) (16 * (i % 2)) 16

/-- The source elements of a VCVT as exact FP32 values, with the flags of their decoding (R45, R39, R35). -/
def cvtSource (x : CoreSt) (va vs src n : Nat) : List Num × Nat :=
  let scales := (vreg x vs).toNat
  let per := elemsPerReg src
  let bl := blockLen src
  let es := (List.range n).map fun i =>
    let code := elemAt src (vreg x (va + i / per)).toNat (i % per)
    let sc := if bl = 0 then 0 else fieldNat scales (8 * scaleBytes src * (i / bl)) (8 * scaleBytes src)
    decode32 src code sc
  (es.map (·.1), orFlags (es.map (·.2)))

/-- Write the destination group and its scales (R39, R74). -/
def cvtWrite (x : CoreSt) (vd vt dst : Nat) (codes scales : List Nat) : CoreSt :=
  let y := (groupsOf (elemsPerReg dst) codes).zipIdx.foldl (fun x (g, i) =>
    setVreg x (vd + i) (BitVec.ofNat 1024 (packElems dst g))) x
  if blockLen dst = 0 then y
  else setVreg y vt (BitVec.ofNat 1024 (scales.foldr (fun c a => a * 2 ^ (8 * scaleBytes dst) + c) 0))

/-- VCVT (R73 to R76): N = n1 + 1 elements. An N above 256 takes trap 0x01 (DEDUCED, log entry 24). -/
def execVcvt (c : CoreId) (vd va vs vt : VReg) (src dst : BitVec 4) (n1 : BitVec 9) (s : State) :
    Host.Outcome State Fault Refusal :=
  let n := n1.toNat + 1
  let sf := src.toNat
  let df := dst.toNat
  let word := encLong 0x17 (fourRegs vd.toNat va.toNat vs.toNat vt.toNat)
  .next (issue s c.toNat ⟨8, [], false⟩ (raSkip 8) fun s =>
    let x := getCore s c.toNat
    let stoch := rmCode x == 4
    if !cvtFormat sf then .at s 0xC 0 sf
    else if !cvtFormat df then .at s 0xC 0 df
    else if 256 < n then illegal s word
    else if cvtGroups vd.toNat va.toNat vs.toNat vt.toNat sf df n then illegal s word
    else if blockLen sf ≠ 0 && n % blockLen sf ≠ 0 then .at s 0xC 0 sf
    else if blockLen df ≠ 0 && n % blockLen df ≠ 0 then .at s 0xC 0 df
    else if stoch && x.bind.isNone then .at s 0xC 0 df
    else
      let (xs, f1) := cvtSource x va.toNat vs.toNat sf n
      let rm : Nat → Rounding := match stoch, x.bind with
        | true, some b => fun i => .draw (drawAt b.key b.counter i)
        | _, _ => fun _ => rmOf x
      let (codes, scales, f2) := encodeList df (e4satOf x) (e5satOf x) rm xs
      let bad := sf == 0xA && tqInvalid (vreg x va.toNat).toNat n
      let y := setFlags (cvtWrite x vd.toNat vt.toNat df codes scales) (f1 ||| f2 ||| (if bad then flagFe else 0))
      let z := if stoch then { y with bind := y.bind.map fun b => { b with
        counter := (b.counter + (n + 7) / 8) % 2 ^ 64 } } else y
      let s1 := bump (setCore s c.toNat z) 0x08 6 (if stoch then (n + 7) / 8 else 0) (.core c.toNat)
      if bad && feTrapOf x then .trapNext s1 ⟨0xC, 0, 0xA⟩ else .go s1)

end Sys2Proof.Machine
end

