-- ==== Sys2Proof/Machine/LoadStore.lean ====
section
/-! DEFINITION. Scalar loads and stores (R63, R65, R77 to R84, R507, R508, R511): what is checked at issue, the reply of a
load, the draining of the store buffer and the failures of stores. -/

namespace Sys2Proof.Machine

/-! ### Addresses -/

/-- The address of a scalar load or store: ra + offset (Table 3.8). -/
def mAddr (x : CoreSt) (ra : Nat) (off : BitVec 14) : Nat := (gpr x ra + sext off).toNat

/-- The registers of a core as a load finds them. -/
def snapshotOf (x : CoreSt) : Snapshot := ⟨x.g, x.v, x.p, x.d, getCw x 7, x.pc, x.bind⟩

/-- The word of some bytes, sign-extended (Table 3.8). -/
def signedWord (bs : List Byte) : Word :=
  BitVec.ofInt 64 (BitVec.ofNat (8 * bs.length) (leNat bs)).toInt

/-! ### Loads -/

/-- Hold the reply of a load until it returns. -/
def holdLoad (s : State) (c rd a : Nat) (reply : Word ⊕ TrapInfo) : Eff :=
  .go (modCore s c fun x => { x with loads := x.loads ++ [⟨rd, reply, a, snapshotOf x, elapsed s⟩] })

/-- A load of the control space (R507, R508, R511): task level has no view; it waits until every older store has taken
effect and every older load has returned; only LDD clears rc fields. -/
def loadControl (s : State) (c rd a n word_ : Nat) : Eff :=
  let o := a - ctlAddr
  let q : Req := .core (BitVec.ofNat 12 c)
  if atTask (getCore s c) then privileged s word_
  else if a % n ≠ 0 || n < 4 then .at s 4 0 a
  else match standing s q (o / 8 * 8) false with
    | .outside _ => .at s 4 0 a
    | _ =>
      if !(getCore s c).buf.isEmpty || !(getCore s c).loads.isEmpty then .stall s
      else
        let w := readReg s q (o / 8 * 8)
        if n = 8 then holdLoad (clearRc s o) c rd a (.inl w)
        else holdLoad s c rd a (.inl (signedWord (natLe 4 (w.toNat / 2 ^ (8 * (o % 8))))))

/-- A load of memory (R63, R65, R79, R84); one that needs its own vein stalls while the own-request queue is full
(R153). -/
def loadMemory (s : State) (c rd a n : Nat) : Eff :=
  let x := getCore s c
  if a % n ≠ 0 || !inOwnPartition s c a then .at s 4 0 a
  else if movesMeet x.moves a n then .stall s
  else match forward x a n with
    | .part => .stall s
    | .hit bs => holdLoad s c rd a (.inl (signedWord bs))
    | .miss => match prefHit x a n with
      | some bs => holdLoad (bumpCore s 0x03 6 c) c rd a (.inl (signedWord bs))
      | none => if ownFull s c a then .stall s else match coreRead s c a n 2 with
        | (s1, .wait) => .stall s1
        | (s1, .trap t) => if t.code = 4 then .at s1 4 0 a else holdLoad s1 c rd a (.inr { t with val := a })
        | (_, .ok s1 bs) => holdLoad s1 c rd a (.inl (signedWord bs))

/-- A load in run-ahead (R83): a local store gives its data, a vein or far address is prefetched, and everything else
leaves the destination invalid. -/
def raLoadStep (s : State) (c rd ra : Nat) (off : BitVec 14) (n : Nat) (x : CoreSt) : CoreSt :=
  match x.ra with
  | none => x
  | some r =>
    let a := mAddr x ra off
    let invalid : CoreSt → CoreSt := fun y => raStep { y with
      ra := some { r with bad := if rd = 0 then r.bad else rd :: r.bad.filter (· != rd) } } 4
    if r.bad.contains ra || a % n ≠ 0 || !inOwnPartition s c a then invalid x
    else match placeOf a, forward x a n with
      | .ls _ _, .hit bs => raStep (setGpr { x with ra := some { r with bad := r.bad.filter (· != rd) } } rd (signedWord bs)) 4
      | .ls _ _, .miss =>
        match coreRead s c a n 2 with
        | (_, .ok _ bs) =>
          raStep (setGpr { x with ra := some { r with bad := r.bad.filter (· != rd) } } rd (signedWord bs)) 4
        | _ => invalid x
      | .vein _ _, _ => invalid { x with asked := if x.asked.contains (a / 32 * 32) then x.asked else x.asked ++ [a / 32 * 32] }
      | .far _ _, _ => invalid { x with asked := if x.asked.contains (a / 32 * 32) then x.asked else x.asked ++ [a / 32 * 32] }
      | _, _ => invalid x

/-- A scalar load of 2^size bytes. -/
def load (s : State) (c rd ra : Nat) (off : BitVec 14) (size : Nat) : State :=
  issue s c ⟨4, [rd, ra], false⟩ (raLoadStep s c rd ra off (2 ^ size)) fun s =>
    let a := mAddr (getCore s c) ra off
    match placeOf a with
    | .ctl _ => loadControl s c rd a (2 ^ size) (encM 0x08 rd ra size off.toNat)
    | _ => loadMemory s c rd a (2 ^ size)

/-- LDB. -/
def execLdb (c : CoreId) (rd ra : GReg) (off : BitVec 14) (s : State) : Host.Outcome State Fault Refusal :=
  .next (load s c.toNat rd.toNat ra.toNat off 0)
/-- LDH. -/
def execLdh (c : CoreId) (rd ra : GReg) (off : BitVec 14) (s : State) : Host.Outcome State Fault Refusal :=
  .next (load s c.toNat rd.toNat ra.toNat off 1)
/-- LDW. -/
def execLdw (c : CoreId) (rd ra : GReg) (off : BitVec 14) (s : State) : Host.Outcome State Fault Refusal :=
  .next (load s c.toNat rd.toNat ra.toNat off 2)
/-- LDD. -/
def execLdd (c : CoreId) (rd ra : GReg) (off : BitVec 14) (s : State) : Host.Outcome State Fault Refusal :=
  .next (load s c.toNat rd.toNat ra.toNat off 3)

/-- Run-ahead ends when the load that stalls the core returns: the oldest on which the stalled instruction waits (R84;
DEDUCED, log entry 89). -/
def returnEndsRunAhead (x : CoreSt) (c i : Nat) : Bool := x.loads.findIdx? (stallLoad x c) == some i

/-- The i-th outstanding load of a core writes its register; younger loads' saved registers take the value, so that a
later precise trap keeps it (R65, R99). -/
def loadWrites (x : CoreSt) (c i : Nat) (l : OutLoad) (w : Word) : CoreSt :=
  let y := if returnEndsRunAhead x c i then leaveRunAhead x else x
  let z := lateGpr { y with loads := y.loads.drop (i + 1) } l.rd w
  { z with loads := x.loads.take i ++ z.loads }

/-- A load's trap is precise: the registers stand as the load found them, and what followed it is dropped (R65, R99). -/
def loadTraps (x : CoreSt) (l : OutLoad) : CoreSt :=
  let y := leaveRunAhead x
  { setCw y 7 l.snap.fstat with
    g := l.snap.g, v := l.snap.v, p := l.snap.p, d := l.snap.d, pc := l.snap.pc, bind := l.snap.bind, loads := []
    mispred := false }

/-- LOAD_RETURN: the reply of an outstanding load arrives; one that traps waits for those older than it. -/
def execLoadReturn (c : CoreId) (rd : GReg) (s : State) : Host.Outcome State Fault Refusal :=
  .next (
    let n := c.toNat
    let x := getCore s n
    match x.loads.zipIdx.find? fun e => e.1.rd == rd.toNat with
    | none => s
    | some (l, i) => match l.reply with
      | .inl w => settle (setCore s n (loadWrites x n i l w)) n
      | .inr t => if i ≠ 0 then s else settle (takeTrap (setCore s n (loadTraps x l)) n t l.snap.pc false false) n)

/-! ### Stores -/

/-- A store into the control space: STD at supervisor level, into the write view (R63, R507, R511). -/
def storeControl (s : State) (c a n word_ : Nat) (bs : List Byte) : Eff :=
  let x := getCore s c
  if atTask x then privileged s word_
  else if a % n ≠ 0 || n ≠ 8 then .at s 4 0 a
  else match standing s (.core (BitVec.ofNat 12 c)) (a - ctlAddr) true with
    | .outside _ => .at s 4 0 a
    | _ => match bufferStore x a bs false true with
      | none => .stall s
      | some y => .go (setCore s c y)

/-- A store into memory (R63, R65, R79). -/
def storeMemory (s : State) (c a n : Nat) (bs : List Byte) : Eff :=
  if a % n ≠ 0 || !inOwnPartition s c a || gate s (coreReq s c) a true == some .unmapped then .at s 4 0 a
  else match bufferStore (getCore s c) a bs true false with
    | none => .stall s
    | some y => .go (setCore s c y)

/-- A scalar store of 2^size bytes. -/
def store (s : State) (c rs ra : Nat) (off : BitVec 14) (size : Nat) : State :=
  issue s c ⟨4, [rs, ra], true⟩ (raSkip 4) fun s =>
    let x := getCore s c
    let a := mAddr x ra off
    let bs := natLe (2 ^ size) (gpr x rs).toNat
    match placeOf a with
    | .ctl _ => storeControl s c a (2 ^ size) (encM 0x09 rs ra size off.toNat) bs
    | _ => storeMemory s c a (2 ^ size) bs

/-- STB. -/
def execStb (c : CoreId) (rs ra : GReg) (off : BitVec 14) (s : State) : Host.Outcome State Fault Refusal :=
  .next (store s c.toNat rs.toNat ra.toNat off 0)
/-- STH. -/
def execSth (c : CoreId) (rs ra : GReg) (off : BitVec 14) (s : State) : Host.Outcome State Fault Refusal :=
  .next (store s c.toNat rs.toNat ra.toNat off 1)
/-- STW. -/
def execStw (c : CoreId) (rs ra : GReg) (off : BitVec 14) (s : State) : Host.Outcome State Fault Refusal :=
  .next (store s c.toNat rs.toNat ra.toNat off 2)
/-- STD. -/
def execStd (c : CoreId) (rs ra : GReg) (off : BitVec 14) (s : State) : Host.Outcome State Fault Refusal :=
  .next (store s c.toNat rs.toNat ra.toNat off 3)

/-! ### The store buffer (R79, R81) -/

/-- The runs of consecutive stored bytes of an entry: address and bytes. -/
def storeRuns (line : Nat) : Map Byte → List (Nat × List Byte)
  | [] => []
  | (i, b) :: r =>
    match storeRuns line r with
    | (a, bs) :: t => if a = line * 128 + i + 1 then (line * 128 + i, b :: bs) :: t else (line * 128 + i, [b]) :: (a, bs) :: t
    | [] => [(line * 128 + i, [b])]

/-- Where n stored bytes from an address on failed, as address, length and trap: the lost units, and what was refused
(R81, Table 14.4). -/
def runFailures (s : State) (a n : Nat) (lost : List (Nat × Nat)) (e : Option (Nat × AccRes)) :
    List (Nat × Nat × TrapInfo) :=
  lost.map (fun l => (l.1, (unitAt s l.1).size, ⟨3, l.2, l.1⟩)) ++
    e.toList.map fun f => (f.1, a + n - f.1, accessTrap f.2 f.1)

/-- Store the runs of an entry in order: none when one of them must wait; otherwise the state and where they failed. -/
def drainRuns (s : State) (c : Nat) : List (Nat × List Byte) → Option (State × List (Nat × Nat × TrapInfo))
  | [] => some (s, [])
  | (a, bs) :: r =>
    match writeRange s (coreReq s c) a (clean bs) 3 with
    | (_, _, some (_, .wait)) => none
    | (s1, lost, e) => (drainRuns s1 c r).map fun (s2, t) => (s2, runFailures s a bs.length lost e ++ t)

/-- The failures of an entry's stores, in program order, each at the address of its store (R81). -/
def storeFailures (stores : List (Nat × Nat)) (bad : List (Nat × Nat × TrapInfo)) : List TrapInfo :=
  stores.filterMap fun w => (bad.find? fun f => decide (w.1 < f.1 + f.2.1) && decide (f.1 < w.1 + w.2)).map
    fun f => { f.2.2 with val := w.1 }

/-- What the oldest entry does as it leaves; none: it waits. -/
def drainEntry (s : State) (c : Nat) (e : StoreEnt) : Option State :=
  let popped := modCore s c fun x => { x with buf := x.buf.drop 1 }
  let runs := storeRuns e.line e.bytes
  if e.control then
    match runs with
    | (a, bs) :: _ => some (writeControl popped (.core (BitVec.ofNat 12 c)) (a - ctlAddr) (word (leNat bs)))
    | [] => some popped
  else if runs.any fun r => movesMeet (getCore s c).moves r.1 r.2.length then none
  else (drainRuns popped c runs).map fun (s1, bad) => modCore s1 c fun x =>
    (storeFailures e.stores bad).foldl (fun x t => noteFailure x (some t)) x

/-- STORE_BUFFER_DRAIN: the oldest entry leaves the buffer (R79); a press command that the buffer held goes on once it is
empty (R115). -/
def execStoreBufferDrain (c : CoreId) (s : State) : Host.Outcome State Fault Refusal :=
  .next (
    let n := c.toNat
    match (getCore s n).buf with
    | [] => s
    | e :: _ =>
      if !populated s n || !dieUp s (n / 1024) || (getCl s (n / 16)).power != .on then s
      else if ownFull s n (e.line * 128) then s
      else match drainEntry s n e with
        | none => s
        | some s1 => settle (if (getCore s1 n).buf.isEmpty then pressAdvance 40 s1 (n / 16) else s1) n)

/-- STORE_FAILURE: the oldest failure reaches the core; one that finds another unreported is lost and sets more (R81). -/
def execStoreFailure (c : CoreId) (s : State) : Host.Outcome State Fault Refusal :=
  .next (
    let x := getCore s c.toNat
    match x.failed with
    | [] => s
    | t :: r => settle (setCore s c.toNat (match x.deferred with
        | none => { x with failed := r, deferred := some t }
        | some _ => { x with failed := r, more := true })) c.toNat)

end Sys2Proof.Machine
end

