-- ==== Sys2Proof/Machine/Dispatch.lean ====
section
/-! DEFINITION. exec: one arm per command, one direct call of its meaning. -/

namespace Sys2Proof.Machine

/-- The effect of a command on everything but the queue. -/
def exec (i : Instr) (s : State) : Host.Outcome State Fault Refusal :=
  match i with
  | .add c rd ra rb => Sys2Proof.Machine.execAdd c rd ra rb s
  | .sub c rd ra rb => Sys2Proof.Machine.execSub c rd ra rb s
  | .and c rd ra rb => Sys2Proof.Machine.execAnd c rd ra rb s
  | .or c rd ra rb => Sys2Proof.Machine.execOr c rd ra rb s
  | .xor c rd ra rb => Sys2Proof.Machine.execXor c rd ra rb s
  | .shl c rd ra rb => Sys2Proof.Machine.execShl c rd ra rb s
  | .shr c rd ra rb => Sys2Proof.Machine.execShr c rd ra rb s
  | .sha c rd ra rb => Sys2Proof.Machine.execSha c rd ra rb s
  | .mul c rd ra rb => Sys2Proof.Machine.execMul c rd ra rb s
  | .mulh c rd ra rb => Sys2Proof.Machine.execMulh c rd ra rb s
  | .slt c rd ra rb uns => Sys2Proof.Machine.execSlt c rd ra rb uns s
  | .sel c rd ra rb p => Sys2Proof.Machine.execSel c rd ra rb p s
  | .addImmediate c rd ra imm => Sys2Proof.Machine.execAddImmediate c rd ra imm s
  | .andImmediate c rd ra imm => Sys2Proof.Machine.execAndImmediate c rd ra imm s
  | .orImmediate c rd ra imm => Sys2Proof.Machine.execOrImmediate c rd ra imm s
  | .xorImmediate c rd ra imm => Sys2Proof.Machine.execXorImmediate c rd ra imm s
  | .sltImmediate c rd ra imm => Sys2Proof.Machine.execSltImmediate c rd ra imm s
  | .shlImmediate c rd ra amt => Sys2Proof.Machine.execShlImmediate c rd ra amt s
  | .shrImmediate c rd ra amt => Sys2Proof.Machine.execShrImmediate c rd ra amt s
  | .shaImmediate c rd ra amt => Sys2Proof.Machine.execShaImmediate c rd ra amt s
  | .li c rd hw k imm => Sys2Proof.Machine.execLi c rd hw k imm s
  | .ldb c rd ra off => Sys2Proof.Machine.execLdb c rd ra off s
  | .ldh c rd ra off => Sys2Proof.Machine.execLdh c rd ra off s
  | .ldw c rd ra off => Sys2Proof.Machine.execLdw c rd ra off s
  | .ldd c rd ra off => Sys2Proof.Machine.execLdd c rd ra off s
  | .stb c rs ra off => Sys2Proof.Machine.execStb c rs ra off s
  | .sth c rs ra off => Sys2Proof.Machine.execSth c rs ra off s
  | .stw c rs ra off => Sys2Proof.Machine.execStw c rs ra off s
  | .std c rs ra off => Sys2Proof.Machine.execStd c rs ra off s
  | .loadReturn c rd => Sys2Proof.Machine.execLoadReturn c rd s
  | .storeBufferDrain c => Sys2Proof.Machine.execStoreBufferDrain c s
  | .storeFailure c => Sys2Proof.Machine.execStoreFailure c s
  | .beq c ra rb off => Sys2Proof.Machine.execBeq c ra rb off s
  | .bne c ra rb off => Sys2Proof.Machine.execBne c ra rb off s
  | .blt c ra rb off => Sys2Proof.Machine.execBlt c ra rb off s
  | .bge c ra rb off => Sys2Proof.Machine.execBge c ra rb off s
  | .jump c off => Sys2Proof.Machine.execJump c off s
  | .call c off => Sys2Proof.Machine.execCall c off s
  | .jumpRegister c ra => Sys2Proof.Machine.execJumpRegister c ra s
  | .callRegister c ra => Sys2Proof.Machine.execCallRegister c ra s
  | .ret c => Sys2Proof.Machine.execRet c s
  | .branchMisprediction c => Sys2Proof.Machine.execBranchMisprediction c s
  | .orControlWordRead c rd cw => Sys2Proof.Machine.execOrControlWordRead c rd cw s
  | .orControlWordWrite c cw ra => Sys2Proof.Machine.execOrControlWordWrite c cw ra s
  | .vld c reg ga off sub => Sys2Proof.Machine.execVld c reg ga off sub s
  | .vst c reg ga off sub => Sys2Proof.Machine.execVst c reg ga off sub s
  | .vadd c vd va vb pk fmt => Sys2Proof.Machine.execVadd c vd va vb pk fmt s
  | .vmul c vd va vb pk fmt => Sys2Proof.Machine.execVmul c vd va vb pk fmt s
  | .vmax c vd va vb pk fmt cmp => Sys2Proof.Machine.execVmax c vd va vb pk fmt cmp s
  | .vfma c vd va vb pk fmt => Sys2Proof.Machine.execVfma c vd va vb pk fmt s
  | .vexp c vd va vb pk fmt => Sys2Proof.Machine.execVexp c vd va vb pk fmt s
  | .vrsq c vd va vb pk fmt => Sys2Proof.Machine.execVrsq c vd va vb pk fmt s
  | .vredSum c vd va pk fmt => Sys2Proof.Machine.execVredSum c vd va pk fmt s
  | .vredMax c vd va pk fmt => Sys2Proof.Machine.execVredMax c vd va pk fmt s
  | .vperm c vd va vb pk fmt => Sys2Proof.Machine.execVperm c vd va vb pk fmt s
  | .vrope c vd va vb pk fmt half => Sys2Proof.Machine.execVrope c vd va vb pk fmt half s
  | .vcvt c vd va vs vt src dst n1 => Sys2Proof.Machine.execVcvt c vd va vs vt src dst n1 s
  | .wait c rd ra rb => Sys2Proof.Machine.execWait c rd ra rb s
  | .waitTimeout c => Sys2Proof.Machine.execWaitTimeout c s
  | .fence c imm => Sys2Proof.Machine.execFence c imm s
  | .hmark c rd => Sys2Proof.Machine.execHmark c rd s
  | .signal c ra imm => Sys2Proof.Machine.execSignal c ra imm s
  | .signalArrival target => Sys2Proof.Machine.execSignalArrival target s
  | .barrierArriveAndWait c rd ra => Sys2Proof.Machine.execBarrierArriveAndWait c rd ra s
  | .barrierArrive c rd ra => Sys2Proof.Machine.execBarrierArrive c rd ra s
  | .barrierWait c rd ra rb => Sys2Proof.Machine.execBarrierWait c rd ra rb s
  | .barrierInit c ra rb => Sys2Proof.Machine.execBarrierInit c ra rb s
  | .barrierRelease k id => Sys2Proof.Machine.execBarrierRelease k id s
  | .barrierTimeout c => Sys2Proof.Machine.execBarrierTimeout c s
  | .trapret c => Sys2Proof.Machine.execTrapret c s
  | .halt c => Sys2Proof.Machine.execHalt c s
  | .watchdogExpiry c => Sys2Proof.Machine.execWatchdogExpiry c s
  | .timerEvent c => Sys2Proof.Machine.execTimerEvent c s
  | .runAheadEntry c => Sys2Proof.Machine.execRunAheadEntry c s
  | .runAheadWindowEnd c => Sys2Proof.Machine.execRunAheadWindowEnd c s
  | .coreStart r c => Sys2Proof.Machine.execCoreStart r c s
  | .coreReset r c start => Sys2Proof.Machine.execCoreReset r c start s
  | .coreResetEnd c => Sys2Proof.Machine.execCoreResetEnd c s
  | .haltReq r c => Sys2Proof.Machine.execHaltReq r c s
  | .coEventWrite r c w => Sys2Proof.Machine.execCoEventWrite r c w s
  | .pload c d ga pri => Sys2Proof.Machine.execPload c d ga pri s
  | .pfeed c d ga gb acc last => Sys2Proof.Machine.execPfeed c d ga gb acc last s
  | .pdrain c d ga gb clr => Sys2Proof.Machine.execPdrain c d ga gb clr s
  | .psync c rd nw => Sys2Proof.Machine.execPsync c rd nw s
  | .pressGrant k => Sys2Proof.Machine.execPressGrant k s
  | .tileLoadComplete k => Sys2Proof.Machine.execTileLoadComplete k s
  | .passComplete k => Sys2Proof.Machine.execPassComplete k s
  | .drainEngineGrant k => Sys2Proof.Machine.execDrainEngineGrant k s
  | .drainComplete k => Sys2Proof.Machine.execDrainComplete k s
  | .runSuspend k => Sys2Proof.Machine.execRunSuspend k s
  | .gapExpiry k => Sys2Proof.Machine.execGapExpiry k s
  | .rampDownEnd k => Sys2Proof.Machine.execRampDownEnd k s
  | .rampUpEnd k => Sys2Proof.Machine.execRampUpEnd k s
  | .pressFailure k row col => Sys2Proof.Machine.execPressFailure k row col s
  | .mld c ga gb gc mode => Sys2Proof.Machine.execMld c ga gb gc mode s
  | .mst c ga gb gc mode => Sys2Proof.Machine.execMst c ga gb gc mode s
  | .mpf c ga gc => Sys2Proof.Machine.execMpf c ga gc s
  | .moveComplete c n => Sys2Proof.Machine.execMoveComplete c n s
  | .refreshDue c pair => Sys2Proof.Machine.execRefreshDue c pair s
  | .refreshCommand c pair => Sys2Proof.Machine.execRefreshCommand c pair s
  | .scrubStepDue c => Sys2Proof.Machine.execScrubStepDue c s
  | .scrubUrgent c => Sys2Proof.Machine.execScrubUrgent c s
  | .scrubStep c => Sys2Proof.Machine.execScrubStep c s
  | .pageIdlePrecharge c bank => Sys2Proof.Machine.execPageIdlePrecharge c bank s
  | .portWaitStop c unit => Sys2Proof.Machine.execPortWaitStop c unit s
  | .guestPromotion c => Sys2Proof.Machine.execGuestPromotion c s
  | .guestAccess c g => Sys2Proof.Machine.execGuestAccess c g s
  | .regionWrite r c n w => Sys2Proof.Machine.execRegionWrite r c n w s
  | .regionUnusedEffect c n => Sys2Proof.Machine.execRegionUnusedEffect c n s
  | .regionInitComplete c n => Sys2Proof.Machine.execRegionInitComplete c n s
  | .tierFlush r c => Sys2Proof.Machine.execTierFlush r c s
  | .tierFlushComplete c => Sys2Proof.Machine.execTierFlushComplete c s
  | .cacheFillLine c => Sys2Proof.Machine.execCacheFillLine c s
  | .nbmvProduct c d ga gb ofmt chk acc out cmb => Sys2Proof.Machine.execNbmvProduct c d ga gb ofmt chk acc out cmb s
  | .nbmvLoad c ga gb => Sys2Proof.Machine.execNbmvLoad c ga gb s
  | .nbmvDrain c ga gb ofmt => Sys2Proof.Machine.execNbmvDrain c ga gb ofmt s
  | .nbgr c d ga gb ofmt => Sys2Proof.Machine.execNbgr c d ga gb ofmt s
  | .nbrowCopy c ga gb => Sys2Proof.Machine.execNbrowCopy c ga gb s
  | .nbrowZero c ga gb => Sys2Proof.Machine.execNbrowZero c ga gb s
  | .nbrowNot c ga gb => Sys2Proof.Machine.execNbrowNot c ga gb s
  | .nbrowAnd c ga gb => Sys2Proof.Machine.execNbrowAnd c ga gb s
  | .nbrowOr c ga gb => Sys2Proof.Machine.execNbrowOr c ga gb s
  | .nbsync c rd nw => Sys2Proof.Machine.execNbsync c rd nw s
  | .bankUnitCommandComplete c unit => Sys2Proof.Machine.execBankUnitCommandComplete c unit s
  | .combinerAdd c slot => Sys2Proof.Machine.execCombinerAdd c slot s
  | .kmapOpen c rd ga gb => Sys2Proof.Machine.execKmapOpen c rd ga gb s
  | .kmapClose c rd ga gb => Sys2Proof.Machine.execKmapClose c rd ga gb s
  | .kmapCloseReleaseDone p seq => Sys2Proof.Machine.execKmapCloseReleaseDone p seq s
  | .kmapQuery c rd ga gb => Sys2Proof.Machine.execKmapQuery c rd ga gb s
  | .kescOpen c rd ga gb => Sys2Proof.Machine.execKescOpen c rd ga gb s
  | .kcommit c rd ga gb => Sys2Proof.Machine.execKcommit c rd ga gb s
  | .krollDrop c rd ga gb => Sys2Proof.Machine.execKrollDrop c rd ga gb s
  | .krollRetract c rd ga gb => Sys2Proof.Machine.execKrollRetract c rd ga gb s
  | .kapp c d ga gb rd => Sys2Proof.Machine.execKapp c d ga gb rd s
  | .kesc c d ga gb rd => Sys2Proof.Machine.execKesc c d ga gb rd s
  | .kappRagged c d ga gb rd => Sys2Proof.Machine.execKappRagged c d ga gb rd s
  | .appendComplete c rd => Sys2Proof.Machine.execAppendComplete c rd s
  | .kattForward c d ga gb => Sys2Proof.Machine.execKattForward c d ga gb s
  | .kattRecompute c d ga gb => Sys2Proof.Machine.execKattRecompute c d ga gb s
  | .kmerge c d ga gb gc ofmt rec => Sys2Proof.Machine.execKmerge c d ga gb gc ofmt rec s
  | .kmask c d ga => Sys2Proof.Machine.execKmask c d ga s
  | .frameRelease c => Sys2Proof.Machine.execFrameRelease c s
  | .kframeAdd r c w => Sys2Proof.Machine.execKframeAdd r c w s
  | .kframeRemove r c w => Sys2Proof.Machine.execKframeRemove r c w s
  | .remintDoorbell r die p w => Sys2Proof.Machine.execRemintDoorbell r die p w s
  | .remintRingRun r die p w => Sys2Proof.Machine.execRemintRingRun r die p w s
  | .restripe die p => Sys2Proof.Machine.execRestripe die p s
  | .clear die p => Sys2Proof.Machine.execClear die p s
  | .remintPageMove die p => Sys2Proof.Machine.execRemintPageMove die p s
  | .remintDescriptorEnd die p => Sys2Proof.Machine.execRemintDescriptorEnd die p s
  | .seedBind c rd ga => Sys2Proof.Machine.execSeedBind c rd ga s
  | .seedRelease c rd => Sys2Proof.Machine.execSeedRelease c rd s
  | .seedSetKey c rd ga gb gc => Sys2Proof.Machine.execSeedSetKey c rd ga gb gc s
  | .seedRequest c rd ga gb => Sys2Proof.Machine.execSeedRequest c rd ga gb s
  | .seedSetCounter c gb => Sys2Proof.Machine.execSeedSetCounter c gb s
  | .randScalar c rd => Sys2Proof.Machine.execRandScalar c rd s
  | .randBits c vd => Sys2Proof.Machine.execRandBits c vd s
  | .randUniform c vd => Sys2Proof.Machine.execRandUniform c vd s
  | .smplk c rd ga gb gc => Sys2Proof.Machine.execSmplk c rd ga gb gc s
  | .smplp c rd ga gb gc => Sys2Proof.Machine.execSmplp c rd ga gb gc s
  | .entropyKeyReady => Sys2Proof.Machine.execEntropyKeyReady s
  | .entropyStartupComplete => Sys2Proof.Machine.execEntropyStartupComplete s
  | .entropyTestFailure apt => Sys2Proof.Machine.execEntropyTestFailure apt s
  | .entropyRestart r => Sys2Proof.Machine.execEntropyRestart r s
  | .entropyEnableWrite r en => Sys2Proof.Machine.execEntropyEnableWrite r en s
  | .farRequest k q => Sys2Proof.Machine.execFarRequest k q s
  | .farLineAccess k pc => Sys2Proof.Machine.execFarLineAccess k pc s
  | .farWriteDrain k pc => Sys2Proof.Machine.execFarWriteDrain k pc s
  | .farAgedRequest k pc => Sys2Proof.Machine.execFarAgedRequest k pc s
  | .farRowClose k pc => Sys2Proof.Machine.execFarRowClose k pc s
  | .farScrubStep k pc => Sys2Proof.Machine.execFarScrubStep k pc s
  | .farChannelFailure k ch => Sys2Proof.Machine.execFarChannelFailure k ch s
  | .plainRecord seam up r => Sys2Proof.Machine.execPlainRecord seam up r s
  | .bulkPiece seam up => Sys2Proof.Machine.execBulkPiece seam up s
  | .bundleCrcFailure seam b => Sys2Proof.Machine.execBundleCrcFailure seam b s
  | .bundleRetrainEnd seam b ok => Sys2Proof.Machine.execBundleRetrainEnd seam b ok s
  | .bundleFailure seam b => Sys2Proof.Machine.execBundleFailure seam b s
  | .roleMove seam => Sys2Proof.Machine.execRoleMove seam s
  | .topenSend c d rd e => Sys2Proof.Machine.execTopenSend c d rd e s
  | .topenReceive c d rd e => Sys2Proof.Machine.execTopenReceive c d rd e s
  | .streamOpenRecord c e => Sys2Proof.Machine.execStreamOpenRecord c e s
  | .streamSetupAnswer c e => Sys2Proof.Machine.execStreamSetupAnswer c e s
  | .streamOpenTimeout c e => Sys2Proof.Machine.execStreamOpenTimeout c e s
  | .tsend c ga gb e => Sys2Proof.Machine.execTsend c ga gb e s
  | .streamDataArrival c e => Sys2Proof.Machine.execStreamDataArrival c e s
  | .trecvQuery c rd e => Sys2Proof.Machine.execTrecvQuery c rd e s
  | .trecvConsume c gb e => Sys2Proof.Machine.execTrecvConsume c gb e s
  | .streamCredit c e => Sys2Proof.Machine.execStreamCredit c e s
  | .tcloseSync c e => Sys2Proof.Machine.execTcloseSync c e s
  | .tcloseClose c e => Sys2Proof.Machine.execTcloseClose c e s
  | .streamCloseRecord c e => Sys2Proof.Machine.execStreamCloseRecord c e s
  | .xfer c d rd => Sys2Proof.Machine.execXfer c d rd s
  | .xferComplete k => Sys2Proof.Machine.execXferComplete k s
  | .pcieConventionalReset kind => Sys2Proof.Machine.execPcieConventionalReset kind s
  | .flr f => Sys2Proof.Machine.execFlr f s
  | .busMasterEnableClear f => Sys2Proof.Machine.execBusMasterEnableClear f s
  | .perstDeassert => Sys2Proof.Machine.execPerstDeassert s
  | .bar2Read f o n => Sys2Proof.Machine.execBar2Read f o n s
  | .bar2Write f o data ep => Sys2Proof.Machine.execBar2Write f o data ep s
  | .rcRegisterRead r off => Sys2Proof.Machine.execRcRegisterRead r off s
  | .registerWrite r off w => Sys2Proof.Machine.execRegisterWrite r off w s
  | .doorbell r f ring w => Sys2Proof.Machine.execDoorbell r f ring w s
  | .commandRingRun r f ring w => Sys2Proof.Machine.execCommandRingRun r f ring w s
  | .commandDescriptorRead f ring a => Sys2Proof.Machine.execCommandDescriptorRead f ring a s
  | .noOperation f ring => Sys2Proof.Machine.execNoOperation f ring s
  | .run f ring => Sys2Proof.Machine.execRun f ring s
  | .jobAdmission f ring => Sys2Proof.Machine.execJobAdmission f ring s
  | .abort f ring => Sys2Proof.Machine.execAbort f ring s
  | .copyToDevice f ring => Sys2Proof.Machine.execCopyToDevice f ring s
  | .copyToHost f ring => Sys2Proof.Machine.execCopyToHost f ring s
  | .jobTimeLimit p job => Sys2Proof.Machine.execJobTimeLimit p job s
  | .completionRecordWrite f ring => Sys2Proof.Machine.execCompletionRecordWrite f ring s
  | .completionHeadWrite r f ring w => Sys2Proof.Machine.execCompletionHeadWrite r f ring w s
  | .partitionCommit r p => Sys2Proof.Machine.execPartitionCommit r p s
  | .clearingDoorbell r p q w => Sys2Proof.Machine.execClearingDoorbell r p q w s
  | .put p q => Sys2Proof.Machine.execPut p q s
  | .get p q => Sys2Proof.Machine.execGet p q s
  | .clearingSignal p q => Sys2Proof.Machine.execClearingSignal p q s
  | .allReduce p q => Sys2Proof.Machine.execAllReduce p q s
  | .reduceScatter p q => Sys2Proof.Machine.execReduceScatter p q s
  | .allGather p q => Sys2Proof.Machine.execAllGather p q s
  | .broadcast p q => Sys2Proof.Machine.execBroadcast p q s
  | .barrierCollective p q => Sys2Proof.Machine.execBarrierCollective p q s
  | .writeFrame n x => Sys2Proof.Machine.execWriteFrame n x s
  | .readRequestFrame n x => Sys2Proof.Machine.execReadRequestFrame n x s
  | .readResponseFrame n x => Sys2Proof.Machine.execReadResponseFrame n x s
  | .writeResponseFrame n x => Sys2Proof.Machine.execWriteResponseFrame n x s
  | .signalFrame n x => Sys2Proof.Machine.execSignalFrame n x s
  | .collectiveDataFrame n x => Sys2Proof.Machine.execCollectiveDataFrame n x s
  | .ackFrame n ackSeq limits nak => Sys2Proof.Machine.execAckFrame n ackSeq limits nak s
  | .linkControlFrame n x => Sys2Proof.Machine.execLinkControlFrame n x s
  | .idleFrame n ackSeq limits => Sys2Proof.Machine.execIdleFrame n ackSeq limits s
  | .forwardedFrame n x => Sys2Proof.Machine.execForwardedFrame n x s
  | .frameCrcError n => Sys2Proof.Machine.execFrameCrcError n s
  | .ackDue n => Sys2Proof.Machine.execAckDue n s
  | .pathFailure n => Sys2Proof.Machine.execPathFailure n s
  | .portRetrainEnd n ok lanes peerAck => Sys2Proof.Machine.execPortRetrainEnd n ok lanes peerAck s
  | .portUp r n => Sys2Proof.Machine.execPortUp r n s
  | .portDisable r n => Sys2Proof.Machine.execPortDisable r n s
  | .endToEndTimeout tag => Sys2Proof.Machine.execEndToEndTimeout tag s
  | .collectiveStepTimeout p q => Sys2Proof.Machine.execCollectiveStepTimeout p q s
  | .ppsPulse captured long => Sys2Proof.Machine.execPpsPulse captured long s
  | .ppsHoldover => Sys2Proof.Machine.execPpsHoldover s
  | .hallmarkStep => Sys2Proof.Machine.execHallmarkStep s
  | .slewEnd => Sys2Proof.Machine.execSlewEnd s
  | .followerUnlock die => Sys2Proof.Machine.execFollowerUnlock die s
  | .followerLock die => Sys2Proof.Machine.execFollowerLock die s
  | .epochWrite r rev w => Sys2Proof.Machine.execEpochWrite r rev w s
  | .ppsEnableWrite r w => Sys2Proof.Machine.execPpsEnableWrite r w s
  | .housekeepingRoundEnd x => Sys2Proof.Machine.execHousekeepingRoundEnd x s
  | .governorSettingsApply => Sys2Proof.Machine.execGovernorSettingsApply s
  | .pauseFrameBoundary => Sys2Proof.Machine.execPauseFrameBoundary s
  | .pauseEnd k => Sys2Proof.Machine.execPauseEnd k s
  | .operatingPointChange k => Sys2Proof.Machine.execOperatingPointChange k s
  | .voltageRampEnd k => Sys2Proof.Machine.execVoltageRampEnd k s
  | .droopReserveSwitchIn k => Sys2Proof.Machine.execDroopReserveSwitchIn k s
  | .droopReserveDisconnect k => Sys2Proof.Machine.execDroopReserveDisconnect k s
  | .deepDroop k => Sys2Proof.Machine.execDeepDroop k s
  | .vrAlertAssert cause => Sys2Proof.Machine.execVrAlertAssert cause s
  | .vrAlertRelease => Sys2Proof.Machine.execVrAlertRelease s
  | .alertShutdown => Sys2Proof.Machine.execAlertShutdown s
  | .shutdownRegulatorsOff => Sys2Proof.Machine.execShutdownRegulatorsOff s
  | .pwrLimitWrite r rev w => Sys2Proof.Machine.execPwrLimitWrite r rev w s
  | .pwrTlimWrite r rev w => Sys2Proof.Machine.execPwrTlimWrite r rev w s
  | .coldStart e => Sys2Proof.Machine.execColdStart e s
  | .warmStart r e => Sys2Proof.Machine.execWarmStart r e s
  | .inputLoss => Sys2Proof.Machine.execInputLoss s
  | .imageWatchdogExpiry e => Sys2Proof.Machine.execImageWatchdogExpiry e s
  | .maintenanceEnter r => Sys2Proof.Machine.execMaintenanceEnter r s
  | .maintenanceLeave r => Sys2Proof.Machine.execMaintenanceLeave r s
  | .bootSettingsWrite r w => Sys2Proof.Machine.execBootSettingsWrite r w s
  | .retirementRequest r w => Sys2Proof.Machine.execRetirementRequest r w s
  | .localStoreScrub k n => Sys2Proof.Machine.execLocalStoreScrub k n s
  | .clusterReset r k => Sys2Proof.Machine.execClusterReset r k s
  | .clusterResetEnd k => Sys2Proof.Machine.execClusterResetEnd k s
  | .clusterPowerDown r k => Sys2Proof.Machine.execClusterPowerDown r k s
  | .clusterPowerUp r k => Sys2Proof.Machine.execClusterPowerUp r k s
  | .clusterPowerUpEnd k => Sys2Proof.Machine.execClusterPowerUpEnd k s
  | .dieReset r d => Sys2Proof.Machine.execDieReset r d s
  | .dieReturn d training => Sys2Proof.Machine.execDieReturn d training s
  | .dieResetTimeout d => Sys2Proof.Machine.execDieResetTimeout d s
  | .comptrollerFailure kind addr => Sys2Proof.Machine.execComptrollerFailure kind addr s
  | .comptrollerWatchdogExpiry => Sys2Proof.Machine.execComptrollerWatchdogExpiry s
  | .info f => Sys2Proof.Machine.execInfo f s
  | .note f => Sys2Proof.Machine.execNote f s
  | .coreMsg f => Sys2Proof.Machine.execCoreMsg f s
  | .ledgerFetch f => Sys2Proof.Machine.execLedgerFetch f s
  | .tallySave f => Sys2Proof.Machine.execTallySave f s
  | .hangAnalysis f => Sys2Proof.Machine.execHangAnalysis f s
  | .hangAnalysisEnd => Sys2Proof.Machine.execHangAnalysisEnd s
  | .autoHangAnalysis c => Sys2Proof.Machine.execAutoHangAnalysis c s
  | .blockingConditionBegin c => Sys2Proof.Machine.execBlockingConditionBegin c s
  | .messagePop r c => Sys2Proof.Machine.execMessagePop r c s
  | .ledgerTokenRefill code => Sys2Proof.Machine.execLedgerTokenRefill code s
  | .ledgerFlashCopy => Sys2Proof.Machine.execLedgerFlashCopy s
  | .ledgerAckWrite r w => Sys2Proof.Machine.execLedgerAckWrite r w s
  | .ledgerHold r w => Sys2Proof.Machine.execLedgerHold r w s
  | .ledgerHoldEnd => Sys2Proof.Machine.execLedgerHoldEnd s
  | .billingIntervalClose => Sys2Proof.Machine.execBillingIntervalClose s
  | .ident seq => Sys2Proof.Machine.execIdent seq s
  | .status seq => Sys2Proof.Machine.execStatus seq s
  | .imgBegin seq slot header => Sys2Proof.Machine.execImgBegin seq slot header s
  | .imgData seq off data => Sys2Proof.Machine.execImgData seq off data s
  | .imgEnd seq => Sys2Proof.Machine.execImgEnd seq s
  | .imgAbort seq => Sys2Proof.Machine.execImgAbort seq s
  | .calRead seq cls => Sys2Proof.Machine.execCalRead seq cls s
  | .calWrite seq cls values => Sys2Proof.Machine.execCalWrite seq cls values s
  | .ledgerRead seq start first => Sys2Proof.Machine.execLedgerRead seq start first s
  | .restart seq recovery e => Sys2Proof.Machine.execRestart seq recovery e s
  | .inclClear seq credential locators => Sys2Proof.Machine.execInclClear seq credential locators s
  | .flashEraseComplete => Sys2Proof.Machine.execFlashEraseComplete s
  | .flashProgramComplete => Sys2Proof.Machine.execFlashProgramComplete s
  | .countRegisterWrite r off w => Sys2Proof.Machine.execCountRegisterWrite r off w s
  | .counterOverflow off => Sys2Proof.Machine.execCounterOverflow off s
  | .freezeControlWrite r w => Sys2Proof.Machine.execFreezeControlWrite r w s
  | .traceChannelWrite x => Sys2Proof.Machine.execTraceChannelWrite x s
  | .softwareRecord r k w => Sys2Proof.Machine.execSoftwareRecord r k w s
  | .traceChannelEnable r k w => Sys2Proof.Machine.execTraceChannelEnable r k w s
  | .statusInterrupt => Sys2Proof.Machine.execStatusInterrupt s
  | .pcieCompletionTimeout f ring => Sys2Proof.Machine.execPcieCompletionTimeout f ring s
  | .hostReadCompletion f ring a => Sys2Proof.Machine.execHostReadCompletion f ring a s
  | .copyComplete f ring => Sys2Proof.Machine.execCopyComplete f ring s
  | .cacheInstructionComplete c => Sys2Proof.Machine.execCacheInstructionComplete c s
  | .prefetchFill c addr => Sys2Proof.Machine.execPrefetchFill c addr s
  | .softError t => Sys2Proof.Machine.execSoftError t s
  | .bar0ReadOutsideView f off => Sys2Proof.Machine.execBar0ReadOutsideView f off s

end Sys2Proof.Machine
end

