-- ==== Sys2Proof/WellFormed.lean ====
section
/-! DEFINITION. What a command must meet beyond its types: the sizes and lengths that the manual's formats allow. -/

namespace Sys2Proof

/-- A count within bounds. -/
def sizeIn (lo hi n : Nat) : Bool := decide (lo ≤ n) && decide (n ≤ hi)

/-- A guest request: at least one byte, at most the 4,096 of a host request, and as many bytes to write as it says
(R163, Table 10.1). -/
def GuestReq.wf (g : GuestReq) : Bool :=
  sizeIn 1 4096 g.size &&
    decide (g.data.length = if g.write then g.size else 0)

/-- A far-memory request: 1 to 64 bytes within one 64-byte line (R290). -/
def FarReq.wf (q : FarReq) : Bool :=
  sizeIn 1 64 q.size && decide (q.offset.toNat % 64 + q.size ≤ 64) &&
    decide (q.data.length = if q.write then q.size else 0)

/-- A plain record: at most 128 bytes asked for or carried (R307). -/
def PlainRec.wf (r : PlainRec) : Bool := sizeIn 0 128 r.len && sizeIn 0 128 r.data.length

/-- A reply of the host: at most 4,096 bytes (R332). -/
def HostReply.wf : HostReply → Bool
  | .data bytes => sizeIn 0 4096 bytes.length
  | .poisoned bytes => sizeIn 0 4096 bytes.length
  | .unsupported => true
  | .completerAbort => true

/-- A frame: at most 16 units of 64 bytes, and no more payload than they hold (Table 10.4). -/
def Frame.wf (x : Frame) : Bool := sizeIn 0 16 x.units.toNat && sizeIn 0 (64 * x.units.toNat) x.payload.length

/-- The readings of a round: 256 sensors and 256 clusters (R382, R390). -/
def Readings.wf (x : Readings) : Bool := decide (x.sensors.length = 256) && decide (x.clusterMw.length = 256)

/-- A start's environment names each unit at most once (Table 13.2). -/
def StartEnv.wf (e : StartEnv) : Bool := decide e.assay.Nodup && decide e.training.Nodup

/-- Whether a command is one that the manual's formats allow. -/
def Instr.wf (i : Instr) : Bool :=
  match i with
  | .add _ _ _ _ => true
  | .sub _ _ _ _ => true
  | .and _ _ _ _ => true
  | .or _ _ _ _ => true
  | .xor _ _ _ _ => true
  | .shl _ _ _ _ => true
  | .shr _ _ _ _ => true
  | .sha _ _ _ _ => true
  | .mul _ _ _ _ => true
  | .mulh _ _ _ _ => true
  | .slt _ _ _ _ _ => true
  | .sel _ _ _ _ _ => true
  | .addImmediate _ _ _ _ => true
  | .andImmediate _ _ _ _ => true
  | .orImmediate _ _ _ _ => true
  | .xorImmediate _ _ _ _ => true
  | .sltImmediate _ _ _ _ => true
  | .shlImmediate _ _ _ _ => true
  | .shrImmediate _ _ _ _ => true
  | .shaImmediate _ _ _ _ => true
  | .li _ _ _ _ _ => true
  | .ldb _ _ _ _ => true
  | .ldh _ _ _ _ => true
  | .ldw _ _ _ _ => true
  | .ldd _ _ _ _ => true
  | .stb _ _ _ _ => true
  | .sth _ _ _ _ => true
  | .stw _ _ _ _ => true
  | .std _ _ _ _ => true
  | .loadReturn _ _ => true
  | .storeBufferDrain _ => true
  | .storeFailure _ => true
  | .beq _ _ _ _ => true
  | .bne _ _ _ _ => true
  | .blt _ _ _ _ => true
  | .bge _ _ _ _ => true
  | .jump _ _ => true
  | .call _ _ => true
  | .jumpRegister _ _ => true
  | .callRegister _ _ => true
  | .ret _ => true
  | .branchMisprediction _ => true
  | .orControlWordRead _ _ _ => true
  | .orControlWordWrite _ _ _ => true
  | .vld _ _ _ _ _ => true
  | .vst _ _ _ _ _ => true
  | .vadd _ _ _ _ _ _ => true
  | .vmul _ _ _ _ _ _ => true
  | .vmax _ _ _ _ _ _ _ => true
  | .vfma _ _ _ _ _ _ => true
  | .vexp _ _ _ _ _ _ => true
  | .vrsq _ _ _ _ _ _ => true
  | .vredSum _ _ _ _ _ => true
  | .vredMax _ _ _ _ _ => true
  | .vperm _ _ _ _ _ _ => true
  | .vrope _ _ _ _ _ _ _ => true
  | .vcvt _ _ _ _ _ _ _ _ => true
  | .wait _ _ _ _ => true
  | .waitTimeout _ => true
  | .fence _ _ => true
  | .hmark _ _ => true
  | .signal _ _ _ => true
  | .signalArrival _ => true
  | .barrierArriveAndWait _ _ _ => true
  | .barrierArrive _ _ _ => true
  | .barrierWait _ _ _ _ => true
  | .barrierInit _ _ _ => true
  | .barrierRelease _ _ => true
  | .barrierTimeout _ => true
  | .trapret _ => true
  | .halt _ => true
  | .watchdogExpiry _ => true
  | .timerEvent _ => true
  | .runAheadEntry _ => true
  | .runAheadWindowEnd _ => true
  | .coreStart _ _ => true
  | .coreReset _ _ _ => true
  | .coreResetEnd _ => true
  | .haltReq _ _ => true
  | .coEventWrite _ _ _ => true
  | .pload _ _ _ _ => true
  | .pfeed _ _ _ _ _ _ => true
  | .pdrain _ _ _ _ _ => true
  | .psync _ _ _ => true
  | .pressGrant _ => true
  | .tileLoadComplete _ => true
  | .passComplete _ => true
  | .drainEngineGrant _ => true
  | .drainComplete _ => true
  | .runSuspend _ => true
  | .gapExpiry _ => true
  | .rampDownEnd _ => true
  | .rampUpEnd _ => true
  | .pressFailure _ _ _ => true
  | .mld _ _ _ _ _ => true
  | .mst _ _ _ _ _ => true
  | .mpf _ _ _ => true
  | .moveComplete _ _ => true
  | .refreshDue _ _ => true
  | .refreshCommand _ _ => true
  | .scrubStepDue _ => true
  | .scrubUrgent _ => true
  | .scrubStep _ => true
  | .pageIdlePrecharge _ _ => true
  | .portWaitStop _ _ => true
  | .guestPromotion _ => true
  | .guestAccess _ g => g.wf
  | .regionWrite _ _ _ _ => true
  | .regionUnusedEffect _ _ => true
  | .regionInitComplete _ _ => true
  | .tierFlush _ _ => true
  | .tierFlushComplete _ => true
  | .cacheFillLine _ => true
  | .nbmvProduct _ _ _ _ _ _ _ _ _ => true
  | .nbmvLoad _ _ _ => true
  | .nbmvDrain _ _ _ _ => true
  | .nbgr _ _ _ _ _ => true
  | .nbrowCopy _ _ _ => true
  | .nbrowZero _ _ _ => true
  | .nbrowNot _ _ _ => true
  | .nbrowAnd _ _ _ => true
  | .nbrowOr _ _ _ => true
  | .nbsync _ _ _ => true
  | .bankUnitCommandComplete _ _ => true
  | .combinerAdd _ _ => true
  | .kmapOpen _ _ _ _ => true
  | .kmapClose _ _ _ _ => true
  | .kmapCloseReleaseDone _ _ => true
  | .kmapQuery _ _ _ _ => true
  | .kescOpen _ _ _ _ => true
  | .kcommit _ _ _ _ => true
  | .krollDrop _ _ _ _ => true
  | .krollRetract _ _ _ _ => true
  | .kapp _ _ _ _ _ => true
  | .kesc _ _ _ _ _ => true
  | .kappRagged _ _ _ _ _ => true
  | .appendComplete _ _ => true
  | .kattForward _ _ _ _ => true
  | .kattRecompute _ _ _ _ => true
  | .kmerge _ _ _ _ _ _ _ => true
  | .kmask _ _ _ => true
  | .frameRelease _ => true
  | .kframeAdd _ _ _ => true
  | .kframeRemove _ _ _ => true
  | .remintDoorbell _ _ _ _ => true
  | .remintRingRun _ _ _ _ => true
  | .restripe _ _ => true
  | .clear _ _ => true
  | .remintPageMove _ _ => true
  | .remintDescriptorEnd _ _ => true
  | .seedBind _ _ _ => true
  | .seedRelease _ _ => true
  | .seedSetKey _ _ _ _ _ => true
  | .seedRequest _ _ _ _ => true
  | .seedSetCounter _ _ => true
  | .randScalar _ _ => true
  | .randBits _ _ => true
  | .randUniform _ _ => true
  | .smplk _ _ _ _ _ => true
  | .smplp _ _ _ _ _ => true
  | .entropyKeyReady => true
  | .entropyStartupComplete => true
  | .entropyTestFailure _ => true
  | .entropyRestart _ => true
  | .entropyEnableWrite _ _ => true
  | .farRequest _ q => q.wf
  | .farLineAccess _ _ => true
  | .farWriteDrain _ _ => true
  | .farAgedRequest _ _ => true
  | .farRowClose _ _ => true
  | .farScrubStep _ _ => true
  | .farChannelFailure _ _ => true
  | .plainRecord _ _ r => r.wf
  | .bulkPiece _ _ => true
  | .bundleCrcFailure _ _ => true
  | .bundleRetrainEnd _ _ _ => true
  | .bundleFailure _ _ => true
  | .roleMove _ => true
  | .topenSend _ _ _ _ => true
  | .topenReceive _ _ _ _ => true
  | .streamOpenRecord _ _ => true
  | .streamSetupAnswer _ _ => true
  | .streamOpenTimeout _ _ => true
  | .tsend _ _ _ _ => true
  | .streamDataArrival _ _ => true
  | .trecvQuery _ _ _ => true
  | .trecvConsume _ _ _ => true
  | .streamCredit _ _ => true
  | .tcloseSync _ _ => true
  | .tcloseClose _ _ => true
  | .streamCloseRecord _ _ => true
  | .xfer _ _ _ => true
  | .xferComplete _ => true
  | .pcieConventionalReset _ => true
  | .flr _ => true
  | .busMasterEnableClear _ => true
  | .perstDeassert => true
  | .bar2Read _ _ n => sizeIn 1 4096 n
  | .bar2Write _ _ data _ => sizeIn 1 4096 data.length
  | .rcRegisterRead _ _ => true
  | .registerWrite _ _ _ => true
  | .doorbell _ _ _ _ => true
  | .commandRingRun _ _ _ _ => true
  | .commandDescriptorRead _ _ a => a.wf
  | .noOperation _ _ => true
  | .run _ _ => true
  | .jobAdmission _ _ => true
  | .abort _ _ => true
  | .copyToDevice _ _ => true
  | .copyToHost _ _ => true
  | .jobTimeLimit _ _ => true
  | .completionRecordWrite _ _ => true
  | .completionHeadWrite _ _ _ _ => true
  | .partitionCommit _ _ => true
  | .clearingDoorbell _ _ _ _ => true
  | .put _ _ => true
  | .get _ _ => true
  | .clearingSignal _ _ => true
  | .allReduce _ _ => true
  | .reduceScatter _ _ => true
  | .allGather _ _ => true
  | .broadcast _ _ => true
  | .barrierCollective _ _ => true
  | .writeFrame _ x => x.wf
  | .readRequestFrame _ x => x.wf
  | .readResponseFrame _ x => x.wf
  | .writeResponseFrame _ x => x.wf
  | .signalFrame _ x => x.wf
  | .collectiveDataFrame _ x => x.wf
  | .ackFrame _ _ _ _ => true
  | .linkControlFrame _ x => x.wf
  | .idleFrame _ _ _ => true
  | .forwardedFrame _ x => x.wf
  | .frameCrcError _ => true
  | .ackDue _ => true
  | .pathFailure _ => true
  | .portRetrainEnd _ _ _ _ => true
  | .portUp _ _ => true
  | .portDisable _ _ => true
  | .endToEndTimeout _ => true
  | .collectiveStepTimeout _ _ => true
  | .ppsPulse _ _ => true
  | .ppsHoldover => true
  | .hallmarkStep => true
  | .slewEnd => true
  | .followerUnlock _ => true
  | .followerLock _ => true
  | .epochWrite _ _ _ => true
  | .ppsEnableWrite _ _ => true
  | .housekeepingRoundEnd x => x.wf
  | .governorSettingsApply => true
  | .pauseFrameBoundary => true
  | .pauseEnd _ => true
  | .operatingPointChange _ => true
  | .voltageRampEnd _ => true
  | .droopReserveSwitchIn _ => true
  | .droopReserveDisconnect _ => true
  | .deepDroop _ => true
  | .vrAlertAssert _ => true
  | .vrAlertRelease => true
  | .alertShutdown => true
  | .shutdownRegulatorsOff => true
  | .pwrLimitWrite _ _ _ => true
  | .pwrTlimWrite _ _ _ => true
  | .coldStart e => e.wf
  | .warmStart _ e => e.wf
  | .inputLoss => true
  | .imageWatchdogExpiry e => e.wf
  | .maintenanceEnter _ => true
  | .maintenanceLeave _ => true
  | .bootSettingsWrite _ _ => true
  | .retirementRequest _ _ => true
  | .localStoreScrub _ _ => true
  | .clusterReset _ _ => true
  | .clusterResetEnd _ => true
  | .clusterPowerDown _ _ => true
  | .clusterPowerUp _ _ => true
  | .clusterPowerUpEnd _ => true
  | .dieReset _ _ => true
  | .dieReturn _ _ => true
  | .dieResetTimeout _ => true
  | .comptrollerFailure _ _ => true
  | .comptrollerWatchdogExpiry => true
  | .info _ => true
  | .note _ => true
  | .coreMsg _ => true
  | .ledgerFetch _ => true
  | .tallySave _ => true
  | .hangAnalysis _ => true
  | .hangAnalysisEnd => true
  | .autoHangAnalysis _ => true
  | .blockingConditionBegin _ => true
  | .messagePop _ _ => true
  | .ledgerTokenRefill _ => true
  | .ledgerFlashCopy => true
  | .ledgerAckWrite _ _ => true
  | .ledgerHold _ _ => true
  | .ledgerHoldEnd => true
  | .billingIntervalClose => true
  | .ident _ => true
  | .status _ => true
  | .imgBegin _ _ header => decide (header.length = 256)
  | .imgData _ _ data => sizeIn 256 3840 data.length && decide (data.length % 256 = 0)
  | .imgEnd _ => true
  | .imgAbort _ => true
  | .calRead _ _ => true
  | .calWrite _ _ values => sizeIn 0 511 values.length
  | .ledgerRead _ _ _ => true
  | .restart _ _ e => e.wf
  | .inclClear _ _ locators => sizeIn 1 510 locators.length
  | .flashEraseComplete => true
  | .flashProgramComplete => true
  | .countRegisterWrite _ _ _ => true
  | .counterOverflow _ => true
  | .freezeControlWrite _ _ => true
  | .traceChannelWrite _ => true
  | .softwareRecord _ _ _ => true
  | .traceChannelEnable _ _ _ => true
  | .statusInterrupt => true
  | .pcieCompletionTimeout _ _ => true
  | .hostReadCompletion _ _ a => a.wf
  | .copyComplete _ _ => true
  | .cacheInstructionComplete _ => true
  | .prefetchFill _ _ => true
  | .softError _ => true
  | .bar0ReadOutsideView _ _ => true

end Sys2Proof
end

