-- ==== Sys2Proof/Safety.lean ====
section
/-! DEFINITION. The terms in which statements about the device are made: a step that does not stop, memory in its
canonical form, an instruction that issues, and what an instruction or an event leaves alone. -/

namespace Sys2Proof.Machine

/-- The step of a state answers a next state. -/
def Runs (s : State) : Prop := ∃ t, step s = .next t

/-- Memory is in its canonical form: addresses strictly rising, no byte listed that reads the same unlisted. -/
def Canonical (s : State) : Prop := Memory.wf s.mem = true

/-- The instruction i of core c issues in s, and s1 is the state after its fetch (R54, R55, R85): the core can issue, is
not in run-ahead, no register that i names waits for a reply, and no load is outstanding where i waits for older loads. -/
structure Issues (s : State) (c : Nat) (i : Inst) (s1 : State) : Prop where
  able  : canIssue s c = true
  alone : (getCore s c).ra = none
  free  : ∀ r ∈ i.regs, r = 0 ∨ r ∉ busyRegs s c
  got   : fetch s c (getCore s c).pc.toNat i.size = .ok s1
  older : i.waits = true → (getCore s c).loads = []

/-- A core that differs from another at most in its general registers and in what every commit writes. -/
def SameButGprs (x y : CoreSt) : Prop :=
  y = { x with g := y.g, pc := y.pc, last := y.last, blk := y.blk, blkobj := y.blkobj, icache := y.icache
               blocked := y.blocked }

/-- A core that differs from another at most in what every commit writes: its program counter, CO_PC, what it is blocked
on, and its instruction cache. -/
def SameButPc (x y : CoreSt) : Prop :=
  y = { x with pc := y.pc, last := y.last, blk := y.blk, blkobj := y.blkobj, icache := y.icache
               blocked := y.blocked }

/-- Nothing outside core c and the counters changes from s to t. -/
def OnlyCore (c : Nat) (s t : State) : Prop :=
  t = { s with cores := t.cores, regs := t.regs } ∧ ∀ d, d ≠ c → getCore t d = getCore s d

/-- Nothing outside core c, the counters and the time changes from s to t. -/
def OnlyCoreLater (c : Nat) (s t : State) : Prop :=
  t = { s with cores := t.cores, regs := t.regs, hallmark := t.hallmark } ∧ s.hallmark ≤ t.hallmark ∧
    ∀ d, d ≠ c → getCore t d = getCore s d

/-- Every byte of memory reads the same. -/
def SameMemory (s t : State) : Prop := ∀ a, rdByte t a = rdByte s a

/-- The lanes of width w of register v. -/
def LaneIs (x : CoreSt) (v w i n : Nat) : Prop := laneOf w (vreg x v) i = n

/-- The command i takes s to t. -/
def Does (i : Instr) (s t : State) : Prop := exec i s = .next t

/-- A core that differs from another at most in its flow of control: the program counter, what predicts branches, and
what every commit writes. -/
def SameButFlow (x y : CoreSt) : Prop :=
  y = { x with pc := y.pc, last := y.last, blk := y.blk, blkobj := y.blkobj, icache := y.icache, blocked := y.blocked, bht := y.bht,
               btb := y.btb, ras := y.ras, mispred := y.mispred }

/-- Command i of core c writes register rd with f of the core's registers, goes on at the next instruction, and leaves
all else of the core as it was and all else of the device as the fetch left it (R56, R64). -/
def AluLaw (i : Instr) (c : CoreId) (rd : GReg) (regs : List Nat) (f : CoreSt → Word) : Prop :=
  ∀ s s1, Issues s c.toNat ⟨4, regs, false⟩ s1 → ∃ t, Does i s t ∧
    (∀ r, gpr (getCore t c.toNat) r =
      if r = rd.toNat ∧ rd.toNat ≠ 0 then f (getCore s c.toNat) else gpr (getCore s c.toNat) r) ∧
    (getCore t c.toNat).pc = (getCore s c.toNat).pc + 4 ∧
    SameButGprs (getCore s c.toNat) (getCore t c.toNat) ∧ OnlyCore c.toNat s1 t

/-- Command i of core c branches by off words when f holds of the core's registers, and otherwise goes on; it changes
nothing but the flow of control (R64, R85). -/
def BranchLaw (i : Instr) (c : CoreId) (regs : List Nat) (off : BitVec 16) (f : CoreSt → Bool) : Prop :=
  ∀ s s1, Issues s c.toNat ⟨4, regs, false⟩ s1 → ∃ t, Does i s t ∧
    (getCore t c.toNat).pc =
      (getCore s c.toNat).pc + 4 * (if f (getCore s c.toNat) then off.signExtend 64 else 1) ∧
    SameButFlow (getCore s c.toNat) (getCore t c.toNat) ∧ OnlyCore c.toNat s1 t

/-- What a vector instruction leaves alone of a core: every register but vd, every control word but the sticky flags of
cw_fstat, which it may only set, and all else that a commit does not write (R42, R67). -/
structure VectorFrame (x y : CoreSt) (vd : Nat) : Prop where
  others : ∀ r, r ≠ vd → vreg y r = vreg x r
  sticky : ∀ b, (getCw x 7).getLsbD b = true → (getCw y 7).getLsbD b = true
  words  : ∀ n, n ≠ 7 → getCw y n = getCw x n
  rest   : y = { x with v := y.v, cw := y.cw, pc := x.pc + 4, last := y.last, blk := y.blk, blkobj := y.blkobj,
                        icache := y.icache, blocked := y.blocked }

/-- Command i of core c writes the lanes of width w of vd that predicate pk governs with f, and leaves the others
(R57, R67). -/
def LaneLaw (i : Instr) (c : CoreId) (vd : VReg) (pk : PReg) (w : Nat) (f : CoreSt → Nat → Nat) : Prop :=
  ∀ s s1, Issues s c.toNat ⟨4, [], false⟩ s1 → ∃ t, Does i s t ∧
    (∀ j, j < 1024 / w → laneOf w (vreg (getCore t c.toNat) vd.toNat) j =
      if (preg (getCore s c.toNat) pk.toNat).getLsbD j then f (getCore s c.toNat) j % 2 ^ w
      else laneOf w (vreg (getCore s c.toNat) vd.toNat) j) ∧
    VectorFrame (getCore s c.toNat) (getCore t c.toNat) vd.toNat ∧ OnlyCore c.toNat s1 t

/-- Command i of core c writes the whole of vd with f (R70). -/
def VectorLaw (i : Instr) (c : CoreId) (vd : VReg) (f : CoreSt → Vec) : Prop :=
  ∀ s s1, Issues s c.toNat ⟨4, [], false⟩ s1 → ∃ t, Does i s t ∧
    vreg (getCore t c.toNat) vd.toNat = f (getCore s c.toNat) ∧
    VectorFrame (getCore s c.toNat) (getCore t c.toNat) vd.toNat ∧ OnlyCore c.toNat s1 t

/-- Command i of core c, an instruction of n bytes on the registers regs, commits: from the state after its fetch, in
which ok holds, f gives what it has done, and the next instruction follows. -/
def CommitLaw (i : Instr) (c : CoreId) (n : Nat) (regs : List Nat) (waits : Bool) (ok : State → Prop)
    (f : State → State) : Prop :=
  ∀ s s1, Issues s c.toNat ⟨n, regs, waits⟩ s1 → ok s1 →
    Does i s (commit (f s1) c.toNat (getCore s c.toNat).pc ((getCore s c.toNat).pc + BitVec.ofNat 64 n))

/-- Command i of core c, an instruction of n bytes on the registers regs, takes the trap that e gives, at itself, when
no load is outstanding and ok holds of the state after its fetch. -/
def TrapLaw (i : Instr) (c : CoreId) (n : Nat) (regs : List Nat) (waits : Bool) (ok : State → Prop)
    (e : State → TrapInfo) : Prop :=
  ∀ s s1, Issues s c.toNat ⟨n, regs, waits⟩ s1 → (getCore s c.toNat).loads = [] → ok s1 →
    Does i s (takeTrap s1 c.toNat (e s1) (getCore s c.toNat).pc false false)

/-- What trap entry leaves in a core (R99, Table 3.10). -/
structure TrapEntered (x y : CoreSt) (t : TrapInfo) (tpc : Word) (dfr more level : Bool) : Prop where
  tpcWord   : getCw y 2 = tpc
  cause     : getCw y 3 = causeWord t dfr more
  value     : getCw y 4 = BitVec.ofNat 64 t.val
  pl        : (getCw y 0).getLsbD 0 = false
  ppl       : (getCw y 0).getLsbD 1 = level
  tact      : (getCw y 0).getLsbD 2 = true
  handler   : y.pc = getCw x 1 &&& ~~~(3 : Word)
  prefetch  : y.pref = []
  gprs      : y.g = x.g
  vectors   : y.v = x.v
  preds     : y.p = x.p
  descs     : y.d = x.d
  otherCws  : ∀ n, n ≠ 0 → n ≠ 2 → n ≠ 3 → n ≠ 4 → getCw y n = getCw x n
  stores    : y.buf = x.buf

/-- A load of n bytes that issues with its address aligned, in the core's partition and outside the control space, and
that meets no move in flight, no store in the buffer and no full queue of its own vein, holds the bytes its unit gives,
sign-extended, until it returns; nothing else of the core changes (R63, R65, R79, R153). -/
def LoadLaw (i : Instr) (c : CoreId) (rd ra : GReg) (off : BitVec 14) (n : Nat) : Prop :=
  ∀ (s s1 s2 : State) (bs : List Byte),
    Issues s c.toNat ⟨4, [rd.toNat, ra.toNat], false⟩ s1 →
    let x := getCore s1 c.toNat
    let a := (gpr x ra.toNat + off.signExtend 64).toNat
    (∀ o, placeOf a ≠ .ctl o) → a % n = 0 → inOwnPartition s1 c.toNat a = true → movesMeet x.moves a n = false →
    forward x a n = .miss → prefHit x a n = none → ownFull s1 c.toNat a = false →
    coreRead s1 c.toNat a n 2 = (s2, .ok s2 bs) →
    Does i s (commit (modCore s2 c.toNat fun y => { y with
        loads := y.loads ++ [⟨rd.toNat, .inl (signedWord bs), a, snapshotOf y, elapsed s2⟩] })
      c.toNat (getCore s c.toNat).pc ((getCore s c.toNat).pc + 4))

/-- A store of n bytes that issues with its address aligned, in the core's partition and outside the control space
enters the store buffer as its youngest entry's, and memory itself does not change yet (R63, R65, R79). -/
def StoreLaw (i : Instr) (c : CoreId) (rs ra : GReg) (off : BitVec 14) (n : Nat) : Prop :=
  ∀ (s s1 : State) (y : CoreSt),
    Issues s c.toNat ⟨4, [rs.toNat, ra.toNat], true⟩ s1 →
    let x := getCore s1 c.toNat
    let a := (gpr x ra.toNat + off.signExtend 64).toNat
    (∀ o, placeOf a ≠ .ctl o) → a % n = 0 → inOwnPartition s1 c.toNat a = true →
    gate s1 (coreReq s1 c.toNat) a true ≠ some .unmapped →
    bufferStore x a (natLe n (gpr x rs.toNat).toNat) true false = some y →
    Does i s (commit (setCore s1 c.toNat y) c.toNat (getCore s c.toNat).pc ((getCore s c.toNat).pc + 4)) ∧
    SameMemory s1 (commit (setCore s1 c.toNat y) c.toNat (getCore s c.toNat).pc ((getCore s c.toNat).pc + 4))

/-- The die that a signal comes from: a core's, or that of a port of Clearing (R88, R304). -/
def signalDie (g : Signal) : Nat := if g.source < 4096 then g.source / 1024 else g.source - 4096

/-- A core that runs nothing but what it is told to: no load outstanding, no run-ahead, no halt or double trap on its
way, and no job that its events could end. -/
def Plain (s : State) (c : Nat) : Prop :=
  let x := getCore s c
  x.loads = [] ∧ x.ra = none ∧ x.halting = false ∧ x.dbl = none ∧ x.resetting = none ∧ s.jobs = []

/-- The state after a press command of core c has entered its queue and the press has done what follows by itself
(R117, R118, R120). -/
def pressQueued (s : State) (c : Nat) (p : PressCmd) (f : CoreSt → CoreSt) : State :=
  pressAdvance 40 (modCl (modCore s c f) (c / 16) fun x => setQueue x (c % 16) (pressQueue x (c % 16) ++ [p])) (c / 16)

/-- A press that takes commands of core c: neither failed nor absent, fewer than 16 queued (R117, R128, R129). -/
def PressTakes (s : State) (c : Nat) : Prop :=
  (getCl s (c / 16)).failed = false ∧ (getCl s (c / 16)).absent = false ∧
    (pressQueue (getCl s (c / 16)) (c % 16)).length < 16

/-- A press tensor descriptor that issues: its kind is 1, its reserved fields are zero, and it meets the rules of
addresses (R108, R109). -/
def PressTensor (s : State) (c : Nat) (d : Nat) : Prop :=
  let t := pressDesc (dreg (getCore s c) d).toNat
  t.kind = 1 ∧ t.rsv = false ∧ pressFault (c / 16) t = none

/-- A press that works: powered, neither failed nor absent. -/
def PressRuns (s : State) (k : Nat) : Prop :=
  (getCl s k).failed = false ∧ (getCl s k).absent = false ∧ (getCl s k).power = .on

/-- A row-mode operation i of core c, its func and its number of sources: at supervisor level in the maintenance state,
its rows in one subarray, it enters the queue of its unit; outside the maintenance state it takes trap 0x09 sub 4, and at
task level trap 0x05 (R62, Table 6.7). -/
def RowLaw (i : Instr) (c : CoreId) (ga gb : GReg) (func sources : Nat) : Prop :=
  let a := fun s1 : State => (gpr (getCore s1 c.toNat) ga.toNat).toNat % 32768
  let b := fun s1 : State => (gpr (getCore s1 c.toNat) gb.toNat).toNat
  let task := fun s1 : State => (getCw (getCore s1 c.toNat) 0).getLsbD 0
  let one := fun s1 : State => ∀ r ∈ ([physRow (b s1 % 32768), physRow (fieldNat (b s1) 16 15)]).take sources,
    sameSubarray (physRow (a s1)) r = true
  CommitLaw i c 4 [ga.toNat, gb.toNat] true
    (fun s1 => task s1 = false ∧ one s1 ∧ s1.start.maint = true ∧
      queuesFull s1 c.toNat [(physRow (a s1)).1 / 2] = false)
    (fun s1 => enqueueNb s1 c.toNat [(physRow (a s1)).1 / 2] (.row func (a s1) (b s1))) ∧
  TrapLaw i c 4 [ga.toNat, gb.toNat] true (fun s1 => task s1 = false ∧ one s1 ∧ s1.start.maint = false)
    (fun s1 => ⟨9, 4, a s1⟩) ∧
  TrapLaw i c 4 [ga.toNat, gb.toNat] true (fun s1 => task s1 = true)
    (fun _ => ⟨5, 0, encRow 0 ga.toNat gb.toNat func 0⟩)

/-- A synchronous cache instruction i of core c on the sequence that ga names, at the level it needs, with older stores
drained: where f gives the change of the record read and the state word it makes, the change stands and the core waits
for its distribution (R229). -/
def CacheLaw (i : Instr) (c : CoreId) (rd ga gb : GReg) (super : Bool)
    (f : State → SeqRec → Nat → Option (State × Nat)) : Prop :=
  ∀ (s s1 s2 s3 : State) (r : SeqRec) (w : Nat),
    let x := getCore s1 c.toNat
    let seq := (gpr x ga.toNat).toNat % 4096
    let a := seqAddr s1 c.toNat seq
    Issues s c.toNat ⟨4, [rd.toNat, ga.toNat, gb.toNat], true⟩ s1 → (super = true → (getCw x 0).getLsbD 0 = false) →
    seq < seqSize s1 c.toNat → released s1 c.toNat = true → x.deferred = none →
    readRecord s1 (partNum s1 c.toNat) (some c.toNat) a = .ok s2 r → f s2 r seq = some (s3, w) →
    Does i s (modCore s3 c.toNat fun y => { y with
      wait := some (.cache rd.toNat w seq a), waitSince := elapsed s3 })

/-- A state word with its generation one higher, written into its record. -/
def nextWord (s : State) (r : SeqRec) (w : SeqState) : Option (State × Nat) :=
  if r.word.gen < 2 ^ 32 - 1 then
    let x := { w with gen := r.word.gen + 1 }.word
    some ({ writeStruct s r.addr 8 x with seqOps := s.seqOps + 1 }, x)
  else none

/-- Register off is one that requester r may write and that is being served (R510, R512). -/
def Writable (s : State) (r : Req) (off : Nat) : Prop :=
  standing s r off true = .allowed ∧ (byFirmware off = true → s.comp.state = .firmware)

/-- Command i of core c, an instruction of n bytes on the registers regs, commits: where R relates the state after its
fetch to one that has its effects, the next instruction follows in that one. -/
def EffectLaw (i : Instr) (c : CoreId) (n : Nat) (regs : List Nat) (R : State → State → Prop) : Prop :=
  ∀ s s1 s2, Issues s c.toNat ⟨n, regs, true⟩ s1 → R s1 s2 →
    Does i s (commit s2 c.toNat (getCore s c.toNat).pc ((getCore s c.toNat).pc + BitVec.ofNat 64 n))

/-- t is s after a draw over the entries xs with weights ws that keep has cut (R279): entry 0 at a temperature of 0; entry
0 with the flag nv where the total is zero or not finite; else the entry that the next word of the generator draws. -/
def Drawn (s : State) (c rd tau : Nat) (xs : List (Nat × Nat)) (ws : List Nat) (keep : List Nat → List Nat)
    (t : State) : Prop :=
  let token := fun i : Nat => BitVec.ofNat 64 (xs.getD i (0, 0)).1
  let bad := badTotal ((runningSums 0 ws).getLast?.getD 0)
  (abs32 tau = 0 ∧ t = modCore s c fun x => setGpr x rd (token 0)) ∨
  (abs32 tau ≠ 0 ∧ bad = true ∧ t = modCore s c fun x => setFlags (setGpr x rd (token 0)) flagNv) ∨
  (abs32 tau ≠ 0 ∧ bad = false ∧ ∃ b, (getCore s c).bind = some b ∧ t = modCore (takeBlocks s c b 1).1 c fun x =>
    setGpr x rd (token (drawEntry (keep ws) ((philox b.key (b.counter % 2 ^ 64)).getD 0 0))))

/-- Command i of core c issues and waits: where R relates the state after its fetch to the one in which it has begun to
wait or has taken another effect that does not commit it, that one is the result. -/
def BeginLaw (i : Instr) (c : CoreId) (n : Nat) (regs : List Nat) (R : State → State → Prop) : Prop :=
  ∀ s s1 s2, Issues s c.toNat ⟨n, regs, true⟩ s1 → R s1 s2 → Does i s s2

/-- The collective commands by their op (Table 10.5). -/
def collectiveOf (p : PartId) (q : BitVec 2) : Nat → Option Instr
  | 4 => some (.allReduce p q)
  | 5 => some (.reduceScatter p q)
  | 6 => some (.allGather p q)
  | 7 => some (.broadcast p q)
  | 8 => some (.barrierCollective p q)
  | _ => none

/-- A frame x with the next number arrives at port n, which is up, and s1 is the state in which it is delivered (R341). -/
def Arrives (s : State) (n : Nat) (x : Frame) (s1 : State) : Prop :=
  (getPort s n).state = .up ∧ x.lseq.toNat = (getPort s n).expects ∧
    s1 = setPort s n { getPort s n with rxSeq := x.lseq.toNat, unacked := true, seen := elapsed s }

/-- The commands by which a frame of each type arrives, other than an acknowledgement, link control and one to be forwarded
(Table 10.4). -/
def arrivalOf (n : PortId) (x : Frame) : Nat → Option Instr
  | 1 => some (.writeFrame n x)
  | 2 => some (.readRequestFrame n x)
  | 3 => some (.readResponseFrame n x)
  | 4 => some (.collectiveDataFrame n x)
  | 5 => some (.signalFrame n x)
  | 6 => some (.writeResponseFrame n x)
  | _ => none

/-- The state after a delivered frame has been handled: its bytes counted, its credits given back (R340). -/
def handled (s : State) (n : Nat) (x : Frame) : State :=
  giveCredit (bump s 0x0A 8 x.payload.length (.port n)) n x.vc.toNat (frameCredits x)

/-- Command i of the service port takes s to t, with a status and data in answer to sequence number seq, which is kept
for a repetition (R477). -/
def Answered (i : Instr) (s t : State) (seq status : Nat) (data : List Byte) : Prop :=
  Does i s t ∧ t.comp.lastSeq = some seq ∧ t.comp.lastResp = BitVec.ofNat 8 status :: data ∧
    t.out.head? = some (.service seq (BitVec.ofNat 8 status :: data))

end Sys2Proof.Machine
end

