-- ==== Sys2Proof/Certificates/Slice0/Obligations.lean ====
section
/-! DEFINITION. What is to be proved about the device: statements of the manual's numbered rules, where each command
has its effect, and what it leaves alone. -/

open Sys2Proof Sys2Proof.Machine

/-! ### The queue, time and the state after a start -/

/-- A step has the effect of the command at the front of the queue on the device with the queue's rest. -/
def Obligations.StepRunsFront : Prop :=
  ∀ (s : State) (c : Instr) (rest : List Instr), s.pending = c :: rest → step s = exec c { s with pending := rest }

/-- With no command waiting a nanosecond of the hallmark passes while the module has power, and nothing else changes
(the model's choice: log entry 4). No command stops the device, whatever its state. -/
def Obligations.StepAlwaysAnswers : Prop :=
  (∀ s : State, s.pending = [] →
     step s = .next (if s.start.phase = .unpowered then s else { s with hallmark := s.hallmark + 1 })) ∧
  (∀ s : State, Runs s)

/-- Right after a start nothing waits, the hallmark counts from zero, partition 0 holds every cluster, every slice,
4,096 sequences and 1,024 barriers and the other partitions hold nothing (R326, R356, R416); every core is in its
reset state (R104). -/
def Obligations.ResetState : Prop :=
  State.reset.pending = [] ∧ State.reset.hallmark = 0 ∧ State.reset.start.phase = .ready ∧
    (∀ c, getCore State.reset c = CoreSt.idle) ∧ CoreSt.idle.run = .reset ∧
    getPart State.reset 0 = ⟨List.range 256, 2 ^ 64 - 1, 4096, 1024, 0x100, 0, 0⟩ ∧
    ∀ p, p ≠ 0 → getPart State.reset p = ⟨[], 0, 0, 0, 0, 0, 0⟩

/-- Memory is in its canonical form right after a start. -/
def Obligations.ResetCanonical : Prop := Canonical State.reset

/-- Every step keeps memory in its canonical form: addresses strictly rising, and no byte listed that reads the same
unlisted. -/
def Obligations.StepKeepsCanonical : Prop := ∀ s t : State, Canonical s → step s = .next t → Canonical t

/-! ### Scalar instructions -/

/-- The scalar instructions on two registers give their 64-bit results, wrapping; a shift takes the low 6 bits of its
amount; MULH is the high half of the signed product; SEL chooses by bit 0 of p (R64, Table 3.8). The scalar
instructions with an immediate: AND, OR and XOR extend it with zeros, ADD and SLT with its sign (R64); LI replaces one
halfword and clears or keeps the others (Table 3.8). That SLT compares as signed is a reading of the table (log entry
21). -/
def Obligations.ScalarArithmetic : Prop :=
  (∀ (c : CoreId) (rd ra rb : GReg) (p : PReg) (uns : Bool),
     let regs := [rd.toNat, ra.toNat, rb.toNat]
     let a := fun x : CoreSt => gpr x ra.toNat
     let b := fun x : CoreSt => gpr x rb.toNat
     AluLaw (.add c rd ra rb) c rd regs (fun x => a x + b x) ∧
     AluLaw (.sub c rd ra rb) c rd regs (fun x => a x - b x) ∧
     AluLaw (.and c rd ra rb) c rd regs (fun x => a x &&& b x) ∧
     AluLaw (.or c rd ra rb) c rd regs (fun x => a x ||| b x) ∧
     AluLaw (.xor c rd ra rb) c rd regs (fun x => a x ^^^ b x) ∧
     AluLaw (.shl c rd ra rb) c rd regs (fun x => a x <<< ((b x).toNat % 64)) ∧
     AluLaw (.shr c rd ra rb) c rd regs (fun x => a x >>> ((b x).toNat % 64)) ∧
     AluLaw (.sha c rd ra rb) c rd regs (fun x => (a x).sshiftRight ((b x).toNat % 64)) ∧
     AluLaw (.mul c rd ra rb) c rd regs (fun x => a x * b x) ∧
     AluLaw (.mulh c rd ra rb) c rd regs (fun x => BitVec.ofInt 64 ((a x).toInt * (b x).toInt / 2 ^ 64)) ∧
     AluLaw (.slt c rd ra rb uns) c rd regs
       (fun x => if (if uns then decide ((a x).toNat < (b x).toNat) else decide ((a x).toInt < (b x).toInt)) then 1 else 0) ∧
     AluLaw (.sel c rd ra rb p) c rd regs (fun x => if (preg x p.toNat).getLsbD 0 then a x else b x)) ∧
  (∀ (c : CoreId) (rd ra : GReg) (imm : BitVec 16) (amt : BitVec 6) (hw : BitVec 2),
     let regs := [rd.toNat, ra.toNat]
     let a := fun x : CoreSt => gpr x ra.toNat
     AluLaw (.addImmediate c rd ra imm) c rd regs (fun x => a x + imm.signExtend 64) ∧
     AluLaw (.andImmediate c rd ra imm) c rd regs (fun x => a x &&& imm.setWidth 64) ∧
     AluLaw (.orImmediate c rd ra imm) c rd regs (fun x => a x ||| imm.setWidth 64) ∧
     AluLaw (.xorImmediate c rd ra imm) c rd regs (fun x => a x ^^^ imm.setWidth 64) ∧
     AluLaw (.sltImmediate c rd ra imm) c rd regs
       (fun x => if (a x).toInt < (imm.signExtend 64).toInt then 1 else 0) ∧
     AluLaw (.shlImmediate c rd ra amt) c rd regs (fun x => a x <<< amt.toNat) ∧
     AluLaw (.shrImmediate c rd ra amt) c rd regs (fun x => a x >>> amt.toNat) ∧
     AluLaw (.shaImmediate c rd ra amt) c rd regs (fun x => (a x).sshiftRight amt.toNat) ∧
     AluLaw (.li c rd hw false imm) c rd [rd.toNat] (fun _ => (imm.setWidth 64) <<< (16 * hw.toNat)) ∧
     AluLaw (.li c rd hw true imm) c rd [rd.toNat, rd.toNat] (fun x =>
       (gpr x rd.toNat &&& ~~~((0xFFFF : Word) <<< (16 * hw.toNat))) ||| (imm.setWidth 64) <<< (16 * hw.toNat)))

/-- Conditional branches go to own address + 4 × offset when their condition holds, and otherwise to the next
instruction (R64, Table 3.8). Jumps and calls go to their targets; a call leaves own address + 4 in g31; a register
jump whose target has bits [1:0] that are not zero takes trap 0x04 with the target in cw_tval (R65, Table 3.8). A
branch that resolved against its prediction lets the core issue again, and changes nothing else of it (R85). -/
def Obligations.ControlFlow : Prop :=
  (∀ (c : CoreId) (ra rb : GReg) (off : BitVec 16),
     let a := fun x : CoreSt => gpr x ra.toNat
     let b := fun x : CoreSt => gpr x rb.toNat
     BranchLaw (.beq c ra rb off) c [ra.toNat, rb.toNat] off (fun x => decide (a x = b x)) ∧
     BranchLaw (.bne c ra rb off) c [ra.toNat, rb.toNat] off (fun x => decide (a x ≠ b x)) ∧
     BranchLaw (.blt c ra rb off) c [ra.toNat, rb.toNat] off (fun x => decide ((a x).toInt < (b x).toInt)) ∧
     BranchLaw (.bge c ra rb off) c [ra.toNat, rb.toNat] off (fun x => decide ((b x).toInt ≤ (a x).toInt))) ∧
  (∀ (c : CoreId) (ra : GReg) (off : BitVec 25) (s s1 : State),
     let x := getCore s c.toNat
     let aligned := fun r : Nat => (gpr x r).toNat % 4 = 0
     (Issues s c.toNat ⟨4, [], false⟩ s1 → ∃ t, Does (.jump c off) s t ∧
       (getCore t c.toNat).pc = x.pc + 4 * off.signExtend 64 ∧ SameButFlow x (getCore t c.toNat) ∧
       OnlyCore c.toNat s1 t) ∧
     (Issues s c.toNat ⟨4, [31], false⟩ s1 → ∃ t, Does (.call c off) s t ∧
       (getCore t c.toNat).pc = x.pc + 4 * off.signExtend 64 ∧
       (∀ r, gpr (getCore t c.toNat) r = if r = 31 then x.pc + 4 else gpr x r) ∧ OnlyCore c.toNat s1 t) ∧
     (Issues s c.toNat ⟨4, [ra.toNat], false⟩ s1 → aligned ra.toNat → ∃ t, Does (.jumpRegister c ra) s t ∧
       (getCore t c.toNat).pc = gpr x ra.toNat ∧ SameButFlow x (getCore t c.toNat) ∧ OnlyCore c.toNat s1 t) ∧
     (Issues s c.toNat ⟨4, [ra.toNat, 31], false⟩ s1 → aligned ra.toNat → ∃ t, Does (.callRegister c ra) s t ∧
       (getCore t c.toNat).pc = gpr x ra.toNat ∧
       (∀ r, gpr (getCore t c.toNat) r = if r = 31 then x.pc + 4 else gpr x r) ∧ OnlyCore c.toNat s1 t) ∧
     (Issues s c.toNat ⟨4, [31], false⟩ s1 → aligned 31 → ∃ t, Does (.ret c) s t ∧
       (getCore t c.toNat).pc = gpr x 31 ∧ SameButFlow x (getCore t c.toNat) ∧ OnlyCore c.toNat s1 t) ∧
     (Issues s c.toNat ⟨4, [ra.toNat], false⟩ s1 → ¬ aligned ra.toNat → x.loads = [] →
       Does (.jumpRegister c ra) s (takeTrap s1 c.toNat ⟨4, 0, (gpr x ra.toNat).toNat⟩ x.pc false false))) ∧
  (∀ (c : CoreId) (s : State), (getCore s c.toNat).mispred = true → ∃ t, Does (.branchMisprediction c) s t ∧
     getCore t c.toNat = { getCore s c.toNat with mispred := false } ∧ OnlyCore c.toNat s t)

/-- The long form of OR reads every control word that a chapter allots, at either level, and any other number takes
trap 0x01 (R58, R66). The long form of OR writes a control word: at task level only cw_fmode, cw_fstat, cw_event and
cw_timer, any other taking trap 0x05; a number that no chapter allots takes trap 0x01 (R58). -/
def Obligations.ControlWords : Prop :=
  (∀ (c : CoreId) (rd : GReg) (cw : BitVec 6),
     (cwAllotted cw.toNat = true →
       CommitLaw (.orControlWordRead c rd cw) c 8 [rd.toNat] false (fun _ => True) fun s1 =>
         modCore s1 c.toNat fun x => setGpr x rd.toNat (readCw s1 c.toNat cw.toNat)) ∧
     (cwAllotted cw.toNat = false →
       TrapLaw (.orControlWordRead c rd cw) c 8 [rd.toNat] false (fun _ => True) fun _ =>
         ⟨1, 0, encLong 0 (fourRegs rd.toNat (cw.toNat % 32) 0 0)⟩)) ∧
  (∀ (c : CoreId) (cw : BitVec 6) (ra : GReg),
     let task := fun s1 : State => (getCw (getCore s1 c.toNat) 0).getLsbD 0
     let open_ := cw.toNat = 0x06 ∨ cw.toNat = 0x07 ∨ cw.toNat = 0x0A ∨ cw.toNat = 0x0B
     let word := encLong 0 (fourRegs (cw.toNat % 32) ra.toNat 0 0)
     (cwAllotted cw.toNat = true →
       CommitLaw (.orControlWordWrite c cw ra) c 8 [ra.toNat] true (fun s1 => task s1 = false ∨ open_) fun s1 =>
         writeCw s1 c.toNat cw.toNat (gpr (getCore s1 c.toNat) ra.toNat)) ∧
     (cwAllotted cw.toNat = true →
       TrapLaw (.orControlWordWrite c cw ra) c 8 [ra.toNat] true (fun s1 => task s1 = true ∧ ¬ open_) fun _ =>
         ⟨5, 0, word⟩) ∧
     (cwAllotted cw.toNat = false →
       TrapLaw (.orControlWordWrite c cw ra) c 8 [ra.toNat] true (fun _ => True) fun _ => ⟨1, 0, word⟩))

/-- Trap entry, outside a handler: cw_tpc, cw_tcause and cw_tval are written, cw_status.ppl takes pl, pl becomes 0 and
tact 1, the prefetch buffer is cleared, fetch goes on at cw_tvec, and no other state is saved or changed (R99). -/
def Obligations.TrapEntry : Prop :=
  ∀ (s : State) (c : Nat) (t : TrapInfo) (tpc : Word) (dfr more : Bool),
    (getCore s c).ra = none → (getCw (getCore s c) 0).getLsbD 2 = false →
      TrapEntered (getCore s c) (getCore (takeTrap s c t tpc dfr more) c) t tpc dfr more
        ((getCw (getCore s c) 0).getLsbD 0) ∧
      SameMemory s (takeTrap s c t tpc dfr more) ∧
      ∀ d, d ≠ c → getCore (takeTrap s c t tpc dfr more) d = getCore s d

/-! ### Loads and stores -/

/-- Scalar loads of 1, 2, 4 and 8 bytes take their bytes when they issue (Table 3.8, R65). The reply of a core's only
outstanding load arrives: rd takes it, the load is done, and no other register changes (R65). -/
def Obligations.Loads : Prop :=
  (∀ (c : CoreId) (rd ra : GReg) (off : BitVec 14),
     LoadLaw (.ldb c rd ra off) c rd ra off 1 ∧ LoadLaw (.ldh c rd ra off) c rd ra off 2 ∧
     LoadLaw (.ldw c rd ra off) c rd ra off 4 ∧ LoadLaw (.ldd c rd ra off) c rd ra off 8) ∧
  (∀ (c : CoreId) (rd : GReg) (s : State) (w : Word) (a at_ : Nat) (k : Snapshot),
     let x := getCore s c.toNat
     x.loads = [⟨rd.toNat, .inl w, a, k, at_⟩] → x.ra = none → x.halting = false → x.dbl = none → s.jobs = [] →
     ∃ t, Does (.loadReturn c rd) s t ∧
       (∀ r, gpr (getCore t c.toNat) r = if r = rd.toNat ∧ rd.toNat ≠ 0 then w else gpr x r) ∧
       (getCore t c.toNat).loads = [] ∧ (getCore t c.toNat).pc = x.pc ∧ (getCore t c.toNat).v = x.v ∧ OnlyCore c.toNat s t)

/-- A misaligned load or store, in any place of the address map that is not the control space, takes trap 0x04 with
the address in cw_tval, and reads and writes nothing (R65). A vector instruction whose fmt names no vector format
takes trap 0x0C with the code in cw_tval (R67). -/
def Obligations.OperandTraps : Prop :=
  (∀ (c : CoreId) (rd ra : GReg) (off : BitVec 14),
     let at_ := fun s1 : State => (gpr (getCore s1 c.toNat) ra.toNat + off.signExtend 64).toNat
     let bad := fun (n : Nat) (s1 : State) => (∀ o, placeOf (at_ s1) ≠ .ctl o) ∧ at_ s1 % n ≠ 0
     let regs := [rd.toNat, ra.toNat]
     TrapLaw (.ldh c rd ra off) c 4 regs false (bad 2) (fun s1 => ⟨4, 0, at_ s1⟩) ∧
     TrapLaw (.ldw c rd ra off) c 4 regs false (bad 4) (fun s1 => ⟨4, 0, at_ s1⟩) ∧
     TrapLaw (.ldd c rd ra off) c 4 regs false (bad 8) (fun s1 => ⟨4, 0, at_ s1⟩) ∧
     TrapLaw (.sth c rd ra off) c 4 regs true (bad 2) (fun s1 => ⟨4, 0, at_ s1⟩) ∧
     TrapLaw (.stw c rd ra off) c 4 regs true (bad 4) (fun s1 => ⟨4, 0, at_ s1⟩) ∧
     TrapLaw (.std c rd ra off) c 4 regs true (bad 8) (fun s1 => ⟨4, 0, at_ s1⟩)) ∧
  (∀ (c : CoreId) (vd va vb : VReg) (pk : PReg) (fmt : BitVec 4) (half : Bool), 2 < fmt.toNat →
     let e : State → TrapInfo := fun _ => ⟨0xC, 0, fmt.toNat⟩
     TrapLaw (.vadd c vd va vb pk fmt) c 4 [] false (fun _ => True) e ∧
     TrapLaw (.vmul c vd va vb pk fmt) c 4 [] false (fun _ => True) e ∧
     TrapLaw (.vfma c vd va vb pk fmt) c 4 [] false (fun _ => True) e ∧
     TrapLaw (.vredSum c vd va pk fmt) c 4 [] false (fun _ => True) e ∧
     TrapLaw (.vrope c vd va vb pk fmt half) c 4 [] false (fun _ => True) e)

/-- Scalar stores of 1, 2, 4 and 8 bytes enter the store buffer (Table 3.8, R79). A store that falls in the line of
the youngest entry merges into it; otherwise it takes a new entry, and with all 16 busy it finds none (R79). -/
def Obligations.Stores : Prop :=
  (∀ (c : CoreId) (rs ra : GReg) (off : BitVec 14),
     StoreLaw (.stb c rs ra off) c rs ra off 1 ∧ StoreLaw (.sth c rs ra off) c rs ra off 2 ∧
     StoreLaw (.stw c rs ra off) c rs ra off 4 ∧ StoreLaw (.std c rs ra off) c rs ra off 8) ∧
  (∀ (x : CoreSt) (a : Nat) (bs : List Byte),
     (∀ e r, x.buf = r ++ [e] → e.control = false → e.line = a / 128 → ∃ y, bufferStore x a bs true false = some y ∧
       y.buf = r ++ [⟨e.line, setLineBytes e.bytes (a % 128) bs, false, e.stores ++ [(a, bs.length)]⟩]) ∧
     (∀ e r, x.buf = r ++ [e] → e.line ≠ a / 128 → x.buf.length < 16 → ∃ y, bufferStore x a bs true false = some y ∧
       y.buf = x.buf ++ [⟨a / 128, setLineBytes [] (a % 128) bs, false, [(a, bs.length)]⟩]) ∧
     (∀ e r, x.buf = r ++ [e] → e.line ≠ a / 128 → 16 ≤ x.buf.length → bufferStore x a bs true false = none))

/-- The oldest entry of the store buffer, a run of bytes within an 8-byte word of a local store whose word is good and
to which the way is free, leaves the buffer, with no command waiting for the press of the cluster: the bytes stand in
memory, every other byte is as it was, and no failure is noted (R79, R429). A store failure reaches the core: the
first waits to be reported, and one that finds another unreported is lost and sets cw_tcause.more (R81). -/
def Obligations.StoreDrains : Prop :=
  (∀ (c : CoreId) (s : State) (e : StoreEnt) (rest : List StoreEnt) (a d off : Nat) (bs : List Byte),
     let x := getCore s c.toNat
     x.buf = e :: rest → e.control = false → storeRuns e.line e.bytes = [(a, bs)] → x.moves = [] → x.halting = false →
     x.dbl = none → s.jobs = [] → placeOf a = .ls d off → populated s d = true → dieUp s (d / 1024) = true →
     (getCl s (d / 16)).power = .on → populated s c.toNat = true → dieUp s (c.toNat / 1024) = true →
     (getCl s (c.toNat / 16)).power = .on → 0 < bs.length → a % 8 + bs.length ≤ 8 →
     crossing s false (c.toNat / 1024) (d / 1024) = .free → (getCl s (c.toNat / 16)).queues = [] →
     verdictOf s ⟨a / 8 * 8, 1, 8⟩ = .good →
     ∃ t, Does (.storeBufferDrain c) s t ∧
       (∀ b, rdByte t b = if a ≤ b ∧ b < a + bs.length then bs.getD (b - a) 0 else rdByte s b) ∧
       (getCore t c.toNat).buf = rest ∧ (getCore t c.toNat).failed = x.failed ∧ (getCore t c.toNat).g = x.g) ∧
  (∀ (c : CoreId) (s : State) (t : TrapInfo) (r : List TrapInfo),
     let x := getCore s c.toNat
     x.failed = t :: r → x.halting = false → x.dbl = none → s.jobs = [] →
     ∃ u, Does (.storeFailure c) s u ∧ (getCore u c.toNat).failed = r ∧
       (x.deferred = none → (getCore u c.toNat).deferred = some t ∧ (getCore u c.toNat).more = x.more) ∧
       (∀ f, x.deferred = some f → (getCore u c.toNat).deferred = some f ∧ (getCore u c.toNat).more = true) ∧
       OnlyCore c.toNat s u)

/-! ### Vector instructions -/

/-- Lane arithmetic under a predicate, in FP32, FP16 or BF16 (R53, R57, R67). A lane function of one operand, and a
permutation: lane j of VPERM takes the lane of va that vb lane j names, or zero where its top bit is 1 (R53, R71). The
results of VEXP and VRSQ are those that the implementation chooses within the bound R53 sets (log entry 5). -/
def Obligations.Lanes : Prop :=
  (∀ (c : CoreId) (vd va vb : VReg) (pk : PReg) (fmt : BitVec 4) (w : Nat), vecWidth fmt.toNat = some w →
     let a := fun (x : CoreSt) (j : Nat) => laneOf w (vreg x va.toNat) j
     let b := fun (x : CoreSt) (j : Nat) => laneOf w (vreg x vb.toNat) j
     LaneLaw (.vadd c vd va vb pk fmt) c vd pk w (fun x j => (addLane fmt.toNat (rmOf x) (ftzOf x) (a x j) (b x j)).1) ∧
     LaneLaw (.vmul c vd va vb pk fmt) c vd pk w (fun x j => (mulLane fmt.toNat (rmOf x) (ftzOf x) (a x j) (b x j)).1) ∧
     LaneLaw (.vfma c vd va vb pk fmt) c vd pk w (fun x j =>
       (fmaLane fmt.toNat (rmOf x) (ftzOf x) (a x j) (b x j) (laneOf w (vreg x vd.toNat) j)).1) ∧
     LaneLaw (.vmax c vd va vb pk fmt none) c vd pk w (fun x j => (maxLane fmt.toNat (a x j) (b x j)).1)) ∧
  (∀ (c : CoreId) (vd va vb : VReg) (pk : PReg) (fmt : BitVec 4) (w : Nat),
     (vecWidth fmt.toNat = some w →
       LaneLaw (.vexp c vd va 0 pk fmt) c vd pk w (fun x j =>
         (expLane fmt.toNat (rmCode x) (ftzOf x) (laneOf w (vreg x va.toNat) j)).1) ∧
       LaneLaw (.vrsq c vd va 0 pk fmt) c vd pk w (fun x j =>
         (rsqLane fmt.toNat (rmCode x) (ftzOf x) (laneOf w (vreg x va.toNat) j)).1)) ∧
     (permWidth fmt.toNat = some w →
       LaneLaw (.vperm c vd va vb pk fmt) c vd pk w (fun x j =>
         let k := laneOf w (vreg x vb.toNat) j
         if bitNat k (w - 1) then 0 else laneOf w (vreg x va.toNat) (k % (1024 / w)))))

/-- A reduction leaves its result in lane 0 of vd and zero in every other lane: a lane predicated off enters the sum
as -0 and the maximum as -∞ (R70). The compare form of VMAX also writes a predicate register: bit j is 1 where lane j
is active and was taken from va (R69); p0 as its target takes trap 0x01. -/
def Obligations.Reductions : Prop :=
  (∀ (c : CoreId) (vd va : VReg) (pk : PReg) (fmt : BitVec 4) (w : Nat), vecWidth fmt.toNat = some w →
     let lanes := fun (x : CoreSt) (off : Nat) => (List.range (1024 / w)).map fun i =>
       if (preg x pk.toNat).getLsbD i then laneOf w (vreg x va.toNat) i else off
     let levels := if w = 32 then 5 else 6
     VectorLaw (.vredSum c vd va pk fmt) c vd (fun x => BitVec.ofNat 1024
       (treeReduce (addLane fmt.toNat (rmOf x) (ftzOf x)) levels
         (lanes x (signBit (floatFmt fmt.toNat) true)) 0).1) ∧
     VectorLaw (.vredMax c vd va pk fmt) c vd (fun x => BitVec.ofNat 1024
       (treeReduce (fun a b => ((maxLane fmt.toNat a b).1, (maxLane fmt.toNat a b).2.2)) levels
         (lanes x (infCode (floatFmt fmt.toNat) true)) 0).1)) ∧
  (∀ (c : CoreId) (vd va vb : VReg) (pk q : PReg) (fmt : BitVec 4) (w : Nat), vecWidth fmt.toNat = some w →
     (q ≠ 0 → ∀ s s1, Issues s c.toNat ⟨4, [], false⟩ s1 → ∃ t, Does (.vmax c vd va vb pk fmt (some q)) s t ∧
       (∀ j, j < 1024 / w → (preg (getCore t c.toNat) q.toNat).getLsbD j =
         ((preg (getCore s c.toNat) pk.toNat).getLsbD j &&
           (maxLane fmt.toNat (laneOf w (vreg (getCore s c.toNat) va.toNat) j)
             (laneOf w (vreg (getCore s c.toNat) vb.toNat) j)).2.1)) ∧
       (∀ r, r ≠ q.toNat → preg (getCore t c.toNat) r = preg (getCore s c.toNat) r)) ∧
     TrapLaw (.vmax c vd va vb pk fmt (some 0)) c 4 [] false (fun _ => True) fun _ =>
       ⟨1, 0, encV 0x12 vd.toNat va.toNat vb.toNat pk.toNat fmt.toNat 8⟩)

/-- VROPE rotates pairs of lanes and VCVT converts a group of registers, each rounding once; with a format and a
register group that R73 and R74 accept, no loss in the source and no stochastic rounding, VCVT commits with the
destination group and its scales written and its flags set (R72 to R76). -/
def Obligations.RotationAndConversion : Prop :=
  ∀ (c : CoreId) (vd va vb vs vt : VReg) (pk : PReg) (fmt src dst : BitVec 4) (half : Bool) (n1 : BitVec 9) (w : Nat),
    (vecWidth fmt.toNat = some w → ∀ s s1, Issues s c.toNat ⟨4, [], false⟩ s1 →
      ∃ t, Does (.vrope c vd va vb pk fmt half) s t ∧
        VectorFrame (getCore s c.toNat) (getCore t c.toNat) vd.toNat ∧
        ∀ i, i < 1024 / w →
          let n := 1024 / w
          let x := getCore s c.toNat
          let j := if half then i % (n / 2) else i / 2 * 2
          let k := if half then i % (n / 2) + n / 2 else i / 2 * 2 + 1
          let lane := fun (r : VReg) (m : Nat) => laneOf w (vreg x r.toNat) m
          laneOf w (vreg (getCore t c.toNat) vd.toNat) i =
            if !(preg x pk.toNat).getLsbD j then lane vd i
            else if i = j then (rotLane fmt.toNat (rmOf x) true (lane va j) (lane vb j) (lane va k) (lane vb k)).1 % 2 ^ w
            else (rotLane fmt.toNat (rmOf x) false (lane va j) (lane vb k) (lane va k) (lane vb j)).1 % 2 ^ w) ∧
    (cvtFormat src.toNat = true → cvtFormat dst.toNat = true → n1.toNat + 1 ≤ 256 →
      cvtGroups vd.toNat va.toNat vs.toNat vt.toNat src.toNat dst.toNat (n1.toNat + 1) = false →
      (blockLen src.toNat = 0 ∨ (n1.toNat + 1) % blockLen src.toNat = 0) →
      (blockLen dst.toNat = 0 ∨ (n1.toNat + 1) % blockLen dst.toNat = 0) → src.toNat ≠ 0xA →
      ∀ s s1, Issues s c.toNat ⟨8, [], false⟩ s1 → rmCode (getCore s1 c.toNat) ≠ 4 →
        let x := getCore s1 c.toNat
        let from_ := cvtSource x va.toNat vs.toNat src.toNat (n1.toNat + 1)
        let to_ := encodeList dst.toNat (e4satOf x) (e5satOf x) (fun _ => rmOf x) from_.1
        ∃ t, Does (.vcvt c vd va vs vt src dst n1) s t ∧
          (getCore t c.toNat).v = (cvtWrite x vd.toNat vt.toNat dst.toNat to_.1 to_.2.1).v ∧
          getCw (getCore t c.toNat) 7 = getCw x 7 ||| BitVec.ofNat 64 ((from_.2 ||| to_.2.2) % 64) ∧
          (getCore t c.toNat).g = x.g ∧ (getCore t c.toNat).pc = (getCore s c.toNat).pc + 8 ∧ OnlyCore c.toNat s1 t)

/-- VLD of a vector from a local store, which meets no move and no store in the buffer, writes its 128 bytes,
little-endian, into the register (R67, R68). VST takes an entry of the store buffer of its own; VLD and VST take trap
0x01 for a sub above 2, a descriptor register above 15 or a predicate register above 7 (R60, R68, R79). -/
def Obligations.VectorMemory : Prop :=
  (∀ (c : CoreId) (v : VReg) (ga : GReg) (off : BitVec 12) (s s1 s2 : State) (bs : List Byte),
     Issues s c.toNat ⟨4, [ga.toNat], false⟩ s1 →
     let x := getCore s1 c.toNat
     let a := (gpr x ga.toNat + off.signExtend 64 * 128).toNat
     vmFault s1 c.toNat a 128 = false → movesMeet x.moves a 128 = false → forward x a 128 = .miss →
     coreRead s1 c.toNat a 128 2 = (s2, .ok s2 bs) →
     Does (.vld c v ga off 0) s (commit (modCore s2 c.toNat fun y => setVreg y v.toNat (BitVec.ofNat 1024 (leNat bs)))
       c.toNat (getCore s c.toNat).pc ((getCore s c.toNat).pc + 4))) ∧
  (∀ (c : CoreId) (v : BitVec 5) (ga : GReg) (off : BitVec 12) (sub : BitVec 4),
     (∀ (s s1 : State) (y : CoreSt), Issues s c.toNat ⟨4, [ga.toNat], true⟩ s1 →
       let x := getCore s1 c.toNat
       let a := (gpr x ga.toNat + off.signExtend 64 * 128).toNat
       vmFault s1 c.toNat a 128 = false → bufferStore x a (natLe 128 (vreg x v.toNat).toNat) false false = some y →
       Does (.vst c v ga off 0) s (commit (setCore s1 c.toNat y) c.toNat (getCore s c.toNat).pc
         ((getCore s c.toNat).pc + 4))) ∧
     ((2 < sub.toNat ∨ (sub.toNat = 1 ∧ 15 < v.toNat) ∨ (sub.toNat = 2 ∧ 7 < v.toNat)) →
       TrapLaw (.vld c v ga off sub) c 4 [ga.toNat] false (fun _ => True)
         (fun _ => ⟨1, 0, encVm 0x10 v.toNat ga.toNat off.toNat sub.toNat⟩) ∧
       TrapLaw (.vst c v ga off sub) c 4 [ga.toNat] true (fun _ => True)
         (fun _ => ⟨1, 0, encVm 0x11 v.toNat ga.toNat off.toNat sub.toNat⟩)))

/-! ### System instructions and events of a core -/

/-- WAIT returns as soon as cw_event AND ra is not zero: it clears the matched bits and writes them to rd; otherwise
the core waits until an event of its mask arrives; a mask of zero with rb = 0 takes trap 0x01 (R87). When the time of
a WAIT passes first it returns rd = 0 (R87). SIGNAL sends an event to a core of the partition after the release; an
event number above 47 takes trap 0x01, a target outside the partition or in an unpopulated cluster trap 0x04; the
event reaches its target in cw_event, the oldest first (R86, R88). -/
def Obligations.WaitsAndSignals : Prop :=
  (∀ (c : CoreId) (rd ra rb : GReg),
     let regs := [rd.toNat, ra.toNat, rb.toNat]
     let mask := fun s1 : State => gpr (getCore s1 c.toNat) ra.toNat
     let limit := fun s1 : State => gpr (getCore s1 c.toNat) rb.toNat
     let met := fun s1 : State => getCw (getCore s1 c.toNat) 0xA &&& mask s1
     CommitLaw (.wait c rd ra rb) c 4 regs true (fun s1 => met s1 ≠ 0) (fun s1 =>
       modCore s1 c.toNat fun x => { setGpr (setCw x 0xA (getCw x 0xA &&& ~~~(mask s1))) rd.toNat (met s1) with
         pref := [], prefOrder := [] }) ∧
     (∀ s s1, Issues s c.toNat ⟨4, regs, true⟩ s1 → met s1 = 0 → (mask s1 ≠ 0 ∨ limit s1 ≠ 0) →
       ∃ t, Does (.wait c rd ra rb) s t ∧ (getCore t c.toNat).run = .waiting ∧
         (getCore t c.toNat).wait = some (.event (mask s1) rd.toNat (if limit s1 = 0 then none else some (limit s1).toNat)) ∧
         (getCore t c.toNat).pc = (getCore s c.toNat).pc ∧ OnlyCore c.toNat s1 t) ∧
     TrapLaw (.wait c rd ra rb) c 4 regs true (fun s1 => mask s1 = 0 ∧ limit s1 = 0) fun _ =>
       ⟨1, 0, encS rd.toNat ra.toNat rb.toNat 0 0⟩) ∧
  (∀ (c : CoreId) (s : State) (mask : Word) (rd limit : Nat),
     let x := getCore s c.toNat
     x.wait = some (.event mask rd (some limit)) → (getCl s (c.toNat / 16)).paused = false →
     ∃ t, Does (.waitTimeout c) s t ∧ t.hallmark = s.hallmark + (limit - (x.waited + (elapsed s - x.seen))) ∧
       (getCore t c.toNat).wait = none ∧ (getCore t c.toNat).run = .running ∧
       (getCore t c.toNat).pc = x.pc + 4 ∧
       (∀ r, gpr (getCore t c.toNat) r = if r = rd ∧ rd ≠ 0 then 0 else gpr x r) ∧ SameMemory s t ∧
       getCw (getCore t c.toNat) 0xA = getCw x 0xA) ∧
  (∀ (c : CoreId) (ra : GReg) (imm : BitVec 7),
     let target := fun s1 : State => (gpr (getCore s1 c.toNat) ra.toNat).toNat % 4096
     let mine := fun s1 : State => populated s1 (target s1) = true ∧ partOf s1 (target s1) = partOf s1 c.toNat
     (imm.toNat ≤ 47 → CommitLaw (.signal c ra imm) c 4 [ra.toNat] true
       (fun s1 => mine s1 ∧ released s1 c.toNat = true ∧ (getCore s1 c.toNat).deferred = none)
       fun s1 => { s1 with signals := s1.signals ++ [⟨c.toNat, target s1, imm.toNat⟩] }) ∧
     (47 < imm.toNat → TrapLaw (.signal c ra imm) c 4 [ra.toNat] true (fun _ => True) fun _ =>
       ⟨1, 0, encS 0 ra.toNat 0 imm.toNat 3⟩) ∧
     (imm.toNat ≤ 47 → TrapLaw (.signal c ra imm) c 4 [ra.toNat] true (fun s1 => ¬ mine s1) fun s1 =>
       ⟨4, 0, target s1⟩) ∧
     ∀ (s : State) (g : Signal) (rest : List Signal), s.signals = g :: rest → g.target = c.toNat →
       takesEvents s c.toNat = true → (getCore s c.toNat).wait = none →
       crossing s false (signalDie g) (c.toNat / 1024) ≠ .held →
       ∃ t, Does (.signalArrival c) s t ∧ t.signals = rest ∧
         getCw (getCore t c.toNat) 0xA = getCw (getCore s c.toNat) 0xA ||| (1 <<< g.event)) ∧
  (∀ (c : CoreId) (s : State) (g : Signal) (rest : List Signal) (mask : Word) (rd : Nat) (limit : Option Nat),
     let x := getCore s c.toNat
     let set : Word := getCw x 0xA ||| (1 <<< g.event)
     s.signals = g :: rest → g.target = c.toNat → takesEvents s c.toNat = true →
     crossing s false (signalDie g) (c.toNat / 1024) ≠ .held →
     x.wait = some (.event mask rd limit) → (getCl s (c.toNat / 16)).paused = false → set &&& mask ≠ 0 →
     ∃ t, Does (.signalArrival c) s t ∧ (getCore t c.toNat).wait = none ∧ (getCore t c.toNat).run = .running ∧
       (getCore t c.toNat).pc = x.pc + 4 ∧ getCw (getCore t c.toNat) 0xA = set &&& ~~~mask ∧
       (∀ r, gpr (getCore t c.toNat) r = if r = rd ∧ rd ≠ 0 then set &&& mask else gpr x r) ∧ SameMemory s t)

/-- FENCE with imm7[0] = 1 clears the prefetch buffer once older stores, moves, appends, products and drains have
completed; with imm7[1] = 1 it invalidates the instruction cache; with imm7[1:0] = 0b00 it takes trap 0x01 (R78, R89).
HMARK writes the hallmark (R90). A failure that waits to be reported is taken at a release point as a trap with
cw_tcause.dfr set, in place of the release (R81, R97). TRAPRET sets cw_status.pl to ppl and tact to 0 and resumes at
cw_tpc; a deferred store failure is taken there as a trap; at task level it takes trap 0x05 (R62, R100). HALT drains,
and the core is then halted (R96). -/
def Obligations.ReleasePoints : Prop :=
  (∀ (c : CoreId) (rd : GReg),
     let done := fun s1 : State => released s1 c.toNat = true ∧ (getCore s1 c.toNat).deferred = none
     CommitLaw (.fence c 1) c 4 [] true done (fun s1 => modCore s1 c.toNat fun x => { x with pref := [], prefOrder := [] }) ∧
     CommitLaw (.fence c 2) c 4 [] true (fun _ => True) (fun s1 => modCore s1 c.toNat fun x => { x with icache := [] }) ∧
     CommitLaw (.fence c 3) c 4 [] true done (fun s1 =>
       modCore s1 c.toNat fun x => { x with pref := [], prefOrder := [], icache := [] }) ∧
     (∀ imm : BitVec 7, imm.toNat % 4 = 0 →
       TrapLaw (.fence c imm) c 4 [] true (fun _ => True) (fun _ => ⟨1, 0, encS 0 0 0 imm.toNat 1⟩)) ∧
     (∀ s s1, Issues s c.toNat ⟨4, [], true⟩ s1 → released s1 c.toNat = false → Does (.fence c 1) s s1) ∧
     CommitLaw (.hmark c rd) c 4 [rd.toNat] false (fun _ => True) fun s1 =>
       modCore s1 c.toNat fun x => setGpr x rd.toNat (BitVec.ofNat 64 s1.hallmark)) ∧
  (∀ (c : CoreId) (s s1 : State) (t : TrapInfo), Issues s c.toNat ⟨4, [], true⟩ s1 →
     released s1 c.toNat = true → (getCore s1 c.toNat).deferred = some t →
     Does (.fence c 1) s (takeTrap (modCore s1 c.toNat fun x => { x with deferred := none, more := false }) c.toNat t
       (getCore s c.toNat).pc true (getCore s1 c.toNat).more)) ∧
  (∀ (c : CoreId) (s s1 : State),
     let x := getCore s1 c.toNat
     let st := getCw x 0
     Issues s c.toNat ⟨4, [], true⟩ s1 →
     (st.getLsbD 0 = false → x.deferred = none → ∃ t, Does (.trapret c) s t ∧
       (getCore t c.toNat).pc = getCw x 2 &&& ~~~(3 : Word) ∧
       (getCw (getCore t c.toNat) 0).getLsbD 0 = st.getLsbD 1 ∧ (getCw (getCore t c.toNat) 0).getLsbD 2 = false ∧
       (∀ n, n ≠ 0 → getCw (getCore t c.toNat) n = getCw x n) ∧ (getCore t c.toNat).g = x.g ∧ OnlyCore c.toNat s1 t) ∧
     (∀ d, st.getLsbD 0 = false → x.deferred = some d → x.ra = none →
       ∃ t, Does (.trapret c) s t ∧ getCw (getCore t c.toNat) 2 = getCw x 2 &&& ~~~(3 : Word) ∧
         getCw (getCore t c.toNat) 3 = causeWord d true x.more ∧ getCw (getCore t c.toNat) 4 = BitVec.ofNat 64 d.val ∧
         (getCw (getCore t c.toNat) 0).getLsbD 0 = false ∧
         (getCw (getCore t c.toNat) 0).getLsbD 1 = st.getLsbD 1 ∧ (getCw (getCore t c.toNat) 0).getLsbD 2 = true ∧
         (getCore t c.toNat).pc = getCw x 1 &&& ~~~(3 : Word) ∧ (getCore t c.toNat).deferred = none) ∧
     (st.getLsbD 0 = true → Does (.trapret c) s (takeTrap s1 c.toNat ⟨5, 0, encS 0 0 0 0 5⟩ (getCore s c.toNat).pc false false)) ∧
     (released s1 c.toNat = true → x.deferred = none → x.bind = none → x.pFaults = [] → x.nbFaults = [] →
       coreQuiet s1 c.toNat = true → s1.jobs = [] → x.dbl = none →
       ∃ t, Does (.halt c) s t ∧ (getCore t c.toNat).run = .halted ∧ (getCore t c.toNat).g = x.g ∧ SameMemory s1 t ∧
         ∀ d, d ≠ c.toNat → getCore t d = getCore s1 d))

/-- An arrival counts; the one that completes the count increments the generation and returns the count to zero; rd
takes the generation that the arrival belongs to (R91, R92, Table 3.14). A wait for a generation that has completed
goes on, and one for a generation that has not waits; an init sets the participant count and is supervisor only; a
count of 0 or above 16 for a cluster barrier takes trap 0x04 with cw_tval = rb (R92, R93). -/
def Obligations.Barriers : Prop :=
  (∀ (c : CoreId) (rd ra : GReg) (s s1 : State) (key : Nat),
     let id := (gpr (getCore s1 c.toNat) ra.toNat).toNat % 4096
     let b := getBar s1 key
     Issues s c.toNat ⟨4, [rd.toNat, ra.toNat], true⟩ s1 → barKey s1 c.toNat id = some key →
     released s1 c.toNat = true → (getCore s1 c.toNat).deferred = none →
     (∃ t, Does (.barrierArrive c rd ra) s t ∧ (getCore t c.toNat).pc = (getCore s c.toNat).pc + 4 ∧
       (rd ≠ 0 → gpr (getCore t c.toNat) rd.toNat = BitVec.ofNat 64 b.gen) ∧
       (b.count ≤ b.arrived + 1 → (getBar t key).gen = (b.gen + 1) % 2 ^ 32 ∧ (getBar t key).arrived = 0) ∧
       (b.arrived + 1 < b.count → (getBar t key).gen = b.gen ∧ (getBar t key).arrived = b.arrived + 1) ∧
       (getBar t key).count = b.count ∧ SameMemory s1 t) ∧
     (∃ t, Does (.barrierArriveAndWait c rd ra) s t ∧ (getCore t c.toNat).run = .waiting ∧
       (getCore t c.toNat).wait = some (.barrier key id b.gen rd.toNat (decide (b.count ≤ b.arrived + 1))) ∧
       (b.count ≤ b.arrived + 1 → (getBar t key).gen = (b.gen + 1) % 2 ^ 32 ∧ (getBar t key).arrived = 0) ∧
       (b.arrived + 1 < b.count → (getBar t key).gen = b.gen ∧ (getBar t key).arrived = b.arrived + 1))) ∧
  (∀ (c : CoreId) (rd ra rb : GReg) (s s1 : State) (key : Nat),
     let x := getCore s1 c.toNat
     let id := (gpr x ra.toNat).toNat % 4096
     let n := (gpr x rb.toNat).toNat
     barKey s1 c.toNat id = some key →
     (Issues s c.toNat ⟨4, [rd.toNat, ra.toNat, rb.toNat], true⟩ s1 → genDone (getBar s1 key) (n % 2 ^ 32) = true →
       ∃ t, Does (.barrierWait c rd ra rb) s t ∧ (getCore t c.toNat).pc = (getCore s c.toNat).pc + 4 ∧
         (getCore t c.toNat).run = x.run ∧ (getCore t c.toNat).pref = [] ∧ OnlyCore c.toNat s1 t) ∧
     (Issues s c.toNat ⟨4, [rd.toNat, ra.toNat, rb.toNat], true⟩ s1 → genDone (getBar s1 key) (n % 2 ^ 32) = false →
       ∃ t, Does (.barrierWait c rd ra rb) s t ∧ (getCore t c.toNat).run = .waiting ∧
         (getCore t c.toNat).wait = some (.barrier key id (n % 2 ^ 32) rd.toNat false) ∧ OnlyCore c.toNat s1 t) ∧
     (Issues s c.toNat ⟨4, [ra.toNat, rb.toNat], true⟩ s1 → (getCw x 0).getLsbD 0 = false → 1 ≤ n → n ≤ 16 →
       (getBar s1 key).arrived = 0 →
       Does (.barrierInit c ra rb) s (commit (setBar s1 key ⟨n, 0, 0, []⟩) c.toNat (getCore s c.toNat).pc
         ((getCore s c.toNat).pc + 4))) ∧
     (Issues s c.toNat ⟨4, [ra.toNat, rb.toNat], true⟩ s1 → (getCore s c.toNat).loads = [] →
       (getCw x 0).getLsbD 0 = false → key < 0x10000 → (n = 0 ∨ 16 < n) →
       Does (.barrierInit c ra rb) s (takeTrap s1 c.toNat ⟨4, 0, n⟩ (getCore s c.toNat).pc false false)))

/-- A completed generation releases the one core of a cluster that waits on it, also when its barrier has been
initialised since: it runs on at the next instruction with its prefetch buffer cleared (R78, R92); in a pause of the
cluster nothing is released (R386). A core that has waited cw_bartime µs in BARRIER without its generation's
completion takes trap 0x0D: rd holds the generation it waited for, cw_tval the barrier, cw_tpc the next instruction
(R95). -/
def Obligations.BarrierEnds : Prop :=
  (∀ (k : ClusterId) (id : BitVec 12) (s : State) (c key gen rd : Nat),
     c / 16 = k.toNat → (getCore s c).wait = some (.barrier key id.toNat gen rd true) →
     (∀ d, d / 16 = k.toNat → d ≠ c → (getCore s d).wait = none) →
     ((getCl s k.toNat).paused = false → ∃ t, Does (.barrierRelease k id) s t ∧ (getCore t c).run = .running ∧
       (getCore t c).wait = none ∧ (getCore t c).pc = (getCore s c).pc + 4 ∧ (getCore t c).pref = [] ∧
       (∀ r, gpr (getCore t c) r = gpr (getCore s c) r) ∧ SameMemory s t) ∧
     ((getCl s k.toNat).paused = true → Does (.barrierRelease k id) s s)) ∧
  (∀ (c : CoreId) (s : State) (key id gen rd : Nat),
     let x := getCore s c.toNat
     x.wait = some (.barrier key id gen rd false) → (getCw x 0xD).toNat % 2 ^ 32 ≠ 0 →
     (getCl s (c.toNat / 16)).paused = false → x.ra = none → (getCw x 0).getLsbD 2 = false →
     ∃ t, Does (.barrierTimeout c) s t ∧ (getCore t c.toNat).run = .running ∧ (getCore t c.toNat).wait = none ∧
       (∀ r, gpr (getCore t c.toNat) r = if r = rd ∧ rd ≠ 0 then BitVec.ofNat 64 gen else gpr x r) ∧
       getCw (getCore t c.toNat) 2 = x.pc + 4 ∧ getCw (getCore t c.toNat) 3 = causeWord ⟨0xD, 0, id⟩ false false ∧
       getCw (getCore t c.toNat) 4 = BitVec.ofNat 64 id ∧
       (getCore t c.toNat).pc = getCw x 1 &&& ~~~(3 : Word))

/-- cw_wdog reaches zero: trap 0x10 at the instruction boundary, and the count stays at zero (R98, R102). cw_timer is
reached: event 48 is set and cw_timer cleared (Table 3.13). Run-ahead, 24 cycles into the load that the next
instruction waits for, takes a checkpoint of the general and predicate registers and the program counter, and when its
window is used up the core stands at the checkpoint again (R83, R84). -/
def Obligations.CoreTimers : Prop :=
  (∀ (c : CoreId) (s : State),
     let x := getCore s c.toNat
     (Plain s c.toNat → (getCw x 0xC).toNat % 2 ^ 32 ≠ 0 → x.run = .running → x.wait = none →
       (getCl s (c.toNat / 16)).paused = false → (getCl s (c.toNat / 16)).power = .on → (getCw x 0).getLsbD 2 = false →
       ∃ t, Does (.watchdogExpiry c) s t ∧ getCw (getCore t c.toNat) 2 = x.pc ∧
         getCw (getCore t c.toNat) 3 = causeWord ⟨0x10, 0, 0⟩ false false ∧ getCw (getCore t c.toNat) 0xC = 0 ∧
         (getCore t c.toNat).pc = getCw x 1 &&& ~~~(3 : Word) ∧ (getCore t c.toNat).g = x.g ∧ SameMemory s t) ∧
     (getCw x 0xB ≠ 0 → x.wait = none → ∃ t, Does (.timerEvent c) s t ∧ getCw (getCore t c.toNat) 0xB = 0 ∧
       getCw (getCore t c.toNat) 0xA = getCw x 0xA ||| (1 <<< 48) ∧ (getCw x 0xB).toNat ≤ t.hallmark ∧
       (getCore t c.toNat).g = x.g ∧ SameMemory s t)) ∧
  (∀ (c : CoreId) (s : State),
     let x := getCore s c.toNat
     (canIssue s c.toNat = true → x.ra = none → (getCw x 0xE).getLsbD 8 = true →
       x.loads.any (stallLoad x c.toNat) = true →
       ∃ t a, Does (.runAheadEntry c) s t ∧ (getCore t c.toNat).ra = some a ∧ a.g = x.g ∧ a.p = x.p ∧ a.pc = x.pc ∧
         a.left = max 1 ((getCw x 0xE).toNat % 256) ∧ (getCore t c.toNat).loads = x.loads ∧ OnlyCoreLater c.toNat s t) ∧
     ∀ a, x.ra = some a → a.left = 0 → ∃ t, Does (.runAheadWindowEnd c) s t ∧
       getCore t c.toNat = { x with g := a.g, p := a.p, pc := a.pc, ra := none } ∧ OnlyCore c.toNat s t)

/-- A start takes a core in its reset state or halted to CO_START at supervisor level and clears cw_cycle; a reset
clears its registers and leaves it in the reset state; a start written with the reset acts at the reset's end; a halt
request halts a running core; a write of CO_EVENT sets events [47:0] (R86, R103, R104). The requester is any that may
write the register. A reset of a core ends after its 64 cycles, and a start that was written with it takes effect
(R103). -/
def Obligations.CoreControl : Prop :=
  (∀ (q : Req) (c : CoreId) (s : State) (w : Word),
     let x := getCore s c.toNat
     takesEvents s c.toNat = true → Plain s c.toNat → Writable s q (oCoCtl c.toNat) →
     (x.run = .reset ∨ x.run = .halted → ∃ t, Does (.coreStart q c) s t ∧ (getCore t c.toNat).run = .running ∧
       (getCore t c.toNat).pc = getReg s (oCoStart c.toNat) ∧ (getCore t c.toNat).cyc10 = 0 ∧
       (getCw (getCore t c.toNat) 0).getLsbD 0 = false ∧ OnlyCore c.toNat s t) ∧
     (∃ t, Does (.coreReset q c true) s t ∧ (getCore t c.toNat).run = .reset ∧
       (getCore t c.toNat).resetting = some true ∧ (∀ r, gpr (getCore t c.toNat) r = 0) ∧
       (∀ r, vreg (getCore t c.toNat) r = 0) ∧ (∀ n, getCw (getCore t c.toNat) n = cwReset n) ∧
       (getCore t c.toNat).buf = [] ∧ (getCore t c.toNat).icache = []) ∧
     (x.run = .running → x.wait = none → x.buf = [] → x.moves = [] → coreQuiet s c.toNat = true → x.bind = none →
       x.pFaults = [] → x.nbFaults = [] →
       ∃ t, Does (.haltReq q c) s t ∧ (getCore t c.toNat).run = .halted ∧ (getCore t c.toNat).g = x.g) ∧
     (x.wait = none → Writable s q (coBase c.toNat + 0x20) → ∃ t, Does (.coEventWrite q c w) s t ∧
       getCw (getCore t c.toNat) 0xA = getCw x 0xA ||| (w &&& BitVec.ofNat 64 (2 ^ 48 - 1)) ∧ OnlyCore c.toNat s t)) ∧
  (∀ (c : CoreId) (s : State) (start : Bool), takesEvents s c.toNat = true →
     (getCore s c.toNat).resetting = some start →
     ∃ t, Does (.coreResetEnd c) s t ∧ (getCore t c.toNat).resetting = none ∧
       (start = true → (getCore t c.toNat).run = .running ∧ (getCore t c.toNat).pc = getReg s (oCoStart c.toNat)) ∧
       (start = false → getCore t c.toNat = { getCore s c.toNat with resetting := none }) ∧ OnlyCoreLater c.toNat s t)

/-! ### The press -/

/-- PLOAD, PFEED and PDRAIN whose descriptors, formats, tensors' bounds and accumulator window the rules accept enter
their core's queue with their operands as they stand (R110, R111, R113, R117). PSYNC: with nothing outstanding and no
fault pending it applies the flags and writes 0 to rd; with nw = 1 it writes the number outstanding, and with nw = 0
it waits, which makes a PLOAD at the head of its queue a candidate; a pending fault is taken, the oldest, with
cw_tcause.dfr set (R114, R131). -/
def Obligations.PressCommands : Prop :=
  (∀ (c : CoreId) (d : DReg) (ga gb : GReg) (f1 last : Bool),
     let a := fun s1 : State => (gpr (getCore s1 c.toNat) ga.toNat).toNat
     let b := fun s1 : State => (gpr (getCore s1 c.toNat) gb.toNat).toNat
     let t := fun s1 : State => pressDesc (dreg (getCore s1 c.toNat) d.toNat).toNat
     let desc := fun s1 : State => (dreg (getCore s1 c.toNat) d.toNat).toNat
     let takes := fun s1 : State => PressTakes s1 c.toNat ∧ PressTensor s1 c.toNat d.toNat
     let count := fun s1 : State => b s1 % 2048
     CommitLaw (.pload c d ga f1) c 4 [ga.toNat] true
       (fun s1 => takes s1 ∧ pressWeight (t s1).fmt = true ∧ a s1 % 2 ^ 32 % 32 = 0 ∧ a s1 % 2 ^ 32 < (t s1).inner ∧
         a s1 / 2 ^ 32 < (t s1).outer)
       (fun s1 => pressQueued s1 c.toNat ⟨0, desc s1, a s1, 0, f1, false, elapsed s1, 0⟩ fun x =>
         { x with wfmt := (t s1).fmt }) ∧
     (∀ rows, CommitLaw (.pfeed c d ga gb f1 last) c 4 [ga.toNat, gb.toNat] true
       (fun s1 => takes s1 ∧ (if (getCore s1 c.toNat).wfmt = 15 then pressAct (t s1).fmt
           else pressPair (getCore s1 c.toNat).wfmt (t s1).fmt) = true ∧
         1 ≤ count s1 ∧ count s1 ≤ 1024 ∧ a s1 / 2 ^ 32 + count s1 ≤ (t s1).outer ∧ a s1 % 2 ^ 32 % 32 = 0 ∧
         a s1 % 2 ^ 32 < (t s1).inner ∧ windowRows (getCore s1 c.toNat) (b s1) = some rows)
       (fun s1 => pressQueued s1 c.toNat ⟨1, desc s1, a s1, rows, f1, last, elapsed s1, 0⟩ id)) ∧
     (∀ rows, CommitLaw (.pdrain c d ga gb f1) c 4 [ga.toNat, gb.toNat] true
       (fun s1 => takes s1 ∧ (t s1).fmt ≠ 0xA ∧ (t s1).fmt ≠ 0xC ∧ (t s1).fmt ≠ 0xF ∧ 1 ≤ count s1 ∧ count s1 ≤ 1024 ∧
         a s1 / 2 ^ 32 + count s1 ≤ (t s1).outer ∧ a s1 % 2 ^ 32 < (t s1).inner ∧
         (blockLen (t s1).fmt = 0 ∨ a s1 % 2 ^ 32 % 32 = 0) ∧ windowRows (getCore s1 c.toNat) (b s1) = some rows)
       (fun s1 => pressQueued s1 c.toNat ⟨2, desc s1, a s1, rows, f1, false, elapsed s1, 0⟩ id))) ∧
  (∀ (c : CoreId) (rd : GReg) (nw : Bool),
     let n := fun s1 : State => pressOutstanding s1 c.toNat
     CommitLaw (.psync c rd nw) c 4 [rd.toNat] true (fun s1 => n s1 = 0 ∧ (getCore s1 c.toNat).pFaults = [])
       (fun s1 => modCore s1 c.toNat fun x =>
         setGpr { setFlags x x.pFlags with pFlags := 0, pFaults := [], waitPload := false } rd.toNat 0) ∧
     CommitLaw (.psync c rd true) c 4 [rd.toNat] true (fun s1 => n s1 ≠ 0)
       (fun s1 => modCore s1 c.toNat fun x => setGpr x rd.toNat (BitVec.ofNat 64 (n s1))) ∧
     (∀ s s1, Issues s c.toNat ⟨4, [rd.toNat], true⟩ s1 → n s1 ≠ 0 → Does (.psync c rd false) s
       (pressAdvance 40 (modCore s1 c.toNat fun x => { x with waitPload := true }) (c.toNat / 16))) ∧
     ∀ s s1 t r, Issues s c.toNat ⟨4, [rd.toNat], true⟩ s1 → n s1 = 0 → (getCore s1 c.toNat).pFaults = t :: r →
       Does (.psync c rd nw) s (takeTrap (modCore s1 c.toNat fun x =>
         { setFlags x x.pFlags with pFlags := 0, pFaults := [], waitPload := false }) c.toNat t
         (getCore s c.toNat).pc true (!r.isEmpty)))

/-- The arbiter's choice begins to load into the shadow weights, at the tile depth fixed when it became a candidate,
and its PLOAD leaves the queue; a suspended run chosen again is reloaded from its copy and its PFEED stays (R110,
R118, R119); the tile's end puts it there and lets the press go on (R115, R118). A pass that has fed ends, also in a
pause of the governor, with its vectors' results in the accumulators and the feed free; its run closes if it was the
last (R111, R121, R127); then what can follow does. The drain engine takes the PDRAIN at the head of a queue in
round-robin order (R120); a drain that meets no pass writes its rows, reports what failed and frees the engine (R113,
R130). -/
def Obligations.PressWork : Prop :=
  (∀ (k : ClusterId) (s : State), PressRuns s k.toNat →
     let x := getCl s k.toNat
     let ramps := regField s (oPrCtl k.toNat) 24 1 = 1 ∧ x.paused = false ∧ (x.activity = .idle ∨ x.activity = .rampDown)
     (∀ i h q, pressChoice s k.toNat = some i → pressQueue x i = h :: q → h.op = 0 → x.shadow = none →
       dieUp s (k.toNat / 64) = true → ∃ a, (ramps → a = .rampUp) ∧ (¬ ramps → a = x.activity) ∧
         Does (.pressGrant k) s (trace (pressAdvance 40 (popPress (modCl s k.toNat fun y => { y with
           shadow := some ⟨i, h, h.kt, false, false, [], none, elapsed s⟩, lastRun := i, activity := a }) k.toNat i)
           k.toNat) k.toNat 5 k.toNat [i, h.f1.toNat])) ∧
     (∀ i h q r, pressChoice s k.toNat = some i → pressQueue x i = h :: q → h.op = 1 →
       x.susp.find? (·.core == i) = some r → x.shadow = none → dieUp s (k.toNat / 64) = true →
       ∃ t y, Does (.pressGrant k) s t ∧ (getCl t k.toNat).shadow = some y ∧ y.core = r.core ∧ y.load = r.load ∧
         y.kt = tileDepth (pressDesc r.load.d).fmt (pressDesc h.d).fmt ∧ y.loaded = false ∧ y.again = true ∧
         (getCl t k.toNat).susp = x.susp.filter (·.core != i) ∧ (getCl t k.toNat).lastRun = i ∧
         pressQueue (getCl t k.toNat) i = h :: q ∧ SameMemory s t) ∧
     ∀ r, x.shadow = some r → r.loaded = false → (getCore s (k.toNat * 16 + r.core)).buf = [] →
       Does (.tileLoadComplete k) s (settle (pressAdvance 40 (modCl (loadTile s k.toNat r r.kt).1 k.toNat fun y =>
         { y with shadow := some (loadTile s k.toNat r r.kt).2 }) k.toNat) (k.toNat * 16 + r.core))) ∧
  (∀ (k : ClusterId) (s : State) (i : Nat) (p : PressCmd) (r : PressRun),
     let x := getCl s k.toNat
     x.feed = some (i, p) → x.current = some r → x.fed = true → x.power = .on →
     let s1 := (List.range (cmdRows p).2).foldl (fun s j => passVector s k.toNat r p j) s
     ∃ s2, Does (.passComplete k) s (settle (pressAdvance 40 s2 k.toNat) (k.toNat * 16 + i)) ∧
       s2 = setCl s1 k.toNat (getCl s2 k.toNat) ∧ (getCl s2 k.toNat).feed = none ∧
       (getCl s2 k.toNat).acc = (getCl s1 k.toNat).acc ∧ (getCl s2 k.toNat).passEnd = elapsed s ∧
       (p.last = true → (getCl s2 k.toNat).current = none) ∧
       (p.last = false → (getCl s2 k.toNat).current = (getCl s1 k.toNat).current) ∧
       (x.activity = .passes → (getCl s2 k.toNat).activity = afterPass s k.toNat)) ∧
  (∀ (k : ClusterId) (s : State), PressRuns s k.toNat →
     (∀ i h, roundRobin (getCl s k.toNat).lastDrain
         ((List.range 16).filter fun i => (pressQueue (getCl s k.toNat) i).head?.any (·.op == 2)) = some i →
       (pressQueue (getCl s k.toNat) i).head? = some h → (getCl s k.toNat).drain = none →
       Does (.drainEngineGrant k) s (pressAdvance 40 (popPress (modCl s k.toNat fun y =>
         { y with drain := some (i, h), lastDrain := i }) k.toNat i) k.toNat)) ∧
     ∀ i p, (getCl s k.toNat).drain = some (i, p) → (getCl s k.toNat).feed.any (fun f => rowsMeet f.2 p) = false →
       (getCore s (k.toNat * 16 + i)).buf = [] →
       let u := drainRows s k.toNat i p
       Does (.drainComplete k) s (settle (pressAdvance 40 (modCl (drainFaults u.1 (k.toNat * 16 + i) u.2.1 u.2.2) k.toNat
         fun y => { y with drain := none }) k.toNat) (k.toNat * 16 + i)))

/-- The current run of a core whose queue has been empty for PR_CTL.hold cycles is suspended while another core has a
candidate (R119). The gap ends PR_CTL.gap cycles after the last pass, 256 at most, and the ramp-down and the ramp-up
end as R125 to R127 give; a ramp-up that ends with no pass granted goes on as the press does after a pass (the model's
choice: log entry 161). A press failure discards every command, loses the accumulators and leaves the press failed
(R128). -/
def Obligations.PressActivity : Prop :=
  (∀ (k : ClusterId) (s : State),
     let x := getCl s k.toNat
     let ramp := regField s (oPrCtl k.toNat) 24 1 = 1
     (∀ r j, x.current = some r → x.feed = none → x.power = .on → pressQueue x r.core = [] → j < 16 → j ≠ r.core →
       pressCandidate s k.toNat j = true →
       Does (.runSuspend k) s (pressAdvance 40 (modCl (advanceTo s (look (fun _ => 0) x.emptyAt r.core +
         cyclesNs x (regField s (oPrCtl k.toNat) 16 8))) k.toNat fun y =>
           { y with current := none, susp := y.susp ++ [r] }) k.toNat)) ∧
     (x.activity = .gap → ∃ t a, Does (.gapExpiry k) s t ∧ (ramp → a = .rampDown) ∧ (¬ ramp → a = .idle) ∧
       t = setCl (advanceTo s (x.passEnd + cyclesNs x (min 256 (regField s (oPrCtl k.toNat) 0 9)))) k.toNat
         { x with activity := a }) ∧
     (x.activity = .rampDown → Does (.rampDownEnd k) s (setCl s k.toNat { x with
       activity := if x.paused then .paused else .idle })) ∧
     (x.activity = .rampUp → Does (.rampUpEnd k) s (setCl s k.toNat { x with
       fed := x.feed.isSome, passEnd := elapsed s
       activity := if x.feed.isSome then .passes else afterPass s k.toNat }))) ∧
  (∀ (k : ClusterId) (row col : BitVec 7) (s : State), populatedCl s k.toNat = true →
     (getCl s k.toNat).failed = false → (getCl s k.toNat).absent = false → s.jobs = [] →
     (∀ c, (getCore s c).halting = false ∧ (getCore s c).dbl = none) →
     ∃ t, Does (.pressFailure k row col) s t ∧ (getCl t k.toNat).failed = true ∧ (getCl t k.toNat).queues = [] ∧
       (getCl t k.toNat).acc = [] ∧ (getCl t k.toNat).feed = none ∧ (getCl t k.toNat).drain = none ∧
       (getCl t k.toNat).current = none ∧ (getCl t k.toNat).shadow = none ∧
       (getCl t k.toNat).activity = .idle ∧ SameMemory s t)

/-! ### The vein -/

/-- MLD and MST that the rules accept are in flight after they issue, their operands as they stand; what they move is
not yet read (R167, R168); a broken rule takes trap 0x04 (R167). MPF asks for its granules (R171). The oldest move of
a core completes: it leaves the core's list with its failure noted, and the prefetch buffer drops what it touched, or,
where a segment must wait, what is left of it stays (R77, R168, R170); a granule asked for fills its entry (R83,
R171). -/
def Obligations.Moves : Prop :=
  (∀ (c : CoreId) (ga gb gc : GReg) (mode : BitVec 2), mode.toNat ≤ 1 →
     let g := fun (s1 : State) (r : GReg) => (gpr (getCore s1 c.toNat) r.toNat).toNat
     let regs := [ga.toNat, gb.toNat, gc.toNat]
     let room := fun (s1 : State) (m : Move) => (getCore s1 c.toNat).moves.length < 8 ∧ (getCore s1 c.toNat).buf = [] ∧
       ownFull s1 c.toNat m.ga = false
     (∀ m, CommitLaw (.mld c ga gb gc mode) c 4 regs true
       (fun s1 => moveOf s1 c.toNat mode.toNat true (g s1 ga) (g s1 gb) (g s1 gc) = .inl m ∧ room s1 m)
       (fun s1 => modCore s1 c.toNat fun x => { x with moves := x.moves ++ [m] })) ∧
     (∀ m, CommitLaw (.mst c ga gb gc mode) c 4 regs true
       (fun s1 => moveOf s1 c.toNat mode.toNat false (g s1 ga) (g s1 gb) (g s1 gc) = .inl m ∧ room s1 m)
       (fun s1 => modCore s1 c.toNat fun x => { x with moves := x.moves ++ [m] })) ∧
     (∀ a, TrapLaw (.mld c ga gb gc mode) c 4 regs true
       (fun s1 => moveOf s1 c.toNat mode.toNat true (g s1 ga) (g s1 gb) (g s1 gc) = .inr a) fun _ => ⟨4, 0, a⟩) ∧
     (∀ a, TrapLaw (.mst c ga gb gc mode) c 4 regs true
       (fun s1 => moveOf s1 c.toNat mode.toNat false (g s1 ga) (g s1 gb) (g s1 gc) = .inr a) fun _ => ⟨4, 0, a⟩) ∧
     CommitLaw (.mpf c ga gc) c 4 [ga.toNat, gc.toNat] true
       (fun s1 => 1 ≤ g s1 gc % 64 ∧ g s1 gc % 64 ≤ 32)
       (fun s1 => modCore s1 c.toNat fun x => { x with
         asked := x.asked ++ ((List.range (g s1 gc % 64)).map fun i => g s1 ga / 32 * 32 + 32 * i).filter fun q =>
           veinSide s1 c.toNat q 32 && !x.asked.contains q })) ∧
  (∀ (c : CoreId) (s s1 : State) (addr : BitVec 48),
     let x := getCore s c.toNat
     (∀ m r e, x.moves = m :: r → runMove s c.toNat m = (s1, none, e) →
       Does (.moveComplete c 0) s (settle (modCore s1 c.toNat fun x => noteFailure { x with
         moves := x.moves.eraseIdx 0
         pref := x.pref.filter fun q => !movesMeet [m] q.1 32
         prefOrder := x.prefOrder.filter fun q => !movesMeet [m] q 32 } e) c.toNat)) ∧
     (∀ m r rest e, x.moves = m :: r → runMove s c.toNat m = (s1, some rest, e) →
       Does (.moveComplete c 0) s (modCore s1 c.toNat fun x => { x with moves := x.moves.set 0 rest })) ∧
     (∀ bs, x.asked.contains addr.toNat = true → x.moves = [] → x.buf = [] → bs.length = 32 →
       coreRead s c.toNat addr.toNat 32 2 = (s1, .ok s1 bs) → (getCore s1 c.toNat) = x →
       ∃ t, Does (.prefetchFill c addr) s t ∧ (getCore t c.toNat).pref.find? (·.1 == addr.toNat) = some (addr.toNat, bs) ∧
         (getCore t c.toNat).asked = x.asked.filter (· != addr.toNat)))

/-- A refresh interval adds to a pair's debt, at most 8, and the next falls due at the stratum's tREFI (R144 to R146);
a refresh command waits, below 8, behind queued requests for its pair; else it takes one off and closes the rows of
both banks, and then requests that waited are served (R146, R151). A scrub step falls due where a sealed region
exists, CO_VSCRUB.step µs after the last, becomes urgent after age_lim µs, and scrubs the next data row, which a step
that is not urgent does when nothing else asks for the bank (R148 to R150). -/
def Obligations.VeinUpkeep : Prop :=
  (∀ (c : CoreId) (pair : BitVec 4) (s : State), veinRuns s c.toNat = true →
     let v := getVein s c.toNat
     let n := debtOf v pair.toNat
     let u := refreshPair s c.toNat pair.toNat
     (∃ t, Does (.refreshDue c pair) s t ∧ debtOf (getVein t c.toNat) pair.toNat = min 8 (n + 1) ∧
       dueOf t c.toNat pair.toNat = dueOf s c.toNat pair.toNat + refreshInterval s c.toNat (pair.toNat / 4) ∧
       (∀ q, q ≠ pair.toNat → debtOf (getVein t c.toNat) q = debtOf v q ∧ dueOf t c.toNat q = dueOf s c.toNat q) ∧
       (getVein t c.toNat).rows = v.rows ∧ SameMemory s t) ∧
     (1 ≤ n → (n < 8 → pairWanted s c.toNat pair.toNat = false) →
       Does (.refreshCommand c pair) s (servePair u c.toNat pair.toNat) ∧
       debtOf (getVein u c.toNat) pair.toNat = n - 1 ∧
       look noRow (getVein u c.toNat).rows (2 * pair.toNat) = none ∧
       look noRow (getVein u c.toNat).rows (2 * pair.toNat + 1) = none ∧ SameMemory s u) ∧
     (n < 8 → pairWanted s c.toNat pair.toNat = true → Does (.refreshCommand c pair) s s)) ∧
  (∀ (c : CoreId) (s : State), veinRuns s c.toNat = true →
     let v := getVein s c.toNat
     (regField s (oVscrub c.toNat) 16 1 ≠ 0 → v.scrubDue = none → sealedRegions s c.toNat ≠ [] →
       ∃ t, Does (.scrubStepDue c) s t ∧
         t.hallmark = s.hallmark + (v.scrubLast.getD (veinSince s c.toNat) +
           1000 * max 1 (regField s (oVscrub c.toNat) 0 16) - elapsed s) ∧
         (getVein t c.toNat).scrubDue = some (elapsed t) ∧ (getVein t c.toNat).urgent = false ∧ SameMemory s t) ∧
     (∀ t0, v.scrubDue = some t0 → v.urgent = false → ∃ t, Does (.scrubUrgent c) s t ∧
       t.hallmark = s.hallmark + (t0 + max 1 (regField s (oVscrub c.toNat) 32 16) * 1000 - elapsed s) ∧
       (getVein t c.toNat).urgent = true ∧ (getVein t c.toNat).scrubDue = some t0 ∧ SameMemory s t) ∧
     (∀ t0 row, v.scrubDue = some t0 →
       (sealedRow s c.toNat v.scrubAt).or (sealedRow s c.toNat 0) = some row →
       debtOf v ((bankRow s c.toNat row).1 / 2) ≠ 8 → regionWaits s c.toNat row = false →
       (v.urgent = false → scrubYields s c.toNat (bankRow s c.toNat row).1 = false) →
       ∃ t, Does (.scrubStep c) s t ∧ (getVein t c.toNat).scrubDue = none ∧ (getVein t c.toNat).urgent = false ∧
         t.mem = ((List.range 64).foldl (fun s i => scrubBurst s c.toNat (row + 32 * i)) s).mem))

/-- An idle row is precharged CO_VCTL.page_idle after its last access (R143); a port request that has waited
CO_VCTL.port_wait, 16 at least, on a bank that a streaming bank unit holds stops the unit: the rows of its pair close
and the requests that waited are served (R151); the oldest guest is promoted after its wait (R150). A guest request
that reaches a controller is served or refused, and its requester is told, or it is queued where it must wait; with 32
queued it is delayed (R151, R153, R163, R164): a read of an offset that belongs to no region is refused with
PARTITION_FAULT and reads nothing. -/
def Obligations.VeinRequests : Prop :=
  (∀ (c : CoreId) (bank : BitVec 5) (unit : BitVec 4) (s : State), veinRuns s c.toNat = true →
     let v := getVein s c.toNat
     (∀ row t0, look noRow v.rows bank.toNat = some (row, t0) →
       ∃ t, Does (.pageIdlePrecharge c bank) s t ∧ look noRow (getVein t c.toNat).rows bank.toNat = none ∧
         t.hallmark = s.hallmark + (t0 + regField s (oVctl c.toNat) 8 8 - elapsed s) ∧
         (∀ b, b ≠ bank.toNat → look noRow (getVein t c.toNat).rows b = look noRow v.rows b) ∧
         t = { s with veins := t.veins, hallmark := t.hallmark }) ∧
     (∀ t0, leastNat (pairRequests s c.toNat unit.toNat) = some t0 → heldBank v (2 * unit.toNat) = true →
       ∃ u, Does (.portWaitStop c unit) s (servePair u c.toNat unit.toNat) ∧
         u = { s with veins := u.veins, regs := u.regs, hallmark := u.hallmark } ∧
         u.hallmark = s.hallmark + (t0 + max 16 (regField s (oVctl c.toNat) 16 8) - elapsed s) ∧
         look noRow (getVein u c.toNat).rows (2 * unit.toNat) = none ∧
         look noRow (getVein u c.toNat).rows (2 * unit.toNat + 1) = none ∧
         (getVein u c.toNat).units = v.units ∧ (getVein u c.toNat).guests = v.guests)) ∧
  (∀ (c : CoreId) (s : State) (g : Guest) (r : List Guest), (getVein s c.toNat).guests = g :: r → g.promoted = false →
     regField s (oVctl c.toNat) 24 8 ≠ 0 →
     ∃ t, Does (.guestPromotion c) s t ∧ (getVein t c.toNat).guests = { g with promoted := true } :: r ∧
       t.hallmark = s.hallmark + (g.at_ + 16 * regField s (oVctl c.toNat) 24 8 + 1 - elapsed s) ∧ SameMemory s t) ∧
  (∀ (c : CoreId) (g : GuestReq) (s : State), guestComes s c.toNat g = true →
     let queued := fun t : State => modVein t c.toNat fun v =>
       { v with guests := v.guests ++ [⟨g, elapsed s, false, none, none⟩] }
     (guestHeld s c.toNat g = true → (getVein s c.toNat).guests.length < 32 → Does (.guestAccess c g) s (queued s)) ∧
     (guestHeld s c.toNat g = true → 32 ≤ (getVein s c.toNat).guests.length → Does (.guestAccess c g) s s) ∧
     (guestHeld s c.toNat g = false →
       ((serveGuest s c.toNat g).2 = true → Does (.guestAccess c g) s (serveGuest s c.toNat g).1) ∧
       ((serveGuest s c.toNat g).2 = false → (getVein (serveGuest s c.toNat g).1 c.toNat).guests.length < 32 →
         Does (.guestAccess c g) s (queued (serveGuest s c.toNat g).1)) ∧
       (g.write = false → 1 ≤ g.size → g.offset.toNat % 64 + g.size ≤ 64 → dieUp s (c.toNat / 1024) = true →
         regionWaits s c.toNat g.offset.toNat = false → regionAt s c.toNat g.offset.toNat = none →
         ∃ t, Does (.guestAccess c g) s t ∧ t.out = .memReply g.kind.toNat g.source.toNat 0xC [] :: s.out ∧
           SameMemory s t)))

/-- A write of a region entry within the rules, by a requester that may make it, takes the entry's new value; a sealed
region written without keep begins its initialisation; an entry written unused waits until nothing accepted reads it
and no request of before is queued; a write that R156 refuses sets CO_VSTAT.cfg_err and changes no region (R156,
R157). A region written unused is unused once nothing accepted reads it, its free frames leaving the pool, its
zero-fill beginning where zf asks for one; an initialisation ends with its region at zero data and valid codes, and a
zero-fill with its region zero (R157, R225). In tiered mode a flush writes every dirty page back and is busy until its
last write-back, and one written meanwhile acts after it (R178, R509); in flat mode it is ignored; a line of a miss
arrives, and what waited is served (R176). -/
def Obligations.Regions : Prop :=
  (∀ (q : Req) (c : CoreId) (n : BitVec 3) (w : Word) (s : State), Writable s q (oRegion c.toNat n.toNat) →
     let r := regionOf w.toNat
     let old := (getReg s (oRegion c.toNat n.toNat)).toNat
     let written := setReg s (oRegion c.toNat n.toNat) (masked 0x78FF7F 0 w)
     let begins := r.kind = kindSealed ∧ w.getLsbD 24 = false ∧ (getVein s c.toNat).initing.contains n.toNat = false
     (regionRefused s c.toNat n.toNat r = true →
       Does (.regionWrite q c n w) s (setRegField s (oVstat c.toNat) 2 1 1)) ∧
     (regionRefused s c.toNat n.toNat r = false →
       (r.kind ≠ 0 → ¬ begins → Does (.regionWrite q c n w) s written) ∧
       (begins → Does (.regionWrite q c n w) s
         (modVein written c.toNat fun v => { v with initing := v.initing ++ [n.toNat] })) ∧
       (r.kind = 0 → (regionOf old).kind = 0 → Does (.regionWrite q c n w) s written) ∧
       (r.kind = 0 → (regionOf old).kind ≠ 0 → Does (.regionWrite q c n w) s
         (unusedEffect (modVein (markPrior written c.toNat n.toNat (regionOf old)) c.toNat fun v =>
           { v with unused := insertAt n.toNat (old, w.getLsbD 23) v.unused }) c.toNat n.toNat)))) ∧
  (∀ (c : CoreId) (n : BitVec 3) (s : State) (old : Nat) (zf : Bool), veinRuns s c.toNat = true →
     let v := getVein s c.toNat
     v.unused.find? (·.1 == n.toNat) = some (n.toNat, old, zf) →
     (v.initing.contains n.toNat = false → regionRead s c.toNat (regionOf old) = false →
       priorWaits s c.toNat n.toNat = false → (zf = false → v.guests = []) →
       ∃ t, Does (.regionUnusedEffect c n) s t ∧ SameMemory s t ∧
         (∀ f, (regionOf old).covers (f * 16384) = true → frameOf v f = .free →
           frameOf (getVein t c.toNat) f ≠ .free) ∧
         (zf = true → (getVein t c.toNat).initing = v.initing ++ [n.toNat] ∧ (getVein t c.toNat).unused = v.unused) ∧
         (zf = false → (getVein t c.toNat).initing = v.initing ∧
           (getVein t c.toNat).unused = v.unused.filter (·.1 != n.toNat))) ∧
     (regionRead s c.toNat (regionOf old) = true → Does (.regionUnusedEffect c n) s s) ∧
     (v.initing.contains n.toNat = true → zf = true → v.guests = [] → ∃ t, Does (.regionInitComplete c n) s t ∧
       (getVein t c.toNat).initing = v.initing.erase n.toNat ∧
       (getVein t c.toNat).unused = v.unused.filter (·.1 != n.toNat) ∧
       t.mem = (zeroBytes s (veinAddr c.toNat (regionOf old).start) (regionOf old).size).mem)) ∧
  (∀ (c : CoreId) (n : BitVec 3) (s : State), veinRuns s c.toNat = true →
     let v := getVein s c.toNat
     v.initing.contains n.toNat = true → v.unused.find? (·.1 == n.toNat) = none → v.guests = [] →
     ∃ t, Does (.regionInitComplete c n) s t ∧ (getVein t c.toNat).initing = v.initing.erase n.toNat ∧
       t.mem = (initSealed s c.toNat (regionOf (getReg s (oRegion c.toNat n.toNat)).toNat)).mem) ∧
  (∀ (q : Req) (c : CoreId) (s : State), veinRuns s c.toNat = true → Writable s q (coBase c.toNat + 0x130) →
     let v := getVein s c.toNat
     (s.start.tiered = true → v.flush = false → Does (.tierFlush q c) s
       (modVein (flushPages s c.toNat) c.toNat fun v => { v with flush := true })) ∧
     (s.start.tiered = true → v.flush = true → Does (.tierFlush q c) s
       (modVein s c.toNat fun v => { v with flushes := v.flushes + 1 })) ∧
     (s.start.tiered = false → Does (.tierFlush q c) s s)) ∧
  (∀ (c : CoreId) (s : State),
     ((getVein s c.toNat).flush = true → Does (.tierFlushComplete c) s (modVein (flushPages s c.toNat) c.toNat fun v =>
       { v with flush := v.flushes != 0, flushes := v.flushes - 1 })) ∧
     (∀ key p l, (getVein s c.toNat).pages.find? (fun e => e.2.filling) = some (key, p) → nextLine p = some l →
       Does (.cacheFillLine c) s (serveGuests (fillLine s c.toNat key l) c.toNat)))

/-! ### Near-bank processing -/

/-- A near-bank command that the rules accept enters the queues of its units with its operands as they stand (R184,
R192, R193, R198, R199, Table 6.7); while one of the queues is full, it and the core's younger instructions stall
(R184). The five row-mode operations (Table 6.7). -/
def Obligations.NearBankCommands : Prop :=
  (∀ (c : CoreId) (d : DReg) (ga gb : GReg) (ofmt : BitVec 4) (chk acc out cmb : Bool),
     let g := fun (s1 : State) (r : GReg) => (gpr (getCore s1 c.toNat) r.toNat).toNat
     let desc := fun s1 : State => (dreg (getCore s1 c.toNat) d.toNat).toNat
     let t := fun s1 : State => stripDesc (desc s1)
     let regs := [ga.toNat, gb.toNat]
     CommitLaw (.nbmvProduct c d ga gb ofmt chk acc out cmb) c 4 regs true
       (fun s1 =>
         let p := productOp (g s1 ga) (g s1 gb)
         let span := productSpan (t s1) p chk
         (t s1).kind = 2 ∧ (t s1).rsv = false ∧ (t s1).formatOk = true ∧ (t s1).lenOk = true ∧
           rowsWait s1 c.toNat (((t s1).rowsRead span.1 (min span.2 (span.1 + 2 ^ 24))).map (t s1).rowAddr) = false ∧
           productTrap s1 c.toNat (t s1) p (g s1 ga) (g s1 gb) ofmt.toNat chk acc out cmb = none ∧
           queuesFull s1 c.toNat [(t s1).unit] = false ∧ stripWaits s1 c.toNat = false)
       (fun s1 =>
         let unit := (t s1).unit
         let i := productInt (t s1) (recordFmts (recordOf (getUnit (getVein s1 c.toNat) unit)))
         enqueueNb (modVein s1 c.toNat fun v => setUnit v unit { getUnit v unit with lastInt := i }) c.toNat [unit]
           (.product (desc s1) (g s1 ga) (g s1 gb) ofmt.toNat chk acc out cmb)) ∧
     CommitLaw (.nbmvLoad c ga gb) c 4 regs true
       (fun s1 =>
         let l := latchLoad (g s1 gb)
         let src := g s1 ga % 2 ^ 48
         l.vcfg ≠ 3 ∧ (l.afmt = 8 ∨ l.afmt = 3 ∨ l.afmt = 1) ∧ l.bytes % 32 = 0 ∧ 32 ≤ l.bytes ∧
           l.first * slotBytes l.vcfg + l.bytes ≤ 8192 ∧ src % 32 = 0 ∧ lsSide (c.toNat / 16) src l.bytes = true ∧
           maskUnits l.mask ≠ [] ∧ (∀ u ∈ maskUnits l.mask, hiddenPair s1 c.toNat u = false) ∧
           queuesFull s1 c.toNat (maskUnits l.mask) = false ∧ (getCore s1 c.toNat).buf = [])
       (fun s1 => enqueueNb s1 c.toNat (maskUnits (latchLoad (g s1 gb)).mask) (.load (g s1 ga % 2 ^ 48) (g s1 gb) none)) ∧
     (∀ w, outWidth ofmt.toNat = some w → CommitLaw (.nbmvDrain c ga gb ofmt) c 4 regs true
       (fun s1 => fieldNat (g s1 gb) 10 2 ≠ 3 ∧
         outOk c.toNat (g s1 ga % 2 ^ 48) ((fieldNat (g s1 gb) 2 8 + 1) * slotCount (fieldNat (g s1 gb) 10 2) * w) = true)
       (fun s1 => modVein s1 c.toNat fun v => { v with
         drains := v.drains ++ [(v.nbSeq, .drain (g s1 ga % 2 ^ 48) (g s1 gb) ofmt.toNat)], nbSeq := v.nbSeq + 1 })) ∧
     (∀ w, outWidth ofmt.toNat = some w → CommitLaw (.nbgr c d ga gb ofmt) c 4 regs true
       (fun s1 =>
         let unit := getUnit (getVein s1 c.toNat) (t s1).unit
         let slot := fieldNat (g s1 gb) 11 2
         let count := g s1 gb % 2048 + 1
         let list := gatherList unit slot count
         let rowsOf := fun i => ((t s1).rowsRead ((t s1).position i * (t s1).rowBytes)
           (((t s1).position i + 1) * (t s1).rowBytes)).map (t s1).rowAddr
         unit.queue = [] ∧ (t s1).kind = 2 ∧ (t s1).rsv = false ∧ (t s1).formatOk = true ∧
           slot < slotCount (recordOf unit).1 ∧
           (look (fun _ => LatchSlot.empty) (recordOf unit).2 slot).fmt ≠ none ∧ (t s1).baseOk c.toNat = true ∧
           (t s1).lenOk = true ∧ (t s1).len ≤ 1024 ∧ 0 < (t s1).rows ∧ (t s1).rows ≤ 65536 ∧
           4 * count ≤ slotBytes (recordOf unit).1 ∧ outOk c.toNat (g s1 ga % 2 ^ 48) ((t s1).len * w) = true ∧
           (∀ e ∈ list, e % 65536 < (t s1).rows) ∧
           rowsWait s1 c.toNat (list.flatMap fun e => rowsOf (e % 65536)) = false ∧
           rowsTrap s1 c.toNat (t s1).unit (list.flatMap fun e => rowsOf (e % 65536)) = none ∧
           queuesFull s1 c.toNat [(t s1).unit] = false ∧ stripWaits s1 c.toNat = false)
       (fun s1 => enqueueNb s1 c.toNat [(t s1).unit] (.gather (desc s1) (g s1 ga % 2 ^ 48) (g s1 gb) ofmt.toNat)))) ∧
  (∀ (c : CoreId) (ga gb : GReg),
     RowLaw (.nbrowCopy c ga gb) c ga gb 0 1 ∧ RowLaw (.nbrowZero c ga gb) c ga gb 1 0 ∧
     RowLaw (.nbrowNot c ga gb) c ga gb 2 1 ∧ RowLaw (.nbrowAnd c ga gb) c ga gb 3 2 ∧
     RowLaw (.nbrowOr c ga gb) c ga gb 4 2)

/-- NBSYNC waits for the core's bank-unit commands or counts them, then applies their flags and takes the oldest
pending fault (R200). A unit that streams ends its head command, or a latch load that may run beside it, and takes the
next (R184, R200); with an output queue full of contributions the head waits (R182); a KATT ends in all sixteen at
once, and waits while a page that it needs is being moved (R231, R241); in a pause of the governor nothing completes
(R386). The oldest contribution waiting for a combiner slot is added to it once every older command that names the
slot has been, rows of the slot that hold a parity error are poisoned and reported with sub 4 (R197, R213). A unit
with nothing to complete takes the oldest drain that is ready: the drain's place in the unit's command is the model's
choice (log entry 5). -/
def Obligations.BankUnits : Prop :=
  (∀ (c : CoreId) (rd : GReg) (nw : Bool),
     let n := fun s1 : State => (nbOutstanding s1 c.toNat).length
     CommitLaw (.nbsync c rd nw) c 4 [rd.toNat] true (fun s1 => n s1 = 0 ∧ (getCore s1 c.toNat).nbFaults = [])
       (fun s1 => modCore s1 c.toNat fun x =>
         setGpr { setFlags x x.nbFlags with nbFlags := 0, nbFaults := [] } rd.toNat 0) ∧
     CommitLaw (.nbsync c rd true) c 4 [rd.toNat] true (fun s1 => n s1 ≠ 0)
       (fun s1 => modCore s1 c.toNat fun x => setGpr x rd.toNat (BitVec.ofNat 64 (n s1))) ∧
     (∀ s s1, Issues s c.toNat ⟨4, [rd.toNat], true⟩ s1 → n s1 ≠ 0 → Does (.nbsync c rd false) s s1) ∧
     ∀ s s1 t r, Issues s c.toNat ⟨4, [rd.toNat], true⟩ s1 → n s1 = 0 → (getCore s1 c.toNat).nbFaults = t :: r →
       Does (.nbsync c rd nw) s (takeTrap (modCore s1 c.toNat fun x =>
         { setFlags x x.nbFlags with nbFlags := 0, nbFaults := [] }) c.toNat t (getCore s c.toNat).pc true (!r.isEmpty))) ∧
  (∀ (c : CoreId) (unit : BitVec 4) (s s0 : State) (n : Nat) (cmd : NbCmd),
     let all := fun (f : State → Nat → State) (s : State) => (List.range 16).foldl f s
     (getCl s (c.toNat / 16)).paused = false → veinRuns s c.toNat = true →
     (nextNb s c.toNat unit.toNat = none → Does (.bankUnitCommandComplete c unit) s (drainReady s c.toNat)) ∧
     (nextNb s c.toNat unit.toNat = some (s0, n, cmd) →
       ((∀ d a b q w, cmd ≠ .katt d a b q w) → outputFull (getVein s c.toNat) unit.toNat cmd = false →
         Does (.bankUnitCommandComplete c unit) s
           (nbEvent (servePair (popNb (runNb s0 c.toNat unit.toNat n cmd) c.toNat n [unit.toNat]) c.toNat unit.toNat)
             c.toNat)) ∧
       (outputFull (getVein s c.toNat) unit.toNat cmd = true → Does (.bankUnitCommandComplete c unit) s s) ∧
       ∀ d a b q w, cmd = .katt d a b q w →
         let r := runKatt (all (fun s u => openPair s c.toNat u) s0) c.toNat d a b q w
         (r = none → Does (.bankUnitCommandComplete c unit) s s) ∧
         ∀ s1, r = some s1 → Does (.bankUnitCommandComplete c unit) s
           (nbEvent (all (fun s u => servePair s c.toNat u) (popNb s1 c.toNat n (List.range 16))) c.toNat))) ∧
  (∀ (c : CoreId) (unit : BitVec 4) (s : State), (getCl s (c.toNat / 16)).paused = true →
     Does (.bankUnitCommandComplete c unit) s s) ∧
  (∀ (c : CoreId) (slot : BitVec 2) (s : State) (w : Contribution),
     let v := getVein s c.toNat
     let mine := v.waiting.filter (·.slot == slot.toNat)
     mine.find? (fun x => mine.all fun y => decide (x.seq ≤ y.seq)) = some w →
     combinerOlder v slot.toNat w.seq false = false →
     let k0 := look (fun _ => Combiner.idle) v.comb slot.toNat
     let k := addContribution k0 w
     ∃ s1, Does (.combinerAdd c slot) s (nbEvent (if k.2 then nbFlag s1 c.toNat flagSat else s1) c.toNat) ∧
       (getVein s1 c.toNat).waiting = v.waiting.filter (·.seq != w.seq) ∧ SameMemory s s1 ∧
       look (fun _ => Combiner.idle) (getVein s1 c.toNat).comb slot.toNat = k.1 ∧
       (k.1.parity.length < k0.parity.length →
         (getCore s1 c.toNat).nbFaults = (getCore s c.toNat).nbFaults ++ [⟨0xA, slotMask [slot.toNat] * 16 + 4, 0⟩]) ∧
       (¬ k.1.parity.length < k0.parity.length → (getCore s1 c.toNat).nbFaults = (getCore s c.toNat).nbFaults))

/-! ### The key-value cache and attention -/

/-- The synchronous instructions of the cache change a sequence's state word as their rules give: open a free
sequence, close an open one with no escrow, query, open an escrow, commit, drop an escrow and retract; the change is
told to the core, which then goes on (R229, R233, R236, R238, R239). -/
def Obligations.SequenceStates : Prop :=
  ∀ (c : CoreId) (rd ga gb : GReg),
    CacheLaw (.kmapOpen c rd ga gb) c rd ga gb true (fun s r _ =>
      if r.word.st = 0 ∧ r.cfgOk = true then
        match kEach s r.headers fun s a => (readHead s (partNum s c.toNat) (some c.toNat) a).andThen fun s h =>
            if h.tbase % 16 ≠ 0 then .trap s ⟨6, 7, 0⟩ else .ok s () with
        | .ok s3 _ => (nextWord s3 r ⟨1, 0, 0, 0⟩).map fun e =>
            (r.headers.foldl (fun s a => writeHeadWord s a 0 (e.2 % 2 ^ 32)) e.1, e.2)
        | _ => none
      else none) ∧
    CacheLaw (.kmapClose c rd ga gb) c rd ga gb true (fun s r seq =>
      if r.word.st = 1 ∧ r.word.esc = 0 then
        let w := { r.word with st := 2 }.word
        some ({ writeStruct s r.addr 8 w with
          closing := s.closing ++ [(partNum s c.toNat, seq, r.addr)], seqOps := s.seqOps + 1 }, w)
      else none) ∧
    CacheLaw (.kmapQuery c rd ga gb) c rd ga gb false (fun s r _ => some (s, r.word.word)) ∧
    CacheLaw (.kescOpen c rd ga gb) c rd ga gb false (fun s r _ =>
      let n := (gpr (getCore s c.toNat) gb.toNat).toNat
      if r.word.st = 1 ∧ 1 ≤ n ∧ n ≤ 16 ∧ r.word.esc = 0 then nextWord s r { r.word with esc := n } else none) ∧
    CacheLaw (.kcommit c rd ga gb) c rd ga gb false (fun s r _ =>
      let j := (gpr (getCore s c.toNat) gb.toNat).toNat
      if r.word.st = 1 ∧ (r.word.esc = 0 ∨ j ≤ r.word.esc) ∧ r.word.len + j ≤ 1048576 then
        nextWord s r { r.word with esc := 0, len := r.word.len + j } else none) ∧
    CacheLaw (.krollDrop c rd ga gb) c rd ga gb false (fun s r _ =>
      if r.word.st = 1 then nextWord s r { r.word with esc := 0 } else none) ∧
    CacheLaw (.krollRetract c rd ga gb) c rd ga gb false (fun s r _ =>
      let n := (gpr (getCore s c.toNat) gb.toNat).toNat
      if r.word.st = 1 ∧ r.word.esc = 0 ∧ n ≤ r.word.len then nextWord s r { r.word with len := n } else none) ∧
    (∀ (s : State) (r w seq a : Nat), (getCore s c.toNat).wait = some (.cache r w seq a) →
      Does (.cacheInstructionComplete c) s (settle (commit (modCore s c.toNat fun x =>
        setGpr { x with wait := none } r (BitVec.ofNat 64 w)) c.toNat (getCore s c.toNat).pc
        ((getCore s c.toNat).pc + 4)) c.toNat)) ∧
    ∀ (s : State) (w seq a : Nat), (getCore s c.toNat).wait = some (.cache rd.toNat w seq a) →
      (getCore s c.toNat).halting = false → (getCore s c.toNat).dbl = none → s.jobs = [] →
      ∃ t, Does (.cacheInstructionComplete c) s t ∧ (getCore t c.toNat).wait = none ∧
        (getCore t c.toNat).pc = (getCore s c.toNat).pc + 4 ∧ SameMemory s t ∧
        ∀ r, gpr (getCore t c.toNat) r =
          if r = rd.toNat ∧ rd.toNat ≠ 0 then BitVec.ofNat 64 w else gpr (getCore s c.toNat) r

/-- The release of a closing sequence's entries ends with its state word free (R233). An append completes: rd takes
its status and count and the flags of its encodings are set (R218, R230); a pending frame returns to its pool, or
leaves it where it may not stand there (R228); frames are added and removed one by one (R225). KAPP and the append
form of KESC whose descriptor, source and sequence the rules accept append to the list as R234 gives and are in flight
with their result, or with the fault that is kept for the next release point; so is the ragged form, sequence by
sequence (R230, R234, R235, R237). -/
def Obligations.CacheAppends : Prop :=
  (∀ (c : CoreId) (rd : GReg) (p : PartId) (seq : BitVec 12) (s : State),
     (∀ x s1 r s2, s.closing.find? (fun e => e.1 == p.toNat && e.2.1 == seq.toNat) = some x →
       readRecord s x.1 none x.2.2 = .ok s1 r → closeLists s1 x.1 r = .ok s2 () →
       let s3 := writeStruct s2 r.addr 8 { r.word with st := 0 }.word
       Does (.kmapCloseReleaseDone p seq) s { s3 with closing := s3.closing.erase x, seqOps := s3.seqOps + 1 }) ∧
     (∀ a, (getCore s c.toNat).appends.find? (·.rd == rd.toNat) = some a →
       Does (.appendComplete c rd) s (settle (modCore s c.toNat fun x =>
         noteFailure { lateGpr (setFlags x a.flags) rd.toNat (BitVec.ofNat 64 (a.status + a.count * 256)) with
           appends := x.appends.eraseP (·.rd == rd.toNat) } a.trap) c.toNat)) ∧
     (∀ a r, (getCore s c.toNat).appends = a :: r → a.rd = rd.toNat → a.trap = none →
       (getCore s c.toNat).halting = false → (getCore s c.toNat).dbl = none → s.jobs = [] →
       (getCore s c.toNat).loads = [] → (getCore s c.toNat).ra = none →
       ∃ t, Does (.appendComplete c rd) s t ∧ (getCore t c.toNat).appends = r ∧ SameMemory s t ∧
         (∀ b, (getCw (getCore s c.toNat) 7).getLsbD b = true → (getCw (getCore t c.toNat) 7).getLsbD b = true) ∧
         ∀ q, gpr (getCore t c.toNat) q =
           if q = rd.toNat ∧ rd.toNat ≠ 0 then BitVec.ofNat 64 (a.status + a.count * 256)
           else gpr (getCore s c.toNat) q) ∧
     (∀ f x, (getVein s c.toNat).frames.find? (fun e => e.2 == .pending false) = some (f, x) →
       Does (.frameRelease c) s (modVein s c.toNat fun v =>
         setFrame v f (if frameFits s c.toNat f then .free else .absent)))) ∧
  (∀ (q : Req) (c : CoreId) (s : State), Writable s q (coBase c.toNat + 0x210) →
     (∀ w, Does (.kframeAdd q c w) s (kframe s c.toNat true w) ∧ Does (.kframeRemove q c w) s (kframe s c.toNat false w)) ∧
     ∀ f : BitVec 12,
       (frameOf (getVein s c.toNat) f.toNat = .absent → frameFits s c.toNat f.toNat = true →
         ∃ t, Does (.kframeAdd q c (f.setWidth 64)) s t ∧
           frameOf (getVein t c.toNat) f.toNat = .free ∧ SameMemory s t) ∧
       (frameOf (getVein s c.toNat) f.toNat = .free → ∃ t, Does (.kframeRemove q c (f.setWidth 64)) s t ∧
         frameOf (getVein t c.toNat) f.toNat = .absent ∧ SameMemory s t)) ∧
  (∀ (c : CoreId) (d : DReg) (ga gb rd : GReg) (s s1 : State),
     let x := getCore s1 c.toNat
     let t := listDesc (dreg x d.toNat).toNat
     let a := (gpr x ga.toNat).toNat % 2 ^ 48
     let b := (gpr x gb.toNat).toNat
     let w := if t.sfmt = 0 then 4 else 2
     let flies := fun (s2 : State) (e : Append) =>
       commit (modCore s2 c.toNat fun y => { y with appends := y.appends ++ [e] }) c.toNat (getCore s c.toNat).pc
         ((getCore s c.toNat).pc + 4)
     Issues s c.toNat ⟨4, [ga.toNat, gb.toNat, rd.toNat], true⟩ s1 → t.kind = 3 → t.rsv = false → t.sfmt ≤ 1 →
     a % 32 = 0 → lsSide (c.toNat / 16) a 1 = true → x.appends.length < 8 → x.buf = [] →
     (∀ (esc : Bool) (s2 s3 : State) (r : SeqRec),
       let i : Instr := if esc then .kesc c d ga gb rd else .kapp c d ga gb rd
       let count := fieldNat b 20 16
       let dies := appendDies s1 c.toNat t.layer t.head [t.seq]
       let result := appendList s2 ⟨c.toNat, partNum s1 c.toNat, esc, t.seq, t.layer, t.head, t.sfmt, b % 2 ^ 20, count,
         a, a + count * r.hd * w⟩ (fun hd => lsSide (c.toNat / 16) a (2 * count * hd * w))
       1 ≤ count → count ≤ 4096 → t.seq < seqSize s1 c.toNat → movesMeet x.moves a 0x80000 = false →
       readRecord s1 (partNum s1 c.toNat) (some c.toNat) (seqAddr s1 c.toNat t.seq) = .ok s2 r →
       (∀ st n f, result = .ok s3 (st, n, f) → Does i s (flies s3 ⟨rd.toNat, st, n, none, f, dies⟩)) ∧
       (∀ e, result = .trap s3 e → Does i s (flies s3 ⟨rd.toNat, stAborted, 0, some e, 0, dies⟩)) ∧
       (result = .reset s3 → Does i s (flies s3 ⟨rd.toNat, stTargetReset, 0, none, 0, dies⟩))) ∧
     (∀ (s2 : State) (bs : List Byte) (seq0 p0 c0 : Nat) (rest : List (Nat × Nat × Nat)),
       let tbl := b % 2 ^ 48
       let n := fieldNat b 48 11
       let es := (seq0, p0, c0) :: rest
       let dies := appendDies s2 c.toNat t.layer t.head (seq0 :: rest.map (·.1))
       1 ≤ n → n ≤ 1024 → tbl % 8 = 0 → lsSide (c.toNat / 16) tbl (8 * n) = true → x.moves = [] →
       coreRead s1 c.toNat tbl (8 * n) 2 = (s2, .ok s2 bs) → lengthTable s2 tbl n = .inl es →
       (seqSize s2 c.toNat ≤ seq0 →
         Does (.kappRagged c d ga gb rd) s (flies s2 ⟨rd.toNat, stAborted, 0, some ⟨4, 0, seq0⟩, 0, dies⟩)) ∧
       ∀ (s3 s4 : State) (r : SeqRec),
         let result := raggedLoop ⟨c.toNat, partNum s1 c.toNat, false, 0, t.layer, t.head, t.sfmt, 0, 0, a, 0⟩ r.hd w
           ((es.map (·.2.2)).sum) (c.toNat / 16) es s3 0 0
         seq0 < seqSize s2 c.toNat →
         readRecord s2 (partNum s1 c.toNat) (some c.toNat) (seqAddr s2 c.toNat seq0) = .ok s3 r →
         (∀ st cnt f, result = .inl (.ok s4 (st, cnt, f)) →
           Does (.kappRagged c d ga gb rd) s (flies s4 ⟨rd.toNat, st, cnt, none, f, dies⟩)) ∧
         ∀ e cnt f, result = .inr (s4, e, cnt, f) →
           Does (.kappRagged c d ga gb rd) s (flies s4 ⟨rd.toNat, stAborted, cnt, some e, f, dies⟩)))

/-- KATT that the rules accept enters the queues of all sixteen bank units (R231, R241, R252). KMERGE writes the
merged record of its records, or o / l in its output format with the flags, and commits; records whose trailers differ
take trap 0x06 sub 8 with the address of the first that differs (R250, R251). KMASK writes its map and its bitmaps and
commits (R249). -/
def Obligations.Attention : Prop :=
  (∀ (c : CoreId) (d : DReg) (ga gb : GReg) (rec : Bool),
     let g := fun (s1 : State) (r : GReg) => (gpr (getCore s1 c.toNat) r.toNat).toNat
     let t := fun s1 : State => attnDesc (dreg (getCore s1 c.toNat) d.toNat).toNat
     CommitLaw (if rec then .kattRecompute c d ga gb else .kattForward c d ga gb) c 4 [ga.toNat, gb.toNat] true
       (fun s1 =>
         let q := t s1
         let count := fieldNat (g s1 ga) 24 16
         let qlen := q.nq * q.hd * q.width + (if rec then 8 * q.nq else 0)
         let olen := if rec then count * q.nq * pageP q.hd * 2 else recordSize q.nq q.hd
         q.kind = 4 ∧ q.rsv = false ∧ q.mkind ≠ 3 ∧ (q.qfmt = 1 ∨ q.qfmt = 3) ∧ q.seq < seqSize s1 c.toNat ∧
           fieldNat (g s1 ga) 16 8 ≠ 0 ∧ count ≠ 0 ∧
           badSide c.toNat ([(q.qaddr, qlen)] ++ (if q.mkind = 2 then [(q.maddr, 32)] else []) ++
             [(g s1 gb % 2 ^ 48, olen)]) = none ∧
           queuesFull s1 c.toNat (List.range 16) = false ∧ (getCore s1 c.toNat).buf = [] ∧
           (getCore s1 c.toNat).moves = [])
       (fun s1 => enqueueNb s1 c.toNat (List.range 16)
         (.katt (dreg (getCore s1 c.toNat) d.toNat).toNat (g s1 ga) (g s1 gb % 2 ^ 48) rec none))) ∧
  (∀ (c : CoreId) (d : DReg) (ga gb gc : GReg) (ofmt : BitVec 4) (s s1 s2 : State) (bs : List Byte),
     let x := getCore s1 c.toNat
     let a := (gpr x ga.toNat).toNat % 2 ^ 48
     let n := (gpr x gb.toNat).toNat % 65536
     let stride := (gpr x gb.toNat).toNat / 65536
     let out := (gpr x gc.toNat).toNat % 2 ^ 48
     let t := attnDesc (dreg x d.toNat).toNat
     let size := recordSize t.nq t.hd
     let olen := fun rec : Bool => if rec then size else t.nq * t.hd * (if ofmt.toNat = 0 then 4 else 2)
     let same := fun i => trailerOf s2 a stride size i 0 8 = trailerOf s2 a stride size 0 0 8
     let done := fun s3 => commit s3 c.toNat (getCore s c.toNat).pc ((getCore s c.toNat).pc + 4)
     Issues s c.toNat ⟨4, [ga.toNat, gb.toNat, gc.toNat], true⟩ s1 → t.kind = 4 → t.rsv = false → t.mkind ≠ 3 →
     1 ≤ n → n ≤ 4096 → stride % 32 = 0 → out % 32 = 0 →
     (∀ i, i < n → (∃ q o, placeOf (a + i * stride) = .ls q o ∧ o + size ≤ 0x80000) ∧
       inOwnPartition s1 c.toNat (a + i * stride) = true) →
     x.buf = [] → x.moves = [] → mergeReads s1 c.toNat a stride size n = (s2, .ok s2 bs) →
     ((∀ i, i < n → same i) →
       (lsSide (c.toNat / 16) out (olen true) = true → Does (.kmerge c d ga gb gc ofmt true) s
         (done (writeUnits s2 out (mergedRecord s2 a stride size n t.nq t.hd) 3 (some c.toNat)).1)) ∧
       (ofmt.toNat ≤ 1 → lsSide (c.toNat / 16) out (olen false) = true →
         let es := mergedElems x ofmt.toNat (mergedRows s2 a stride n t.nq t.hd)
         Does (.kmerge c d ga gb gc ofmt false) s
           (done (modCore (writeUnits s2 out (es.flatMap fun e => natLe (if ofmt.toNat = 0 then 4 else 2) e.1) 3
             (some c.toNat)).1 c.toNat fun y => setFlags y (orFlags (es.map (·.2))))))) ∧
     (∀ i, i < n → (∀ j, j < i → same j) → ¬ same i → (getCore s c.toNat).loads = [] →
       lsSide (c.toNat / 16) out (olen true) = true →
       Does (.kmerge c d ga gb gc ofmt true) s
         (takeTrap s2 c.toNat ⟨6, 8, a + i * stride⟩ (getCore s c.toNat).pc false false))) ∧
  (∀ (c : CoreId) (d : DReg) (ga : GReg) (s s1 s2 : State) (bs : List Byte) (es : List (Nat × Nat × Nat)),
     let x := getCore s1 c.toNat
     let g := (gpr x ga.toNat).toNat
     let tbl := g % 2 ^ 48
     let n := fieldNat g 48 11
     let m := maskDesc (dreg x d.toNat).toNat
     let rts := (m.rows + 63) / 64
     let cts := (m.cols + 63) / 64
     let total := (es.map (·.2.2)).sum
     let wrote := fun (s2 : State) (es : List (Nat × Nat × Nat)) =>
       (writeUnits (writeUnits s2 m.map (maskBytes m es).1 3 (some c.toNat)).1 m.tiles (maskBytes m es).2 3 (some c.toNat)).1
     let done := fun s3 => commit s3 c.toNat (getCore s c.toNat).pc ((getCore s c.toNat).pc + 4)
     Issues s c.toNat ⟨4, [ga.toNat], true⟩ s1 → m.kind = 5 → m.rsv = false → m.form ≤ 1 →
     badSide c.toNat [(m.map, 32 + 2 * rts * cts), (m.tiles, 512 * (rts * (2 + (if m.win = 0 then 0 else 2)) +
       (if m.lt then 2 * n else 0)))] = none →
     x.buf = [] → x.moves = [] →
     (m.lt = false → Does (.kmask c d ga) s (done (wrote s1 []))) ∧
     (m.lt = true → 1 ≤ n → n ≤ 1024 → tbl % 8 = 0 → lsSide (c.toNat / 16) tbl (8 * n) = true →
       coreRead s1 c.toNat tbl (8 * n) 2 = (s2, .ok s2 bs) → lengthTable s2 tbl n = .inl es →
       m.rows = total → m.cols = total → Does (.kmask c d ga) s (done (wrote s2 es))))

/-! ### Remint, generators, sampling and the entropy source -/

/-- A doorbell of a remint ring writes the tail where the value lies inside the ring, and a write of the ring's
control register takes its defined bits (R266, R271, Table 8.9). The engine takes the descriptor at the head of a ring
that it serves once every one before it has begun all its pages (DEDUCED, log entry 168): a restripe with its pages to
do, a clear with the marks of its range cleared; one outside sealed and far memory ends with PARTITION_FAULT (R266,
R267, R269). A page of a restripe whose entry needs no move is skipped; another is marked and copied into a frame of
its new home; when the copy reads back equal, the entry names the new frame and the old one is released (R267, R268);
where a ring may start a page and has one in flight, which comes first is free (log entry 5). A descriptor whose pages
are done ends with its status, OK, or CHECKSUM where a page failed, after the header where hdr asks for one (R270). -/
def Obligations.Remint : Prop :=
  (∀ (r : Req) (die : DieId) (p : PartId) (w : Word) (s s1 s2 : State) (bs : List (Byte × Bool)),
     let d := die.toNat
     let k := p.toNat
     let head := (getReg s (oRemHead d k)).toNat % remSize s d k
     let a := (getReg s (oRemBase d k)).toNat + 64 * head
     let s0 := setReg s (oRemHead d k) (BitVec.ofNat 64 ((head + 1) % remSize s d k))
     let job : RemintJob := ⟨bs.map (·.1), a, 0, 0, 0, 0, 0, 0, none, 0, []⟩
     let place := inPartition s k a = true ∧
       ((∃ q off, placeOf a = .far q off) ∨
        ∃ c off g, placeOf a = .vein c off ∧ regionAt s c off = some g ∧ g.kind = kindSealed)
     (Writable s r (oRemTail d k) → Does (.remintDoorbell r die p w) s
       (if w.toNat % 65536 < remSize s d k then setReg s (oRemTail d k) (masked 0xFFFF 0 w) else s)) ∧
     (Writable s r (oRemRctl d k) →
       Does (.remintRingRun r die p w) s (setReg s (oRemRctl d k) (masked 0x10F 0 w))) ∧
     (remServes s d k = true → head ≠ (getReg s (oRemTail d k)).toNat →
       (remReady (getRem s d k) false = true → ¬ place →
         Does (.restripe die p) s (remBegin s0 d k ⟨[], a, 0, 0, 0, 0, 0, 0, some stPartitionFault, 0, []⟩)) ∧
       (place → readLine s0 (remintReq d k) a 64 9 = (s1, .ok bs []) →
         (remReady (getRem s d k) false = true → job.op ≠ 2 →
           (∀ h, remPlan s1 k job = .ok s2 (.inr h) →
             Does (.restripe die p) s (remBegin (takeFree s2) d k { job with list := h })) ∧
           ∀ st, remPlan s1 k job = .ok s2 (.inl st) →
             Does (.restripe die p) s (remBegin (takeFree s2) d k { job with status := some st })) ∧
         (remReady (getRem s d k) true = true → job.op = 2 →
           (∀ h s3 j, remPlan s1 k job = .ok s2 (.inr h) →
             clearMarks k h job.count (takeFree s2) { job with list := h } = .ok s3 j →
             Does (.clear die p) s (remBegin s3 d k j)) ∧
           ∀ st, remPlan s1 k job = .ok s2 (.inl st) →
             Does (.clear die p) s (remBegin (takeFree s2) d k { job with status := some st }))))) ∧
  (∀ (die : DieId) (p : PartId) (s s1 s2 s3 : State) (n : Nat) (j : RemintJob) (g : RemintPage) (tb : Nat) (e : Entry),
     let d := die.toNat
     let k := p.toNat
     let home := (j.target j.next).1
     let stratum := (j.target j.next).2
     let i := j.first + j.next
     let next := fun t : State => { t with remNext := put (fun _ => 0) t.remNext d ((k + 1) % 16) }
     let there := e.core = home ∧ e.frame % 4 = stratum
     (getRem s d k)[n]? = some j → dieUp s d = true → s.pwr.regsOff = false →
     (remTurn s d k = true → remFlying (getRem s d k) = none → remStarter (getRem s d k) = some n →
       remEntry s k j.list i = .ok s1 (tb, e) →
       ((e.v = false ∨ e.esc = true ∨ e.mov = true ∨ there) →
         Does (.remintPageMove die p) s (next (skipPage s1 d k n j))) ∧
       (∀ f bs, e.v = true → e.esc = false → e.mov = false → ¬ there → dieUp s1 (home / 1024) = true →
         dieUp s1 (e.core / 1024) = true → regField s1 (oKres home) 0 13 < freeFrames (getVein s1 home) →
         chooseFrame (getVein s1 home) stratum = some f →
         readFrame (bump (modVein (writeEntry s1 tb i { e with mov := true }) home fun v => setFrame v f (.used false))
           0x07 3 1 (.core home)) (remintReq d k) e.core e.frame = some (s2, .inl bs) →
         dieUp s2 (home / 1024) = true → writeFrameBytes s2 (remintReq d k) home f bs = some (s3, none) →
         let y : RemintPage := ⟨i, e.core, e.frame, home, f, bs, false⟩
         Does (.remintPageMove die p) s (next (setRemJob s3 d k n { j with
           next := j.next + 1, flight := j.flight.filter (fun z => z.index != i) ++ [y] })))) ∧
     (remTurn s d k = false → remFlying (getRem s d k) = some (n, g) → dieUp s (g.home / 1024) = true →
       dieUp s (g.core / 1024) = true → readFrame s (remintReq d k) g.home g.dest = some (s1, .inl g.buf) →
       remEntry s1 k j.list g.index = .ok s2 (tb, e) → ∃ t, Does (.remintPageMove die p) s t ∧
         (n < (getRem s2 d k).length → (getRem t d k)[n]? = some { j with
           moved := j.moved + 1, flight := j.flight.filter fun z => z.index != g.index }) ∧
         t.mem = (writeEntry s2 tb g.index { e with core := g.home, frame := g.dest, mov := false }).mem) ∧
     (remTurn s d k = true → remFlying (getRem s d k) = some (n, g) → ∃ t, Does (.remintPageMove die p) s t ∧
       (t = (remStart (takeFree s) d k).getD s ∨ t = (remCheck (takeFree s) d k).getD s))) ∧
  (∀ (die : DieId) (p : PartId) (s s1 : State) (j : RemintJob) (r : List RemintJob),
     let d := die.toNat
     let k := p.toNat
     let st := j.status.getD (if j.failed = 0 then stOk else stChecksum)
     getRem s d k = j :: r → dieUp s d = true → j.flight = [] → (j.status.isSome = true ∨ j.count ≤ j.next) →
     (∀ a, rangeGate s (remintReq d k) (j.addr + 48) 16 true ≠ some (a, .wait)) →
     (j.header = false → Does (.remintDescriptorEnd die p) s (remEnd s d k j st)) ∧
     (j.header = true → remWriteHeader s k j = .ok s1 () → Does (.remintDescriptorEnd die p) s (remEnd s1 d k j st)))

/-- SEED binds a core to the generator of a sequence's record, the one bound before it released first, releases it
with its counter written back, sets a key and clears the counter, and sets the bound counter; without a generator it
returns NOT_READY or ENTROPY_FAIL (R274, Table 8.12). RAND takes blocks of the bound generator: two words into a
general register, or 32 words, as they are or as FP32 values below 1, into a vector register; the counter goes on by
the blocks taken, and nothing else changes; without a generator it takes trap 0x0C (R273, R275). -/
def Obligations.Generators : Prop :=
  (∀ (c : CoreId) (rd ga gb gc : GReg),
     let n := c.toNat
     let g := fun (s1 : State) (r : GReg) => (gpr (getCore s1 n) r.toNat).toNat
     let a := fun s1 : State => seqAddr s1 n (g s1 ga)
     let ready := fun s1 : State =>
       g s1 ga < seqSize s1 n ∧ (getCore s1 n).buf = [] ∧ (getCore s1 n).moves = []
     let answer := fun (s2 : State) (st : Nat) => modCore s2 n fun x => setGpr x rd.toNat (BitVec.ofNat 64 st)
     let rebind := fun (s1 : State) (b : Binding) =>
       if b.seq = g s1 ga then { b with key := g s1 gb + g s1 gc * 2 ^ 64, counter := 0 } else b
     EffectLaw (.seedBind c rd ga) c 4 [rd.toNat, ga.toNat] (fun s1 t => ready s1 ∧
       ∃ s0 s2 w, seedDrop s1 n = .ok s0 () ∧ readStruct s0 (partNum s0 n) (some n) (a s1 + 32) 32 = .ok s2 w ∧ t =
         if fieldNat w 192 2 = 1 then
           answer (modCore s2 n fun x => { x with
             bind := some ⟨g s1 ga, a s1, fieldNat w 0 128, fieldNat w 128 64⟩ }) stOk
         else answer s2 (if fieldNat w 192 2 = 3 then stEntropyFail else stNotReady)) ∧
     EffectLaw (.seedRelease c rd) c 4 [rd.toNat] (fun s1 t => (getCore s1 n).buf = [] ∧ (getCore s1 n).moves = [] ∧
       (((getCore s1 n).bind = none ∧ t = answer s1 0) ∨
         ∃ b s2, (getCore s1 n).bind = some b ∧ writeGenerator s1 n (b.record + 48) (natLe 8 b.counter) = .ok s2 () ∧
           t = answer (modCore s2 n fun x => { x with bind := none }) 0)) ∧
     EffectLaw (.seedSetKey c rd ga gb gc) c 4 [rd.toNat, ga.toNat, gb.toNat, gc.toNat] (fun s1 t => ready s1 ∧
       ∃ s2, writeGenerator s1 n (a s1 + 32)
           (natLe 16 (g s1 gb + g s1 gc * 2 ^ 64) ++ natLe 8 0 ++ natLe 8 1) = .ok s2 () ∧
         t = answer (modCore s2 n fun x => { x with bind := x.bind.map (rebind s1) }) 0) ∧
     CommitLaw (.seedSetCounter c gb) c 4 [gb.toNat] true (fun s1 => (getCore s1 n).bind ≠ none)
       (fun s1 => modCore s1 n fun x => { x with bind := x.bind.map fun b => { b with counter := g s1 gb } }) ∧
     TrapLaw (.seedSetCounter c gb) c 4 [gb.toNat] true (fun s1 => (getCore s1 n).bind = none) (fun _ => ⟨0xC, 0, 0⟩) ∧
     TrapLaw (.seedBind c rd ga) c 4 [rd.toNat, ga.toNat] true (fun s1 => seqSize s1 n ≤ g s1 ga)
       (fun s1 => ⟨4, 0, g s1 ga⟩)) ∧
  (∀ (c : CoreId) (rd : GReg) (vd : VReg),
     let n := c.toNat
     let words := fun (b : Binding) (k : Nat) => (philoxBlocks b.key b.counter k).flatten
     let later := fun (b : Binding) (k : Nat) => some { b with counter := (b.counter + k) % 2 ^ 64 }
     (∀ s s1 b, Issues s n ⟨4, [rd.toNat], true⟩ s1 → (getCore s1 n).bind = some b →
       ∃ t, Does (.randScalar c rd) s t ∧ (getCore t n).bind = later b 1 ∧ (getCore t n).pc = (getCore s n).pc + 4 ∧
         (∀ r, gpr (getCore t n) r = if r = rd.toNat ∧ rd.toNat ≠ 0 then
           BitVec.ofNat 64 ((words b 1).getD 0 0 + (words b 1).getD 1 0 * 2 ^ 32) else gpr (getCore s n) r) ∧
         (getCore t n).v = (getCore s n).v ∧ (getCore t n).cw = (getCore s n).cw ∧ OnlyCore n s1 t) ∧
     (∀ s s1 b, Issues s n ⟨4, [], true⟩ s1 → (getCore s1 n).bind = some b →
       (∃ t, Does (.randBits c vd) s t ∧ (getCore t n).bind = later b 8 ∧ (getCore t n).g = (getCore s n).g ∧
         (∀ j, j < 32 → LaneIs (getCore t n) vd.toNat 32 j ((words b 8).getD j 0)) ∧
         (∀ r, r ≠ vd.toNat → vreg (getCore t n) r = vreg (getCore s n) r) ∧ OnlyCore n s1 t) ∧
       (∃ t, Does (.randUniform c vd) s t ∧ (getCore t n).bind = later b 8 ∧ (getCore t n).g = (getCore s n).g ∧
         (∀ j, j < 32 → LaneIs (getCore t n) vd.toNat 32 j (unit32 ((words b 8).getD j 0) % 2 ^ 32)) ∧
         (∀ r, r ≠ vd.toNat → vreg (getCore t n) r = vreg (getCore s n) r) ∧ OnlyCore n s1 t)) ∧
     TrapLaw (.randScalar c rd) c 4 [rd.toNat] true (fun s1 => (getCore s1 n).bind = none) (fun _ => ⟨0xC, 0, 0⟩) ∧
     TrapLaw (.randBits c vd) c 4 [] true (fun s1 => (getCore s1 n).bind = none) (fun _ => ⟨0xC, 0, 0⟩) ∧
     TrapLaw (.randUniform c vd) c 4 [] true (fun s1 => (getCore s1 n).bind = none) (fun _ => ⟨0xC, 0, 0⟩))

/-- SMPLK writes the k greatest of its candidates and their count; with draw it also takes the token that a word of
the bound generator draws, by the running sums of the weights; SMPLP draws from the shortest prefix that reaches p; a
temperature of 0 takes entry 0 (R276 to R279). -/
def Obligations.Sampling : Prop :=
  ∀ (c : CoreId) (rd ga gb gc : GReg),
    let n := c.toNat
    let regs := [rd.toNat, ga.toNat, gb.toNat, gc.toNat]
    let g := fun (s1 : State) (r : GReg) => (gpr (getCore s1 n) r.toNat).toNat
    let still := fun s1 : State => (getCore s1 n).buf = [] ∧ (getCore s1 n).moves = []
    let bytes := fun (l : List (Nat × Nat)) => l.flatMap fun e => natLe 4 e.1 ++ natLe 4 e.2
    let write := fun (s2 : State) (v : Nat) => modCore s2 n fun x => setGpr x rd.toNat (BitVec.ofNat 64 v)
    EffectLaw (.smplk c rd ga gb gc) c 4 regs (fun s1 t =>
      let b := g s1 gb
      let out := g s1 gc % 2 ^ 48
      let num := b % 2 ^ 18 + 1
      let k := min num (fieldNat b 18 6 + 1)
      let size := num * (if bitNat b 24 then 8 else 4)
      let tau := fieldNat b 32 32
      sampleSide n (g s1 ga) size = true ∧ sampleSide n out (8 * k) = true ∧ still s1 ∧
        ∃ s2 bs s3, coreRead s1 n (g s1 ga) size 2 = (s2, .ok s2 bs) ∧
          let top := topK k (candidates bs num (bitNat b 24) (g s1 gc / 2 ^ 48 * 65536))
          let wrote := writeUnits s2 out (bytes top) 3 (some n)
          s3 = modCore wrote.1 n (fun x => noteFailure x (wrote.2.head?.map fun l => ⟨3, l.2, l.1⟩)) ∧
          ((bitNat b 26 = false ∧ t = write s3 k) ∨
            (bitNat b 26 = true ∧ badTau tau = false ∧ (abs32 tau = 0 ∨ (getCore s1 n).bind.isSome = true) ∧
              Drawn s3 n rd.toNat tau top (weightsOf top (bitNat b 25) tau) id t))) ∧
    EffectLaw (.smplp c rd ga gb gc) c 4 regs (fun s1 t =>
      let b := g s1 gb
      let m := b % 128
      let tau := g s1 gc % 2 ^ 32
      1 ≤ m ∧ m ≤ 64 ∧ bitNat b 7 = true ∧ sampleSide n (g s1 ga) (8 * m) = true ∧ still s1 ∧
        badTau tau = false ∧ (abs32 tau = 0 ∨ (getCore s1 n).bind.isSome = true) ∧
        ∃ s2 bs, coreRead s1 n (g s1 ga) (8 * m) 2 = (s2, .ok s2 bs) ∧
          let xs := candidates bs m true 0
          Drawn s2 n rd.toNat tau xs (weightsOf xs (bitNat b 8) tau) (topP (fieldNat b 32 32)) t) ∧
    TrapLaw (.smplp c rd ga gb gc) c 4 regs true (fun s1 => badTau (g s1 gc % 2 ^ 32) = true) (fun _ => ⟨0xC, 0, 0⟩)

/-- A SEED request enters the queue of the entropy source, or is refused at once (R281, Table 8.12); a key completes
the oldest request and is whatever the source produced (a free value: log entry 5); the source goes from start-up to
ready; a test that fails in start-up or ready takes it to failed with every request completed; a restart and its
enable bit take it to start-up or off, and do nothing else in another state (R281, R282, Table 8.14). -/
def Obligations.EntropySource : Prop :=
  ∀ (c : CoreId) (rd ga gb : GReg) (r : Req) (apt : Bool) (s : State),
    let n := c.toNat
    let g := fun (s1 : State) (q : GReg) => (gpr (getCore s1 n) q.toNat).toNat
    EffectLaw (.seedRequest c rd ga gb) c 4 [rd.toNat, ga.toNat, gb.toNat] (fun s1 t =>
      let a := seqAddr s1 n (g s1 ga)
      g s1 gb % 64 ≤ 47 ∧ g s1 ga < seqSize s1 n ∧ (getCore s1 n).buf = [] ∧ (getCore s1 n).moves = [] ∧
        ((s1.ent = .ready ∧ s1.keys.length < 64 ∧ ∃ s2 w s3,
            readStruct s1 (partNum s1 n) (some n) (a + 56) 8 = .ok s2 w ∧
            writeGenerator s2 n (a + 56) (natLe 8 (setFieldNat w 0 2 2)) = .ok s3 () ∧
            t = modCore { s3 with keys := s3.keys ++ [⟨n, a, g s1 gb % 64⟩] } n fun x =>
              setGpr x rd.toNat (BitVec.ofNat 64 stOk)) ∨
          ((s1.ent ≠ .ready ∨ 64 ≤ s1.keys.length) ∧ t = modCore (bump s1 0x08 7 1 .device) n fun x =>
            setGpr x rd.toNat (BitVec.ofNat 64 (if s1.ent = .failed then stEntropyFail else stNotReady))))) ∧
    (∀ k rest, s.ent = .ready → s.keys = k :: rest → Does .entropyKeyReady s
      (finishKey (addRegField (takeFree { s with keys := rest }) oEntCnt 0 32 1) k 32
        (natLe 16 (Config.entropyKey s.freeN % 2 ^ 128) ++ natLe 8 0 ++ natLe 8 5))) ∧
    (s.ent = .startUp → Does .entropyStartupComplete s { s with ent := .ready }) ∧
    (s.ent = .startUp ∨ s.ent = .ready →
      Does (.entropyTestFailure apt) s (ledger (failKeys (addRegField (setRegField { s with ent := .failed } oEntStat
        (if apt then 4 else 3) 1 1) oEntCnt 32 32 1) 3) 0x0901 sevError none 0 []) ∧
      (s.keys = [] → ∃ t, Does (.entropyTestFailure apt) s t ∧ t.ent = .failed ∧ t.keys = [] ∧ SameMemory s t ∧
        t.cores = s.cores)) ∧
    (Writable s r oEntCtl →
      (s.ent = .failed → Does (.entropyRestart r) s { s with ent := .startUp }) ∧
      (s.ent ≠ .failed → Does (.entropyRestart r) s s) ∧
      (s.ent = .off → Does (.entropyEnableWrite r true) s { setRegField s oEntCtl 0 1 1 with ent := .startUp }) ∧
      (s.ent ≠ .off → Does (.entropyEnableWrite r true) s (setRegField s oEntCtl 0 1 1)) ∧
      Does (.entropyEnableWrite r false) s (failKeys { setRegField s oEntCtl 0 1 0 with ent := .off } 0) ∧
      (s.keys = [] → ∃ t, Does (.entropyEnableWrite r false) s t ∧ t.ent = .off ∧ t.keys = [] ∧ SameMemory s t ∧
        t.cores = s.cores))

/-! ### Far memory and the seams -/

/-- A far-memory access enters the queue of its line's pseudo-channel, of 32 reads and 16 writes; one past the end of
the stack gets PARTITION_FAULT, one to a die in reset TARGET_RESET (R286, R287, R290, R437). The entry that R291 puts
first is served: an aged one, a read to an open row, another read. 12 queued writes, or writes alone, drain until 4
remain; a request that has waited 200 ns is aged; a row idle for 40 ns is closed, or the rows of a bank that refresh
needs (which of the two is free: log entry 5); a scrub step takes the next line 2 µs after the one before; a channel
that fails is noted (R288, R291, R434). -/
def Obligations.FarMemory : Prop :=
  ∀ (k : StackId) (q : FarReq) (pc : BitVec 6) (ch : BitVec 5) (s : State),
    let n := k.toNat
    let off := q.offset.toNat
    let place := (farPlace s n off).1
    let x := getPc s n place
    let same := (x.queue.filter fun e => e.req.write == q.write).length
    let size := if q.write then q.data.length else q.size
    let y := getPc s n pc.toNat
    let units := farUnits s n
    let scrubbed := advanceTo s (y.scrubAt + 2000)
    (0 < size → off % 64 + size ≤ 64 →
      (farBytes s n ≤ off → Does (.farRequest k q) s (farTold s q stPartitionFault [])) ∧
      (off < farBytes s n → dieUp s (n / 2) = false → Does (.farRequest k q) s (farTold s q stTargetReset [])) ∧
      (off < farBytes s n → dieUp s (n / 2) = true → Does (.farRequest k q) s
        (if same < (if q.write then 16 else 32) then
          setPc s n place { x with queue := x.queue ++ [⟨q, off / 64, elapsed s, false⟩] } else s))) ∧
    (dieUp s (n / 2) = true →
      (∀ i, farNext s n y = some i → Does (.farLineAccess k pc) s (farServe s n pc.toNat i)) ∧
      (∀ e, y.queue = [e] → e.req.write = false → verdictOf s (unitAt s (farAddr n e.req.offset.toNat)) = .good →
        ∃ t, Does (.farLineAccess k pc) s t ∧ (getPc t n pc.toNat).queue = [] ∧ SameMemory s t ∧
          t.out = (farTold s e.req 0 (rdBytes s (farAddr n e.req.offset.toNat) e.req.size)).out) ∧
      (y.queue.length ≤ 48 → (12 ≤ farWrites y ∨ farWrites y = y.queue.length) →
        ∃ t, Does (.farWriteDrain k pc) s t ∧ farWrites (getPc t n pc.toNat) ≤ 4) ∧
      (units.contains pc.toNat = true → y.queue = [] → ∃ t, Does (.farScrubStep k pc) s t ∧
        t.hallmark = scrubbed.hallmark ∧
        (getPc t n pc.toNat).scrub = (if farBytes s n / 64 / units.length ≤ y.scrub + 1 then 0 else y.scrub + 1) ∧
        (getPc t n pc.toNat).scrubAt = elapsed scrubbed ∧
        t.mem = (scrubUnit scrubbed (unitAt scrubbed (farAddr n
          ((y.scrub * units.length + units.idxOf pc.toNat) * 64)))).mem)) ∧
    (∀ i e, y.queue.findIdx? (!farAged s ·) = some i → y.queue[i]? = some e → ∃ t, Does (.farAgedRequest k pc) s t ∧
      (getPc t n pc.toNat).queue = y.queue.set i { e with aged := true } ∧
      t.hallmark = s.hallmark + (e.at_ + 200 - elapsed s) ∧ SameMemory s t) ∧
    (∀ t0, leastNat (y.rows.map (·.2)) = some t0 → ∃ t, Does (.farRowClose k pc) s t ∧
      (getPc t n pc.toNat).queue = y.queue ∧ SameMemory s t ∧
      ((getPc t n pc.toNat).rows = y.rows.filter (·.2 != t0) ∨
        ∃ b, (getPc t n pc.toNat).rows = y.rows.filter fun r => r.1 % max 1 Config.farBanks != b)) ∧
    (bitNat (farChannels s n) ch.toNat = true → bitNat (s.start.farFail.getD n 0) ch.toNat = false →
      n < s.start.farFail.length → ∃ t, Does (.farChannelFailure k ch) s t ∧
        t.start.farFail.getD n 0 = s.start.farFail.getD n 0 + 2 ^ ch.toNat ∧ SameMemory s t)

/-- A record reaches the plain engine of a seam that is up: it is executed once, its response is kept, and the same
number again brings the same response without another effect (R307); one for another die is passed on, and counted as
relayed (R305). A bundle's CRC failure replays, and the seventeenth in a millisecond retrains it; a retrain ends after
20 µs with the bundle up or lost; the loss of a bulk engine among others leaves the seam up; the plain role moves to a
stream engine without a stream, or else to the next of Table 9.10, and the bulk role to the highest stream engine
(R303, R308, R309). -/
def Obligations.Seams : Prop :=
  ∀ (i : SeamId) (up : Bool) (b : BundleId) (r : PlainRec) (s s1 : State) (st : Nat) (bs : List Byte),
    let n := i.toNat
    let d := seamEnd n up
    let x := getSeam s n
    let counted := fun (t : State) => bump t 0x09 3 (16 + r.data.length) (.seamDir n up)
    let told := fun (t : State) => emit (counted t) (.seamResponse n up r.seq.toNat st bs)
    let times := (look (fun _ => []) x.replays b.toNat).filter (fun t => decide (elapsed s < t + 1000000)) ++ [elapsed s]
    let elsewhere := ((r.kind.toNat = 1 ∨ r.kind.toNat = 2) ∧ dieOfAddr r.addr.toNat ≠ d) ∨
      (r.kind.toNat = 3 ∧ passesOn s r d = true)
    (seamUp s n = true → dieUp s d = true → x.retraining.contains (plainEngine s n) = false → x.movePlain = false →
      (elsewhere → Does (.plainRecord i up r) s (bump (counted s) 0x09 4 1 (.die d))) ∧
      (r.kind.toNat = 8 ∨ r.kind.toNat = 9 → Does (.plainRecord i up r) s (counted s)) ∧
      (¬ elsewhere → r.kind.toNat ≠ 8 → r.kind.toNat ≠ 9 →
        ((getSeamDir s n up).done.find? (·.1 == r.seq.toNat) = none → runRecord s d r = some (s1, st, bs) →
          Does (.plainRecord i up r) s (told (setSeamDir s1 n up { getSeamDir s1 n up with
            done := ((r.seq.toNat, (st, bs)) :: (getSeamDir s1 n up).done).take 1024 }))) ∧
        (∀ a, (getSeamDir s n up).done.find? (·.1 == r.seq.toNat) = some (a, st, bs) →
          Does (.plainRecord i up r) s (told s)))) ∧
    (bundleWorks s n b.toNat = true → x.retraining.contains b.toNat = false →
      ∃ t, Does (.bundleCrcFailure i b) s t ∧ SameMemory s t ∧
        (times.length ≤ 16 → (getSeam t n).retraining = x.retraining ∧
          look (fun _ => []) (getSeam t n).replays b.toNat = times) ∧
        (16 < times.length → (getSeam t n).retraining = x.retraining ++ [b.toNat] ∧
          look (fun _ => []) (getSeam t n).replays b.toNat = [])) ∧
    (x.retraining.contains b.toNat = true →
      let s0 := advanceTo s (look (fun _ => 0) x.retrainAt b.toNat + 20000)
      let s2 := bump (addRegField (setSeam s0 n { x with retraining := x.retraining.filter (· != b.toNat) })
        (oSeamLink n) 32 16 1) 0x09 7 1 (.seam n)
      Does (.bundleRetrainEnd i b true) s s2 ∧ Does (.bundleRetrainEnd i b false) s (bundleLost s2 n b.toNat)) ∧
    Does (.bundleFailure i b) s (bundleLost s n b.toNat) ∧
    (bundleWorks s n b.toNat = true → 3 ≤ (workingBundles s n).length → plainEngine s n ≠ b.toNat →
      (streamEngines s n).contains b.toNat = false → 2 ≤ (bulkEngines s n).length →
      (∀ e, dieUp s e = true → e = 1 ∨ e = 2 ∨ e = 3 →
        (diePaths 0 e).any (fun p => (pathLegs p).all fun l => seamUp s l.1) = true) →
      ∃ t, Does (.bundleFailure i b) s t ∧ bundleWorks t n b.toNat = false ∧ seamUp t n = true ∧ SameMemory s t) ∧
    (x.movePlain = true → x.moveBulk = false → ∃ t, Does (.roleMove i) s t ∧ SameMemory s t ∧
      ((streamEngines s n ≠ [] ∨ bulkEngines s n ≠ []) → (getSeam t n).movePlain = false) ∧
      (∀ e, (streamEngines s n).find? (!carries s n ·) = some e → plainEngine t n = e) ∧
      (∀ e, (streamEngines s n).find? (!carries s n ·) = none → (streamEngines s n).head? = some e → plainEngine t n = e) ∧
      (∀ e, streamEngines s n = [] → (bulkEngines s n).head? = some e → plainEngine t n = e)) ∧
    (x.movePlain = false → x.moveBulk = true → ∀ e, (streamEngines s n).getLast? = some e →
      ∃ t, Does (.roleMove i) s t ∧ (getSeam t n).moveBulk = false ∧ SameMemory s t ∧
        bitNat (getReg t (oSeamStat n)).toNat (16 + e) = false)

/-- TOPEN send puts an entry into opening and waits for the answer, or returns at once where its entry is in use, its
peer may not take part, no route or no engine is there; TOPEN receive opens its entry to receive and answers a record
held for it (R311, R313). An open record that meets its receiver joins the two, and is held where it does not; the
answer ends TOPEN send with OK and the receiver's ring as its credit; 100 µs without one end it with NOT_READY and the
entry free (R313). An entry whose peer has gone is closed with fault 3 (R316). -/
def Obligations.Streams : Prop :=
  (∀ (c : CoreId) (d : DReg) (rd : GReg) (e : BitVec 3),
     let n := c.toNat
     let desc := fun s1 : State => streamDesc (dreg (getCore s1 n) d.toNat).toNat
     let ok := fun s1 : State => (desc s1).kind = 6 ∧ (desc s1).rsv = false
     let free := fun s1 : State => (getStream (getCore s1 n) e.toNat).kind = .free
     let answer := fun (s1 : State) (st : Nat) => modCore s1 n fun x => setGpr x rd.toNat (BitVec.ofNat 64 st)
     let route := fun s1 : State => routeOf s1 (n / 1024) ((desc s1).peer / 1024) (desc s1).way
     BeginLaw (.topenSend c d rd e) c 4 [rd.toNat] (fun s1 t => ok s1 ∧ free s1 ∧ badPeer s1 n (desc s1).peer = false ∧
       ∃ p es, route s1 = some p ∧ chooseEngines s1 (desc s1).engine (pathLegs p) = some es ∧
         t = modCore s1 n fun x => { setStream x e.toNat { Stream.idle with
               kind := .opening, peer := (desc s1).peer, pstream := (desc s1).pstream, way := (desc s1).way, engines := es
               since := elapsed s1 } with
             wait := some (.topen rd.toNat e.toNat), waitSince := elapsed s1 }) ∧
     EffectLaw (.topenSend c d rd e) c 4 [rd.toNat] (fun s1 t => ok s1 ∧
       ((¬ free s1 ∧ t = answer s1 stPoolFull) ∨
         (free s1 ∧ badPeer s1 n (desc s1).peer = true ∧ t = answer s1 stPartitionFault) ∨
         (free s1 ∧ badPeer s1 n (desc s1).peer = false ∧ route s1 = none ∧ t = answer s1 stLinkDown) ∨
         (free s1 ∧ badPeer s1 n (desc s1).peer = false ∧ ∃ p, route s1 = some p ∧
           chooseEngines s1 (desc s1).engine (pathLegs p) = none ∧ t = answer s1 stPoolFull))) ∧
     TrapLaw (.topenSend c d rd e) c 4 [rd.toNat] true (fun s1 => ¬ ok s1)
       (fun _ => ⟨1, 0, encStream d.toNat 0 0 rd.toNat e.toNat 0⟩) ∧
     EffectLaw (.topenReceive c d rd e) c 4 [rd.toNat] (fun s1 t => ok s1 ∧
       (desc s1).rbase % (desc s1).rsize = 0 ∧ lsSide (n / 16) (desc s1).rbase (desc s1).rsize = true ∧
       ((¬ free s1 ∧ t = answer s1 stPoolFull) ∨
         (free s1 ∧ badPeer s1 n (desc s1).peer = true ∧ t = answer s1 stPartitionFault))) ∧
     EffectLaw (.topenReceive c d rd e) c 4 [rd.toNat] (fun s1 t => ok s1 ∧ free s1 ∧
       (desc s1).rbase % (desc s1).rsize = 0 ∧ lsSide (n / 16) (desc s1).rbase (desc s1).rsize = true ∧
       badPeer s1 n (desc s1).peer = false ∧
       (let s2 := modCore s1 n fun x => setStream x e.toNat { Stream.idle with
           kind := .recv, peer := (desc s1).peer, pstream := (desc s1).pstream, way := (desc s1).way
           base := (desc s1).rbase, size := (desc s1).rsize }
         let o := getStream (getCore s2 (desc s1).peer) (desc s1).pstream
         t = answer (if o.kind = .opening ∧ o.setup = 1 ∧ o.peer = n ∧ o.pstream = e.toNat then
           joinStream s2 (desc s1).peer (desc s1).pstream else s2) stOk)) ∧
     TrapLaw (.topenReceive c d rd e) c 4 [rd.toNat] true
       (fun s1 => ok s1 ∧ ((desc s1).rbase % (desc s1).rsize ≠ 0 ∨ lsSide (n / 16) (desc s1).rbase (desc s1).rsize = false))
       (fun s1 => ⟨4, 0, (desc s1).rbase⟩)) ∧
  (∀ (c : CoreId) (e : BitVec 3) (s : State) (rd : Nat),
     let x := getCore s c.toNat
     let o := getStream x e.toNat
     let ends := fun (t : State) (st : Nat) => (getCore t c.toNat).wait = none ∧ (getCore t c.toNat).pc = x.pc + 4 ∧
       SameMemory s t ∧
       ∀ r, gpr (getCore t c.toNat) r = if r = rd ∧ rd ≠ 0 then BitVec.ofNat 64 st else gpr x r
     (o.kind = .opening → o.setup = 0 →
       Does (.streamOpenRecord c e) s
         (if acceptsFrom (getStream (getCore s o.peer) o.pstream) c.toNat e.toNat then joinStream s c.toNat e.toNat
          else modCore s c.toNat fun x => setStream x e.toNat { o with setup := 1, since := elapsed s })) ∧
     (o.kind = .opening →
       (o.setup = 2 → let size := (getStream (getCore s o.peer) o.pstream).size
         Does (.streamSetupAnswer c e) s (topenAnswer s c.toNat e.toNat stOk
           { o with kind := .send, setup := 0, credit := size, size := size })) ∧
       (o.setup = 1 → Does (.streamOpenTimeout c e) s
         (topenAnswer (advanceTo s (o.since + 100000)) c.toNat e.toNat stNotReady Stream.idle))) ∧
     (o.kind = .opening → x.wait = some (.topen rd e.toNat) → x.halting = false → x.dbl = none → s.jobs = [] →
       (o.setup = 2 → ∃ t, Does (.streamSetupAnswer c e) s t ∧ ends t stOk ∧
         (getStream (getCore t c.toNat) e.toNat).kind = .send ∧
         (getStream (getCore t c.toNat) e.toNat).credit = (getStream (getCore s o.peer) o.pstream).size) ∧
       (o.setup = 1 → ∃ t, Does (.streamOpenTimeout c e) s t ∧ ends t stNotReady ∧
         getStream (getCore t c.toNat) e.toNat = Stream.idle ∧
         t.hallmark = s.hallmark + (o.since + 100000 - elapsed s))) ∧
     (o.kind = .send ∨ o.kind = .recv → o.engines ≠ [] → o.closed = false →
       (let p := getStream (getCore s o.peer) o.pstream
        p.peer ≠ c.toNat ∨ p.pstream ≠ e.toNat ∨ p.engines = [] ∨
          (if o.kind = .send then p.kind ≠ .recv else p.kind ≠ .send ∧ p.kind ≠ .opening)) →
       Does (.streamCloseRecord c e) s (modCore s c.toNat fun x => setStream x e.toNat
         { o with closed := true, queue := [], faults := o.faults ++ [3] })))

/-- TSEND queues its bytes; they arrive in the receiver's ring as far as the credit goes, with event 51; TRECV tells
how many are unread and where, and consumes them; the credit returns to the sender; TCLOSE waits for the queue,
reports the oldest fault, and frees the entry (R314, R315, R316). -/
def Obligations.StreamData : Prop :=
  ∀ (c : CoreId) (ga gb rd : GReg) (e : BitVec 3),
    let n := c.toNat
    let g := fun (s1 : State) (r : GReg) => (gpr (getCore s1 n) r.toNat).toNat
    let at_ := fun s1 : State => getStream (getCore s1 n) e.toNat
    let set := fun (s2 : State) (t : Stream) => modCore s2 n fun x => setStream x e.toNat t
    EffectLaw (.tsend c ga gb e) c 4 [ga.toNat, gb.toNat] (fun s1 t =>
      g s1 gb % 32 = 0 ∧ 32 ≤ g s1 gb ∧ g s1 gb ≤ 65536 ∧ g s1 ga % 32 = 0 ∧
        lsSide (n / 16) (g s1 ga) (g s1 gb) = true ∧ (at_ s1).kind = .send ∧
        (at_ s1).queue.length < 8 ∧ (getCore s1 n).buf = [] ∧
        ∃ s2 bs lost, readRange s1 (coreReq s1 n) (g s1 ga) (g s1 gb) 8 = (s2, bs, lost, none) ∧
          t = set s2 { at_ s1 with
            queue := if (at_ s1).closed = true then [] else (at_ s1).queue ++ [bs]
            faults := if lost = [] then (at_ s1).faults else (at_ s1).faults ++ [4] }) ∧
    TrapLaw (.tsend c ga gb e) c 4 [ga.toNat, gb.toNat] true
      (fun s1 => g s1 gb % 32 = 0 ∧ 32 ≤ g s1 gb ∧ g s1 gb ≤ 65536 ∧ g s1 ga % 32 = 0 ∧
        lsSide (n / 16) (g s1 ga) (g s1 gb) = true ∧ (at_ s1).kind ≠ .send) (fun _ => ⟨8, 5, e.toNat⟩) ∧
    TrapLaw (.tsend c ga gb e) c 4 [ga.toNat, gb.toNat] true
      (fun s1 => g s1 gb % 32 ≠ 0 ∨ g s1 gb < 32 ∨ 65536 < g s1 gb) (fun s1 => ⟨4, 0, g s1 gb⟩) ∧
    (∀ (s : State) (r : Stream) (bs : List (Byte × Bool)) (rest : List (List (Byte × Bool))),
      let o := at_ s
      let m := min bs.length o.credit
      o.kind = .send → o.queue = bs :: rest → receiverOf s n e.toNat = some r → 0 < m →
      (∀ x ∈ o.engines, x.2 ∉ (getSeam s x.1).retraining) → (getCl s (r.base / 0x800000)).power = .on →
      (getCl s (o.peer / 16)).power = .on → o.peer ≠ n →
      ∃ t, Does (.streamDataArrival c e) s (signalEvent t o.peer 51) ∧
        t.mem = (ringPut s r.base r.size r.wptr (bs.take m)).mem ∧
        (getStream (getCore t o.peer) o.pstream).wptr = (r.wptr + m) % r.size ∧
        (getStream (getCore t o.peer) o.pstream).unread = r.unread + m ∧ (at_ t).credit = o.credit - m ∧
        (at_ t).queue = (if m < bs.length then bs.drop m :: rest else rest)) ∧
    CommitLaw (.trecvQuery c rd e) c 4 [rd.toNat] true (fun s1 => (at_ s1).kind = .recv) (fun s1 =>
      modCore s1 n fun x => { setGpr x rd.toNat (BitVec.ofNat 64 ((at_ s1).unread + (at_ s1).rptr * 2 ^ 32)) with
        pref := [], prefOrder := [] }) ∧
    CommitLaw (.trecvConsume c gb e) c 4 [gb.toNat] true
      (fun s1 => (at_ s1).kind = .recv ∧ g s1 gb % 32 = 0 ∧ g s1 gb ≤ (at_ s1).unread)
      (fun s1 => set s1 { at_ s1 with
        rptr := ((at_ s1).rptr + g s1 gb) % (at_ s1).size, unread := (at_ s1).unread - g s1 gb }) ∧
    TrapLaw (.trecvConsume c gb e) c 4 [gb.toNat] true
      (fun s1 => (at_ s1).kind = .recv ∧ (g s1 gb % 32 ≠ 0 ∨ (at_ s1).unread < g s1 gb)) (fun s1 => ⟨4, 0, g s1 gb⟩) ∧
    (∀ s r, (at_ s).kind = .send → receiverOf s n e.toNat = some r → ∃ t, Does (.streamCredit c e) s t ∧
      at_ t = { at_ s with credit := r.size - r.unread } ∧ SameMemory s t) ∧
    CommitLaw (.tcloseSync c e) c 4 [] true
      (fun s1 => (at_ s1).kind = .free ∨ ((at_ s1).queue = [] ∧ (at_ s1).faults = [])) (fun s1 => s1) ∧
    CommitLaw (.tcloseClose c e) c 4 [] true
      (fun s1 => (at_ s1).kind = .free ∨ ((at_ s1).queue = [] ∧ (at_ s1).faults = []))
      (fun s1 => if (at_ s1).kind = .free then s1 else set s1 Stream.idle) ∧
    CommitLaw (.tcloseSync c e) c 4 [] true
      (fun s1 => (at_ s1).kind ≠ .send ∧ (at_ s1).kind ≠ .free ∧ (at_ s1).faults = []) (fun s1 => s1) ∧
    (∀ s s1 f r, Issues s n ⟨4, [], true⟩ s1 → (at_ s1).kind ≠ .free → ((at_ s1).kind = .send → (at_ s1).queue = []) →
      (at_ s1).faults = f :: r →
      let t := takeTrap (set s1 { at_ s1 with faults := [] }) n ⟨8, f, e.toNat⟩ (getCore s n).pc true (!r.isEmpty)
      Does (.tcloseClose c e) s t ∧ Does (.tcloseSync c e) s t)

/-- XFER queues a transfer with its cluster's engine; the bulk engines of a seam's direction carry the next piece of
the agents of the sending die in round-robin order, of a transfer engine the next piece of its head (R304); a transfer
that waits keeps what is left of it; at its end rd takes the status and event 52 is set (R304, R318, R319). -/
def Obligations.Transfers : Prop :=
  ∀ (c : CoreId) (d : DReg) (rd : GReg) (k : ClusterId) (i : SeamId) (up : Bool),
    let n := c.toNat
    let w := fun s1 : State => (dreg (getCore s1 n) d.toNat).toNat
    let f := fun (s1 : State) (lo m : Nat) => fieldNat (w s1) lo m
    let queue := fun s1 : State => (getCl s1 (n / 16)).xfers
    CommitLaw (.xfer c d rd) c 4 [rd.toNat] true
      (fun s1 => f s1 252 4 = 7 ∧ f s1 240 12 = 0 ∧ w s1 % 2 ^ 32 = 0 ∧ 0 < f s1 112 32 ∧ f s1 112 32 ≤ 2 ^ 31 ∧
        f s1 112 32 % 32 = 0 ∧ f s1 192 48 % 32 = 0 ∧ f s1 144 48 % 32 = 0 ∧ f s1 64 32 % 32 = 0 ∧ f s1 32 32 % 32 = 0 ∧
        ((queue s1).filter (·.core == n)).length < 4 ∧ (queue s1).length < 32 ∧ (getCore s1 n).buf = [])
      (fun s1 => modCl s1 (n / 16) fun x => { x with xfers := x.xfers ++ [⟨n, rd.toNat, f s1 192 48, f s1 144 48,
        f s1 112 32, f s1 96 16 + 1, f s1 64 32, f s1 32 32, false, 0, none⟩] }) ∧
    TrapLaw (.xfer c d rd) c 4 [rd.toNat] true
      (fun s1 => f s1 252 4 ≠ 7 ∨ f s1 240 12 ≠ 0 ∨ w s1 % 2 ^ 32 ≠ 0)
      (fun _ => ⟨1, 0, encXfer d.toNat rd.toNat⟩) ∧
    (∀ (s s1 : State) (t t1 : Transfer) (r : List Transfer), (getCl s k.toNat).paused = false → s.pwr.regsOff = false →
      (getCl s k.toNat).xfers = t :: r → xferPieces k.toNat (t.total / 32 + 1) s t = (s1, t1, true) →
      Does (.xferComplete k) s
        (if t1.drop then xferEnd s1 k.toNat t1 (t1.fail.getD stOk)
         else settle (signalEvent (modCore (modCl s1 k.toNat fun x => { x with xfers := x.xfers.drop 1 }) t1.core fun x =>
          lateGpr x t1.rd (BitVec.ofNat 64 (t1.fail.getD stOk))) t1.core 52) t1.core)) ∧
    (∀ (s s1 : State) (t : Transfer) (r : List Transfer), (getCl s k.toNat).paused = false → s.pwr.regsOff = false →
      (getCl s k.toNat).xfers = t :: r → ∀ t1, xferPieces k.toNat (t.total / 32 + 1) s t = (s1, t1, false) →
      Does (.xferComplete k) s (modCl s1 k.toNat fun x => { x with xfers := t1 :: r })) ∧
    (∀ (s s1 s2 : State) (a : Nat),
      let m := i.toNat
      let die := seamEnd m !up
      bulkEngines s m ≠ [] → legHeld s true (m, up) = false → s.pwr.regsOff = false →
      ((List.range 130).map fun j => ((getSeamDir s m up).turn + j) % 130).findSome?
        (fun a => (bulkStep s (m, up) die (bulkAgent die a)).map fun t => (a, t)) = some (a, s1) →
      Does (.bulkPiece i up) s (setSeamDir s1 m up { getSeamDir s1 m up with turn := (a + 1) % 130 }) ∧
      ∀ (t t1 : Transfer) (r : List Transfer) (j : Nat), bulkAgent die a = .transfers j → (getCl s j).xfers = t :: r →
        xferPiece s j t = some (s2, t1) → s1 = modCl s2 j fun y => { y with xfers := t1 :: r })

/-! ### The host interface -/

/-- Doorbells and the run bit: a tail inside the ring is taken; run set while the device is ready starts the ring,
ends a halt and, by a host, masters the bus (log entry 30), and is ignored before; the records that software has
consumed are noted (R329, R333). The descriptor that the host returns waits at the ring's head, or behind a run that
waits there (DEDUCED, log entry 173), its index behind; one that comes poisoned or fails halts the ring (R329, Table
10.8). A command at a ring's head ends with its record behind those that wait: no operation with OK, an op of no row
with ABORTED (log entry 31), a run that may not start with the status R330 gives, an abort that finds no target with
ALREADY_DONE; an abort stops its target, and its record waits for the target's (R335). A run that may start becomes a
job whose cores start at its entry with the argument, their rank and the job's ID in g1 to g3 (R330, R333, R335); at
its limit it is stopped (R331). The oldest record goes to the completion ring once there is room, and its message
follows (R333). -/
def Obligations.RingsAndJobs : Prop :=
  (∀ (r : Req) (f : PartId) (ring : BitVec 2) (w : Word) (s : State) (bs : List Byte),
     let p := f.toNat
     let k := ring.toNat
     let i := regField s (oCrHead p k) 0 12
     let asked := emit s (.hostRead p ((getReg s (oCrBase p k)).toNat + 64 * i) 64)
     let d := (bs ++ List.replicate 64 0).take 64
     (Writable s r (oCrTail p k) → Does (.doorbell r f ring w) s
       (if w.toNat % 4096 < ringSize s p k then setReg s (oCrTail p k) (masked 0xFFF 0 w) else s)) ∧
     (Writable s r (oCrCtl p k) →
       (w.getLsbD 8 = false → Does (.commandRingRun r f ring w) s
         (setReg s (oCrCtl p k) (masked 0x1F010F (getReg s (oCrCtl p k)) w))) ∧
       (s.start.phase ≠ .ready → s.start.phase ≠ .shutdown → Does (.commandRingRun r f ring w) s
         (setReg s (oCrCtl p k) (masked 0x1F010F (getReg s (oCrCtl p k)) (w &&& ~~~(0x100 : Word))))) ∧
       (w.getLsbD 8 = true → (s.start.phase = .ready ∨ s.start.phase = .shutdown) →
         ∃ t, Does (.commandRingRun r f ring w) s t ∧ bitNat (getReg t (oCrCtl p k)).toNat 8 = true ∧
           regField t (oCrCtl p k) 32 1 = 0 ∧ SameMemory s t ∧ (∀ g, r = .host g → (getFunc t p).bme = true) ∧
           ((∀ g, r ≠ .host g) → (getFunc t p).bme = (getFunc s p).bme))) ∧
     (Writable s r (oCcHead p k) →
       Does (.completionHeadWrite r f ring w) s (setReg s (oCcHead p k) (masked 0xFFF 0 w))) ∧
     (readsNext s p k = true →
       (∃ t, Does (.commandDescriptorRead f ring (.data bs)) s t ∧ t.out = asked.out ∧
         regField t (oCrHead p k) 0 12 = (i + 1) % ringSize s p k ∧ (getRing t p k).recs = (getRing s p k).recs ∧
         ((getRing s p k).head = none → (getRing t p k).head = some d ∧ (getRing t p k).index = i) ∧
         ((getRing s p k).head ≠ none → (getRing t p k).head = (getRing s p k).head ∧
           (getRing t p k).line = (getRing s p k).line ++ [(i, d)])) ∧
       Does (.commandDescriptorRead f ring (.poisoned bs)) s (haltRing (aerNote asked p .poisoned) p k stUncorrectable) ∧
       Does (.commandDescriptorRead f ring .unsupported) s (haltRing (aerNote asked p .unsupported) p k stAborted) ∧
       Does (.commandDescriptorRead f ring .completerAbort) s (haltRing (aerNote asked p .completerAbort) p k stAborted))) ∧
  (∀ (f : PartId) (ring : BitVec 2) (s : State) (d : List Byte),
     let p := f.toNat
     let k := ring.toNat
     let x := getRing s p k
     let ended := fun (t : State) (st detail : Nat) => (getRing t p k).head = x.line.head?.map (·.2) ∧
       (getRing t p k).line = x.line.drop 1 ∧ (getRing t p k).copy = none ∧
       (getRing t p k).recs = x.recs ++ [⟨descField d 4 4, st, x.index, detail, descIrq d, s.hallmark, none⟩] ∧
       SameMemory s t ∧ t.cores = s.cores ∧ t.jobs = s.jobs
     (headDesc s p k = some d →
       (descField d 0 1 = 0 → ∃ t, Does (.noOperation f ring) s t ∧ ended t stOk 0) ∧
       (4 < descField d 0 1 → ∃ t, Does (.noOperation f ring) s t ∧ ended t stAborted 0) ∧
       (∀ st detail, descField d 0 1 = 1 → runRefusal s p d = some (st, detail) →
         ∃ t, Does (.run f ring) s t ∧ ended t st detail) ∧
       (descField d 0 1 = 1 → runRefusal s p d = none → Does (.run f ring) s s) ∧
       (descField d 0 1 = 2 → x.aborting = none →
         (s.jobs.find? fun j => j.part == p && j.job == descField d 8 4) = none →
         ((List.range 4).find? fun i => copyNamed (getRing s p i) (descField d 8 4)) = none →
         ∃ t, Does (.abort f ring) s t ∧ ended t stAlreadyDone 1) ∧
       (descField d 0 1 = 1 → runRefusal s p d = none → (∀ c ∈ runCores s p d, jobOf s c = none) →
         (s.jobs.filter (·.part == p)).length < 64 → s.comp.state = .firmware → s.start.maint = false →
         ∃ j, Does (.jobAdmission f ring) s ((runCores s p d).zipIdx.foldl (fun s e => startJobCore s d e.1 e.2)
             (popHead { s with jobs := s.jobs ++ [j] } p k)) ∧
           j.part = p ∧ j.ring = k ∧ j.index = x.index ∧ j.job = descField d 4 4 ∧ j.cores = runCores s p d ∧
           j.limit = descField d 32 4 ∧ j.start = elapsed s ∧ j.startHm = s.hallmark ∧ j.irq = descIrq d ∧
           j.ending = none ∧ j.state = .running) ∧
       (∀ c, descField d 0 1 = 1 → runRefusal s p d = none → runCores s p d = [c] → jobOf s c = none →
         (s.jobs.filter (·.part == p)).length < 64 → s.comp.state = .firmware → s.start.maint = false →
         ∃ t, Does (.jobAdmission f ring) s t ∧ (getRing t p k).head = x.line.head?.map (·.2) ∧
           (getCore t c).run = .running ∧ (getCore t c).pc = BitVec.ofNat 64 (descField d 8 6 / 4 * 4) ∧
           gpr (getCore t c) 1 = BitVec.ofNat 64 (descField d 16 8) ∧ gpr (getCore t c) 2 = 0 ∧
           gpr (getCore t c) 3 = BitVec.ofNat 64 (descField d 4 4))) ∧
     (∀ i st, abortOf s p k = some (i, d) → x.aborting = some st →
       (s.jobs.any fun j => j.part == p && j.job == descField d 8 4) = false →
       ((List.range 4).any fun i => copyNamed (getRing s p i) (descField d 8 4)) = false →
       Does (.abort f ring) s (finishAbort s p k i d st.1 st.2 (some (descField d 8 4)))) ∧
     (∀ i j, abortOf s p k = some (i, d) → x.aborting = none →
       (s.jobs.find? fun j => j.part == p && j.job == descField d 8 4) = some j →
       let told := fun st => setRing s p k { x with aborting := some st }
       ((j.ending ≠ none ∨ j.state = .done ∨ j.state = .aborting) → Does (.abort f ring) s (told (stAlreadyDone, 0))) ∧
       (j.ending = none → j.state ≠ .done → j.state ≠ .aborting →
         let s1 := stopJob (told (stOk, 0)) j stAborted 0 false
         let s2 := match s1.jobs.find? fun k => k.part == p && k.job == descField d 8 4 with
           | some k => setJob s1 { k with state := .aborting }
           | none => s1
         Does (.abort f ring) s (abortDone s2 p k (descField d 8 4) i d (stOk, 0)))) ∧
     (∀ i n, abortOf s p k = some (i, d) → x.aborting = none →
       (s.jobs.find? fun j => j.part == p && j.job == descField d 8 4) = none →
       ((List.range 4).find? fun i => copyNamed (getRing s p i) (descField d 8 4)) = some n →
       ∃ t, Does (.abort f ring) s t ∧ (getRing t p k).aborting = some (stOk, 0) ∧ SameMemory s t ∧
         (getRing t p n).copy = (getRing s p n).copy.map fun c => { c with stop := true }) ∧
     (∀ job j, (s.jobs.find? fun j => j.part == p && j.job == (job : BitVec 32).toNat) = some j → j.limit ≠ 0 →
       j.ending = none → s.comp.state = .firmware → Does (.jobTimeLimit f job) s
         (stopJob (advanceTo s (j.start + j.limit * 1000000)) j (if j.paused then stThrottled else stAborted) 0 false)) ∧
     (∀ c rest, x.recs = c :: rest → recsHeld s p k = false → ringRoom s p k = true →
       (∀ j, c.after = some j → (∀ y ∈ s.jobs, y.part = p → y.job ≠ j) ∧
         ∀ i, i < 4 → i ≠ k → ∀ y ∈ (getRing s p i).recs, y.job ≠ j) →
       s.comp.state = .firmware → ∃ t, Does (.completionRecordWrite f ring) s (match c.irq with
           | some v => msix t p v
           | none => t) ∧ (getRing t p k).recs = rest ∧
         t.out = .hostWrite p ((getReg s (oCcBase p k)).toNat + 16 * regField s (oCcTail p k) 0 12)
           (c.bytes (regField s (oCcTail p k) 12 1)) false :: s.out ∧
         regField t (oCcTail p k) 0 12 = (regField s (oCcTail p k) 0 12 + 1) % ringSize s p k))

/-- A copy asks the host for its next bytes, up to the next 4 KiB of the host's address; what arrives stands in device
memory, and the copy goes on, or ends with the status of what failed; a copy to the host sends what it reads in writes
of 512 bytes; one that has ended gives its record; a read that gets no completion within 50 ms ends it with ABORTED
and detail 2, and where the ring read a descriptor halts the ring; in an FLR what arrives is discarded and the reset
goes on (R323, R332, R337). -/
def Obligations.Copies : Prop :=
  ∀ (f : PartId) (ring : BitVec 2) (s s1 : State) (c : Copy) (bs : List Byte),
    let p := f.toNat
    let k := ring.toNat
    let x := getRing s p k
    let late := fun n : Nat => aerNote (advanceTo s n) p .timeout
    let failed := { c with asked := false, status := some stAborted, detail := 2 }
    (∀ d, ringServed s p k = true → x.copy = none → x.head = some d → descField d 0 1 = 3 →
      currentCopy s p k 3 = some (copyOf d x.index)) ∧
    (currentCopy s p k 3 = some c →
      (c.status = none → c.asked = false → Does (.copyToDevice f ring) s
        (setCopy (emit s (.hostRead p c.host c.chunk)) p k { c with asked := true, at_ := elapsed s })) ∧
      (c.status ≠ none ∨ c.asked = true → Does (.copyToDevice f ring) s (setCopy s p k c))) ∧
    (currentCopy s p k 4 = some c →
      (c.status = none →
        (∀ b, copyOut s p k c.dev c.chunk = some (s1, b, none) →
          Does (.copyToHost f ring) s (setCopy (hostWrites p 8 s1 c.host b) p k (c.past c.chunk))) ∧
        (∀ b st, copyOut s p k c.dev c.chunk = some (s1, b, some st) →
          Does (.copyToHost f ring) s (setCopy (hostWrites p 8 s1 c.host b) p k { c with status := some st })) ∧
        (copyOut s p k c.dev c.chunk = none → Does (.copyToHost f ring) s (setCopy s p k c))) ∧
      (c.status ≠ none → Does (.copyToHost f ring) s (setCopy s p k c))) ∧
    (x.copy = some c → c.asked = true →
      ((getFunc s p).flr = false →
        (c.toHost = false →
          (∀ bad, let data := ((bs ++ List.replicate c.chunk 0).take c.chunk).map fun b => (b, bad)
            let reply := if bad then HostReply.poisoned bs else HostReply.data bs
            let noted := fun t => if bad then aerNote t p .poisoned else t
            (copyIn s p k c.dev data = some (s1, none) →
              Does (.hostReadCompletion f ring reply) s (noted (setCopy s1 p k (c.past c.chunk)))) ∧
            ∀ st, copyIn s p k c.dev data = some (s1, some st) →
              Does (.hostReadCompletion f ring reply) s
                (noted (setCopy s1 p k { c with asked := false, status := some st }))) ∧
          Does (.hostReadCompletion f ring .unsupported) s (aerNote (setCopy s p k failed) p .unsupported) ∧
          Does (.hostReadCompletion f ring .completerAbort) s (aerNote (setCopy s p k failed) p .completerAbort)) ∧
        Does (.pcieCompletionTimeout f ring) s (setCopy (late (c.at_ + 50000000)) p k failed)) ∧
      ((getFunc s p).flr = true →
        (c.toHost = false → Does (.hostReadCompletion f ring (.data bs)) s (flrEnd (setCopy s p k { c with asked := false }) p)) ∧
        Does (.pcieCompletionTimeout f ring) s
          (flrEnd (setCopy (late (c.at_ + 50000000)) p k { c with asked := false }) p))) ∧
    (readsNext s p k = true →
      Does (.pcieCompletionTimeout f ring) s (haltRing (late (elapsed s + 50000000)) p k stAborted)) ∧
    (∀ st d, x.copy = some c → c.status = some st → x.head = some d → (getFunc s p).bme = true →
      ∃ t, Does (.copyComplete f ring) s t ∧ (getRing t p k).copy = none ∧
        (getRing t p k).head = x.line.head?.map (·.2) ∧ (getRing t p k).line = x.line.drop 1 ∧
        (getRing t p k).recs = x.recs ++ [⟨descField d 4 4, st, x.index, c.detail, descIrq d, s.hallmark, none⟩] ∧
        SameMemory s t)

/-- Accesses through BAR2 and BAR0: one that lies in the function's partition is served, one that does not or that its
unit refuses is recorded in HIF_VIOL, a read with a completer abort and a write with no effect of its own (R324,
R325). A whole-word read returns its register and clears it where it is read-to-clear; a read outside the view returns
zero; a write takes effect where it is in the view, and an unaligned one is discarded (R507, R512). A function-level
reset waits for the function's outstanding reads, then returns the function to its state after a start with its
partition stopped; one of the PF and a conventional reset do so for all and clear VF Enable, and PERST# takes the link
down until it is deasserted; clearing Bus Master Enable stops a function from mastering the bus, each of its rings
halting with BME_OFF (R336, R337, R415). -/
def Obligations.HostAccesses : Prop :=
  (∀ (f : PartId) (o : BitVec 36) (off : BitVec 26) (n : Nat) (data : List Byte) (ep : Bool) (r : Req) (w : Word)
       (s s1 : State),
     let p := f.toNat
     let a := bar2Addr s p o.toNat
     let at_ := off.toNat / 8 * 8
     let host : Requester := ⟨2, p, p, 0, false⟩
     let refused := fun (t : State) (why : Nat) => emit (hifViol t p false true why a) (.completerAbort p)
     (∀ why, bar2Bad s p a n = some why → Does (.bar2Read f o n) s (refused s why)) ∧
     (bar2Bad s p a n = none →
       (∀ bs lost, readRange s host a n 12 = (s1, bs, lost, none) →
         Does (.bar2Read f o n) s (emit s1 (.barData p (bs.map (·.1)) (!lost.isEmpty)))) ∧
       (∀ bs lost e why, readRange s host a n 12 = (s1, bs, lost, some (e, why)) → why ≠ .wait →
         Does (.bar2Read f o n) s (refused s1 (bar2Reason why)))) ∧
     (∀ why, bar2Bad s p a data.length = some why →
       Does (.bar2Write f o data ep) s (hifViol s p true true why a) ∧ SameMemory s (hifViol s p true true why a)) ∧
     (bar2Bad s p a data.length = none →
       (∀ bad, writeRange s host a (data.map fun b => (b, ep)) 13 = (s1, bad, none) → Does (.bar2Write f o data ep) s s1) ∧
       (∀ bad e why, writeRange s host a (data.map fun b => (b, ep)) 13 = (s1, bad, some (e, why)) → why ≠ .wait →
         Does (.bar2Write f o data ep) s (hifViol s1 p true true (bar2Reason why) a))) ∧
     (∀ u, standing s (.host f) off.toNat false = .outside u → ∃ t, Does (.bar0ReadOutsideView f off) s t ∧
       t.out = .registerRead 0 :: s.out ∧ bitNat (getReg t (oViol p)).toNat 63 = true ∧ SameMemory s t) ∧
     (standing s r at_ false = .allowed → ∃ t, Does (.rcRegisterRead r off) s t ∧
       t.out = .registerRead (readReg s r at_) :: s.out ∧ (isRc at_ = true → getReg t at_ = 0) ∧
       (∀ q, q ≠ at_ → getReg t q = getReg s q) ∧ SameMemory s t) ∧
     (standing s r at_ false = .reserved → Does (.rcRegisterRead r off) s (emit s (.registerRead 0))) ∧
     (off.toNat % 8 = 0 → Writable s r off.toNat →
       Does (.registerWrite r off w) s (writeServed s r off.toNat w)) ∧
     (off.toNat % 8 = 0 → standing s r off.toNat true = .reserved → Does (.registerWrite r off w) s s) ∧
     (off.toNat % 8 ≠ 0 → ∃ t, Does (.registerWrite (.host f) off w) s t ∧ SameMemory s t ∧ t.cores = s.cores)) ∧
  (∀ (f : PartId) (kind : ConvReset) (s : State),
     let p := f.toNat
     let s0 := flrBegin s p
     ((getFunc s p).flr = true → Does (.flr f) s s) ∧
     ((getFunc s p).flr = false → readsOut s p = true → Does (.flr f) s s0) ∧
     ((getFunc s p).flr = false → readsOut s p = false →
       (f ≠ 0 → ∃ t, Does (.flr f) s t ∧ t = resetFunction (stopPartition s0 p) p ∧ (getFunc t p).bme = false ∧
         (getFunc t p).rings = [] ∧ (getFunc t p).pend = [] ∧ (getFunc t p).flr = false) ∧
       (f = 0 → ∃ t, Does (.flr f) s t ∧ t.start.vfs = false ∧ t = flrAll s0)) ∧
     (∃ t, Does (.pcieConventionalReset kind) s t ∧ t.start.vfs = false ∧ SameMemory (flrAll s) t ∧
       (kind = .conventional → t.start.link = false ∧ t.start.perst = true) ∧ (kind ≠ .conventional → t = flrAll s)) ∧
     (s.start.phase ≠ .unpowered →
       Does .perstDeassert s { s with start := { s.start with perst := false, link := true } }) ∧
     (s.start.phase = .unpowered → Does .perstDeassert s s) ∧
     (∃ t, Does (.busMasterEnableClear f) s t ∧ (getFunc t p).bme = false ∧ SameMemory s t ∧
       ∀ k, k < 4 → bitNat (getReg t (oCrCtl p k)).toNat 8 = false ∧ regField t (oCrCtl p k) 40 8 = stBmeOff ∧
         regField t (oCrCtl p k) 32 1 = 1))

/-- A commit of a partition layout that R327 refuses sets its reason and rej and leaves every layout in force; an
accepted one puts in force what the registers ask for, with its barriers at a base where they fit, which is the
model's free choice (log entry 5), and leaves the other layouts alone (R327, R328). -/
def Obligations.PartitionCommits : Prop :=
  ∀ (r : Req) (p : PartId) (s : State), Writable s r (oPartCtl p.toNat) →
    let n := p.toNat
    (∀ why, commitRefusal s n = some why → ∃ t, Does (.partitionCommit r p) s t ∧
      regField t (oPartStat n) 48 8 = why ∧ regField t (oPartStat n) 9 1 = 1 ∧ t.parts = s.parts ∧ SameMemory s t) ∧
    (commitRefusal s n = none → ∃ t base, Does (.partitionCommit r p) s t ∧
      base ∈ barBases s n (askedLayout s n).barriers ∧ getPart t n = { askedLayout s n with barBase := base } ∧
      (∀ q, q ≠ n → getPart t q = getPart s q) ∧ regField t (oPartStat n) 32 11 = base)

/-! ### The Clearing -/

/-- A Clearing queue's doorbell writes its tail. When it is the queue's turn, a put, a get or a signal at its head
that R343 allows goes in flight and on as far as it can; a collective does so alone, and one of a single member ends
at once with OK; a descriptor that asks for what Table 10.5 does not allow, or whose sig names a core or an event that
it may not, completes with ABORTED (log entry 31); a queue that cannot be read halts. The collectives are ALL_REDUCE,
REDUCE_SCATTER, ALL_GATHER, BROADCAST and BARRIER_COLLECTIVE. A step of a collective that waits ctime ms ends it with
ABORTED (R343 to R345). A request frame for this node with the next number is served in the partition of its Clearing
domain and answered; a response completes the bytes it answers; a collective's data goes to the collective of its
queue, its credit withheld while the staging buffer is full; a frame whose number has been received before changes
nothing but the time a frame was last seen, and one past a gap brings a nak and is counted as discarded (R339, R341,
R342, R344, R345). A frame for another node goes on with one hop less, is discarded with none left or while fwd is 0,
and is answered with LINK_DOWN where it has no route. -/
def Obligations.Clearing : Prop :=
  (∀ (r : Req) (p : PartId) (q : BitVec 2) (w : Word) (s s1 : State) (d : List Byte) (a : Nat),
     let m := p.toNat
     let k := q.toNat
     let s2 := clrAdvance s1 m k
     let c : Collective := ⟨m, k, d, a, 0, false, 0, [], elapsed s2⟩
     let aligned := clrLocal d % 64 = 0 ∧ clrRemote d % 64 = 0 ∧ clrBytes d % 64 = 0
     let alone := ∀ x ∈ s1.colls, ¬ (x.part = m ∧ x.q = k)
     let aborted := clrComplete s2 m k d a stAborted 0
     let flies := fun kind : Nat => clrKick { s2 with clrOps := s2.clrOps ++
       [⟨m, k, kind, d, a, 0, if kind = 3 then 0 else clrBytes d, 0, [], 0, elapsed s2, false⟩] }
     (Writable s r (oClrQtail m k) →
       Does (.clearingDoorbell r p q w) s (setReg s (oClrQtail m k) (masked 0xFFF 0 w))) ∧
     (clrRead s m k = some (s1, none) → Does (.put p q) s s1 ∧ Does (.get p q) s s1 ∧ Does (.clearingSignal p q) s s1) ∧
     (clrRead s m k = some (s1, some (d, a)) → clrTurn s m k = true →
       (clrMayTake s m k false = true →
         (clrBadSig s2 m d = false →
           (clrOp d = 1 → aligned → Does (.put p q) s (flies 1)) ∧
           (clrOp d = 2 → aligned → Does (.get p q) s (flies 2)) ∧
           (clrOp d = 3 → fieldNat (descField d 16 8) 12 6 ≤ 47 → Does (.clearingSignal p q) s (flies 3))) ∧
         (clrOp d = 1 → ¬ aligned ∨ clrBadSig s2 m d = true → Does (.put p q) s aborted) ∧
         (clrOp d = 2 → ¬ aligned ∨ clrBadSig s2 m d = true → Does (.get p q) s aborted) ∧
         (clrOp d = 3 → 47 < fieldNat (descField d 16 8) 12 6 ∨ clrBadSig s2 m d = true →
           Does (.clearingSignal p q) s aborted) ∧
         (clrOp d = 0 ∨ 8 < clrOp d → Does (.put p q) s aborted)) ∧
       (∀ i, clrMayTake s m k true = true → collectiveOf p q (clrOp d) = some i →
         (clrBadSig s2 m d = false → collBad d = false →
           Does i s (collGo { s2 with colls := s2.colls ++ [c] } m k) ∧
           (alone → clrN d = 1 → clrOp d ≠ 7 → Does i s (collEnd { s2 with colls := s2.colls ++ [c] } c stOk))) ∧
         (clrBadSig s2 m d = true ∨ collBad d = true → Does i s aborted))) ∧
     (∀ i op, collectiveOf p q op = some i → (s.colls.any fun c => c.part == m && c.q == k && clrOp c.desc == op) = true →
       Does i s (collGo s m k)) ∧
     (∀ x, (s.colls.find? fun c => c.part == m && c.q == k) = some x → regField s oClrCtl 16 16 ≠ 0 →
       Does (.collectiveStepTimeout p q) s
         (collEnd (advanceTo s (x.at_ + regField s oClrCtl 16 16 * 1000000)) x stAborted))) ∧
  (∀ (n : PortId) (x : Frame) (s s1 s2 : State),
     let k := n.toNat
     let mine := x.dst.toNat = ownNode s
     let p := getPort s k
     (Arrives s k x s1 → mine →
       (∀ st bs, serveFrame s1 k x = some (s2, st, bs) →
         let t := handled (answer s2 ((domainPart s1 x.domain.toNat).getD 0) x st bs) k x
         (x.type = 1 → Does (.writeFrame n x) s t) ∧ (x.type = 2 → Does (.readRequestFrame n x) s t) ∧
         (x.type = 5 → Does (.signalFrame n x) s t)) ∧
       (clrResponse s1 x = some s2 →
         (x.type = 3 → Does (.readResponseFrame n x) s (handled s2 k x)) ∧
         (x.type = 6 → x.op = 0 → Does (.writeResponseFrame n x) s (handled s2 k x))) ∧
       (∀ c, x.type = 6 → x.op ≠ 0 → (s1.colls.find? fun c =>
           stagedFor s1 c.part c.q x && clrColl c.desc % 65536 == x.collId.toNat) = some c →
         Does (.writeResponseFrame n x) s
           (handled (collEnd s1 c (if x.status = 0 then stAborted else x.status.toNat)) k x)) ∧
       (x.type = 4 →
         let t := bump s1 0x0A 8 x.payload.length (.port k)
         (domainPart t x.domain.toNat = none → Does (.collectiveDataFrame n x) s (giveCredit t k 2 (frameCredits x))) ∧
         ∀ m, domainPart t x.domain.toNat = some m →
           (stagedBytes t < 2 ^ 21 → Does (.collectiveDataFrame n x) s
             (collGo (giveCredit { t with staging := t.staging ++ [(none, x)] } k 2 (frameCredits x)) m x.tag.toNat)) ∧
           (2 ^ 21 ≤ stagedBytes t → Does (.collectiveDataFrame n x) s
             (collGo { t with staging := t.staging ++ [(some k, x)] } m x.tag.toNat)))) ∧
     (∀ i, arrivalOf n x x.type.toNat = some i → mine →
       (p.state ≠ .up → Does i s s) ∧
       (p.state = .up → x.lseq.toNat ≠ p.expects →
         ((p.expects + 65536 - x.lseq.toNat) % 65536 ≤ 32768 → Does i s (frameSeen s k)) ∧
         (32768 < (p.expects + 65536 - x.lseq.toNat) % 65536 →
           Does i s (emit (discarded (frameSeen s k) k) (.ack k p.expects p.given true))))) ∧
     (Arrives s k x s1 → ¬ mine → x.type.toNat ≤ 6 →
       let t := bump s1 0x0A 7 x.payload.length (.port k)
       let gone := discarded (giveCredit t k x.vc.toNat (frameCredits x)) k
       let goes := x.hops ≠ 0 ∧ bitNat (getReg s oClrCtl).toNat 32 = true
       (∀ u, goes → sendFrame t (16 + k) { x with hops := x.hops - 1 } = some u → Does (.forwardedFrame n x) s u) ∧
       (goes → sendFrame t (16 + k) { x with hops := x.hops - 1 } = none →
         Does (.forwardedFrame n x) s (answerLinkDown gone x)) ∧
       (¬ goes → Does (.forwardedFrame n x) s gone)))

/-- Acknowledgements shrink the replay buffer and set the limits, and what then may be sent is sent; a nak also
replays what remains; a CRC error brings a nak, an ack that is due goes out; a link control frame or a path failure, 2
µs without an acknowledgement or a frame, retrains the port; it comes up on four lanes or two; three retrains that
fail in a row take it down, and a write brings it up again or disables it; a frame without a response within e2e µs
ends its operation with LINK_DOWN (R338, R340 to R344). -/
def Obligations.Ports : Prop :=
  ∀ (r : Req) (n : PortId) (x : Frame) (ack peer : BitVec 16) (limits : BitVec 48) (lanes : BitVec 4) (tag : BitVec 16)
      (s : State),
    let k := n.toNat
    let p := getPort s k
    let pump := pumpPort k (p.queue.length + 1)
    let less := fun last : Nat => setPort s k { p.acked last with
      seen := elapsed s
      limits := [fieldNat limits.toNat 0 16, fieldNat limits.toNat 16 16, fieldNat limits.toNat 32 16] }
    let counted := addRegField s (oClrPcnt k) 32 16 1
    let fails := fun u : Bool => u = false ∨ (lanes.toNat % 4 ≠ 3 ∧ lanes.toNat < 12)
    (p.state = .up →
      Does (.ackFrame n ack limits false) s (pump (less ack.toNat)) ∧
      Does (.idleFrame n ack limits) s (pump (less ack.toNat)) ∧
      Does (.ackFrame n ack limits true) s (pump (replayAll (less ((ack.toNat + 65535) % 65536)) k)) ∧
      Does (.frameCrcError n) s (emit (frameSeen s k) (.ack k p.expects p.given true)) ∧
      (p.unacked = true → Does (.ackDue n) s
        (emit (setPort s k { p with unacked := false }) (.ack k p.rxSeq p.given false))) ∧
      Does (.linkControlFrame n x) s (setPort s k { p with state := .retraining }) ∧
      (∃ t, Does (.pathFailure n) s t ∧ (getPort t k).state = .retraining ∧ (getPort t k).replay = p.replay ∧
        t.hallmark = s.hallmark + (pathDeadline p - elapsed s) ∧ SameMemory s t)) ∧
    (p.state = .retraining →
      (∀ use, (lanes.toNat = 15 ∧ use = 15) ∨ (lanes.toNat ≠ 15 ∧ lanes.toNat % 4 = 3 ∧ use = 3) ∨
          (lanes.toNat % 4 ≠ 3 ∧ 12 ≤ lanes.toNat ∧ use = 12) →
        let q := p.acked peer.toNat
        Does (.portRetrainEnd n true lanes peer) s (pump (replayAll (setPort counted k { q with
          state := .up, lanes := use, fails := 0, times := q.times.map fun _ => elapsed s, seen := elapsed s }) k))) ∧
      (∀ ok, fails ok →
        (p.fails < 2 → Does (.portRetrainEnd n ok lanes peer) s (setPort counted k { p with fails := p.fails + 1 })) ∧
        (2 ≤ p.fails → Does (.portRetrainEnd n ok lanes peer) s
          (ledger (portDown counted k .down) 0x0601 sevError none (sourceOf 6 k) [])))) ∧
    (Writable s r (oClrPctl k) →
      (p.state = .down →
        Does (.portUp r n) s (setPort s k { Port.trained with state := .retraining, lanes := p.lanes })) ∧
      (p.state ≠ .down → Does (.portUp r n) s s) ∧
      (p.state ≠ .disabled → Does (.portDisable r n) s (portDown s k .disabled) ∧
        (p.queue = [] → p.replay = [] → s.clrOps = [] → s.colls = [] →
          ∃ t, Does (.portDisable r n) s t ∧ (getPort t k).state = .disabled ∧ SameMemory s t)) ∧
      (p.state = .disabled → Does (.portDisable r n) s s)) ∧
    (∀ i o, (s.clrOps.findIdx? fun o => o.frames.any (·.1 == tag.toNat)) = some i → s.clrOps[i]? = some o →
      Does (.endToEndTimeout tag) s (clrKick (clrSettle
        (advanceTo s (o.at_ + 1000 * max 1 (regField s oClrCtl 0 16))) i { o with frames := [], status := stLinkDown })))

/-! ### The hallmark and the governor -/

/-- A pulse that is not valid, be its level too short or its time wrong, is rejected and counted; the first pulse in
free is captured; the third good pulse in a row in acquire locks; a valid pulse in locked or holdover leaves the
alignment locked; 2.5 s without one are holdover (R364 to R366, Table 11.3; which pulses are valid in holdover: log
entry 36). An announced step moves the hallmark forward and is counted apart; a slew ends at zero (R361, R362).
Followers unlock and lock (R357, R359). An epoch takes effect when its halves agree, whichever is written last (R369,
R370); pps_en leaves free for acquire, enters free, and changes nothing else. -/
def Obligations.Hallmark : Prop :=
  ∀ (cap w : Word) (die : DieId) (r : Req) (s : State),
    let x := cap.toNat % 1000000000
    let d := die.toNat
    let m := s.hm
    let now := hallmarkTo s cap.toNat
    let at_ := cap.toNat - m.steps
    (Does (.ppsPulse cap false) s (addRegField now oPcnt 32 32 1)) ∧
    (ppsValid now true at_ = false → Does (.ppsPulse cap true) s (addRegField now oPcnt 32 32 1)) ∧
    (ppsValid now true at_ = true → m.state = .locked ∨ m.state = .holdover → ∃ t, Does (.ppsPulse cap true) s t ∧
      t.hm.state = .locked ∧ t.hm.lastPulse = some at_ ∧ SameMemory s t) ∧
    (m.state = .free → m.lastPulse = none → ∃ t, Does (.ppsPulse cap true) s t ∧ getReg t oPpsCap = cap ∧
      t.hm.state = .free ∧ t.hm.lastPulse = some at_ ∧ t.hallmark = max s.hallmark cap.toNat ∧
      SameMemory s t) ∧
    (m.state = .acquire → m.first = false → x ≤ 100 → ∃ t, Does (.ppsPulse cap true) s t ∧ t.hm.good = m.good + 1 ∧
      t.hm.slew = x ∧ (2 ≤ m.good → t.hm.state = .locked) ∧ (m.good < 2 → t.hm.state = .acquire)) ∧
    (∀ l, m.state = .locked → m.lastPulse = some l → ∃ t, Does .ppsHoldover s t ∧ t.hm = { m with state := .holdover } ∧
      t.hallmark = s.hallmark + (l + 2500000000 - elapsed s)) ∧
    (∀ a size, m.step = some (a, size) → ∃ t, Does .hallmarkStep s t ∧ t.hallmark = max s.hallmark a + size ∧
      t.hm = { m with step := none, steps := m.steps + size } ∧
      getReg t oStepAt = BitVec.ofNat 64 (max s.hallmark a + size) ∧ SameMemory s t) ∧
    (m.slew ≠ 0 → ∃ t, Does .slewEnd s t ∧ t.hm = { m with slew := 0 }) ∧
    (d ≠ 0 → bitNat m.unlocked d = false → ∃ t, Does (.followerUnlock die) s t ∧
      t.hm = { m with unlocked := m.unlocked + 2 ^ d } ∧ SameMemory s t) ∧
    (bitNat m.unlocked d = true → Does (.followerLock die) s { s with hm := { m with unlocked := m.unlocked - 2 ^ d } }) ∧
    (Writable s r oEpochR →
      (w = ~~~ getReg s oEpoch → ∃ t, Does (.epochWrite r true w) s t ∧ t.hm.epoch = getReg s oEpoch ∧
        t.hm.epochBad = false ∧ getReg t oEpochR = w ∧
        t.hm.egen = if getReg s oEpoch = m.epoch then m.egen else (m.egen + 1) % 65536) ∧
      (w ≠ ~~~ getReg s oEpoch → ∃ t, Does (.epochWrite r true w) s t ∧ t.hm = m ∧ getReg t oEpochR = w)) ∧
    (Writable s r oEpoch →
      (getReg s oEpochR = ~~~ w → ∃ t, Does (.epochWrite r false w) s t ∧ t.hm.epoch = w ∧ t.hm.epochBad = false ∧
        getReg t oEpoch = w ∧ t.hm.egen = if w = m.epoch then m.egen else (m.egen + 1) % 65536) ∧
      (getReg s oEpochR ≠ ~~~ w → ∃ t, Does (.epochWrite r false w) s t ∧ t.hm = m ∧ getReg t oEpoch = w)) ∧
    (Writable s r oHmCtl →
      (w.getLsbD 0 = false → ∃ t, Does (.ppsEnableWrite r w) s t ∧ t.hm = { m with state := .free, slew := 0 }) ∧
      (w.getLsbD 0 = true → m.state = .free → ∃ t, Does (.ppsEnableWrite r w) s t ∧
        t.hm = { m with state := .acquire, first := true, good := 0 }) ∧
      (w.getLsbD 0 = true → m.state ≠ .free → ∃ t, Does (.ppsEnableWrite r w) s t ∧ t.hm = m))

/-- A lower operating point changes the clock at once and a higher one when the voltage has risen, 5 mV per µs (R377).
A droop reserve switches in and out, what charge is left being whatever the module had (a free value: log entry 5); a
deep droop holds the clock slow, except in clamp (R378, R379). A limit whose halves agree is taken up by the next
round, and one whose halves differ is not (R389). A housekeeping round ends and the next is decided; the settings
decided apply to every cluster, a pause frame begins at the next multiple of 800,000 ns, and a pause ends with its
share (R382, R385). An alert pauses every cluster by hardware and enters clamp; its release starts the hold; 10 ms of
it shut the device down, its regulators going off 10 ms later (R380, R381, R396). -/
def Obligations.Governor : Prop :=
  (∀ (k : ClusterId) (r : Req) (w : Word) (s : State),
     let n := k.toNat
     let x := getCl s n
     let y := fun t : State => getCl t n
     (populatedCl s n = true → x.power = .on →
       (x.ramping = false → x.opTarget < x.op → ∃ t, Does (.operatingPointChange k) s t ∧ (y t).op = x.opTarget ∧
         (y t).ramping = true ∧ (y t).rampEnd = elapsed s + rampNs x.op x.opTarget ∧ SameMemory s t) ∧
       (x.ramping = false → x.op < x.opTarget → ∃ t, Does (.operatingPointChange k) s t ∧ (y t).op = x.op ∧
         (y t).ramping = true ∧ (y t).rampOp = x.opTarget ∧ (y t).rampEnd = elapsed s + rampNs x.op x.opTarget ∧
         SameMemory s t) ∧
       (x.reserve = false → ∃ t, Does (.droopReserveSwitchIn k) s t ∧ (y t).reserve = true ∧ SameMemory s t) ∧
       (∃ t, Does (.deepDroop k) s t ∧ (y t).deepNew = x.deepNew + 1 ∧
         (s.pwr.state ≠ .clamp → (y t).slow = true) ∧ (s.pwr.state = .clamp → (y t).slow = x.slow) ∧ SameMemory s t)) ∧
     (x.ramping = true → ∃ t, Does (.voltageRampEnd k) s t ∧ (y t).op = max x.op x.rampOp ∧ (y t).ramping = false ∧
       t.hallmark = s.hallmark + (x.rampEnd - elapsed s)) ∧
     (x.reserve = true → ∃ t, Does (.droopReserveDisconnect k) s t ∧ (y t).reserve = false ∧ (y t).charge ≤ x.charge ∧
       t.freeN = s.freeN + 1 ∧ SameMemory s t) ∧
     (Writable s r (oPwrLimit + 8) →
       let agree := w &&& BitVec.ofNat 64 limitMask = ~~~ getReg s oPwrLimit &&& BitVec.ofNat 64 limitMask
       (agree → ∃ t, Does (.pwrLimitWrite r true w) s t ∧ t.pwr = { s.pwr with limitNew := some (getReg s oPwrLimit) }) ∧
       (¬ agree → ∃ t, Does (.pwrLimitWrite r true w) s t ∧ t.pwr = s.pwr)) ∧
     (Writable s r oPwrLimit →
       let v := w &&& BitVec.ofNat 64 limitMask
       let agree := getReg s (oPwrLimit + 8) = ~~~ v &&& BitVec.ofNat 64 limitMask
       (agree → ∃ t, Does (.pwrLimitWrite r false w) s t ∧ t.pwr = { s.pwr with limitNew := some v }) ∧
       (¬ agree → ∃ t, Does (.pwrLimitWrite r false w) s t ∧ t.pwr = s.pwr)) ∧
     (Writable s r (oPwrTlim + 8) →
       let agree := w &&& BitVec.ofNat 64 tlimMask = ~~~ getReg s oPwrTlim &&& BitVec.ofNat 64 tlimMask
       (agree → ∃ t, Does (.pwrTlimWrite r true w) s t ∧ t.pwr = { s.pwr with tlimNew := some (getReg s oPwrTlim) }) ∧
       (¬ agree → ∃ t, Does (.pwrTlimWrite r true w) s t ∧ t.pwr = s.pwr)) ∧
     (Writable s r oPwrTlim →
       let v := w &&& BitVec.ofNat 64 tlimMask
       let agree := getReg s (oPwrTlim + 8) = ~~~ v &&& BitVec.ofNat 64 tlimMask
       (agree → ∃ t, Does (.pwrTlimWrite r false w) s t ∧ t.pwr = { s.pwr with tlimNew := some v }) ∧
       (¬ agree → ∃ t, Does (.pwrTlimWrite r false w) s t ∧ t.pwr = s.pwr))) ∧
  (∀ (x : Readings) (k : ClusterId) (cause : AlertCause) (s : State),
     (governs s = true →
       (∃ t, Does (.housekeepingRoundEnd x) s t ∧ t.pwr.round = s.pwr.round + 1 ∧
         t.pwr.inputs = (x.inputDw :: s.pwr.inputs).take 2500) ∧
       (∀ a, s.pwr.applyAt = some a → ∃ t, Does .governorSettingsApply s t ∧ t.pwr.applyAt = none ∧
         t.pwr.duties = s.pwr.dutyNext ∧ (∀ j ∈ allClusters s, (getCl t j).opTarget = (getCl s j).opNext) ∧
         SameMemory s t) ∧
       (∃ t, Does .pauseFrameBoundary s t ∧ t.hallmark = (s.hallmark / 800000 + 1) * 800000 ∧ t.pwr.hwPause = false) ∧
       (s.pwr.alert = true → ∃ t, Does .alertShutdown s t ∧ t.pwr.state = .shutdown ∧ t.start.phase = .shutdown ∧
         t.start.faultN = true ∧ t.start.readyPin = false ∧ t.start.thermN = s.start.thermN)) ∧
     ((getCl s k.toNat).paused = true → (getCl s k.toNat).pauseEnd ≠ 0 → s.pwr.hwPause = false →
       ∃ t, Does (.pauseEnd k) s t ∧ (getCl t k.toNat).paused = false ∧
         t.hallmark = max s.hallmark (getCl s k.toNat).pauseEnd) ∧
     (s.start.phase ≠ .unpowered →
       (s.pwr.alert = false → ∃ t, Does (.vrAlertAssert cause) s t ∧ t.pwr.alert = true ∧
         t.pwr.causes = alertBit cause ∧ t.pwr.hwPause = true ∧ (governs s = true → t.pwr.state = .clamp) ∧
         SameMemory s t) ∧
       (s.pwr.alert = true → Does (.vrAlertAssert cause) s
         { s with pwr := { s.pwr with causes := s.pwr.causes ||| alertBit cause } })) ∧
     (s.pwr.alert = true → ∃ t, Does .vrAlertRelease s t ∧ t.pwr.alert = false ∧ t.pwr.high = 0 ∧ SameMemory s t) ∧
     (∀ a, s.pwr.shutAt = some a → s.pwr.regsOff = false → ∃ t, Does .shutdownRegulatorsOff s t ∧ t.pwr.regsOff = true ∧
       ∀ j ∈ allClusters s, (getCl t j).power = .off))

/-! ### Starts, resets and what changes of itself -/

/-- A start, cold, warm, by the service port or after the image watchdog, loses every state but the flash and the
commands that wait. It runs the image of the preferred slot, or of the other one, when its checks pass and it has not
failed before, and ends in recovery when neither does; its checks and its alert wire can end it fatal or in shutdown;
an image that has run 5 s without the ready declaration is left marked as tried; a start that declares ready or finds
a fatal condition confirms its image (R402, R403, R418, R470, R473, R474, R520). What happens inside a start is not
shown (log entry 40). The maintenance state begins when no job is admitted, and is refused in ASY_STAT otherwise; the
boot settings are stored as a pair; a retirement request that Table 14.10 accepts joins the pending ones and is busy
until its flash program completes, and one it does not accept leaves its result, a reverse written alone being a write
in progress (R11); the end of an erase marks the journal (R419, R424, R436, R469, R470). -/
def Obligations.StartsAndFlash : Prop :=
  (∀ (r : Req) (e : StartEnv) (seq : BitVec 16) (s : State),
     let off := s.start.phase = .unpowered
     let told := respond s seq.toNat ptDone []
     let dark := fun t : State => t.mem = [] ∧ t.cores = [] ∧ t.pending = s.pending
     (off → Does (.coldStart e) s (startDevice s 0 e)) ∧
     (Writable s r oAsyCtl → ¬ off → Does (.warmStart r e) s (startDevice s 1 e)) ∧
     (s.start.phase = .starting → s.comp.state = .firmware → Does (.imageWatchdogExpiry e) s (startDevice s 1 e)) ∧
     (¬ off → ∃ t, Does .inputLoss s t ∧ dark t ∧ t.start.phase = .unpowered ∧ t.start.readyPin = false ∧
       t.flash = s.flash) ∧
     (¬ off → s.comp.lastSeq ≠ some seq.toNat →
       (∃ t, Does (.restart seq true e) s t ∧ dark t ∧ t.comp.state = .recovery ∧ t.start.faultN = true ∧
         t.comp.lastSeq = some seq.toNat) ∧
       ∃ t, Does (.restart seq false e) s t ∧ dark t ∧ t.start = (startDevice told 2 e).start ∧
         t.flash = (startDevice told 2 e).flash ∧ t.comp.lastSeq = some seq.toNat) ∧
     ∀ kind, let t := startDevice s kind e
       dark t ∧
       (e.fatal = some .lockstep → t.start.phase = .fatal ∧ t.start.faultN = true) ∧
       (e.fatal = some .noImage → t.comp.state = .recovery ∧ t.start.faultN = true) ∧
       (e.fatal = none → chooseImage (repairErases s) e = none → t.comp.state = .recovery ∧ t.start.faultN = true) ∧
       (∀ b fb, e.fatal = none → chooseImage (repairErases s) e = some (b, fb) →
         t.comp.state = .firmware ∧ t.comp.slotB = b ∧ t.comp.fallback = fb ∧ (imageOf t.flash b).tried = true ∧
         t.flash.starts = s.flash.starts + 1 ∧
         (5000 ≤ e.ms.toNat → t.start.phase = .starting ∧ (imageOf t.flash b).ok = false) ∧
         (e.ms.toNat < 5000 → (imageOf t.flash b).ok = true ∧
           ((t.start.phase = .ready ∧ t.start.readyPin = true) ∨ (t.start.phase = .fatal ∧ t.start.faultN = true)))) ∧
       (∀ f b fb, e.fatal = some f → chooseImage (repairErases s) e = some (b, fb) → e.ms.toNat < 5000 →
         f ≠ .lockstep → f ≠ .noImage → t.start.faultN = true ∧ t.start.readyPin = false ∧
           (t.start.phase = match f with
             | .strata _ _ | .alert _ => .shutdown
             | _ => .fatal))) ∧
  (∀ (r : Req) (w : Word) (s : State),
     let o := getReg s oRetire
     let n := retireResult s o w
     let v := w &&& 0x3F01
     (Writable s r oAsyCtl → s.start.phase = .ready →
       Does (.maintenanceLeave r) s { s with start := { s.start with maint := false } } ∧
       (s.jobs = [] → Does (.maintenanceEnter r) s { s with start := { s.start with maint := true } }) ∧
       (s.jobs ≠ [] → Does (.maintenanceEnter r) s (setRegField s oAsyStat 7 1 1))) ∧
     (Writable s r oAsyNext → Does (.bootSettingsWrite r w) s
       (setReg { s with flash := { s.flash with boot := (v, ~~~v), programs := s.flash.programs + 1 } } oAsyNext v)) ∧
     (Writable s r oRetireR →
       let pair := getPair s oRetire
       (n ≠ 1 ∨ pair.obv = true → ∃ t, Does (.retirementRequest r w) s t ∧ regField t oRstat 40 8 = n ∧
         (n = 0 → t.flash.pend = s.flash.pend ++ [(o, ~~~o)] ∧ regField t oRstat 0 1 = 1) ∧
         (n ≠ 0 → t.flash.pend = s.flash.pend)) ∧
       (n = 1 → pair.obv = false → Does (.retirementRequest r w) s (setPair s oRetire { pair with rev := true }))) ∧
     (s.flash.programs = 1 → ∃ t, Does .flashProgramComplete s t ∧ t.flash.programs = 0 ∧ regField t oRstat 0 1 = 0) ∧
     (1 < s.flash.programs → Does .flashProgramComplete s
       { s with flash := { s.flash with programs := s.flash.programs - 1 } }) ∧
     (∀ x l, s.flash.erasing = x :: l → (x, false) ∈ s.flash.journal → ∃ t, Does .flashEraseComplete s t ∧
       t.flash.erasing = l ∧ (x, true) ∈ t.flash.journal))

/-- A reset of a cluster leaves its cores in the reset state and its press without work, until it ends and the starts
written meanwhile take effect. A power-down with an admitted job on the cluster is refused; one without fails the
loads of others toward its local stores. A cluster that powers up runs at OP6 with its local stores zero, 1 ms after
the write. A scrub reads a local store word by word, around (R434, R439). A request to reset the comptroller's die, or
a die that is not up, is recorded and ignored; another one leaves every core of the die idle and the die in reset,
until its interfaces have trained or 300 ms have passed (R440). -/
def Obligations.UnitResets : Prop :=
  (∀ (r : Req) (k : ClusterId) (i : BitVec 4) (s : State),
     let n := k.toNat
     let at_ := look (fun _ => 0) (getCl s n).scrub i.toNat
     (Writable s r (oClRst n) → populatedCl s n = true → dieUp s (n / 64) = true →
       ((getCl s n).power = .on →
         (∃ t, Does (.clusterReset r k) s t ∧ (getCl t n).power = .resetting ∧ (getCl t n).queues = [] ∧
           (getCl t n).current = none ∧
           ∀ c ∈ coresOf n, ∃ m, getCore t c = { CoreSt.idle with
             resetting := some false, discarded := m, resetAt := elapsed s, seen := elapsed s }) ∧
         (clusterHasJob s n = true →
           Does (.clusterPowerDown r k) s (setCl s n { getCl s n with rej := true })) ∧
         (clusterHasJob s n = false → ∃ t, Does (.clusterPowerDown r k) s t ∧ (getCl t n).power = .off ∧
           ∀ c, c / 16 ≠ n → ∀ l ∈ (getCore s c).loads, l.addr / 0x80000 / 16 = n →
             { l with reply := .inr ⟨0xE, 2, l.addr⟩ } ∈ (getCore t c).loads)) ∧
       ((getCl s n).power = .off → ∃ t, Does (.clusterPowerUp r k) s t ∧ (getCl t n).power = .poweringUp ∧
         SameMemory s t)) ∧
     ((getCl s n).power = .resetting → (getCl s n).rst = [] → ∃ t, Does (.clusterResetEnd k) s t ∧
       (getCl t n).power = .on ∧ t.hallmark = s.hallmark + ((getCl s n).rstAt + cyclesNs (getCl s n) 256 - elapsed s) ∧
       ∀ c ∈ coresOf n,
         ((getCore s c).resetting = some true → (getCore t c).run = .running ∧
           (getCore t c).pc = getReg s (oCoStart c)) ∧
         ((getCore s c).resetting = some false → (getCore t c).resetting = none)) ∧
     ((getCl s n).power = .poweringUp → (getCl s n).rst = [] → ∃ t, Does (.clusterPowerUpEnd k) s t ∧
       (getCl t n).power = .on ∧ (getCl t n).op = 6 ∧
       t.hallmark = s.hallmark + ((getCl s n).rstAt + 1000000 - elapsed s) ∧
       ∀ c ∈ coresOf n, ∀ o, o < 0x80000 → rdByte t (lsAddr c o) = 0) ∧
     (takesEvents s (n * 16 + i.toNat) = true → ∃ t, Does (.localStoreScrub k i) s t ∧
       look (fun _ => 0) (getCl t n).scrub i.toNat = (at_ + 1) % 65536)) ∧
  (∀ (r : Req) (d : DieId) (training : List Unit13) (s : State),
     let n := d.toNat
     let up := modHm { s with start := { s.start with
       dies := s.start.dies.set n 0, upAt := s.start.upAt.set n (elapsed s) } } fun m => { m with
       unlocked := if bitNat m.unlocked n then m.unlocked - 2 ^ n else m.unlocked }
     let trained := (seamsOf n).foldl rolesAgain (training.foldl (returnFailure n) up)
     let zeroed := (((allClusters trained).filter (· / 64 == n)).flatMap coresOf).foldl zeroLs trained
     (Writable s r oDrst →
       (n = 0 ∨ dieUp s n = false → Does (.dieReset r d) s (ledger s 0x0503 sevWarn none (srcDie n) [])) ∧
       (n ≠ 0 → dieUp s n = true → ∃ t, Does (.dieReset r d) s t ∧ t.start.dies = s.start.dies.set n 1 ∧
         ∀ c, c / 1024 = n → getCore t c = CoreSt.idle)) ∧
     (s.start.dies.getD n 0 = 1 →
       Does (.dieReturn d training) s (cutOffDies (statusChange
         (ledger zeroed 0x0504 sevNotice none (srcDie n) [s.start.drops.getD n 0]))) ∧
       ∃ t, Does (.dieResetTimeout d) s t ∧ t.start.dies = s.start.dies.set n 3 ∧
         t.hallmark = s.hallmark + (s.start.dieAt.getD n 0 + 300000000 - elapsed s)))

/-- A stored bit that changes of itself changes alone: a bit of a byte of memory, of the check bits of a word, a line
or a burst, or of a register half; a latch, an accumulator element or a combiner row is left with its parity wrong
(R425, R435, R443). What is not there does not change. -/
def Obligations.SoftErrors : Prop :=
  ∀ (a : BitVec 48) (b : BitVec 3) (bit : BitVec 6) (c : CoreId) (u : BitVec 4) (slot : BitVec 2) (e : BitVec 10)
      (row : BitVec 8) (k : ClusterId) (prow : BitVec 10) (p : PartId) (rev : Bool) (reg : BitVec 3) (s : State),
    let ua := (unitAt s a.toNat).addr
    let code := (unitAt s a.toNat).code
    let flips := fun (t : SoftTarget) (o : Nat) => ∃ x, Does (.softError t) s x ∧
      getReg x o = getReg s o ^^^ BitVec.ofNat 64 (2 ^ bit.toNat) ∧ (∀ q, q ≠ o → getReg x q = getReg s q) ∧
      SameMemory s x
    let same := fun t : SoftTarget => Does (.softError t) s s
    (populatedPlace s (placeOf a.toNat) = true →
      (∃ t, Does (.softError (.memoryBit a b)) s t ∧
        rdByte t a.toNat = rdByte s a.toNat ^^^ BitVec.ofNat 8 (2 ^ b.toNat) ∧
        ∀ x, x ≠ a.toNat → rdByte t x = rdByte s x) ∧
      (code = 3 → ∃ t, Does (.softError (.checkBit a bit)) s t ∧ SameMemory s t ∧
        look (fun _ => 0) t.chk ua = look (fun _ => 0) s.chk ua ^^^ BitVec.ofNat 64 (2 ^ bit.toNat)) ∧
      (code = 1 → ∃ t, Does (.softError (.checkBit a bit)) s t ∧ SameMemory s t ∧
        look (fun _ => 0) t.chk ua = look (fun _ => 0) s.chk ua ^^^ BitVec.ofNat 64 (2 ^ (bit.toNat % 8))) ∧
      (∀ v off x, code = 2 → placeOf ua = .vein v off → regionAt s v off = some x →
        let at_ := veinAddr v (x.checkAt off) + bit.toNat % 32 / 8
        ∃ t, Does (.softError (.checkBit a bit)) s t ∧
          rdByte t at_ = rdByte s at_ ^^^ BitVec.ofNat 8 (2 ^ (bit.toNat % 8)) ∧
          ∀ y, y ≠ at_ → rdByte t y = rdByte s y)) ∧
    (populatedPlace s (placeOf a.toNat) = false → same (.memoryBit a b) ∧ same (.checkBit a bit)) ∧
    (populated s c.toNat = true →
      (∃ t, Does (.softError (.bankLatch c u slot)) s t ∧
        (look (fun _ => LatchSlot.empty) (getUnit (getVein t c.toNat) u.toNat).slots slot.toNat).parity = true) ∧
      (∃ t, Does (.softError (.bankAccumulator c u e)) s t ∧
        e.toNat ∈ (getUnit (getVein t c.toNat) u.toNat).parity) ∧
      ∃ t, Does (.softError (.combinerRow c slot row)) s t ∧
        row.toNat ∈ (look (fun _ => Combiner.idle) (getVein t c.toNat).comb slot.toNat).parity) ∧
    (populated s c.toNat = false →
      same (.bankLatch c u slot) ∧ same (.bankAccumulator c u e) ∧ same (.combinerRow c slot row)) ∧
    (populatedCl s k.toNat = true → ∃ t, Does (.softError (.pressAccumulator k prow)) s t ∧
      (accRow (getCl t k.toNat) prow.toNat).parity = true) ∧
    (populatedCl s k.toNat = false → same (.pressAccumulator k prow)) ∧
    flips (.epochHalf rev bit) (if rev then oEpochR else oEpoch) ∧
    flips (.pwrLimitHalf rev bit) (if rev then oPwrLimit + 8 else oPwrLimit) ∧
    flips (.pwrTlimHalf rev bit) (if rev then oPwrTlim + 8 else oPwrTlim) ∧
    (reg.toNat < 6 → flips (.partHalf p rev reg bit)
      (if rev then oPartR p.toNat reg.toNat else oPart p.toNat reg.toNat)) ∧
    (6 ≤ reg.toNat → same (.partHalf p rev reg bit))

/-! ### The comptroller -/

/-- A comptroller that fails, or whose watchdog expires after the ready declaration, pauses every powered cluster,
drops READY, asserts FAULT_N and ends the jobs without completions; the status interrupt is sent by hardware at its
interval's end (R446, R474, R515). The mailbox commands end with their results in the result registers and their
status, and the function's mailbox is free again: INFO the versions and the slot, NOTE a record of class 0xF0,
CORE_MSG a message for a populated core of the function that has room for it, LEDGER_FETCH the records of the flash
ledger from a point on, TALLY_SAVE the tallies as pairs (R447, R448, R466). -/
def Obligations.ComptrollerEvents : Prop :=
  (∀ (kind : CompFailure) (addr : BitVec 32) (s : State),
     let fails := fun (i : Instr) (n : Nat) => ∃ t, Does i s t ∧ t.comp.state = .failed ∧ t.comp.failure = n ∧
       t.start.phase = .failed ∧ t.start.readyPin = false ∧ t.start.faultN = true ∧ t.jobs = [] ∧ t.pwr.hwPause = true ∧
       ∀ k, populatedCl s k = true → (getCl s k).power ≠ .off → (getCl t k).paused = true
     (s.start.phase ≠ .unpowered → s.comp.state ≠ .failed →
       fails (.comptrollerFailure kind addr) (if kind = .lockstep then 1 else 2)) ∧
     (s.start.phase = .ready ∨ s.start.phase = .shutdown → s.comp.state ≠ .failed →
       fails .comptrollerWatchdogExpiry 3) ∧
     (∀ at_, s.start.irqAt = some at_ → Does .statusInterrupt s
       (msix { s with hallmark := s.hallmark + (at_ + 10000 - elapsed s), start := { s.start with irqAt := none } } 0
         (regField s oDevCtl 0 5)))) ∧
  (∀ (f : PartId) (v : Option Nat) (s : State),
     let n := f.toNat
     let a := boxArg s n 0
     let c := a % 4096
     let told := messageWord s 1 n 0 :: [1, 2, 3].map fun i => getReg s (oCmbArg n i)
     let records := ledgerFrom s (a % 65536) (boxArg s n 1 % 2 ^ 32) 64
     let runs := fun cmd : Nat => s.comp.state = .firmware ∧ (getFunc s n).cmbBusy = some (cmd, v)
     let ends := fun (i : Instr) (status : Nat) (t : State) => Does i s t ∧ (getFunc t n).cmbBusy = none ∧
       getReg t (oCmbStat n) = BitVec.ofNat 64 (status * 256)
     (runs 1 → ∃ t, ends (.info f) stOk t ∧
       getReg t (oCmbRes n 0) = BitVec.ofNat 64 (slotVersion s s.comp.slotB) ∧
       getReg t (oCmbRes n 1) = BitVec.ofNat 64 (s.comp.slotB.toNat + 2 * s.comp.fallback.toNat) ∧
       getReg t (oCmbRes n 2) = BitVec.ofNat 64 (slotVersion s !s.comp.slotB) ∧
       getReg t (oCmbRes n 3) = BitVec.ofNat 64 Config.romVersion) ∧
     (runs 2 → (sevWarn < fieldNat a 8 3 → ∃ t, ends (.note f) stAborted t ∧ t.ledger = s.ledger) ∧
       (fieldNat a 8 3 ≤ sevWarn → ∃ t, ends (.note f) stOk t ∧
         t.ledger = (ledger s (0xF000 + a % 256) (fieldNat a 8 3) (some n) (sourceOf 7 n)
           ([1, 2, 3].map fun i => boxArg s n i % 2 ^ 32)).ledger)) ∧
     (runs 3 →
       (populated s c = false ∨ partOf s c ≠ some n → ∃ t, ends (.coreMsg f) stPartitionFault t ∧ t.cores = s.cores) ∧
       (populated s c = true → partOf s c = some n → 4 ≤ (getCore s c).msgs.length →
         ∃ t, ends (.coreMsg f) stPoolFull t ∧ t.cores = s.cores) ∧
       (populated s c = true → partOf s c = some n → (getCore s c).msgs.length < 4 →
         ∃ t, ends (.coreMsg f) stOk t ∧ (getCore t c).msgs = (getCore s c).msgs ++ [told])) ∧
     (runs 4 → ∃ t, ends (.ledgerFetch f) stOk t ∧ t.ledger.window = records ∧
       getReg t (oCmbRes n 0) = BitVec.ofNat 64 records.length) ∧
     (runs 5 → ∃ t, ends (.tallySave f) stOk t ∧ t.tally.saved = some (elapsed s) ∧
       ∀ p, p < 16 → (p, (BitVec.ofNat 64 (wholeUj (look (fun _ => 0) s.tally.cum p)),
         ~~~(BitVec.ofNat 64 (wholeUj (look (fun _ => 0) s.tally.cum p)) : Word))) ∈ t.flash.tally))

/-- A pop brings a core's next message; a token comes back to the bucket of a code one refill interval after the last,
and a full bucket gains nothing; the oldest copy goes to the flash ledger; an acknowledgement moves forward and not
beyond the next number; a hold of records runs up to 10 ms and its end leaves none held; an interval's close begins
the next one, to the next multiple of the length now written (R448, R453, R456, R458, R459, R462). -/
def Obligations.LedgerAndTally : Prop :=
  ∀ (r : Req) (c : CoreId) (code : BitVec 16) (w : Word) (s : State),
    let us := min 10000 (w.toNat % 2 ^ 14)
    let v := w.toNat % 2 ^ 32
    let len := within 1 3600 (regField s oTalCtl 16 12) * 1000000000
    let forward := (v + 2 ^ 32 - s.ledger.ack) % 2 ^ 32 ≤ (s.ledger.wseq + 2 ^ 32 - s.ledger.ack) % 2 ^ 32
    (Writable s r (coBase c.toNat + 0x2E0) → ∃ t, Does (.messagePop r c) s t ∧
      (getCore t c.toNat).msgs = (getCore s c.toNat).msgs.drop 1) ∧
    let taken := fun (x : State) (k : Nat) => look (fun _ => 0) x.ledger.tokens k
    (taken s code.toNat = 0 → Does (.ledgerTokenRefill code) s s) ∧
    (taken s code.toNat ≠ 0 → ∃ t, Does (.ledgerTokenRefill code) s t ∧
      taken t code.toNat = taken s code.toNat - 1 ∧ (∀ k, k ≠ code.toNat → taken t k = taken s k) ∧
      t.hallmark = s.hallmark + (refillDue s code.toNat - elapsed s) ∧ refillDue t code.toNat =
        refillDue s code.toNat + 1000 * max 1 (regField s (oLdgRate (look (fun _ => (0, 0)) s.ledger.refills code.toNat).2) 0 32) ∧
      t.ledger.ring = s.ledger.ring ∧ SameMemory s t) ∧
    (∀ x q, s.ledger.queue = x :: q → s.comp.state = .firmware → ∃ t, Does .ledgerFlashCopy s t ∧
      t.ledger.queue = q ∧ t.flash.ledger = (if 131072 ≤ s.flash.ledger.length then s.flash.ledger.drop 64
        else s.flash.ledger) ++ [(s.flash.starts % 65536, x)]) ∧
    (Writable s r (oLdgCtl + 0x18) →
      (forward → Does (.ledgerAckWrite r w) s { s with ledger := { s.ledger with ack := v } }) ∧
      (¬ forward → Does (.ledgerAckWrite r w) s s)) ∧
    (Writable s r (oLdgCtl + 0x20) →
      (us ≠ 0 → Does (.ledgerHold r w) s
        { s with ledger := { s.ledger with holdEnd := some (elapsed s + us * 1000) } }) ∧
      (us = 0 → ∃ t, Does (.ledgerHold r w) s t ∧ t.ledger.holdEnd = none ∧ t.ledger.held = [])) ∧
    (∀ at_, s.ledger.holdEnd = some at_ → s.comp.state = .firmware → ∃ t, Does .ledgerHoldEnd s t ∧
      t.ledger.holdEnd = none ∧ t.ledger.held = [] ∧ t.hallmark = s.hallmark + (at_ - elapsed s)) ∧
    (s.comp.state = .firmware → ∃ t, Does .billingIntervalClose s t ∧ t.hallmark = max s.hallmark s.tally.ivlEnd ∧
      t.tally.ivlStart = s.tally.ivlEnd ∧ t.tally.ivlEnd % len = 0 ∧ s.tally.ivlEnd < t.tally.ivlEnd ∧
      t.tally.ivlEnd ≤ s.tally.ivlEnd + len ∧ t.tally.idle = [] ∧ t.tally.unIvl = 0 ∧ t.tally.ended = [] ∧
      ∀ j ∈ t.jobs, j.ivl = 0)

/-- The service port repeats its last response to a repeated sequence number, and otherwise answers each command of
Table 15.8: the identity, the status words, an image update from its header to its digest, the calibration store, the
flash ledger, and the removal of entries from the inclusion list in recovery (R411, R472, R476 to R479). -/
def Obligations.ServicePort : Prop :=
  ∀ (seq start : BitVec 16) (slot cls : Byte) (h data : List Byte) (off first : BitVec 32) (values locators : List Word)
      (cred : Word) (s : State),
    let n := seq.toNat
    let img := fun b : Bool => imageOf s.flash b
    let free := s.start.phase ≠ .unpowered ∧ s.comp.lastSeq ≠ some n
    let done := fun (i : Instr) (t : State) => Answered i s t n ptDone []
    let fails := fun (i : Instr) (status : Nat) => ∃ t, Answered i s t n status [] ∧ t.flash = s.flash
    let mode := if s.comp.state = .firmware then 1 else if s.comp.state = .recovery then 2 else 0
    (s.start.phase ≠ .unpowered → s.comp.lastSeq = some n →
      ∀ i ∈ [.ident seq, .status seq, .imgBegin seq slot h, .imgData seq off data, .imgEnd seq, .imgAbort seq,
        .calRead seq cls, .calWrite seq cls values, .ledgerRead seq start first, .inclClear seq cred locators],
        Does i s { s with out := .service n s.comp.lastResp :: s.out }) ∧
    (free →
      (∃ t, Answered (.ident seq) s t n ptDone (natLe 2 0x0004 ++ natLe 1 0xB1 ++ natLe 8 Config.serial.toNat ++
        natLe 1 s.comp.slotB.toNat ++ natLe 4 (slotVersion s false) ++ natLe 4 (slotVersion s true) ++
        natLe 1 mode)) ∧
      (∃ t, Answered (.status seq) s t n ptDone
        (natLe 8 (asyStat s) ++ natLe 8 (cstat s) ++ natLe 8 (pwrStat s) ++ natLe 1 s.comp.step)) ∧
      (headerOk h = false → fails (.imgBegin seq slot h) ptBadHeader) ∧
      (headerOk h = true → 1 < slot.toNat → fails (.imgBegin seq slot h) ptBadArgument) ∧
      (headerOk h = true → slot.toNat ≤ 1 → s.comp.update ≠ none → fails (.imgBegin seq slot h) ptNotPermitted) ∧
      (headerOk h = true → slot.toNat ≤ 1 → s.comp.update = none →
        (s.comp.state ≠ .recovery ∧ s.comp.slotB = decide (slot.toNat = 1) →
          fails (.imgBegin seq slot h) ptNotPermitted) ∧
        (s.comp.state = .recovery ∨ s.comp.slotB ≠ decide (slot.toNat = 1) → 3584 ≤ s.flash.journal.length →
          fails (.imgBegin seq slot h) ptFlashError) ∧
        (s.comp.state = .recovery ∨ s.comp.slotB ≠ decide (slot.toNat = 1) → s.flash.journal.length < 3584 →
          ∃ t, done (.imgBegin seq slot h) t ∧ t.comp.update = some (decide (slot.toNat = 1), h, 0) ∧
            (imageOf t.flash (decide (slot.toNat = 1))).erased = true)) ∧
      (s.comp.update = none → fails (.imgData seq off data) ptOutOfOrder ∧ fails (.imgEnd seq) ptOutOfOrder ∧
        fails (.imgAbort seq) ptOutOfOrder) ∧
      (∀ b x next, s.comp.update = some (b, x, next) →
        (∃ t, done (.imgAbort seq) t ∧ t.comp.update = none) ∧
        (off.toNat ≠ next → fails (.imgData seq off data) ptOutOfOrder) ∧
        (off.toNat = next → data.length % 256 ≠ 0 ∨ data.length < 256 ∨ 3840 < data.length ∨
          headerLength x < next + data.length → fails (.imgData seq off data) ptBadArgument) ∧
        (next ≠ headerLength x → fails (.imgEnd seq) ptOutOfOrder) ∧
        (off.toNat = next → data.length % 256 = 0 → 256 ≤ data.length → data.length ≤ 3840 →
          next + data.length ≤ headerLength x → blockErasing s.flash b (256 + next) data.length = false →
          (∀ y ∈ lookList (fun _ => (0xFF : Byte)) (img b).body next data.length, y = 0xFF) →
          ∃ t, done (.imgData seq off data) t ∧ t.comp.update = some (b, x, next + data.length) ∧
            lookList (fun _ => 0xFF) (imageOf t.flash b).body next data.length = data) ∧
        (next = headerLength x →
          (sha256 (lookList (fun _ => 0xFF) (img b).body 0 next) = (x.drop 16).take 32 →
            ∃ t, done (.imgEnd seq) t ∧ t.comp.update = none ∧ t.flash.preferB = b ∧
              (imageOf t.flash b).header = x ∧ (imageOf t.flash b).tried = false) ∧
          (sha256 (lookList (fun _ => 0xFF) (img b).body 0 next) ≠ (x.drop 16).take 32 →
            fails (.imgEnd seq) ptBadDigest))) ∧
      (4 < cls.toNat → fails (.calRead seq cls) ptBadArgument) ∧
      (cls.toNat ≤ 4 → ∃ t, Answered (.calRead seq cls) s t n ptDone
        ((calPairs s.flash cls.toNat).flatMap fun p => natLe 8 p.1.toNat ++ natLe 8 p.2.toNat)) ∧
      (s.comp.state ≠ .firmware → s.comp.state ≠ .recovery → fails (.calWrite seq cls values) ptNotPermitted) ∧
      (s.comp.state = .firmware ∨ s.comp.state = .recovery →
        (calAccepted cls.toNat values = false → fails (.calWrite seq cls values) ptBadArgument) ∧
        (calAccepted cls.toNat values = true → s.flash.journal.length < 3584 →
          ∃ t, done (.calWrite seq cls values) t ∧ look (fun _ => []) t.flash.cal cls.toNat = pairUp values ∧
            t.flash.calUser = true)) ∧
      (∃ t, Answered (.ledgerRead seq start first) s t n ptDone
        ((ledgerFrom s start.toNat first.toNat 60).flatMap fun r => recordBytes r.1 r.2)) ∧
      (s.comp.state ≠ .recovery ∨ cred ≠ Config.factoryCredential →
        fails (.inclClear seq cred locators) ptNotPermitted) ∧
      (s.comp.state = .recovery → cred = Config.factoryCredential → s.flash.journal.length ≤ 3568 →
        ∃ t, done (.inclClear seq cred locators) t ∧ t.flash.incl = s.flash.incl.filter fun p =>
          !(readSlot p == .valid && (locators.map slotKey).contains (slotKey p.1))))

/-! ### Counters, traces and the hang analysis -/

/-- An analysis takes the cores that are blocked when it begins, by the PF's mailbox or on its own at most once in a
second, and ends with done in DBG_HANG_STAT; an instruction that has waited 1 µs publishes what it waits for (R497 to
R500). -/
def Obligations.HangAnalysis : Prop :=
  ∀ (f : PartId) (v : Option Nat) (c : CoreId) (s : State),
    let n := f.toNat
    let buffer := boxArg s n 1 % 2 ^ 48 / 64 * 64
    let len := boxArg s n 2 % 2 ^ 32
    let part := if bitNat (boxArg s n 0) 4 then none else some (boxArg s n 0 % 16)
    let own := regField s oHangBuf 0 48 / 64 * 64
    let ownLen := regField s oHangLen 0 32
    let number := (s.dbg.number + 1) % 2 ^ 32
    let ends := fun (status : Nat) (t : State) => Does (.hangAnalysis f) s t ∧ (getFunc t n).cmbBusy = none ∧
      getReg t (oCmbStat n) = BitVec.ofNat 64 (status * 256)
    (s.comp.state = .firmware → (getFunc s n).cmbBusy = some (8, v) →
      (s.dbg.busy = true → ∃ t, ends stPoolFull t ∧ t.dbg = s.dbg) ∧
      (s.dbg.busy = false → graphBufferOk s buffer len = false → ∃ t, ends stPartitionFault t ∧ t.dbg = s.dbg) ∧
      (s.dbg.busy = false → graphBufferOk s buffer len = true → ∃ t, ends stOk t ∧ t.dbg.busy = true ∧
        t.dbg.number = number ∧ t.dbg.s0 = s.hallmark ∧ t.dbg.kept = keptCores s part (boxArg s n 3 % 2 ^ 32) ∧
        getReg t (oCmbRes n 0) = BitVec.ofNat 64 number)) ∧
    (s.comp.state = .firmware → s.dbg.busy = false → (getReg s oHangCtl).getLsbD 0 = true → ownLen ≠ 0 →
      graphBufferOk s own ownLen = true → (getCore s c.toNat).blk ≠ 0 →
      (getCore s c.toNat).blk + hangThresh s * 1000000 ≤ s.hallmark →
      (s.dbg.lastAuto.all fun t => decide (t + 1000000000 ≤ elapsed s)) = true →
      ∃ t, Does (.autoHangAnalysis c) s t ∧ t.dbg.busy = true ∧ t.dbg.part = some (partNum s c.toNat) ∧
        t.dbg.number = number ∧ t.dbg.lastAuto = some (elapsed s) ∧
        t.dbg.kept = keptCores s (some (partNum s c.toNat)) (hangThresh s * 1000)) ∧
    (s.comp.state = .firmware → s.dbg.busy = true → ∃ t status, Does .hangAnalysisEnd s t ∧ t.dbg.busy = false ∧
      t.dbg.kept = [] ∧
      getReg t oHangStat = hangStat 0 1 status (hangCycles (hangGraph s)).length s.dbg.number) ∧
    (∀ b, blockingOf s c.toNat = some b → populated s c.toNat = true → (getCore s c.toNat).blk = 0 →
      ∃ t, Does (.blockingConditionBegin c) s t ∧ (getCore t c.toNat).blk ≠ 0 ∧
        (getCore t c.toNat).blkobj = word (b.kind * 2 ^ 60 + b.aux % 4096 * 2 ^ 48 + b.obj % 2 ^ 48) ∧
        t.hallmark = s.hallmark + (b.since + 1000 - elapsed s))

/-- A write of a count register replaces the count and can clear ovf, an overflow sets it and freezes the counter's
scope when its select asks for that; DBG_PCTL is written whole by the PF and the comptroller, and by a partition in
its own bit; a trace channel writes its oldest records while the ring has room, 16 of them at once and fewer when the
oldest is 100 µs old, halts without bus mastering and on a write the host refuses, and a software record carries two
words (R485 to R489, R493 to R496). -/
def Obligations.CountersAndTraces : Prop :=
  ∀ (r : Req) (off : BitVec 26) (k : ClusterId) (w : Word) (s : State),
    let n := k.toNat
    let source := match r with
      | .core c => c.toNat
      | _ => 0xFFF
    let payload := twoWords (getCl s n).sw0.toNat ++ twoWords w.toNat
    let head := regField s (oTrHead n) 0 23
    (∀ x, counterAt s off.toNat true = some x →
      (Writable s r off.toNat → ∃ t, Does (.countRegisterWrite r off w) s t ∧
        fieldNat (getReg t x.cnt).toNat 0 48 = w.toNat % 2 ^ 48 ∧
        bitNat (getReg t x.cnt).toNat 48 = (bitNat (getReg s x.cnt).toNat 48 && !w.getLsbD 48) ∧
        ∀ o, o ≠ x.cnt → getReg t o = getReg s o) ∧
      (isReg off.toNat = true → bitNat (getReg s x.sel).toNat 39 = true →
        bitNat (getReg s oPctl).toNat x.scope = false → ∃ t, Does (.counterOverflow off) s t ∧
        getReg t x.cnt = BitVec.ofNat 64 (2 ^ 48) ∧
        bitNat (getReg t oPctl).toNat x.scope = bitNat (getReg s x.sel).toNat 40)) ∧
    (Writable s r oPctl →
      (∀ pf, viewerOf s r = .full pf → Does (.freezeControlWrite r w) s (setReg s oPctl (masked 0x1FFFF 0 w))) ∧
      (∀ p core, viewerOf s r = .part p core →
        Does (.freezeControlWrite r w) s (setRegField s oPctl p 1 (fieldNat w.toNat p 1)))) ∧
    (∀ f x rest, partOfCl s n = some f → (getCl s n).trace = x :: rest → populatedCl s n = true →
      bitNat (getReg s (oTrCtl n)).toNat 0 = true → bitNat (getReg s (oTrStat n)).toNat 0 = false →
      let due := if 15 ≤ rest.length then s.hallmark else max s.hallmark (x.hallmark + 100000)
      let sent := Output.hostWrite f ((getReg s (oTrBase n)).toNat + 32 * head)
        (traceBytes { x with lost := (getCl s n).traceLost }) false
      ((getFunc s f).bme = false → ∀ refused, Does (.traceChannelWrite ⟨k, refused⟩) s (haltTrace s n stBmeOff)) ∧
      ((getFunc s f).bme = true →
        (∃ t, Does (.traceChannelWrite ⟨k, true⟩) s t ∧ (getCl t n).trace = x :: rest ∧ t.hallmark = due ∧
          regField t (oTrStat n) 0 1 = 1 ∧ regField t (oTrStat n) 8 8 = stUncorrectable ∧ t.out = sent :: s.out) ∧
        ((head + 1) % traceRing s n = regField s (oTrTail n) 0 23 →
          Does (.traceChannelWrite ⟨k, false⟩) s { s with hallmark := due }) ∧
        ((head + 1) % traceRing s n ≠ regField s (oTrTail n) 0 23 → ∃ t, Does (.traceChannelWrite ⟨k, false⟩) s t ∧
          (getCl t n).trace.length ≤ rest.length ∧ t.hallmark = due ∧
          (rest = [] → getReg t (oTrHead n) = BitVec.ofNat 64 ((head + 1) % traceRing s n) ∧ t.out = sent :: s.out)))) ∧
    (Writable s r (clBase n + 0x530) → bitNat (getReg s (oTrCtl n)).toNat 0 = true →
      bitNat (getReg s (oTrCtl n)).toNat 8 = true → (getCl s n).trace.length < 2048 →
      Does (.softwareRecord r k w) s
        (setCl s n { getCl s n with trace := (getCl s n).trace ++ [⟨s.hallmark, source, 1, 0, payload⟩] })) ∧
    (Writable s r (clBase n + 0x530) → bitNat (getReg s (oTrCtl n)).toNat 8 = false → Does (.softwareRecord r k w) s s) ∧
    (Writable s r (oTrCtl n) → ∃ t, Does (.traceChannelEnable r k w) s t ∧
      getReg t (oTrCtl n) = masked 0xF00FF03 0 w ∧
      (w.getLsbD 0 = true → bitNat (getReg t (oTrStat n)).toNat 0 = false))
end

