-- ==== Sys2Proof/Laws/Maps.lean ====
section
/-! SUPPORT. The laws of sparse tables: what is read after a write, and that every operation keeps the canonical form. -/

namespace Sys2Proof.Machine

/-! ### Reading after writing -/

@[simp] theorem look_nil {α : Type} (d : Nat → α) (i : Nat) : look d [] i = d i := rfl

theorem look_filter_ne {α : Type} (d : Nat → α) (i j : Nat) (h : j ≠ i) (m : Map α) :
    look d (m.filter fun e => e.1 != i) j = look d m j := by
  induction m with
  | nil => rfl
  | cons e r ih =>
    obtain ⟨k, v⟩ := e
    by_cases hk : k = i
    · subst hk; simp [look, h, ih]
    · simp [look, hk, ih]

theorem look_filter_self {α : Type} (d : Nat → α) (i : Nat) (m : Map α) :
    look d (m.filter fun e => e.1 != i) i = d i := by
  induction m with
  | nil => rfl
  | cons e r ih =>
    obtain ⟨k, v⟩ := e
    by_cases hk : k = i
    · subst hk; simpa using ih
    · simp [look, hk, Ne.symm hk, ih]

theorem look_insertAt_self {α : Type} (d : Nat → α) (i : Nat) (x : α) (m : Map α) (h : ∀ e ∈ m, e.1 ≠ i) :
    look d (insertAt i x m) i = x := by
  induction m with
  | nil => simp [insertAt, look]
  | cons e r ih =>
    obtain ⟨k, v⟩ := e
    have hk : k ≠ i := h (k, v) (by simp)
    have hr : ∀ e ∈ r, e.1 ≠ i := fun e he => h e (by simp [he])
    by_cases hlt : i < k
    · simp [insertAt, look, hlt]
    · simp [insertAt, look, hlt, Ne.symm hk, ih hr]

theorem look_insertAt_ne {α : Type} (d : Nat → α) (i j : Nat) (x : α) (h : j ≠ i) (m : Map α) :
    look d (insertAt i x m) j = look d m j := by
  induction m with
  | nil => simp [insertAt, look, h]
  | cons e r ih =>
    obtain ⟨k, v⟩ := e
    by_cases hlt : i < k
    · simp [insertAt, look, hlt, h]
    · simp [insertAt, look, hlt, ih]

/-- A key reads as it was last written. -/
@[simp] theorem look_put_self {α : Type} [DecidableEq α] (d : Nat → α) (m : Map α) (i : Nat) (x : α) :
    look d (put d m i x) i = x := by
  unfold put
  by_cases hx : x = d i
  · simp [hx, look_filter_self]
  · simp only [hx, if_false]
    exact look_insertAt_self d i x _ (by simp)

/-- A write leaves every other key alone. -/
theorem look_put_ne {α : Type} [DecidableEq α] (d : Nat → α) (m : Map α) (i j : Nat) (x : α) (h : j ≠ i) :
    look d (put d m i x) j = look d m j := by
  unfold put
  by_cases hx : x = d i
  · simp [hx, look_filter_ne d i j h]
  · simp [hx, look_insertAt_ne d i j x h, look_filter_ne d i j h]

/-- What a key reads as after a write. -/
theorem look_put {α : Type} [DecidableEq α] (d : Nat → α) (m : Map α) (i j : Nat) (x : α) :
    look d (put d m i x) j = if j = i then x else look d m j := by
  by_cases h : j = i
  · subst h; simp
  · simp [h, look_put_ne d m i j x h]

/-! ### The canonical form -/

theorem risingFrom_mono {α : Type} {a b : Nat} (h : a ≤ b) (m : Map α) (hm : risingFrom b m = true) :
    risingFrom a m = true := by
  cases m with
  | nil => rfl
  | cons e r =>
    obtain ⟨k, v⟩ := e
    simp [risingFrom] at hm ⊢
    exact ⟨by omega, hm.2⟩

theorem risingFrom_filter {α : Type} (p : Nat × α → Bool) (b : Nat) (m : Map α) (hm : risingFrom b m = true) :
    risingFrom b (m.filter p) = true := by
  induction m generalizing b with
  | nil => rfl
  | cons e r ih =>
    obtain ⟨k, v⟩ := e
    simp [risingFrom] at hm
    by_cases hp : p (k, v)
    · simp [hp, risingFrom, hm.1, ih _ hm.2]
    · simp [hp]
      exact ih _ (risingFrom_mono (by omega) _ hm.2)

theorem canonical_filter {α : Type} [DecidableEq α] (d : Nat → α) (p : Nat × α → Bool) (m : Map α)
    (hm : canonical d m = true) : canonical d (m.filter p) = true := by
  simp only [canonical, Bool.and_eq_true, List.all_eq_true] at hm ⊢
  exact ⟨risingFrom_filter p 0 m hm.1, fun e he => hm.2 e (List.mem_filter.1 he).1⟩

theorem mem_insertAt {α : Type} (i : Nat) (x : α) (m : Map α) (e : Nat × α) :
    e ∈ insertAt i x m ↔ e = (i, x) ∨ e ∈ m := by
  induction m with
  | nil => simp [insertAt]
  | cons f r ih =>
    obtain ⟨k, v⟩ := f
    by_cases h : i < k
    · simp [insertAt, h]
    · simp [insertAt, h, ih]
      tauto

theorem risingFrom_insertAt {α : Type} (i : Nat) (x : α) (b : Nat) (m : Map α) (hb : b ≤ i)
    (hm : risingFrom b m = true) (h : ∀ e ∈ m, e.1 ≠ i) : risingFrom b (insertAt i x m) = true := by
  induction m generalizing b with
  | nil => simp [insertAt, risingFrom, hb]
  | cons e r ih =>
    obtain ⟨k, v⟩ := e
    have hk : k ≠ i := h (k, v) (by simp)
    simp [risingFrom] at hm
    by_cases hlt : i < k
    · simp only [insertAt, hlt, if_true, risingFrom, Bool.and_eq_true, decide_eq_true_eq]
      exact ⟨hb, by omega, hm.2⟩
    · simp only [insertAt, hlt, if_false, risingFrom, Bool.and_eq_true, decide_eq_true_eq]
      exact ⟨hm.1, ih (k + 1) (by omega) hm.2 fun e he => h e (by simp [he])⟩

/-- A write keeps the canonical form. -/
theorem canonical_put {α : Type} [DecidableEq α] (d : Nat → α) (m : Map α) (i : Nat) (x : α)
    (hm : canonical d m = true) : canonical d (put d m i x) = true := by
  have hf := canonical_filter d (fun e => e.1 != i) m hm
  unfold put
  by_cases hx : x = d i
  · simpa [hx] using hf
  · simp only [hx, if_false]
    simp only [canonical, Bool.and_eq_true, List.all_eq_true] at hf ⊢
    refine ⟨risingFrom_insertAt i x 0 _ (by omega) hf.1 (by simp), fun e he => ?_⟩
    rcases (mem_insertAt i x _ e).1 he with rfl | he
    · simpa using hx
    · exact hf.2 e he

/-- Clearing a range keeps the canonical form. -/
theorem canonical_clearIn {α : Type} [DecidableEq α] (d : Nat → α) (m : Map α) (lo n : Nat)
    (hm : canonical d m = true) : canonical d (clearIn m lo n) = true :=
  canonical_filter d _ m hm

theorem risingFrom_append {α : Type} (b c : Nat) (m l : Map α) (hm : risingFrom b m = true)
    (hl : risingFrom c l = true) (h : ∀ e ∈ m, e.1 < c) (hbc : b ≤ c) : risingFrom b (m ++ l) = true := by
  induction m generalizing b with
  | nil => exact risingFrom_mono hbc _ hl
  | cons e r ih =>
    obtain ⟨k, v⟩ := e
    simp [risingFrom] at hm
    simp only [List.cons_append, risingFrom, Bool.and_eq_true, decide_eq_true_eq]
    exact ⟨hm.1, ih (k + 1) hm.2 (fun e he => h e (by simp [he])) (by have := h (k, v) (by simp); simpa using this)⟩

theorem cellsFrom_bounds {α : Type} [DecidableEq α] (d : Nat → α) (i : Nat) (xs : List α) :
    ∀ e ∈ cellsFrom d i xs, i ≤ e.1 ∧ e.1 < i + xs.length := by
  induction xs generalizing i with
  | nil => simp [cellsFrom]
  | cons x xs ih =>
    intro e he
    have step : ∀ e ∈ cellsFrom d (i + 1) xs, i ≤ e.1 ∧ e.1 < i + (x :: xs).length := fun e he => by
      have := ih (i + 1) e he; simp; omega
    by_cases hx : x = d i
    · simp only [cellsFrom, hx, if_true] at he; exact step e he
    · simp only [cellsFrom, hx, if_false, List.mem_cons] at he
      rcases he with rfl | he
      · simp
      · exact step e he

theorem cellsFrom_rising {α : Type} [DecidableEq α] (d : Nat → α) (i : Nat) (xs : List α) :
    risingFrom i (cellsFrom d i xs) = true := by
  induction xs generalizing i with
  | nil => rfl
  | cons x xs ih =>
    by_cases hx : x = d i
    · simp only [cellsFrom, hx, if_true]; exact risingFrom_mono (by omega) _ (ih (i + 1))
    · simp [cellsFrom, hx, risingFrom, ih]

theorem cellsFrom_ne {α : Type} [DecidableEq α] (d : Nat → α) (i : Nat) (xs : List α) :
    ∀ e ∈ cellsFrom d i xs, e.2 ≠ d e.1 := by
  induction xs generalizing i with
  | nil => simp [cellsFrom]
  | cons x xs ih =>
    intro e he
    by_cases hx : x = d i
    · simp only [cellsFrom, hx, if_true] at he; exact ih _ e he
    · simp only [cellsFrom, hx, if_false, List.mem_cons] at he
      rcases he with rfl | he
      · exact hx
      · exact ih _ e he

theorem risingFrom_filter_ge {α : Type} (b c : Nat) (m : Map α) (hm : risingFrom b m = true) :
    risingFrom c (m.filter fun e => decide (c ≤ e.1)) = true := by
  induction m generalizing b with
  | nil => rfl
  | cons e r ih =>
    obtain ⟨k, v⟩ := e
    simp [risingFrom] at hm
    by_cases h : c ≤ k
    · have hr : risingFrom (k + 1) (r.filter fun e => decide (c ≤ e.1)) = true := risingFrom_filter _ _ _ hm.2
      simp [h, risingFrom, hr]
    · simp [h]; exact ih _ hm.2

/-- Writing a run of values keeps the canonical form. -/
theorem canonical_putList {α : Type} [DecidableEq α] (d : Nat → α) (m : Map α) (lo : Nat) (xs : List α)
    (hm : canonical d m = true) : canonical d (putList d m lo xs) = true := by
  have h1 := canonical_filter d (fun e => decide (e.1 < lo)) m hm
  have h3 := canonical_filter d (fun e => decide (lo + xs.length ≤ e.1)) m hm
  simp only [canonical, Bool.and_eq_true, List.all_eq_true, decide_eq_true_eq] at hm h1 h3
  simp only [putList, canonical, Bool.and_eq_true, List.all_eq_true, decide_eq_true_eq, List.append_assoc]
  constructor
  · refine risingFrom_append 0 lo _ _ h1.1 ?_ (by simp) (by omega)
    refine risingFrom_append lo (lo + xs.length) _ _ (cellsFrom_rising d lo xs) ?_ ?_ (by omega)
    · exact risingFrom_filter_ge 0 _ m hm.1
    · intro e he; exact (cellsFrom_bounds d lo xs e he).2
  · intro e he
    rcases List.mem_append.1 he with he | he
    · exact h1.2 e he
    · rcases List.mem_append.1 he with he | he
      · exact cellsFrom_ne d lo xs e he
      · exact h3.2 e he

/-! ### Reading after writing a run -/

theorem look_append {α : Type} (d : Nat → α) (m l : Map α) (j : Nat) (h : ∀ e ∈ m, e.1 ≠ j) :
    look d (m ++ l) j = look d l j := by
  induction m with
  | nil => rfl
  | cons e r ih =>
    obtain ⟨k, v⟩ := e
    have hk : j ≠ k := Ne.symm (h (k, v) (by simp))
    simp [look, hk, ih fun e he => h e (by simp [he])]

theorem look_filter {α : Type} (d : Nat → α) (p : Nat → Bool) (m : Map α) (j : Nat) :
    look d (m.filter fun e => p e.1) j = if p j then look d m j else d j := by
  induction m with
  | nil => simp
  | cons e r ih =>
    obtain ⟨k, v⟩ := e
    by_cases hp : p k
    · by_cases hj : j = k
      · subst hj; simp [hp, look]
      · simp [hp, look, hj, ih]
    · by_cases hj : j = k
      · subst hj; simp [hp, ih]
      · simp [hp, look, hj, ih]

theorem look_cellsFrom {α : Type} [DecidableEq α] (d : Nat → α) (i : Nat) (xs : List α) (j : Nat) :
    look d (cellsFrom d i xs) j = if i ≤ j then xs.getD (j - i) (d j) else d j := by
  induction xs generalizing i with
  | nil => simp [cellsFrom]
  | cons x xs ih =>
    rcases Nat.lt_trichotomy j i with h | h | h
    · have h1 : ¬ i ≤ j := by omega
      have h2 : ¬ i + 1 ≤ j := by omega
      have h3 : j ≠ i := by omega
      by_cases hx : x = d i <;> simp [cellsFrom, hx, look, ih, h1, h2, h3]
    · subst h
      have h2 : ¬ j + 1 ≤ j := by omega
      by_cases hx : x = d j <;> simp [cellsFrom, hx, look, ih, h2]
    · have h1 : i ≤ j := by omega
      have h2 : i + 1 ≤ j := by omega
      have h3 : j ≠ i := by omega
      have h4 : j - i = (j - (i + 1)) + 1 := by omega
      by_cases hx : x = d i <;> simp [cellsFrom, hx, look, ih, h1, h2, h3, h4]

/-- What a key reads as after a run of values was written. -/
theorem look_putList {α : Type} [DecidableEq α] (d : Nat → α) (m : Map α) (lo : Nat) (xs : List α) (j : Nat) :
    look d (putList d m lo xs) j =
      if lo ≤ j ∧ j < lo + xs.length then xs.getD (j - lo) (d j) else look d m j := by
  unfold putList
  by_cases h1 : j < lo
  · have h2 : ¬ lo ≤ j := by omega
    rw [List.append_assoc]
    have key : ∀ l : Map α, (∀ e ∈ l, e.1 ≠ j) →
        look d ((m.filter fun e => decide (e.1 < lo)) ++ l) j = look d m j := by
      intro l hl
      have hf := look_filter d (fun k => decide (k < lo)) m j
      simp only [h1, decide_true, if_true] at hf
      rw [← hf]
      induction (m.filter fun e => decide (e.1 < lo)) with
      | nil =>
        have := look_append d l [] j hl
        simpa using this
      | cons e r ih =>
        obtain ⟨k, v⟩ := e
        by_cases hj : j = k
        · simp [look, hj]
        · simp [look, hj, ih]
    rw [key]
    · simp [h2]
    · intro e he
      rcases List.mem_append.1 he with he | he
      · have := cellsFrom_bounds d lo xs e he; omega
      · have := (List.mem_filter.1 he).2; simp at this; omega
  · have h2 : lo ≤ j := by omega
    have hm : ∀ e ∈ (m.filter fun e => decide (e.1 < lo)), e.1 ≠ j := by
      intro e he; have := (List.mem_filter.1 he).2; simp at this; omega
    rw [List.append_assoc, look_append d _ _ j hm]
    by_cases h3 : j < lo + xs.length
    · have h4 : j - lo < xs.length := by omega
      have hc := look_cellsFrom d lo xs j
      simp only [h2, if_true] at hc
      simp only [h2, h3, and_self, if_true]
      rw [← hc]
      have hl : ∀ e ∈ (m.filter fun e => decide (lo + xs.length ≤ e.1)), e.1 ≠ j := by
        intro e he; have := (List.mem_filter.1 he).2; simp at this; omega
      generalize cellsFrom d lo xs = q
      induction q with
      | nil =>
        have := look_append d _ [] j hl
        simpa using this
      | cons e r ih =>
        obtain ⟨k, v⟩ := e
        by_cases hj : j = k
        · simp [look, hj]
        · simp [look, hj, ih]
    · have hc : ∀ e ∈ cellsFrom d lo xs, e.1 ≠ j := by
        intro e he; have := cellsFrom_bounds d lo xs e he; omega
      rw [look_append d _ _ j hc]
      have hf := look_filter d (fun k => decide (lo + xs.length ≤ k)) m j
      have h5 : lo + xs.length ≤ j := by omega
      simp only [h5, decide_true, if_true] at hf
      simp only [h3, and_false, if_false]
      exact hf

end Sys2Proof.Machine
end

