-- ==== Sys2Proof/Laws/State.lean ====
section
/-! SUPPORT. What each update of the state leaves alone, one lemma per field, and what it reads as afterwards. -/

namespace Sys2Proof.Machine

/-! ### What an update leaves alone -/

@[simp] theorem setCore_pending (s : State) (c : Nat) (x : CoreSt) : (setCore s c x).pending = s.pending := rfl
@[simp] theorem setCore_out (s : State) (c : Nat) (x : CoreSt) : (setCore s c x).out = s.out := rfl
@[simp] theorem setCore_freeN (s : State) (c : Nat) (x : CoreSt) : (setCore s c x).freeN = s.freeN := rfl
@[simp] theorem setCore_hallmark (s : State) (c : Nat) (x : CoreSt) : (setCore s c x).hallmark = s.hallmark := rfl
@[simp] theorem setCore_mem (s : State) (c : Nat) (x : CoreSt) : (setCore s c x).mem = s.mem := rfl
@[simp] theorem setCore_chk (s : State) (c : Nat) (x : CoreSt) : (setCore s c x).chk = s.chk := rfl
@[simp] theorem setCore_regs (s : State) (c : Nat) (x : CoreSt) : (setCore s c x).regs = s.regs := rfl
@[simp] theorem setCore_clusters (s : State) (c : Nat) (x : CoreSt) : (setCore s c x).clusters = s.clusters := rfl
@[simp] theorem setCore_veins (s : State) (c : Nat) (x : CoreSt) : (setCore s c x).veins = s.veins := rfl
@[simp] theorem setCore_barriers (s : State) (c : Nat) (x : CoreSt) : (setCore s c x).barriers = s.barriers := rfl
@[simp] theorem setCore_signals (s : State) (c : Nat) (x : CoreSt) : (setCore s c x).signals = s.signals := rfl
@[simp] theorem setCore_remints (s : State) (c : Nat) (x : CoreSt) : (setCore s c x).remints = s.remints := rfl
@[simp] theorem setCore_remNext (s : State) (c : Nat) (x : CoreSt) : (setCore s c x).remNext = s.remNext := rfl
@[simp] theorem setCore_remMoved (s : State) (c : Nat) (x : CoreSt) : (setCore s c x).remMoved = s.remMoved := rfl
@[simp] theorem setCore_ent (s : State) (c : Nat) (x : CoreSt) : (setCore s c x).ent = s.ent := rfl
@[simp] theorem setCore_keys (s : State) (c : Nat) (x : CoreSt) : (setCore s c x).keys = s.keys := rfl
@[simp] theorem setCore_far (s : State) (c : Nat) (x : CoreSt) : (setCore s c x).far = s.far := rfl
@[simp] theorem setCore_seams (s : State) (c : Nat) (x : CoreSt) : (setCore s c x).seams = s.seams := rfl
@[simp] theorem setCore_seamDirs (s : State) (c : Nat) (x : CoreSt) : (setCore s c x).seamDirs = s.seamDirs := rfl
@[simp] theorem setCore_funcs (s : State) (c : Nat) (x : CoreSt) : (setCore s c x).funcs = s.funcs := rfl
@[simp] theorem setCore_jobs (s : State) (c : Nat) (x : CoreSt) : (setCore s c x).jobs = s.jobs := rfl
@[simp] theorem setCore_parts (s : State) (c : Nat) (x : CoreSt) : (setCore s c x).parts = s.parts := rfl
@[simp] theorem setCore_pairs (s : State) (c : Nat) (x : CoreSt) : (setCore s c x).pairs = s.pairs := rfl
@[simp] theorem setCore_ports (s : State) (c : Nat) (x : CoreSt) : (setCore s c x).ports = s.ports := rfl
@[simp] theorem setCore_clrOps (s : State) (c : Nat) (x : CoreSt) : (setCore s c x).clrOps = s.clrOps := rfl
@[simp] theorem setCore_colls (s : State) (c : Nat) (x : CoreSt) : (setCore s c x).colls = s.colls := rfl
@[simp] theorem setCore_staging (s : State) (c : Nat) (x : CoreSt) : (setCore s c x).staging = s.staging := rfl
@[simp] theorem setCore_clrTag (s : State) (c : Nat) (x : CoreSt) : (setCore s c x).clrTag = s.clrTag := rfl
@[simp] theorem setCore_clrLast (s : State) (c : Nat) (x : CoreSt) : (setCore s c x).clrLast = s.clrLast := rfl
@[simp] theorem setCore_ledger (s : State) (c : Nat) (x : CoreSt) : (setCore s c x).ledger = s.ledger := rfl
@[simp] theorem setCore_tally (s : State) (c : Nat) (x : CoreSt) : (setCore s c x).tally = s.tally := rfl
@[simp] theorem setCore_flash (s : State) (c : Nat) (x : CoreSt) : (setCore s c x).flash = s.flash := rfl
@[simp] theorem setCore_comp (s : State) (c : Nat) (x : CoreSt) : (setCore s c x).comp = s.comp := rfl
@[simp] theorem setCore_hm (s : State) (c : Nat) (x : CoreSt) : (setCore s c x).hm = s.hm := rfl
@[simp] theorem setCore_pwr (s : State) (c : Nat) (x : CoreSt) : (setCore s c x).pwr = s.pwr := rfl
@[simp] theorem setCore_start (s : State) (c : Nat) (x : CoreSt) : (setCore s c x).start = s.start := rfl
@[simp] theorem setCore_dbg (s : State) (c : Nat) (x : CoreSt) : (setCore s c x).dbg = s.dbg := rfl
@[simp] theorem setCore_closing (s : State) (c : Nat) (x : CoreSt) : (setCore s c x).closing = s.closing := rfl
@[simp] theorem setCore_seqOps (s : State) (c : Nat) (x : CoreSt) : (setCore s c x).seqOps = s.seqOps := rfl
@[simp] theorem setCl_pending (s : State) (k : Nat) (x : ClusterSt) : (setCl s k x).pending = s.pending := rfl
@[simp] theorem setCl_out (s : State) (k : Nat) (x : ClusterSt) : (setCl s k x).out = s.out := rfl
@[simp] theorem setCl_freeN (s : State) (k : Nat) (x : ClusterSt) : (setCl s k x).freeN = s.freeN := rfl
@[simp] theorem setCl_hallmark (s : State) (k : Nat) (x : ClusterSt) : (setCl s k x).hallmark = s.hallmark := rfl
@[simp] theorem setCl_mem (s : State) (k : Nat) (x : ClusterSt) : (setCl s k x).mem = s.mem := rfl
@[simp] theorem setCl_chk (s : State) (k : Nat) (x : ClusterSt) : (setCl s k x).chk = s.chk := rfl
@[simp] theorem setCl_regs (s : State) (k : Nat) (x : ClusterSt) : (setCl s k x).regs = s.regs := rfl
@[simp] theorem setCl_cores (s : State) (k : Nat) (x : ClusterSt) : (setCl s k x).cores = s.cores := rfl
@[simp] theorem setCl_veins (s : State) (k : Nat) (x : ClusterSt) : (setCl s k x).veins = s.veins := rfl
@[simp] theorem setCl_barriers (s : State) (k : Nat) (x : ClusterSt) : (setCl s k x).barriers = s.barriers := rfl
@[simp] theorem setCl_signals (s : State) (k : Nat) (x : ClusterSt) : (setCl s k x).signals = s.signals := rfl
@[simp] theorem setCl_remints (s : State) (k : Nat) (x : ClusterSt) : (setCl s k x).remints = s.remints := rfl
@[simp] theorem setCl_remNext (s : State) (k : Nat) (x : ClusterSt) : (setCl s k x).remNext = s.remNext := rfl
@[simp] theorem setCl_remMoved (s : State) (k : Nat) (x : ClusterSt) : (setCl s k x).remMoved = s.remMoved := rfl
@[simp] theorem setCl_ent (s : State) (k : Nat) (x : ClusterSt) : (setCl s k x).ent = s.ent := rfl
@[simp] theorem setCl_keys (s : State) (k : Nat) (x : ClusterSt) : (setCl s k x).keys = s.keys := rfl
@[simp] theorem setCl_far (s : State) (k : Nat) (x : ClusterSt) : (setCl s k x).far = s.far := rfl
@[simp] theorem setCl_seams (s : State) (k : Nat) (x : ClusterSt) : (setCl s k x).seams = s.seams := rfl
@[simp] theorem setCl_seamDirs (s : State) (k : Nat) (x : ClusterSt) : (setCl s k x).seamDirs = s.seamDirs := rfl
@[simp] theorem setCl_funcs (s : State) (k : Nat) (x : ClusterSt) : (setCl s k x).funcs = s.funcs := rfl
@[simp] theorem setCl_jobs (s : State) (k : Nat) (x : ClusterSt) : (setCl s k x).jobs = s.jobs := rfl
@[simp] theorem setCl_parts (s : State) (k : Nat) (x : ClusterSt) : (setCl s k x).parts = s.parts := rfl
@[simp] theorem setCl_pairs (s : State) (k : Nat) (x : ClusterSt) : (setCl s k x).pairs = s.pairs := rfl
@[simp] theorem setCl_ports (s : State) (k : Nat) (x : ClusterSt) : (setCl s k x).ports = s.ports := rfl
@[simp] theorem setCl_clrOps (s : State) (k : Nat) (x : ClusterSt) : (setCl s k x).clrOps = s.clrOps := rfl
@[simp] theorem setCl_colls (s : State) (k : Nat) (x : ClusterSt) : (setCl s k x).colls = s.colls := rfl
@[simp] theorem setCl_staging (s : State) (k : Nat) (x : ClusterSt) : (setCl s k x).staging = s.staging := rfl
@[simp] theorem setCl_clrTag (s : State) (k : Nat) (x : ClusterSt) : (setCl s k x).clrTag = s.clrTag := rfl
@[simp] theorem setCl_clrLast (s : State) (k : Nat) (x : ClusterSt) : (setCl s k x).clrLast = s.clrLast := rfl
@[simp] theorem setCl_ledger (s : State) (k : Nat) (x : ClusterSt) : (setCl s k x).ledger = s.ledger := rfl
@[simp] theorem setCl_tally (s : State) (k : Nat) (x : ClusterSt) : (setCl s k x).tally = s.tally := rfl
@[simp] theorem setCl_flash (s : State) (k : Nat) (x : ClusterSt) : (setCl s k x).flash = s.flash := rfl
@[simp] theorem setCl_comp (s : State) (k : Nat) (x : ClusterSt) : (setCl s k x).comp = s.comp := rfl
@[simp] theorem setCl_hm (s : State) (k : Nat) (x : ClusterSt) : (setCl s k x).hm = s.hm := rfl
@[simp] theorem setCl_pwr (s : State) (k : Nat) (x : ClusterSt) : (setCl s k x).pwr = s.pwr := rfl
@[simp] theorem setCl_start (s : State) (k : Nat) (x : ClusterSt) : (setCl s k x).start = s.start := rfl
@[simp] theorem setCl_dbg (s : State) (k : Nat) (x : ClusterSt) : (setCl s k x).dbg = s.dbg := rfl
@[simp] theorem setCl_closing (s : State) (k : Nat) (x : ClusterSt) : (setCl s k x).closing = s.closing := rfl
@[simp] theorem setCl_seqOps (s : State) (k : Nat) (x : ClusterSt) : (setCl s k x).seqOps = s.seqOps := rfl
@[simp] theorem setVein_pending (s : State) (c : Nat) (x : VeinSt) : (setVein s c x).pending = s.pending := rfl
@[simp] theorem setVein_out (s : State) (c : Nat) (x : VeinSt) : (setVein s c x).out = s.out := rfl
@[simp] theorem setVein_freeN (s : State) (c : Nat) (x : VeinSt) : (setVein s c x).freeN = s.freeN := rfl
@[simp] theorem setVein_hallmark (s : State) (c : Nat) (x : VeinSt) : (setVein s c x).hallmark = s.hallmark := rfl
@[simp] theorem setVein_mem (s : State) (c : Nat) (x : VeinSt) : (setVein s c x).mem = s.mem := rfl
@[simp] theorem setVein_chk (s : State) (c : Nat) (x : VeinSt) : (setVein s c x).chk = s.chk := rfl
@[simp] theorem setVein_regs (s : State) (c : Nat) (x : VeinSt) : (setVein s c x).regs = s.regs := rfl
@[simp] theorem setVein_cores (s : State) (c : Nat) (x : VeinSt) : (setVein s c x).cores = s.cores := rfl
@[simp] theorem setVein_clusters (s : State) (c : Nat) (x : VeinSt) : (setVein s c x).clusters = s.clusters := rfl
@[simp] theorem setVein_barriers (s : State) (c : Nat) (x : VeinSt) : (setVein s c x).barriers = s.barriers := rfl
@[simp] theorem setVein_signals (s : State) (c : Nat) (x : VeinSt) : (setVein s c x).signals = s.signals := rfl
@[simp] theorem setVein_remints (s : State) (c : Nat) (x : VeinSt) : (setVein s c x).remints = s.remints := rfl
@[simp] theorem setVein_remNext (s : State) (c : Nat) (x : VeinSt) : (setVein s c x).remNext = s.remNext := rfl
@[simp] theorem setVein_remMoved (s : State) (c : Nat) (x : VeinSt) : (setVein s c x).remMoved = s.remMoved := rfl
@[simp] theorem setVein_ent (s : State) (c : Nat) (x : VeinSt) : (setVein s c x).ent = s.ent := rfl
@[simp] theorem setVein_keys (s : State) (c : Nat) (x : VeinSt) : (setVein s c x).keys = s.keys := rfl
@[simp] theorem setVein_far (s : State) (c : Nat) (x : VeinSt) : (setVein s c x).far = s.far := rfl
@[simp] theorem setVein_seams (s : State) (c : Nat) (x : VeinSt) : (setVein s c x).seams = s.seams := rfl
@[simp] theorem setVein_seamDirs (s : State) (c : Nat) (x : VeinSt) : (setVein s c x).seamDirs = s.seamDirs := rfl
@[simp] theorem setVein_funcs (s : State) (c : Nat) (x : VeinSt) : (setVein s c x).funcs = s.funcs := rfl
@[simp] theorem setVein_jobs (s : State) (c : Nat) (x : VeinSt) : (setVein s c x).jobs = s.jobs := rfl
@[simp] theorem setVein_parts (s : State) (c : Nat) (x : VeinSt) : (setVein s c x).parts = s.parts := rfl
@[simp] theorem setVein_pairs (s : State) (c : Nat) (x : VeinSt) : (setVein s c x).pairs = s.pairs := rfl
@[simp] theorem setVein_ports (s : State) (c : Nat) (x : VeinSt) : (setVein s c x).ports = s.ports := rfl
@[simp] theorem setVein_clrOps (s : State) (c : Nat) (x : VeinSt) : (setVein s c x).clrOps = s.clrOps := rfl
@[simp] theorem setVein_colls (s : State) (c : Nat) (x : VeinSt) : (setVein s c x).colls = s.colls := rfl
@[simp] theorem setVein_staging (s : State) (c : Nat) (x : VeinSt) : (setVein s c x).staging = s.staging := rfl
@[simp] theorem setVein_clrTag (s : State) (c : Nat) (x : VeinSt) : (setVein s c x).clrTag = s.clrTag := rfl
@[simp] theorem setVein_clrLast (s : State) (c : Nat) (x : VeinSt) : (setVein s c x).clrLast = s.clrLast := rfl
@[simp] theorem setVein_ledger (s : State) (c : Nat) (x : VeinSt) : (setVein s c x).ledger = s.ledger := rfl
@[simp] theorem setVein_tally (s : State) (c : Nat) (x : VeinSt) : (setVein s c x).tally = s.tally := rfl
@[simp] theorem setVein_flash (s : State) (c : Nat) (x : VeinSt) : (setVein s c x).flash = s.flash := rfl
@[simp] theorem setVein_comp (s : State) (c : Nat) (x : VeinSt) : (setVein s c x).comp = s.comp := rfl
@[simp] theorem setVein_hm (s : State) (c : Nat) (x : VeinSt) : (setVein s c x).hm = s.hm := rfl
@[simp] theorem setVein_pwr (s : State) (c : Nat) (x : VeinSt) : (setVein s c x).pwr = s.pwr := rfl
@[simp] theorem setVein_start (s : State) (c : Nat) (x : VeinSt) : (setVein s c x).start = s.start := rfl
@[simp] theorem setVein_dbg (s : State) (c : Nat) (x : VeinSt) : (setVein s c x).dbg = s.dbg := rfl
@[simp] theorem setVein_closing (s : State) (c : Nat) (x : VeinSt) : (setVein s c x).closing = s.closing := rfl
@[simp] theorem setVein_seqOps (s : State) (c : Nat) (x : VeinSt) : (setVein s c x).seqOps = s.seqOps := rfl
@[simp] theorem setBar_pending (s : State) (k : Nat) (x : Barrier) : (setBar s k x).pending = s.pending := rfl
@[simp] theorem setBar_out (s : State) (k : Nat) (x : Barrier) : (setBar s k x).out = s.out := rfl
@[simp] theorem setBar_freeN (s : State) (k : Nat) (x : Barrier) : (setBar s k x).freeN = s.freeN := rfl
@[simp] theorem setBar_hallmark (s : State) (k : Nat) (x : Barrier) : (setBar s k x).hallmark = s.hallmark := rfl
@[simp] theorem setBar_mem (s : State) (k : Nat) (x : Barrier) : (setBar s k x).mem = s.mem := rfl
@[simp] theorem setBar_chk (s : State) (k : Nat) (x : Barrier) : (setBar s k x).chk = s.chk := rfl
@[simp] theorem setBar_regs (s : State) (k : Nat) (x : Barrier) : (setBar s k x).regs = s.regs := rfl
@[simp] theorem setBar_cores (s : State) (k : Nat) (x : Barrier) : (setBar s k x).cores = s.cores := rfl
@[simp] theorem setBar_clusters (s : State) (k : Nat) (x : Barrier) : (setBar s k x).clusters = s.clusters := rfl
@[simp] theorem setBar_veins (s : State) (k : Nat) (x : Barrier) : (setBar s k x).veins = s.veins := rfl
@[simp] theorem setBar_signals (s : State) (k : Nat) (x : Barrier) : (setBar s k x).signals = s.signals := rfl
@[simp] theorem setBar_remints (s : State) (k : Nat) (x : Barrier) : (setBar s k x).remints = s.remints := rfl
@[simp] theorem setBar_remNext (s : State) (k : Nat) (x : Barrier) : (setBar s k x).remNext = s.remNext := rfl
@[simp] theorem setBar_remMoved (s : State) (k : Nat) (x : Barrier) : (setBar s k x).remMoved = s.remMoved := rfl
@[simp] theorem setBar_ent (s : State) (k : Nat) (x : Barrier) : (setBar s k x).ent = s.ent := rfl
@[simp] theorem setBar_keys (s : State) (k : Nat) (x : Barrier) : (setBar s k x).keys = s.keys := rfl
@[simp] theorem setBar_far (s : State) (k : Nat) (x : Barrier) : (setBar s k x).far = s.far := rfl
@[simp] theorem setBar_seams (s : State) (k : Nat) (x : Barrier) : (setBar s k x).seams = s.seams := rfl
@[simp] theorem setBar_seamDirs (s : State) (k : Nat) (x : Barrier) : (setBar s k x).seamDirs = s.seamDirs := rfl
@[simp] theorem setBar_funcs (s : State) (k : Nat) (x : Barrier) : (setBar s k x).funcs = s.funcs := rfl
@[simp] theorem setBar_jobs (s : State) (k : Nat) (x : Barrier) : (setBar s k x).jobs = s.jobs := rfl
@[simp] theorem setBar_parts (s : State) (k : Nat) (x : Barrier) : (setBar s k x).parts = s.parts := rfl
@[simp] theorem setBar_pairs (s : State) (k : Nat) (x : Barrier) : (setBar s k x).pairs = s.pairs := rfl
@[simp] theorem setBar_ports (s : State) (k : Nat) (x : Barrier) : (setBar s k x).ports = s.ports := rfl
@[simp] theorem setBar_clrOps (s : State) (k : Nat) (x : Barrier) : (setBar s k x).clrOps = s.clrOps := rfl
@[simp] theorem setBar_colls (s : State) (k : Nat) (x : Barrier) : (setBar s k x).colls = s.colls := rfl
@[simp] theorem setBar_staging (s : State) (k : Nat) (x : Barrier) : (setBar s k x).staging = s.staging := rfl
@[simp] theorem setBar_clrTag (s : State) (k : Nat) (x : Barrier) : (setBar s k x).clrTag = s.clrTag := rfl
@[simp] theorem setBar_clrLast (s : State) (k : Nat) (x : Barrier) : (setBar s k x).clrLast = s.clrLast := rfl
@[simp] theorem setBar_ledger (s : State) (k : Nat) (x : Barrier) : (setBar s k x).ledger = s.ledger := rfl
@[simp] theorem setBar_tally (s : State) (k : Nat) (x : Barrier) : (setBar s k x).tally = s.tally := rfl
@[simp] theorem setBar_flash (s : State) (k : Nat) (x : Barrier) : (setBar s k x).flash = s.flash := rfl
@[simp] theorem setBar_comp (s : State) (k : Nat) (x : Barrier) : (setBar s k x).comp = s.comp := rfl
@[simp] theorem setBar_hm (s : State) (k : Nat) (x : Barrier) : (setBar s k x).hm = s.hm := rfl
@[simp] theorem setBar_pwr (s : State) (k : Nat) (x : Barrier) : (setBar s k x).pwr = s.pwr := rfl
@[simp] theorem setBar_start (s : State) (k : Nat) (x : Barrier) : (setBar s k x).start = s.start := rfl
@[simp] theorem setBar_dbg (s : State) (k : Nat) (x : Barrier) : (setBar s k x).dbg = s.dbg := rfl
@[simp] theorem setBar_closing (s : State) (k : Nat) (x : Barrier) : (setBar s k x).closing = s.closing := rfl
@[simp] theorem setBar_seqOps (s : State) (k : Nat) (x : Barrier) : (setBar s k x).seqOps = s.seqOps := rfl
@[simp] theorem setFunc_pending (s : State) (f : Nat) (x : Func) : (setFunc s f x).pending = s.pending := rfl
@[simp] theorem setFunc_out (s : State) (f : Nat) (x : Func) : (setFunc s f x).out = s.out := rfl
@[simp] theorem setFunc_freeN (s : State) (f : Nat) (x : Func) : (setFunc s f x).freeN = s.freeN := rfl
@[simp] theorem setFunc_hallmark (s : State) (f : Nat) (x : Func) : (setFunc s f x).hallmark = s.hallmark := rfl
@[simp] theorem setFunc_mem (s : State) (f : Nat) (x : Func) : (setFunc s f x).mem = s.mem := rfl
@[simp] theorem setFunc_chk (s : State) (f : Nat) (x : Func) : (setFunc s f x).chk = s.chk := rfl
@[simp] theorem setFunc_regs (s : State) (f : Nat) (x : Func) : (setFunc s f x).regs = s.regs := rfl
@[simp] theorem setFunc_cores (s : State) (f : Nat) (x : Func) : (setFunc s f x).cores = s.cores := rfl
@[simp] theorem setFunc_clusters (s : State) (f : Nat) (x : Func) : (setFunc s f x).clusters = s.clusters := rfl
@[simp] theorem setFunc_veins (s : State) (f : Nat) (x : Func) : (setFunc s f x).veins = s.veins := rfl
@[simp] theorem setFunc_barriers (s : State) (f : Nat) (x : Func) : (setFunc s f x).barriers = s.barriers := rfl
@[simp] theorem setFunc_signals (s : State) (f : Nat) (x : Func) : (setFunc s f x).signals = s.signals := rfl
@[simp] theorem setFunc_remints (s : State) (f : Nat) (x : Func) : (setFunc s f x).remints = s.remints := rfl
@[simp] theorem setFunc_remNext (s : State) (f : Nat) (x : Func) : (setFunc s f x).remNext = s.remNext := rfl
@[simp] theorem setFunc_remMoved (s : State) (f : Nat) (x : Func) : (setFunc s f x).remMoved = s.remMoved := rfl
@[simp] theorem setFunc_ent (s : State) (f : Nat) (x : Func) : (setFunc s f x).ent = s.ent := rfl
@[simp] theorem setFunc_keys (s : State) (f : Nat) (x : Func) : (setFunc s f x).keys = s.keys := rfl
@[simp] theorem setFunc_far (s : State) (f : Nat) (x : Func) : (setFunc s f x).far = s.far := rfl
@[simp] theorem setFunc_seams (s : State) (f : Nat) (x : Func) : (setFunc s f x).seams = s.seams := rfl
@[simp] theorem setFunc_seamDirs (s : State) (f : Nat) (x : Func) : (setFunc s f x).seamDirs = s.seamDirs := rfl
@[simp] theorem setFunc_jobs (s : State) (f : Nat) (x : Func) : (setFunc s f x).jobs = s.jobs := rfl
@[simp] theorem setFunc_parts (s : State) (f : Nat) (x : Func) : (setFunc s f x).parts = s.parts := rfl
@[simp] theorem setFunc_pairs (s : State) (f : Nat) (x : Func) : (setFunc s f x).pairs = s.pairs := rfl
@[simp] theorem setFunc_ports (s : State) (f : Nat) (x : Func) : (setFunc s f x).ports = s.ports := rfl
@[simp] theorem setFunc_clrOps (s : State) (f : Nat) (x : Func) : (setFunc s f x).clrOps = s.clrOps := rfl
@[simp] theorem setFunc_colls (s : State) (f : Nat) (x : Func) : (setFunc s f x).colls = s.colls := rfl
@[simp] theorem setFunc_staging (s : State) (f : Nat) (x : Func) : (setFunc s f x).staging = s.staging := rfl
@[simp] theorem setFunc_clrTag (s : State) (f : Nat) (x : Func) : (setFunc s f x).clrTag = s.clrTag := rfl
@[simp] theorem setFunc_clrLast (s : State) (f : Nat) (x : Func) : (setFunc s f x).clrLast = s.clrLast := rfl
@[simp] theorem setFunc_ledger (s : State) (f : Nat) (x : Func) : (setFunc s f x).ledger = s.ledger := rfl
@[simp] theorem setFunc_tally (s : State) (f : Nat) (x : Func) : (setFunc s f x).tally = s.tally := rfl
@[simp] theorem setFunc_flash (s : State) (f : Nat) (x : Func) : (setFunc s f x).flash = s.flash := rfl
@[simp] theorem setFunc_comp (s : State) (f : Nat) (x : Func) : (setFunc s f x).comp = s.comp := rfl
@[simp] theorem setFunc_hm (s : State) (f : Nat) (x : Func) : (setFunc s f x).hm = s.hm := rfl
@[simp] theorem setFunc_pwr (s : State) (f : Nat) (x : Func) : (setFunc s f x).pwr = s.pwr := rfl
@[simp] theorem setFunc_start (s : State) (f : Nat) (x : Func) : (setFunc s f x).start = s.start := rfl
@[simp] theorem setFunc_dbg (s : State) (f : Nat) (x : Func) : (setFunc s f x).dbg = s.dbg := rfl
@[simp] theorem setFunc_closing (s : State) (f : Nat) (x : Func) : (setFunc s f x).closing = s.closing := rfl
@[simp] theorem setFunc_seqOps (s : State) (f : Nat) (x : Func) : (setFunc s f x).seqOps = s.seqOps := rfl
@[simp] theorem setRing_pending (s : State) (f r : Nat) (x : Ring) : (setRing s f r x).pending = s.pending := rfl
@[simp] theorem setRing_out (s : State) (f r : Nat) (x : Ring) : (setRing s f r x).out = s.out := rfl
@[simp] theorem setRing_freeN (s : State) (f r : Nat) (x : Ring) : (setRing s f r x).freeN = s.freeN := rfl
@[simp] theorem setRing_hallmark (s : State) (f r : Nat) (x : Ring) : (setRing s f r x).hallmark = s.hallmark := rfl
@[simp] theorem setRing_mem (s : State) (f r : Nat) (x : Ring) : (setRing s f r x).mem = s.mem := rfl
@[simp] theorem setRing_chk (s : State) (f r : Nat) (x : Ring) : (setRing s f r x).chk = s.chk := rfl
@[simp] theorem setRing_regs (s : State) (f r : Nat) (x : Ring) : (setRing s f r x).regs = s.regs := rfl
@[simp] theorem setRing_cores (s : State) (f r : Nat) (x : Ring) : (setRing s f r x).cores = s.cores := rfl
@[simp] theorem setRing_clusters (s : State) (f r : Nat) (x : Ring) : (setRing s f r x).clusters = s.clusters := rfl
@[simp] theorem setRing_veins (s : State) (f r : Nat) (x : Ring) : (setRing s f r x).veins = s.veins := rfl
@[simp] theorem setRing_barriers (s : State) (f r : Nat) (x : Ring) : (setRing s f r x).barriers = s.barriers := rfl
@[simp] theorem setRing_signals (s : State) (f r : Nat) (x : Ring) : (setRing s f r x).signals = s.signals := rfl
@[simp] theorem setRing_remints (s : State) (f r : Nat) (x : Ring) : (setRing s f r x).remints = s.remints := rfl
@[simp] theorem setRing_remNext (s : State) (f r : Nat) (x : Ring) : (setRing s f r x).remNext = s.remNext := rfl
@[simp] theorem setRing_remMoved (s : State) (f r : Nat) (x : Ring) : (setRing s f r x).remMoved = s.remMoved := rfl
@[simp] theorem setRing_ent (s : State) (f r : Nat) (x : Ring) : (setRing s f r x).ent = s.ent := rfl
@[simp] theorem setRing_keys (s : State) (f r : Nat) (x : Ring) : (setRing s f r x).keys = s.keys := rfl
@[simp] theorem setRing_far (s : State) (f r : Nat) (x : Ring) : (setRing s f r x).far = s.far := rfl
@[simp] theorem setRing_seams (s : State) (f r : Nat) (x : Ring) : (setRing s f r x).seams = s.seams := rfl
@[simp] theorem setRing_seamDirs (s : State) (f r : Nat) (x : Ring) : (setRing s f r x).seamDirs = s.seamDirs := rfl
@[simp] theorem setRing_jobs (s : State) (f r : Nat) (x : Ring) : (setRing s f r x).jobs = s.jobs := rfl
@[simp] theorem setRing_parts (s : State) (f r : Nat) (x : Ring) : (setRing s f r x).parts = s.parts := rfl
@[simp] theorem setRing_pairs (s : State) (f r : Nat) (x : Ring) : (setRing s f r x).pairs = s.pairs := rfl
@[simp] theorem setRing_ports (s : State) (f r : Nat) (x : Ring) : (setRing s f r x).ports = s.ports := rfl
@[simp] theorem setRing_clrOps (s : State) (f r : Nat) (x : Ring) : (setRing s f r x).clrOps = s.clrOps := rfl
@[simp] theorem setRing_colls (s : State) (f r : Nat) (x : Ring) : (setRing s f r x).colls = s.colls := rfl
@[simp] theorem setRing_staging (s : State) (f r : Nat) (x : Ring) : (setRing s f r x).staging = s.staging := rfl
@[simp] theorem setRing_clrTag (s : State) (f r : Nat) (x : Ring) : (setRing s f r x).clrTag = s.clrTag := rfl
@[simp] theorem setRing_clrLast (s : State) (f r : Nat) (x : Ring) : (setRing s f r x).clrLast = s.clrLast := rfl
@[simp] theorem setRing_ledger (s : State) (f r : Nat) (x : Ring) : (setRing s f r x).ledger = s.ledger := rfl
@[simp] theorem setRing_tally (s : State) (f r : Nat) (x : Ring) : (setRing s f r x).tally = s.tally := rfl
@[simp] theorem setRing_flash (s : State) (f r : Nat) (x : Ring) : (setRing s f r x).flash = s.flash := rfl
@[simp] theorem setRing_comp (s : State) (f r : Nat) (x : Ring) : (setRing s f r x).comp = s.comp := rfl
@[simp] theorem setRing_hm (s : State) (f r : Nat) (x : Ring) : (setRing s f r x).hm = s.hm := rfl
@[simp] theorem setRing_pwr (s : State) (f r : Nat) (x : Ring) : (setRing s f r x).pwr = s.pwr := rfl
@[simp] theorem setRing_start (s : State) (f r : Nat) (x : Ring) : (setRing s f r x).start = s.start := rfl
@[simp] theorem setRing_dbg (s : State) (f r : Nat) (x : Ring) : (setRing s f r x).dbg = s.dbg := rfl
@[simp] theorem setRing_closing (s : State) (f r : Nat) (x : Ring) : (setRing s f r x).closing = s.closing := rfl
@[simp] theorem setRing_seqOps (s : State) (f r : Nat) (x : Ring) : (setRing s f r x).seqOps = s.seqOps := rfl
@[simp] theorem setPort_pending (s : State) (n : Nat) (x : Port) : (setPort s n x).pending = s.pending := rfl
@[simp] theorem setPort_out (s : State) (n : Nat) (x : Port) : (setPort s n x).out = s.out := rfl
@[simp] theorem setPort_freeN (s : State) (n : Nat) (x : Port) : (setPort s n x).freeN = s.freeN := rfl
@[simp] theorem setPort_hallmark (s : State) (n : Nat) (x : Port) : (setPort s n x).hallmark = s.hallmark := rfl
@[simp] theorem setPort_mem (s : State) (n : Nat) (x : Port) : (setPort s n x).mem = s.mem := rfl
@[simp] theorem setPort_chk (s : State) (n : Nat) (x : Port) : (setPort s n x).chk = s.chk := rfl
@[simp] theorem setPort_regs (s : State) (n : Nat) (x : Port) : (setPort s n x).regs = s.regs := rfl
@[simp] theorem setPort_cores (s : State) (n : Nat) (x : Port) : (setPort s n x).cores = s.cores := rfl
@[simp] theorem setPort_clusters (s : State) (n : Nat) (x : Port) : (setPort s n x).clusters = s.clusters := rfl
@[simp] theorem setPort_veins (s : State) (n : Nat) (x : Port) : (setPort s n x).veins = s.veins := rfl
@[simp] theorem setPort_barriers (s : State) (n : Nat) (x : Port) : (setPort s n x).barriers = s.barriers := rfl
@[simp] theorem setPort_signals (s : State) (n : Nat) (x : Port) : (setPort s n x).signals = s.signals := rfl
@[simp] theorem setPort_remints (s : State) (n : Nat) (x : Port) : (setPort s n x).remints = s.remints := rfl
@[simp] theorem setPort_remNext (s : State) (n : Nat) (x : Port) : (setPort s n x).remNext = s.remNext := rfl
@[simp] theorem setPort_remMoved (s : State) (n : Nat) (x : Port) : (setPort s n x).remMoved = s.remMoved := rfl
@[simp] theorem setPort_ent (s : State) (n : Nat) (x : Port) : (setPort s n x).ent = s.ent := rfl
@[simp] theorem setPort_keys (s : State) (n : Nat) (x : Port) : (setPort s n x).keys = s.keys := rfl
@[simp] theorem setPort_far (s : State) (n : Nat) (x : Port) : (setPort s n x).far = s.far := rfl
@[simp] theorem setPort_seams (s : State) (n : Nat) (x : Port) : (setPort s n x).seams = s.seams := rfl
@[simp] theorem setPort_seamDirs (s : State) (n : Nat) (x : Port) : (setPort s n x).seamDirs = s.seamDirs := rfl
@[simp] theorem setPort_funcs (s : State) (n : Nat) (x : Port) : (setPort s n x).funcs = s.funcs := rfl
@[simp] theorem setPort_jobs (s : State) (n : Nat) (x : Port) : (setPort s n x).jobs = s.jobs := rfl
@[simp] theorem setPort_parts (s : State) (n : Nat) (x : Port) : (setPort s n x).parts = s.parts := rfl
@[simp] theorem setPort_pairs (s : State) (n : Nat) (x : Port) : (setPort s n x).pairs = s.pairs := rfl
@[simp] theorem setPort_clrOps (s : State) (n : Nat) (x : Port) : (setPort s n x).clrOps = s.clrOps := rfl
@[simp] theorem setPort_colls (s : State) (n : Nat) (x : Port) : (setPort s n x).colls = s.colls := rfl
@[simp] theorem setPort_staging (s : State) (n : Nat) (x : Port) : (setPort s n x).staging = s.staging := rfl
@[simp] theorem setPort_clrTag (s : State) (n : Nat) (x : Port) : (setPort s n x).clrTag = s.clrTag := rfl
@[simp] theorem setPort_clrLast (s : State) (n : Nat) (x : Port) : (setPort s n x).clrLast = s.clrLast := rfl
@[simp] theorem setPort_ledger (s : State) (n : Nat) (x : Port) : (setPort s n x).ledger = s.ledger := rfl
@[simp] theorem setPort_tally (s : State) (n : Nat) (x : Port) : (setPort s n x).tally = s.tally := rfl
@[simp] theorem setPort_flash (s : State) (n : Nat) (x : Port) : (setPort s n x).flash = s.flash := rfl
@[simp] theorem setPort_comp (s : State) (n : Nat) (x : Port) : (setPort s n x).comp = s.comp := rfl
@[simp] theorem setPort_hm (s : State) (n : Nat) (x : Port) : (setPort s n x).hm = s.hm := rfl
@[simp] theorem setPort_pwr (s : State) (n : Nat) (x : Port) : (setPort s n x).pwr = s.pwr := rfl
@[simp] theorem setPort_start (s : State) (n : Nat) (x : Port) : (setPort s n x).start = s.start := rfl
@[simp] theorem setPort_dbg (s : State) (n : Nat) (x : Port) : (setPort s n x).dbg = s.dbg := rfl
@[simp] theorem setPort_closing (s : State) (n : Nat) (x : Port) : (setPort s n x).closing = s.closing := rfl
@[simp] theorem setPort_seqOps (s : State) (n : Nat) (x : Port) : (setPort s n x).seqOps = s.seqOps := rfl
@[simp] theorem setPc_pending (s : State) (k pc : Nat) (x : PseudoCh) : (setPc s k pc x).pending = s.pending := rfl
@[simp] theorem setPc_out (s : State) (k pc : Nat) (x : PseudoCh) : (setPc s k pc x).out = s.out := rfl
@[simp] theorem setPc_freeN (s : State) (k pc : Nat) (x : PseudoCh) : (setPc s k pc x).freeN = s.freeN := rfl
@[simp] theorem setPc_hallmark (s : State) (k pc : Nat) (x : PseudoCh) : (setPc s k pc x).hallmark = s.hallmark := rfl
@[simp] theorem setPc_mem (s : State) (k pc : Nat) (x : PseudoCh) : (setPc s k pc x).mem = s.mem := rfl
@[simp] theorem setPc_chk (s : State) (k pc : Nat) (x : PseudoCh) : (setPc s k pc x).chk = s.chk := rfl
@[simp] theorem setPc_regs (s : State) (k pc : Nat) (x : PseudoCh) : (setPc s k pc x).regs = s.regs := rfl
@[simp] theorem setPc_cores (s : State) (k pc : Nat) (x : PseudoCh) : (setPc s k pc x).cores = s.cores := rfl
@[simp] theorem setPc_clusters (s : State) (k pc : Nat) (x : PseudoCh) : (setPc s k pc x).clusters = s.clusters := rfl
@[simp] theorem setPc_veins (s : State) (k pc : Nat) (x : PseudoCh) : (setPc s k pc x).veins = s.veins := rfl
@[simp] theorem setPc_barriers (s : State) (k pc : Nat) (x : PseudoCh) : (setPc s k pc x).barriers = s.barriers := rfl
@[simp] theorem setPc_signals (s : State) (k pc : Nat) (x : PseudoCh) : (setPc s k pc x).signals = s.signals := rfl
@[simp] theorem setPc_remints (s : State) (k pc : Nat) (x : PseudoCh) : (setPc s k pc x).remints = s.remints := rfl
@[simp] theorem setPc_remNext (s : State) (k pc : Nat) (x : PseudoCh) : (setPc s k pc x).remNext = s.remNext := rfl
@[simp] theorem setPc_remMoved (s : State) (k pc : Nat) (x : PseudoCh) : (setPc s k pc x).remMoved = s.remMoved := rfl
@[simp] theorem setPc_ent (s : State) (k pc : Nat) (x : PseudoCh) : (setPc s k pc x).ent = s.ent := rfl
@[simp] theorem setPc_keys (s : State) (k pc : Nat) (x : PseudoCh) : (setPc s k pc x).keys = s.keys := rfl
@[simp] theorem setPc_seams (s : State) (k pc : Nat) (x : PseudoCh) : (setPc s k pc x).seams = s.seams := rfl
@[simp] theorem setPc_seamDirs (s : State) (k pc : Nat) (x : PseudoCh) : (setPc s k pc x).seamDirs = s.seamDirs := rfl
@[simp] theorem setPc_funcs (s : State) (k pc : Nat) (x : PseudoCh) : (setPc s k pc x).funcs = s.funcs := rfl
@[simp] theorem setPc_jobs (s : State) (k pc : Nat) (x : PseudoCh) : (setPc s k pc x).jobs = s.jobs := rfl
@[simp] theorem setPc_parts (s : State) (k pc : Nat) (x : PseudoCh) : (setPc s k pc x).parts = s.parts := rfl
@[simp] theorem setPc_pairs (s : State) (k pc : Nat) (x : PseudoCh) : (setPc s k pc x).pairs = s.pairs := rfl
@[simp] theorem setPc_ports (s : State) (k pc : Nat) (x : PseudoCh) : (setPc s k pc x).ports = s.ports := rfl
@[simp] theorem setPc_clrOps (s : State) (k pc : Nat) (x : PseudoCh) : (setPc s k pc x).clrOps = s.clrOps := rfl
@[simp] theorem setPc_colls (s : State) (k pc : Nat) (x : PseudoCh) : (setPc s k pc x).colls = s.colls := rfl
@[simp] theorem setPc_staging (s : State) (k pc : Nat) (x : PseudoCh) : (setPc s k pc x).staging = s.staging := rfl
@[simp] theorem setPc_clrTag (s : State) (k pc : Nat) (x : PseudoCh) : (setPc s k pc x).clrTag = s.clrTag := rfl
@[simp] theorem setPc_clrLast (s : State) (k pc : Nat) (x : PseudoCh) : (setPc s k pc x).clrLast = s.clrLast := rfl
@[simp] theorem setPc_ledger (s : State) (k pc : Nat) (x : PseudoCh) : (setPc s k pc x).ledger = s.ledger := rfl
@[simp] theorem setPc_tally (s : State) (k pc : Nat) (x : PseudoCh) : (setPc s k pc x).tally = s.tally := rfl
@[simp] theorem setPc_flash (s : State) (k pc : Nat) (x : PseudoCh) : (setPc s k pc x).flash = s.flash := rfl
@[simp] theorem setPc_comp (s : State) (k pc : Nat) (x : PseudoCh) : (setPc s k pc x).comp = s.comp := rfl
@[simp] theorem setPc_hm (s : State) (k pc : Nat) (x : PseudoCh) : (setPc s k pc x).hm = s.hm := rfl
@[simp] theorem setPc_pwr (s : State) (k pc : Nat) (x : PseudoCh) : (setPc s k pc x).pwr = s.pwr := rfl
@[simp] theorem setPc_start (s : State) (k pc : Nat) (x : PseudoCh) : (setPc s k pc x).start = s.start := rfl
@[simp] theorem setPc_dbg (s : State) (k pc : Nat) (x : PseudoCh) : (setPc s k pc x).dbg = s.dbg := rfl
@[simp] theorem setPc_closing (s : State) (k pc : Nat) (x : PseudoCh) : (setPc s k pc x).closing = s.closing := rfl
@[simp] theorem setPc_seqOps (s : State) (k pc : Nat) (x : PseudoCh) : (setPc s k pc x).seqOps = s.seqOps := rfl
@[simp] theorem setSeam_pending (s : State) (i : Nat) (x : SeamSt) : (setSeam s i x).pending = s.pending := rfl
@[simp] theorem setSeam_out (s : State) (i : Nat) (x : SeamSt) : (setSeam s i x).out = s.out := rfl
@[simp] theorem setSeam_freeN (s : State) (i : Nat) (x : SeamSt) : (setSeam s i x).freeN = s.freeN := rfl
@[simp] theorem setSeam_hallmark (s : State) (i : Nat) (x : SeamSt) : (setSeam s i x).hallmark = s.hallmark := rfl
@[simp] theorem setSeam_mem (s : State) (i : Nat) (x : SeamSt) : (setSeam s i x).mem = s.mem := rfl
@[simp] theorem setSeam_chk (s : State) (i : Nat) (x : SeamSt) : (setSeam s i x).chk = s.chk := rfl
@[simp] theorem setSeam_regs (s : State) (i : Nat) (x : SeamSt) : (setSeam s i x).regs = s.regs := rfl
@[simp] theorem setSeam_cores (s : State) (i : Nat) (x : SeamSt) : (setSeam s i x).cores = s.cores := rfl
@[simp] theorem setSeam_clusters (s : State) (i : Nat) (x : SeamSt) : (setSeam s i x).clusters = s.clusters := rfl
@[simp] theorem setSeam_veins (s : State) (i : Nat) (x : SeamSt) : (setSeam s i x).veins = s.veins := rfl
@[simp] theorem setSeam_barriers (s : State) (i : Nat) (x : SeamSt) : (setSeam s i x).barriers = s.barriers := rfl
@[simp] theorem setSeam_signals (s : State) (i : Nat) (x : SeamSt) : (setSeam s i x).signals = s.signals := rfl
@[simp] theorem setSeam_remints (s : State) (i : Nat) (x : SeamSt) : (setSeam s i x).remints = s.remints := rfl
@[simp] theorem setSeam_remNext (s : State) (i : Nat) (x : SeamSt) : (setSeam s i x).remNext = s.remNext := rfl
@[simp] theorem setSeam_remMoved (s : State) (i : Nat) (x : SeamSt) : (setSeam s i x).remMoved = s.remMoved := rfl
@[simp] theorem setSeam_ent (s : State) (i : Nat) (x : SeamSt) : (setSeam s i x).ent = s.ent := rfl
@[simp] theorem setSeam_keys (s : State) (i : Nat) (x : SeamSt) : (setSeam s i x).keys = s.keys := rfl
@[simp] theorem setSeam_far (s : State) (i : Nat) (x : SeamSt) : (setSeam s i x).far = s.far := rfl
@[simp] theorem setSeam_seamDirs (s : State) (i : Nat) (x : SeamSt) : (setSeam s i x).seamDirs = s.seamDirs := rfl
@[simp] theorem setSeam_funcs (s : State) (i : Nat) (x : SeamSt) : (setSeam s i x).funcs = s.funcs := rfl
@[simp] theorem setSeam_jobs (s : State) (i : Nat) (x : SeamSt) : (setSeam s i x).jobs = s.jobs := rfl
@[simp] theorem setSeam_parts (s : State) (i : Nat) (x : SeamSt) : (setSeam s i x).parts = s.parts := rfl
@[simp] theorem setSeam_pairs (s : State) (i : Nat) (x : SeamSt) : (setSeam s i x).pairs = s.pairs := rfl
@[simp] theorem setSeam_ports (s : State) (i : Nat) (x : SeamSt) : (setSeam s i x).ports = s.ports := rfl
@[simp] theorem setSeam_clrOps (s : State) (i : Nat) (x : SeamSt) : (setSeam s i x).clrOps = s.clrOps := rfl
@[simp] theorem setSeam_colls (s : State) (i : Nat) (x : SeamSt) : (setSeam s i x).colls = s.colls := rfl
@[simp] theorem setSeam_staging (s : State) (i : Nat) (x : SeamSt) : (setSeam s i x).staging = s.staging := rfl
@[simp] theorem setSeam_clrTag (s : State) (i : Nat) (x : SeamSt) : (setSeam s i x).clrTag = s.clrTag := rfl
@[simp] theorem setSeam_clrLast (s : State) (i : Nat) (x : SeamSt) : (setSeam s i x).clrLast = s.clrLast := rfl
@[simp] theorem setSeam_ledger (s : State) (i : Nat) (x : SeamSt) : (setSeam s i x).ledger = s.ledger := rfl
@[simp] theorem setSeam_tally (s : State) (i : Nat) (x : SeamSt) : (setSeam s i x).tally = s.tally := rfl
@[simp] theorem setSeam_flash (s : State) (i : Nat) (x : SeamSt) : (setSeam s i x).flash = s.flash := rfl
@[simp] theorem setSeam_comp (s : State) (i : Nat) (x : SeamSt) : (setSeam s i x).comp = s.comp := rfl
@[simp] theorem setSeam_hm (s : State) (i : Nat) (x : SeamSt) : (setSeam s i x).hm = s.hm := rfl
@[simp] theorem setSeam_pwr (s : State) (i : Nat) (x : SeamSt) : (setSeam s i x).pwr = s.pwr := rfl
@[simp] theorem setSeam_start (s : State) (i : Nat) (x : SeamSt) : (setSeam s i x).start = s.start := rfl
@[simp] theorem setSeam_dbg (s : State) (i : Nat) (x : SeamSt) : (setSeam s i x).dbg = s.dbg := rfl
@[simp] theorem setSeam_closing (s : State) (i : Nat) (x : SeamSt) : (setSeam s i x).closing = s.closing := rfl
@[simp] theorem setSeam_seqOps (s : State) (i : Nat) (x : SeamSt) : (setSeam s i x).seqOps = s.seqOps := rfl
@[simp] theorem setSeamDir_pending (s : State) (i : Nat) (up : Bool) (x : SeamDir) : (setSeamDir s i up x).pending = s.pending := rfl
@[simp] theorem setSeamDir_out (s : State) (i : Nat) (up : Bool) (x : SeamDir) : (setSeamDir s i up x).out = s.out := rfl
@[simp] theorem setSeamDir_freeN (s : State) (i : Nat) (up : Bool) (x : SeamDir) : (setSeamDir s i up x).freeN = s.freeN := rfl
@[simp] theorem setSeamDir_hallmark (s : State) (i : Nat) (up : Bool) (x : SeamDir) : (setSeamDir s i up x).hallmark = s.hallmark := rfl
@[simp] theorem setSeamDir_mem (s : State) (i : Nat) (up : Bool) (x : SeamDir) : (setSeamDir s i up x).mem = s.mem := rfl
@[simp] theorem setSeamDir_chk (s : State) (i : Nat) (up : Bool) (x : SeamDir) : (setSeamDir s i up x).chk = s.chk := rfl
@[simp] theorem setSeamDir_regs (s : State) (i : Nat) (up : Bool) (x : SeamDir) : (setSeamDir s i up x).regs = s.regs := rfl
@[simp] theorem setSeamDir_cores (s : State) (i : Nat) (up : Bool) (x : SeamDir) : (setSeamDir s i up x).cores = s.cores := rfl
@[simp] theorem setSeamDir_clusters (s : State) (i : Nat) (up : Bool) (x : SeamDir) : (setSeamDir s i up x).clusters = s.clusters := rfl
@[simp] theorem setSeamDir_veins (s : State) (i : Nat) (up : Bool) (x : SeamDir) : (setSeamDir s i up x).veins = s.veins := rfl
@[simp] theorem setSeamDir_barriers (s : State) (i : Nat) (up : Bool) (x : SeamDir) : (setSeamDir s i up x).barriers = s.barriers := rfl
@[simp] theorem setSeamDir_signals (s : State) (i : Nat) (up : Bool) (x : SeamDir) : (setSeamDir s i up x).signals = s.signals := rfl
@[simp] theorem setSeamDir_remints (s : State) (i : Nat) (up : Bool) (x : SeamDir) : (setSeamDir s i up x).remints = s.remints := rfl
@[simp] theorem setSeamDir_remNext (s : State) (i : Nat) (up : Bool) (x : SeamDir) : (setSeamDir s i up x).remNext = s.remNext := rfl
@[simp] theorem setSeamDir_remMoved (s : State) (i : Nat) (up : Bool) (x : SeamDir) : (setSeamDir s i up x).remMoved = s.remMoved := rfl
@[simp] theorem setSeamDir_ent (s : State) (i : Nat) (up : Bool) (x : SeamDir) : (setSeamDir s i up x).ent = s.ent := rfl
@[simp] theorem setSeamDir_keys (s : State) (i : Nat) (up : Bool) (x : SeamDir) : (setSeamDir s i up x).keys = s.keys := rfl
@[simp] theorem setSeamDir_far (s : State) (i : Nat) (up : Bool) (x : SeamDir) : (setSeamDir s i up x).far = s.far := rfl
@[simp] theorem setSeamDir_seams (s : State) (i : Nat) (up : Bool) (x : SeamDir) : (setSeamDir s i up x).seams = s.seams := rfl
@[simp] theorem setSeamDir_funcs (s : State) (i : Nat) (up : Bool) (x : SeamDir) : (setSeamDir s i up x).funcs = s.funcs := rfl
@[simp] theorem setSeamDir_jobs (s : State) (i : Nat) (up : Bool) (x : SeamDir) : (setSeamDir s i up x).jobs = s.jobs := rfl
@[simp] theorem setSeamDir_parts (s : State) (i : Nat) (up : Bool) (x : SeamDir) : (setSeamDir s i up x).parts = s.parts := rfl
@[simp] theorem setSeamDir_pairs (s : State) (i : Nat) (up : Bool) (x : SeamDir) : (setSeamDir s i up x).pairs = s.pairs := rfl
@[simp] theorem setSeamDir_ports (s : State) (i : Nat) (up : Bool) (x : SeamDir) : (setSeamDir s i up x).ports = s.ports := rfl
@[simp] theorem setSeamDir_clrOps (s : State) (i : Nat) (up : Bool) (x : SeamDir) : (setSeamDir s i up x).clrOps = s.clrOps := rfl
@[simp] theorem setSeamDir_colls (s : State) (i : Nat) (up : Bool) (x : SeamDir) : (setSeamDir s i up x).colls = s.colls := rfl
@[simp] theorem setSeamDir_staging (s : State) (i : Nat) (up : Bool) (x : SeamDir) : (setSeamDir s i up x).staging = s.staging := rfl
@[simp] theorem setSeamDir_clrTag (s : State) (i : Nat) (up : Bool) (x : SeamDir) : (setSeamDir s i up x).clrTag = s.clrTag := rfl
@[simp] theorem setSeamDir_clrLast (s : State) (i : Nat) (up : Bool) (x : SeamDir) : (setSeamDir s i up x).clrLast = s.clrLast := rfl
@[simp] theorem setSeamDir_ledger (s : State) (i : Nat) (up : Bool) (x : SeamDir) : (setSeamDir s i up x).ledger = s.ledger := rfl
@[simp] theorem setSeamDir_tally (s : State) (i : Nat) (up : Bool) (x : SeamDir) : (setSeamDir s i up x).tally = s.tally := rfl
@[simp] theorem setSeamDir_flash (s : State) (i : Nat) (up : Bool) (x : SeamDir) : (setSeamDir s i up x).flash = s.flash := rfl
@[simp] theorem setSeamDir_comp (s : State) (i : Nat) (up : Bool) (x : SeamDir) : (setSeamDir s i up x).comp = s.comp := rfl
@[simp] theorem setSeamDir_hm (s : State) (i : Nat) (up : Bool) (x : SeamDir) : (setSeamDir s i up x).hm = s.hm := rfl
@[simp] theorem setSeamDir_pwr (s : State) (i : Nat) (up : Bool) (x : SeamDir) : (setSeamDir s i up x).pwr = s.pwr := rfl
@[simp] theorem setSeamDir_start (s : State) (i : Nat) (up : Bool) (x : SeamDir) : (setSeamDir s i up x).start = s.start := rfl
@[simp] theorem setSeamDir_dbg (s : State) (i : Nat) (up : Bool) (x : SeamDir) : (setSeamDir s i up x).dbg = s.dbg := rfl
@[simp] theorem setSeamDir_closing (s : State) (i : Nat) (up : Bool) (x : SeamDir) : (setSeamDir s i up x).closing = s.closing := rfl
@[simp] theorem setSeamDir_seqOps (s : State) (i : Nat) (up : Bool) (x : SeamDir) : (setSeamDir s i up x).seqOps = s.seqOps := rfl
@[simp] theorem setPart_pending (s : State) (p : Nat) (x : Layout) : (setPart s p x).pending = s.pending := rfl
@[simp] theorem setPart_out (s : State) (p : Nat) (x : Layout) : (setPart s p x).out = s.out := rfl
@[simp] theorem setPart_freeN (s : State) (p : Nat) (x : Layout) : (setPart s p x).freeN = s.freeN := rfl
@[simp] theorem setPart_hallmark (s : State) (p : Nat) (x : Layout) : (setPart s p x).hallmark = s.hallmark := rfl
@[simp] theorem setPart_mem (s : State) (p : Nat) (x : Layout) : (setPart s p x).mem = s.mem := rfl
@[simp] theorem setPart_chk (s : State) (p : Nat) (x : Layout) : (setPart s p x).chk = s.chk := rfl
@[simp] theorem setPart_regs (s : State) (p : Nat) (x : Layout) : (setPart s p x).regs = s.regs := rfl
@[simp] theorem setPart_cores (s : State) (p : Nat) (x : Layout) : (setPart s p x).cores = s.cores := rfl
@[simp] theorem setPart_clusters (s : State) (p : Nat) (x : Layout) : (setPart s p x).clusters = s.clusters := rfl
@[simp] theorem setPart_veins (s : State) (p : Nat) (x : Layout) : (setPart s p x).veins = s.veins := rfl
@[simp] theorem setPart_barriers (s : State) (p : Nat) (x : Layout) : (setPart s p x).barriers = s.barriers := rfl
@[simp] theorem setPart_signals (s : State) (p : Nat) (x : Layout) : (setPart s p x).signals = s.signals := rfl
@[simp] theorem setPart_remints (s : State) (p : Nat) (x : Layout) : (setPart s p x).remints = s.remints := rfl
@[simp] theorem setPart_remNext (s : State) (p : Nat) (x : Layout) : (setPart s p x).remNext = s.remNext := rfl
@[simp] theorem setPart_remMoved (s : State) (p : Nat) (x : Layout) : (setPart s p x).remMoved = s.remMoved := rfl
@[simp] theorem setPart_ent (s : State) (p : Nat) (x : Layout) : (setPart s p x).ent = s.ent := rfl
@[simp] theorem setPart_keys (s : State) (p : Nat) (x : Layout) : (setPart s p x).keys = s.keys := rfl
@[simp] theorem setPart_far (s : State) (p : Nat) (x : Layout) : (setPart s p x).far = s.far := rfl
@[simp] theorem setPart_seams (s : State) (p : Nat) (x : Layout) : (setPart s p x).seams = s.seams := rfl
@[simp] theorem setPart_seamDirs (s : State) (p : Nat) (x : Layout) : (setPart s p x).seamDirs = s.seamDirs := rfl
@[simp] theorem setPart_funcs (s : State) (p : Nat) (x : Layout) : (setPart s p x).funcs = s.funcs := rfl
@[simp] theorem setPart_jobs (s : State) (p : Nat) (x : Layout) : (setPart s p x).jobs = s.jobs := rfl
@[simp] theorem setPart_pairs (s : State) (p : Nat) (x : Layout) : (setPart s p x).pairs = s.pairs := rfl
@[simp] theorem setPart_ports (s : State) (p : Nat) (x : Layout) : (setPart s p x).ports = s.ports := rfl
@[simp] theorem setPart_clrOps (s : State) (p : Nat) (x : Layout) : (setPart s p x).clrOps = s.clrOps := rfl
@[simp] theorem setPart_colls (s : State) (p : Nat) (x : Layout) : (setPart s p x).colls = s.colls := rfl
@[simp] theorem setPart_staging (s : State) (p : Nat) (x : Layout) : (setPart s p x).staging = s.staging := rfl
@[simp] theorem setPart_clrTag (s : State) (p : Nat) (x : Layout) : (setPart s p x).clrTag = s.clrTag := rfl
@[simp] theorem setPart_clrLast (s : State) (p : Nat) (x : Layout) : (setPart s p x).clrLast = s.clrLast := rfl
@[simp] theorem setPart_ledger (s : State) (p : Nat) (x : Layout) : (setPart s p x).ledger = s.ledger := rfl
@[simp] theorem setPart_tally (s : State) (p : Nat) (x : Layout) : (setPart s p x).tally = s.tally := rfl
@[simp] theorem setPart_flash (s : State) (p : Nat) (x : Layout) : (setPart s p x).flash = s.flash := rfl
@[simp] theorem setPart_comp (s : State) (p : Nat) (x : Layout) : (setPart s p x).comp = s.comp := rfl
@[simp] theorem setPart_hm (s : State) (p : Nat) (x : Layout) : (setPart s p x).hm = s.hm := rfl
@[simp] theorem setPart_pwr (s : State) (p : Nat) (x : Layout) : (setPart s p x).pwr = s.pwr := rfl
@[simp] theorem setPart_start (s : State) (p : Nat) (x : Layout) : (setPart s p x).start = s.start := rfl
@[simp] theorem setPart_dbg (s : State) (p : Nat) (x : Layout) : (setPart s p x).dbg = s.dbg := rfl
@[simp] theorem setPart_closing (s : State) (p : Nat) (x : Layout) : (setPart s p x).closing = s.closing := rfl
@[simp] theorem setPart_seqOps (s : State) (p : Nat) (x : Layout) : (setPart s p x).seqOps = s.seqOps := rfl
@[simp] theorem setReg_pending (s : State) (o : Nat) (w : Word) : (setReg s o w).pending = s.pending := rfl
@[simp] theorem setReg_out (s : State) (o : Nat) (w : Word) : (setReg s o w).out = s.out := rfl
@[simp] theorem setReg_freeN (s : State) (o : Nat) (w : Word) : (setReg s o w).freeN = s.freeN := rfl
@[simp] theorem setReg_hallmark (s : State) (o : Nat) (w : Word) : (setReg s o w).hallmark = s.hallmark := rfl
@[simp] theorem setReg_mem (s : State) (o : Nat) (w : Word) : (setReg s o w).mem = s.mem := rfl
@[simp] theorem setReg_chk (s : State) (o : Nat) (w : Word) : (setReg s o w).chk = s.chk := rfl
@[simp] theorem setReg_cores (s : State) (o : Nat) (w : Word) : (setReg s o w).cores = s.cores := rfl
@[simp] theorem setReg_clusters (s : State) (o : Nat) (w : Word) : (setReg s o w).clusters = s.clusters := rfl
@[simp] theorem setReg_veins (s : State) (o : Nat) (w : Word) : (setReg s o w).veins = s.veins := rfl
@[simp] theorem setReg_barriers (s : State) (o : Nat) (w : Word) : (setReg s o w).barriers = s.barriers := rfl
@[simp] theorem setReg_signals (s : State) (o : Nat) (w : Word) : (setReg s o w).signals = s.signals := rfl
@[simp] theorem setReg_remints (s : State) (o : Nat) (w : Word) : (setReg s o w).remints = s.remints := rfl
@[simp] theorem setReg_remNext (s : State) (o : Nat) (w : Word) : (setReg s o w).remNext = s.remNext := rfl
@[simp] theorem setReg_remMoved (s : State) (o : Nat) (w : Word) : (setReg s o w).remMoved = s.remMoved := rfl
@[simp] theorem setReg_ent (s : State) (o : Nat) (w : Word) : (setReg s o w).ent = s.ent := rfl
@[simp] theorem setReg_keys (s : State) (o : Nat) (w : Word) : (setReg s o w).keys = s.keys := rfl
@[simp] theorem setReg_far (s : State) (o : Nat) (w : Word) : (setReg s o w).far = s.far := rfl
@[simp] theorem setReg_seams (s : State) (o : Nat) (w : Word) : (setReg s o w).seams = s.seams := rfl
@[simp] theorem setReg_seamDirs (s : State) (o : Nat) (w : Word) : (setReg s o w).seamDirs = s.seamDirs := rfl
@[simp] theorem setReg_funcs (s : State) (o : Nat) (w : Word) : (setReg s o w).funcs = s.funcs := rfl
@[simp] theorem setReg_jobs (s : State) (o : Nat) (w : Word) : (setReg s o w).jobs = s.jobs := rfl
@[simp] theorem setReg_parts (s : State) (o : Nat) (w : Word) : (setReg s o w).parts = s.parts := rfl
@[simp] theorem setReg_pairs (s : State) (o : Nat) (w : Word) : (setReg s o w).pairs = s.pairs := rfl
@[simp] theorem setReg_ports (s : State) (o : Nat) (w : Word) : (setReg s o w).ports = s.ports := rfl
@[simp] theorem setReg_clrOps (s : State) (o : Nat) (w : Word) : (setReg s o w).clrOps = s.clrOps := rfl
@[simp] theorem setReg_colls (s : State) (o : Nat) (w : Word) : (setReg s o w).colls = s.colls := rfl
@[simp] theorem setReg_staging (s : State) (o : Nat) (w : Word) : (setReg s o w).staging = s.staging := rfl
@[simp] theorem setReg_clrTag (s : State) (o : Nat) (w : Word) : (setReg s o w).clrTag = s.clrTag := rfl
@[simp] theorem setReg_clrLast (s : State) (o : Nat) (w : Word) : (setReg s o w).clrLast = s.clrLast := rfl
@[simp] theorem setReg_ledger (s : State) (o : Nat) (w : Word) : (setReg s o w).ledger = s.ledger := rfl
@[simp] theorem setReg_tally (s : State) (o : Nat) (w : Word) : (setReg s o w).tally = s.tally := rfl
@[simp] theorem setReg_flash (s : State) (o : Nat) (w : Word) : (setReg s o w).flash = s.flash := rfl
@[simp] theorem setReg_comp (s : State) (o : Nat) (w : Word) : (setReg s o w).comp = s.comp := rfl
@[simp] theorem setReg_hm (s : State) (o : Nat) (w : Word) : (setReg s o w).hm = s.hm := rfl
@[simp] theorem setReg_pwr (s : State) (o : Nat) (w : Word) : (setReg s o w).pwr = s.pwr := rfl
@[simp] theorem setReg_start (s : State) (o : Nat) (w : Word) : (setReg s o w).start = s.start := rfl
@[simp] theorem setReg_dbg (s : State) (o : Nat) (w : Word) : (setReg s o w).dbg = s.dbg := rfl
@[simp] theorem setReg_closing (s : State) (o : Nat) (w : Word) : (setReg s o w).closing = s.closing := rfl
@[simp] theorem setReg_seqOps (s : State) (o : Nat) (w : Word) : (setReg s o w).seqOps = s.seqOps := rfl
@[simp] theorem setRegField_pending (s : State) (o lo n v : Nat) : (setRegField s o lo n v).pending = s.pending := rfl
@[simp] theorem setRegField_out (s : State) (o lo n v : Nat) : (setRegField s o lo n v).out = s.out := rfl
@[simp] theorem setRegField_freeN (s : State) (o lo n v : Nat) : (setRegField s o lo n v).freeN = s.freeN := rfl
@[simp] theorem setRegField_hallmark (s : State) (o lo n v : Nat) : (setRegField s o lo n v).hallmark = s.hallmark := rfl
@[simp] theorem setRegField_mem (s : State) (o lo n v : Nat) : (setRegField s o lo n v).mem = s.mem := rfl
@[simp] theorem setRegField_chk (s : State) (o lo n v : Nat) : (setRegField s o lo n v).chk = s.chk := rfl
@[simp] theorem setRegField_cores (s : State) (o lo n v : Nat) : (setRegField s o lo n v).cores = s.cores := rfl
@[simp] theorem setRegField_clusters (s : State) (o lo n v : Nat) : (setRegField s o lo n v).clusters = s.clusters := rfl
@[simp] theorem setRegField_veins (s : State) (o lo n v : Nat) : (setRegField s o lo n v).veins = s.veins := rfl
@[simp] theorem setRegField_barriers (s : State) (o lo n v : Nat) : (setRegField s o lo n v).barriers = s.barriers := rfl
@[simp] theorem setRegField_signals (s : State) (o lo n v : Nat) : (setRegField s o lo n v).signals = s.signals := rfl
@[simp] theorem setRegField_remints (s : State) (o lo n v : Nat) : (setRegField s o lo n v).remints = s.remints := rfl
@[simp] theorem setRegField_remNext (s : State) (o lo n v : Nat) : (setRegField s o lo n v).remNext = s.remNext := rfl
@[simp] theorem setRegField_remMoved (s : State) (o lo n v : Nat) : (setRegField s o lo n v).remMoved = s.remMoved := rfl
@[simp] theorem setRegField_ent (s : State) (o lo n v : Nat) : (setRegField s o lo n v).ent = s.ent := rfl
@[simp] theorem setRegField_keys (s : State) (o lo n v : Nat) : (setRegField s o lo n v).keys = s.keys := rfl
@[simp] theorem setRegField_far (s : State) (o lo n v : Nat) : (setRegField s o lo n v).far = s.far := rfl
@[simp] theorem setRegField_seams (s : State) (o lo n v : Nat) : (setRegField s o lo n v).seams = s.seams := rfl
@[simp] theorem setRegField_seamDirs (s : State) (o lo n v : Nat) : (setRegField s o lo n v).seamDirs = s.seamDirs := rfl
@[simp] theorem setRegField_funcs (s : State) (o lo n v : Nat) : (setRegField s o lo n v).funcs = s.funcs := rfl
@[simp] theorem setRegField_jobs (s : State) (o lo n v : Nat) : (setRegField s o lo n v).jobs = s.jobs := rfl
@[simp] theorem setRegField_parts (s : State) (o lo n v : Nat) : (setRegField s o lo n v).parts = s.parts := rfl
@[simp] theorem setRegField_pairs (s : State) (o lo n v : Nat) : (setRegField s o lo n v).pairs = s.pairs := rfl
@[simp] theorem setRegField_ports (s : State) (o lo n v : Nat) : (setRegField s o lo n v).ports = s.ports := rfl
@[simp] theorem setRegField_clrOps (s : State) (o lo n v : Nat) : (setRegField s o lo n v).clrOps = s.clrOps := rfl
@[simp] theorem setRegField_colls (s : State) (o lo n v : Nat) : (setRegField s o lo n v).colls = s.colls := rfl
@[simp] theorem setRegField_staging (s : State) (o lo n v : Nat) : (setRegField s o lo n v).staging = s.staging := rfl
@[simp] theorem setRegField_clrTag (s : State) (o lo n v : Nat) : (setRegField s o lo n v).clrTag = s.clrTag := rfl
@[simp] theorem setRegField_clrLast (s : State) (o lo n v : Nat) : (setRegField s o lo n v).clrLast = s.clrLast := rfl
@[simp] theorem setRegField_ledger (s : State) (o lo n v : Nat) : (setRegField s o lo n v).ledger = s.ledger := rfl
@[simp] theorem setRegField_tally (s : State) (o lo n v : Nat) : (setRegField s o lo n v).tally = s.tally := rfl
@[simp] theorem setRegField_flash (s : State) (o lo n v : Nat) : (setRegField s o lo n v).flash = s.flash := rfl
@[simp] theorem setRegField_comp (s : State) (o lo n v : Nat) : (setRegField s o lo n v).comp = s.comp := rfl
@[simp] theorem setRegField_hm (s : State) (o lo n v : Nat) : (setRegField s o lo n v).hm = s.hm := rfl
@[simp] theorem setRegField_pwr (s : State) (o lo n v : Nat) : (setRegField s o lo n v).pwr = s.pwr := rfl
@[simp] theorem setRegField_start (s : State) (o lo n v : Nat) : (setRegField s o lo n v).start = s.start := rfl
@[simp] theorem setRegField_dbg (s : State) (o lo n v : Nat) : (setRegField s o lo n v).dbg = s.dbg := rfl
@[simp] theorem setRegField_closing (s : State) (o lo n v : Nat) : (setRegField s o lo n v).closing = s.closing := rfl
@[simp] theorem setRegField_seqOps (s : State) (o lo n v : Nat) : (setRegField s o lo n v).seqOps = s.seqOps := rfl
@[simp] theorem addRegField_pending (s : State) (o lo n v : Nat) : (addRegField s o lo n v).pending = s.pending := rfl
@[simp] theorem addRegField_out (s : State) (o lo n v : Nat) : (addRegField s o lo n v).out = s.out := rfl
@[simp] theorem addRegField_freeN (s : State) (o lo n v : Nat) : (addRegField s o lo n v).freeN = s.freeN := rfl
@[simp] theorem addRegField_hallmark (s : State) (o lo n v : Nat) : (addRegField s o lo n v).hallmark = s.hallmark := rfl
@[simp] theorem addRegField_mem (s : State) (o lo n v : Nat) : (addRegField s o lo n v).mem = s.mem := rfl
@[simp] theorem addRegField_chk (s : State) (o lo n v : Nat) : (addRegField s o lo n v).chk = s.chk := rfl
@[simp] theorem addRegField_cores (s : State) (o lo n v : Nat) : (addRegField s o lo n v).cores = s.cores := rfl
@[simp] theorem addRegField_clusters (s : State) (o lo n v : Nat) : (addRegField s o lo n v).clusters = s.clusters := rfl
@[simp] theorem addRegField_veins (s : State) (o lo n v : Nat) : (addRegField s o lo n v).veins = s.veins := rfl
@[simp] theorem addRegField_barriers (s : State) (o lo n v : Nat) : (addRegField s o lo n v).barriers = s.barriers := rfl
@[simp] theorem addRegField_signals (s : State) (o lo n v : Nat) : (addRegField s o lo n v).signals = s.signals := rfl
@[simp] theorem addRegField_remints (s : State) (o lo n v : Nat) : (addRegField s o lo n v).remints = s.remints := rfl
@[simp] theorem addRegField_remNext (s : State) (o lo n v : Nat) : (addRegField s o lo n v).remNext = s.remNext := rfl
@[simp] theorem addRegField_remMoved (s : State) (o lo n v : Nat) : (addRegField s o lo n v).remMoved = s.remMoved := rfl
@[simp] theorem addRegField_ent (s : State) (o lo n v : Nat) : (addRegField s o lo n v).ent = s.ent := rfl
@[simp] theorem addRegField_keys (s : State) (o lo n v : Nat) : (addRegField s o lo n v).keys = s.keys := rfl
@[simp] theorem addRegField_far (s : State) (o lo n v : Nat) : (addRegField s o lo n v).far = s.far := rfl
@[simp] theorem addRegField_seams (s : State) (o lo n v : Nat) : (addRegField s o lo n v).seams = s.seams := rfl
@[simp] theorem addRegField_seamDirs (s : State) (o lo n v : Nat) : (addRegField s o lo n v).seamDirs = s.seamDirs := rfl
@[simp] theorem addRegField_funcs (s : State) (o lo n v : Nat) : (addRegField s o lo n v).funcs = s.funcs := rfl
@[simp] theorem addRegField_jobs (s : State) (o lo n v : Nat) : (addRegField s o lo n v).jobs = s.jobs := rfl
@[simp] theorem addRegField_parts (s : State) (o lo n v : Nat) : (addRegField s o lo n v).parts = s.parts := rfl
@[simp] theorem addRegField_pairs (s : State) (o lo n v : Nat) : (addRegField s o lo n v).pairs = s.pairs := rfl
@[simp] theorem addRegField_ports (s : State) (o lo n v : Nat) : (addRegField s o lo n v).ports = s.ports := rfl
@[simp] theorem addRegField_clrOps (s : State) (o lo n v : Nat) : (addRegField s o lo n v).clrOps = s.clrOps := rfl
@[simp] theorem addRegField_colls (s : State) (o lo n v : Nat) : (addRegField s o lo n v).colls = s.colls := rfl
@[simp] theorem addRegField_staging (s : State) (o lo n v : Nat) : (addRegField s o lo n v).staging = s.staging := rfl
@[simp] theorem addRegField_clrTag (s : State) (o lo n v : Nat) : (addRegField s o lo n v).clrTag = s.clrTag := rfl
@[simp] theorem addRegField_clrLast (s : State) (o lo n v : Nat) : (addRegField s o lo n v).clrLast = s.clrLast := rfl
@[simp] theorem addRegField_ledger (s : State) (o lo n v : Nat) : (addRegField s o lo n v).ledger = s.ledger := rfl
@[simp] theorem addRegField_tally (s : State) (o lo n v : Nat) : (addRegField s o lo n v).tally = s.tally := rfl
@[simp] theorem addRegField_flash (s : State) (o lo n v : Nat) : (addRegField s o lo n v).flash = s.flash := rfl
@[simp] theorem addRegField_comp (s : State) (o lo n v : Nat) : (addRegField s o lo n v).comp = s.comp := rfl
@[simp] theorem addRegField_hm (s : State) (o lo n v : Nat) : (addRegField s o lo n v).hm = s.hm := rfl
@[simp] theorem addRegField_pwr (s : State) (o lo n v : Nat) : (addRegField s o lo n v).pwr = s.pwr := rfl
@[simp] theorem addRegField_start (s : State) (o lo n v : Nat) : (addRegField s o lo n v).start = s.start := rfl
@[simp] theorem addRegField_dbg (s : State) (o lo n v : Nat) : (addRegField s o lo n v).dbg = s.dbg := rfl
@[simp] theorem addRegField_closing (s : State) (o lo n v : Nat) : (addRegField s o lo n v).closing = s.closing := rfl
@[simp] theorem addRegField_seqOps (s : State) (o lo n v : Nat) : (addRegField s o lo n v).seqOps = s.seqOps := rfl
@[simp] theorem resetRegs_pending (s : State) (lo n : Nat) : (resetRegs s lo n).pending = s.pending := rfl
@[simp] theorem resetRegs_out (s : State) (lo n : Nat) : (resetRegs s lo n).out = s.out := rfl
@[simp] theorem resetRegs_freeN (s : State) (lo n : Nat) : (resetRegs s lo n).freeN = s.freeN := rfl
@[simp] theorem resetRegs_hallmark (s : State) (lo n : Nat) : (resetRegs s lo n).hallmark = s.hallmark := rfl
@[simp] theorem resetRegs_mem (s : State) (lo n : Nat) : (resetRegs s lo n).mem = s.mem := rfl
@[simp] theorem resetRegs_chk (s : State) (lo n : Nat) : (resetRegs s lo n).chk = s.chk := rfl
@[simp] theorem resetRegs_cores (s : State) (lo n : Nat) : (resetRegs s lo n).cores = s.cores := rfl
@[simp] theorem resetRegs_clusters (s : State) (lo n : Nat) : (resetRegs s lo n).clusters = s.clusters := rfl
@[simp] theorem resetRegs_veins (s : State) (lo n : Nat) : (resetRegs s lo n).veins = s.veins := rfl
@[simp] theorem resetRegs_barriers (s : State) (lo n : Nat) : (resetRegs s lo n).barriers = s.barriers := rfl
@[simp] theorem resetRegs_signals (s : State) (lo n : Nat) : (resetRegs s lo n).signals = s.signals := rfl
@[simp] theorem resetRegs_remints (s : State) (lo n : Nat) : (resetRegs s lo n).remints = s.remints := rfl
@[simp] theorem resetRegs_remNext (s : State) (lo n : Nat) : (resetRegs s lo n).remNext = s.remNext := rfl
@[simp] theorem resetRegs_remMoved (s : State) (lo n : Nat) : (resetRegs s lo n).remMoved = s.remMoved := rfl
@[simp] theorem resetRegs_ent (s : State) (lo n : Nat) : (resetRegs s lo n).ent = s.ent := rfl
@[simp] theorem resetRegs_keys (s : State) (lo n : Nat) : (resetRegs s lo n).keys = s.keys := rfl
@[simp] theorem resetRegs_far (s : State) (lo n : Nat) : (resetRegs s lo n).far = s.far := rfl
@[simp] theorem resetRegs_seams (s : State) (lo n : Nat) : (resetRegs s lo n).seams = s.seams := rfl
@[simp] theorem resetRegs_seamDirs (s : State) (lo n : Nat) : (resetRegs s lo n).seamDirs = s.seamDirs := rfl
@[simp] theorem resetRegs_funcs (s : State) (lo n : Nat) : (resetRegs s lo n).funcs = s.funcs := rfl
@[simp] theorem resetRegs_jobs (s : State) (lo n : Nat) : (resetRegs s lo n).jobs = s.jobs := rfl
@[simp] theorem resetRegs_parts (s : State) (lo n : Nat) : (resetRegs s lo n).parts = s.parts := rfl
@[simp] theorem resetRegs_pairs (s : State) (lo n : Nat) : (resetRegs s lo n).pairs = s.pairs := rfl
@[simp] theorem resetRegs_ports (s : State) (lo n : Nat) : (resetRegs s lo n).ports = s.ports := rfl
@[simp] theorem resetRegs_clrOps (s : State) (lo n : Nat) : (resetRegs s lo n).clrOps = s.clrOps := rfl
@[simp] theorem resetRegs_colls (s : State) (lo n : Nat) : (resetRegs s lo n).colls = s.colls := rfl
@[simp] theorem resetRegs_staging (s : State) (lo n : Nat) : (resetRegs s lo n).staging = s.staging := rfl
@[simp] theorem resetRegs_clrTag (s : State) (lo n : Nat) : (resetRegs s lo n).clrTag = s.clrTag := rfl
@[simp] theorem resetRegs_clrLast (s : State) (lo n : Nat) : (resetRegs s lo n).clrLast = s.clrLast := rfl
@[simp] theorem resetRegs_ledger (s : State) (lo n : Nat) : (resetRegs s lo n).ledger = s.ledger := rfl
@[simp] theorem resetRegs_tally (s : State) (lo n : Nat) : (resetRegs s lo n).tally = s.tally := rfl
@[simp] theorem resetRegs_flash (s : State) (lo n : Nat) : (resetRegs s lo n).flash = s.flash := rfl
@[simp] theorem resetRegs_comp (s : State) (lo n : Nat) : (resetRegs s lo n).comp = s.comp := rfl
@[simp] theorem resetRegs_hm (s : State) (lo n : Nat) : (resetRegs s lo n).hm = s.hm := rfl
@[simp] theorem resetRegs_pwr (s : State) (lo n : Nat) : (resetRegs s lo n).pwr = s.pwr := rfl
@[simp] theorem resetRegs_start (s : State) (lo n : Nat) : (resetRegs s lo n).start = s.start := rfl
@[simp] theorem resetRegs_dbg (s : State) (lo n : Nat) : (resetRegs s lo n).dbg = s.dbg := rfl
@[simp] theorem resetRegs_closing (s : State) (lo n : Nat) : (resetRegs s lo n).closing = s.closing := rfl
@[simp] theorem resetRegs_seqOps (s : State) (lo n : Nat) : (resetRegs s lo n).seqOps = s.seqOps := rfl
@[simp] theorem wrByte_pending (s : State) (a : Nat) (b : Byte) : (wrByte s a b).pending = s.pending := rfl
@[simp] theorem wrByte_out (s : State) (a : Nat) (b : Byte) : (wrByte s a b).out = s.out := rfl
@[simp] theorem wrByte_freeN (s : State) (a : Nat) (b : Byte) : (wrByte s a b).freeN = s.freeN := rfl
@[simp] theorem wrByte_hallmark (s : State) (a : Nat) (b : Byte) : (wrByte s a b).hallmark = s.hallmark := rfl
@[simp] theorem wrByte_chk (s : State) (a : Nat) (b : Byte) : (wrByte s a b).chk = s.chk := rfl
@[simp] theorem wrByte_regs (s : State) (a : Nat) (b : Byte) : (wrByte s a b).regs = s.regs := rfl
@[simp] theorem wrByte_cores (s : State) (a : Nat) (b : Byte) : (wrByte s a b).cores = s.cores := rfl
@[simp] theorem wrByte_clusters (s : State) (a : Nat) (b : Byte) : (wrByte s a b).clusters = s.clusters := rfl
@[simp] theorem wrByte_veins (s : State) (a : Nat) (b : Byte) : (wrByte s a b).veins = s.veins := rfl
@[simp] theorem wrByte_barriers (s : State) (a : Nat) (b : Byte) : (wrByte s a b).barriers = s.barriers := rfl
@[simp] theorem wrByte_signals (s : State) (a : Nat) (b : Byte) : (wrByte s a b).signals = s.signals := rfl
@[simp] theorem wrByte_remints (s : State) (a : Nat) (b : Byte) : (wrByte s a b).remints = s.remints := rfl
@[simp] theorem wrByte_remNext (s : State) (a : Nat) (b : Byte) : (wrByte s a b).remNext = s.remNext := rfl
@[simp] theorem wrByte_remMoved (s : State) (a : Nat) (b : Byte) : (wrByte s a b).remMoved = s.remMoved := rfl
@[simp] theorem wrByte_ent (s : State) (a : Nat) (b : Byte) : (wrByte s a b).ent = s.ent := rfl
@[simp] theorem wrByte_keys (s : State) (a : Nat) (b : Byte) : (wrByte s a b).keys = s.keys := rfl
@[simp] theorem wrByte_far (s : State) (a : Nat) (b : Byte) : (wrByte s a b).far = s.far := rfl
@[simp] theorem wrByte_seams (s : State) (a : Nat) (b : Byte) : (wrByte s a b).seams = s.seams := rfl
@[simp] theorem wrByte_seamDirs (s : State) (a : Nat) (b : Byte) : (wrByte s a b).seamDirs = s.seamDirs := rfl
@[simp] theorem wrByte_funcs (s : State) (a : Nat) (b : Byte) : (wrByte s a b).funcs = s.funcs := rfl
@[simp] theorem wrByte_jobs (s : State) (a : Nat) (b : Byte) : (wrByte s a b).jobs = s.jobs := rfl
@[simp] theorem wrByte_parts (s : State) (a : Nat) (b : Byte) : (wrByte s a b).parts = s.parts := rfl
@[simp] theorem wrByte_pairs (s : State) (a : Nat) (b : Byte) : (wrByte s a b).pairs = s.pairs := rfl
@[simp] theorem wrByte_ports (s : State) (a : Nat) (b : Byte) : (wrByte s a b).ports = s.ports := rfl
@[simp] theorem wrByte_clrOps (s : State) (a : Nat) (b : Byte) : (wrByte s a b).clrOps = s.clrOps := rfl
@[simp] theorem wrByte_colls (s : State) (a : Nat) (b : Byte) : (wrByte s a b).colls = s.colls := rfl
@[simp] theorem wrByte_staging (s : State) (a : Nat) (b : Byte) : (wrByte s a b).staging = s.staging := rfl
@[simp] theorem wrByte_clrTag (s : State) (a : Nat) (b : Byte) : (wrByte s a b).clrTag = s.clrTag := rfl
@[simp] theorem wrByte_clrLast (s : State) (a : Nat) (b : Byte) : (wrByte s a b).clrLast = s.clrLast := rfl
@[simp] theorem wrByte_ledger (s : State) (a : Nat) (b : Byte) : (wrByte s a b).ledger = s.ledger := rfl
@[simp] theorem wrByte_tally (s : State) (a : Nat) (b : Byte) : (wrByte s a b).tally = s.tally := rfl
@[simp] theorem wrByte_flash (s : State) (a : Nat) (b : Byte) : (wrByte s a b).flash = s.flash := rfl
@[simp] theorem wrByte_comp (s : State) (a : Nat) (b : Byte) : (wrByte s a b).comp = s.comp := rfl
@[simp] theorem wrByte_hm (s : State) (a : Nat) (b : Byte) : (wrByte s a b).hm = s.hm := rfl
@[simp] theorem wrByte_pwr (s : State) (a : Nat) (b : Byte) : (wrByte s a b).pwr = s.pwr := rfl
@[simp] theorem wrByte_start (s : State) (a : Nat) (b : Byte) : (wrByte s a b).start = s.start := rfl
@[simp] theorem wrByte_dbg (s : State) (a : Nat) (b : Byte) : (wrByte s a b).dbg = s.dbg := rfl
@[simp] theorem wrByte_closing (s : State) (a : Nat) (b : Byte) : (wrByte s a b).closing = s.closing := rfl
@[simp] theorem wrByte_seqOps (s : State) (a : Nat) (b : Byte) : (wrByte s a b).seqOps = s.seqOps := rfl
@[simp] theorem wrBytes_pending (s : State) (a : Nat) (bs : List Byte) : (wrBytes s a bs).pending = s.pending := rfl
@[simp] theorem wrBytes_out (s : State) (a : Nat) (bs : List Byte) : (wrBytes s a bs).out = s.out := rfl
@[simp] theorem wrBytes_freeN (s : State) (a : Nat) (bs : List Byte) : (wrBytes s a bs).freeN = s.freeN := rfl
@[simp] theorem wrBytes_hallmark (s : State) (a : Nat) (bs : List Byte) : (wrBytes s a bs).hallmark = s.hallmark := rfl
@[simp] theorem wrBytes_chk (s : State) (a : Nat) (bs : List Byte) : (wrBytes s a bs).chk = s.chk := rfl
@[simp] theorem wrBytes_regs (s : State) (a : Nat) (bs : List Byte) : (wrBytes s a bs).regs = s.regs := rfl
@[simp] theorem wrBytes_cores (s : State) (a : Nat) (bs : List Byte) : (wrBytes s a bs).cores = s.cores := rfl
@[simp] theorem wrBytes_clusters (s : State) (a : Nat) (bs : List Byte) : (wrBytes s a bs).clusters = s.clusters := rfl
@[simp] theorem wrBytes_veins (s : State) (a : Nat) (bs : List Byte) : (wrBytes s a bs).veins = s.veins := rfl
@[simp] theorem wrBytes_barriers (s : State) (a : Nat) (bs : List Byte) : (wrBytes s a bs).barriers = s.barriers := rfl
@[simp] theorem wrBytes_signals (s : State) (a : Nat) (bs : List Byte) : (wrBytes s a bs).signals = s.signals := rfl
@[simp] theorem wrBytes_remints (s : State) (a : Nat) (bs : List Byte) : (wrBytes s a bs).remints = s.remints := rfl
@[simp] theorem wrBytes_remNext (s : State) (a : Nat) (bs : List Byte) : (wrBytes s a bs).remNext = s.remNext := rfl
@[simp] theorem wrBytes_remMoved (s : State) (a : Nat) (bs : List Byte) : (wrBytes s a bs).remMoved = s.remMoved := rfl
@[simp] theorem wrBytes_ent (s : State) (a : Nat) (bs : List Byte) : (wrBytes s a bs).ent = s.ent := rfl
@[simp] theorem wrBytes_keys (s : State) (a : Nat) (bs : List Byte) : (wrBytes s a bs).keys = s.keys := rfl
@[simp] theorem wrBytes_far (s : State) (a : Nat) (bs : List Byte) : (wrBytes s a bs).far = s.far := rfl
@[simp] theorem wrBytes_seams (s : State) (a : Nat) (bs : List Byte) : (wrBytes s a bs).seams = s.seams := rfl
@[simp] theorem wrBytes_seamDirs (s : State) (a : Nat) (bs : List Byte) : (wrBytes s a bs).seamDirs = s.seamDirs := rfl
@[simp] theorem wrBytes_funcs (s : State) (a : Nat) (bs : List Byte) : (wrBytes s a bs).funcs = s.funcs := rfl
@[simp] theorem wrBytes_jobs (s : State) (a : Nat) (bs : List Byte) : (wrBytes s a bs).jobs = s.jobs := rfl
@[simp] theorem wrBytes_parts (s : State) (a : Nat) (bs : List Byte) : (wrBytes s a bs).parts = s.parts := rfl
@[simp] theorem wrBytes_pairs (s : State) (a : Nat) (bs : List Byte) : (wrBytes s a bs).pairs = s.pairs := rfl
@[simp] theorem wrBytes_ports (s : State) (a : Nat) (bs : List Byte) : (wrBytes s a bs).ports = s.ports := rfl
@[simp] theorem wrBytes_clrOps (s : State) (a : Nat) (bs : List Byte) : (wrBytes s a bs).clrOps = s.clrOps := rfl
@[simp] theorem wrBytes_colls (s : State) (a : Nat) (bs : List Byte) : (wrBytes s a bs).colls = s.colls := rfl
@[simp] theorem wrBytes_staging (s : State) (a : Nat) (bs : List Byte) : (wrBytes s a bs).staging = s.staging := rfl
@[simp] theorem wrBytes_clrTag (s : State) (a : Nat) (bs : List Byte) : (wrBytes s a bs).clrTag = s.clrTag := rfl
@[simp] theorem wrBytes_clrLast (s : State) (a : Nat) (bs : List Byte) : (wrBytes s a bs).clrLast = s.clrLast := rfl
@[simp] theorem wrBytes_ledger (s : State) (a : Nat) (bs : List Byte) : (wrBytes s a bs).ledger = s.ledger := rfl
@[simp] theorem wrBytes_tally (s : State) (a : Nat) (bs : List Byte) : (wrBytes s a bs).tally = s.tally := rfl
@[simp] theorem wrBytes_flash (s : State) (a : Nat) (bs : List Byte) : (wrBytes s a bs).flash = s.flash := rfl
@[simp] theorem wrBytes_comp (s : State) (a : Nat) (bs : List Byte) : (wrBytes s a bs).comp = s.comp := rfl
@[simp] theorem wrBytes_hm (s : State) (a : Nat) (bs : List Byte) : (wrBytes s a bs).hm = s.hm := rfl
@[simp] theorem wrBytes_pwr (s : State) (a : Nat) (bs : List Byte) : (wrBytes s a bs).pwr = s.pwr := rfl
@[simp] theorem wrBytes_start (s : State) (a : Nat) (bs : List Byte) : (wrBytes s a bs).start = s.start := rfl
@[simp] theorem wrBytes_dbg (s : State) (a : Nat) (bs : List Byte) : (wrBytes s a bs).dbg = s.dbg := rfl
@[simp] theorem wrBytes_closing (s : State) (a : Nat) (bs : List Byte) : (wrBytes s a bs).closing = s.closing := rfl
@[simp] theorem wrBytes_seqOps (s : State) (a : Nat) (bs : List Byte) : (wrBytes s a bs).seqOps = s.seqOps := rfl
@[simp] theorem zeroBytes_pending (s : State) (a n : Nat) : (zeroBytes s a n).pending = s.pending := rfl
@[simp] theorem zeroBytes_out (s : State) (a n : Nat) : (zeroBytes s a n).out = s.out := rfl
@[simp] theorem zeroBytes_freeN (s : State) (a n : Nat) : (zeroBytes s a n).freeN = s.freeN := rfl
@[simp] theorem zeroBytes_hallmark (s : State) (a n : Nat) : (zeroBytes s a n).hallmark = s.hallmark := rfl
@[simp] theorem zeroBytes_chk (s : State) (a n : Nat) : (zeroBytes s a n).chk = s.chk := rfl
@[simp] theorem zeroBytes_regs (s : State) (a n : Nat) : (zeroBytes s a n).regs = s.regs := rfl
@[simp] theorem zeroBytes_cores (s : State) (a n : Nat) : (zeroBytes s a n).cores = s.cores := rfl
@[simp] theorem zeroBytes_clusters (s : State) (a n : Nat) : (zeroBytes s a n).clusters = s.clusters := rfl
@[simp] theorem zeroBytes_veins (s : State) (a n : Nat) : (zeroBytes s a n).veins = s.veins := rfl
@[simp] theorem zeroBytes_barriers (s : State) (a n : Nat) : (zeroBytes s a n).barriers = s.barriers := rfl
@[simp] theorem zeroBytes_signals (s : State) (a n : Nat) : (zeroBytes s a n).signals = s.signals := rfl
@[simp] theorem zeroBytes_remints (s : State) (a n : Nat) : (zeroBytes s a n).remints = s.remints := rfl
@[simp] theorem zeroBytes_remNext (s : State) (a n : Nat) : (zeroBytes s a n).remNext = s.remNext := rfl
@[simp] theorem zeroBytes_remMoved (s : State) (a n : Nat) : (zeroBytes s a n).remMoved = s.remMoved := rfl
@[simp] theorem zeroBytes_ent (s : State) (a n : Nat) : (zeroBytes s a n).ent = s.ent := rfl
@[simp] theorem zeroBytes_keys (s : State) (a n : Nat) : (zeroBytes s a n).keys = s.keys := rfl
@[simp] theorem zeroBytes_far (s : State) (a n : Nat) : (zeroBytes s a n).far = s.far := rfl
@[simp] theorem zeroBytes_seams (s : State) (a n : Nat) : (zeroBytes s a n).seams = s.seams := rfl
@[simp] theorem zeroBytes_seamDirs (s : State) (a n : Nat) : (zeroBytes s a n).seamDirs = s.seamDirs := rfl
@[simp] theorem zeroBytes_funcs (s : State) (a n : Nat) : (zeroBytes s a n).funcs = s.funcs := rfl
@[simp] theorem zeroBytes_jobs (s : State) (a n : Nat) : (zeroBytes s a n).jobs = s.jobs := rfl
@[simp] theorem zeroBytes_parts (s : State) (a n : Nat) : (zeroBytes s a n).parts = s.parts := rfl
@[simp] theorem zeroBytes_pairs (s : State) (a n : Nat) : (zeroBytes s a n).pairs = s.pairs := rfl
@[simp] theorem zeroBytes_ports (s : State) (a n : Nat) : (zeroBytes s a n).ports = s.ports := rfl
@[simp] theorem zeroBytes_clrOps (s : State) (a n : Nat) : (zeroBytes s a n).clrOps = s.clrOps := rfl
@[simp] theorem zeroBytes_colls (s : State) (a n : Nat) : (zeroBytes s a n).colls = s.colls := rfl
@[simp] theorem zeroBytes_staging (s : State) (a n : Nat) : (zeroBytes s a n).staging = s.staging := rfl
@[simp] theorem zeroBytes_clrTag (s : State) (a n : Nat) : (zeroBytes s a n).clrTag = s.clrTag := rfl
@[simp] theorem zeroBytes_clrLast (s : State) (a n : Nat) : (zeroBytes s a n).clrLast = s.clrLast := rfl
@[simp] theorem zeroBytes_ledger (s : State) (a n : Nat) : (zeroBytes s a n).ledger = s.ledger := rfl
@[simp] theorem zeroBytes_tally (s : State) (a n : Nat) : (zeroBytes s a n).tally = s.tally := rfl
@[simp] theorem zeroBytes_flash (s : State) (a n : Nat) : (zeroBytes s a n).flash = s.flash := rfl
@[simp] theorem zeroBytes_comp (s : State) (a n : Nat) : (zeroBytes s a n).comp = s.comp := rfl
@[simp] theorem zeroBytes_hm (s : State) (a n : Nat) : (zeroBytes s a n).hm = s.hm := rfl
@[simp] theorem zeroBytes_pwr (s : State) (a n : Nat) : (zeroBytes s a n).pwr = s.pwr := rfl
@[simp] theorem zeroBytes_start (s : State) (a n : Nat) : (zeroBytes s a n).start = s.start := rfl
@[simp] theorem zeroBytes_dbg (s : State) (a n : Nat) : (zeroBytes s a n).dbg = s.dbg := rfl
@[simp] theorem zeroBytes_closing (s : State) (a n : Nat) : (zeroBytes s a n).closing = s.closing := rfl
@[simp] theorem zeroBytes_seqOps (s : State) (a n : Nat) : (zeroBytes s a n).seqOps = s.seqOps := rfl
@[simp] theorem advanceTo_pending (s : State) (t : Nat) : (advanceTo s t).pending = s.pending := rfl
@[simp] theorem advanceTo_out (s : State) (t : Nat) : (advanceTo s t).out = s.out := rfl
@[simp] theorem advanceTo_freeN (s : State) (t : Nat) : (advanceTo s t).freeN = s.freeN := rfl
@[simp] theorem advanceTo_mem (s : State) (t : Nat) : (advanceTo s t).mem = s.mem := rfl
@[simp] theorem advanceTo_chk (s : State) (t : Nat) : (advanceTo s t).chk = s.chk := rfl
@[simp] theorem advanceTo_regs (s : State) (t : Nat) : (advanceTo s t).regs = s.regs := rfl
@[simp] theorem advanceTo_cores (s : State) (t : Nat) : (advanceTo s t).cores = s.cores := rfl
@[simp] theorem advanceTo_clusters (s : State) (t : Nat) : (advanceTo s t).clusters = s.clusters := rfl
@[simp] theorem advanceTo_veins (s : State) (t : Nat) : (advanceTo s t).veins = s.veins := rfl
@[simp] theorem advanceTo_barriers (s : State) (t : Nat) : (advanceTo s t).barriers = s.barriers := rfl
@[simp] theorem advanceTo_signals (s : State) (t : Nat) : (advanceTo s t).signals = s.signals := rfl
@[simp] theorem advanceTo_remints (s : State) (t : Nat) : (advanceTo s t).remints = s.remints := rfl
@[simp] theorem advanceTo_remNext (s : State) (t : Nat) : (advanceTo s t).remNext = s.remNext := rfl
@[simp] theorem advanceTo_remMoved (s : State) (t : Nat) : (advanceTo s t).remMoved = s.remMoved := rfl
@[simp] theorem advanceTo_ent (s : State) (t : Nat) : (advanceTo s t).ent = s.ent := rfl
@[simp] theorem advanceTo_keys (s : State) (t : Nat) : (advanceTo s t).keys = s.keys := rfl
@[simp] theorem advanceTo_far (s : State) (t : Nat) : (advanceTo s t).far = s.far := rfl
@[simp] theorem advanceTo_seams (s : State) (t : Nat) : (advanceTo s t).seams = s.seams := rfl
@[simp] theorem advanceTo_seamDirs (s : State) (t : Nat) : (advanceTo s t).seamDirs = s.seamDirs := rfl
@[simp] theorem advanceTo_funcs (s : State) (t : Nat) : (advanceTo s t).funcs = s.funcs := rfl
@[simp] theorem advanceTo_jobs (s : State) (t : Nat) : (advanceTo s t).jobs = s.jobs := rfl
@[simp] theorem advanceTo_parts (s : State) (t : Nat) : (advanceTo s t).parts = s.parts := rfl
@[simp] theorem advanceTo_pairs (s : State) (t : Nat) : (advanceTo s t).pairs = s.pairs := rfl
@[simp] theorem advanceTo_ports (s : State) (t : Nat) : (advanceTo s t).ports = s.ports := rfl
@[simp] theorem advanceTo_clrOps (s : State) (t : Nat) : (advanceTo s t).clrOps = s.clrOps := rfl
@[simp] theorem advanceTo_colls (s : State) (t : Nat) : (advanceTo s t).colls = s.colls := rfl
@[simp] theorem advanceTo_staging (s : State) (t : Nat) : (advanceTo s t).staging = s.staging := rfl
@[simp] theorem advanceTo_clrTag (s : State) (t : Nat) : (advanceTo s t).clrTag = s.clrTag := rfl
@[simp] theorem advanceTo_clrLast (s : State) (t : Nat) : (advanceTo s t).clrLast = s.clrLast := rfl
@[simp] theorem advanceTo_ledger (s : State) (t : Nat) : (advanceTo s t).ledger = s.ledger := rfl
@[simp] theorem advanceTo_tally (s : State) (t : Nat) : (advanceTo s t).tally = s.tally := rfl
@[simp] theorem advanceTo_flash (s : State) (t : Nat) : (advanceTo s t).flash = s.flash := rfl
@[simp] theorem advanceTo_comp (s : State) (t : Nat) : (advanceTo s t).comp = s.comp := rfl
@[simp] theorem advanceTo_hm (s : State) (t : Nat) : (advanceTo s t).hm = s.hm := rfl
@[simp] theorem advanceTo_pwr (s : State) (t : Nat) : (advanceTo s t).pwr = s.pwr := rfl
@[simp] theorem advanceTo_start (s : State) (t : Nat) : (advanceTo s t).start = s.start := rfl
@[simp] theorem advanceTo_dbg (s : State) (t : Nat) : (advanceTo s t).dbg = s.dbg := rfl
@[simp] theorem advanceTo_closing (s : State) (t : Nat) : (advanceTo s t).closing = s.closing := rfl
@[simp] theorem advanceTo_seqOps (s : State) (t : Nat) : (advanceTo s t).seqOps = s.seqOps := rfl
@[simp] theorem emit_pending (s : State) (o : Output) : (emit s o).pending = s.pending := rfl
@[simp] theorem emit_freeN (s : State) (o : Output) : (emit s o).freeN = s.freeN := rfl
@[simp] theorem emit_hallmark (s : State) (o : Output) : (emit s o).hallmark = s.hallmark := rfl
@[simp] theorem emit_mem (s : State) (o : Output) : (emit s o).mem = s.mem := rfl
@[simp] theorem emit_chk (s : State) (o : Output) : (emit s o).chk = s.chk := rfl
@[simp] theorem emit_regs (s : State) (o : Output) : (emit s o).regs = s.regs := rfl
@[simp] theorem emit_cores (s : State) (o : Output) : (emit s o).cores = s.cores := rfl
@[simp] theorem emit_clusters (s : State) (o : Output) : (emit s o).clusters = s.clusters := rfl
@[simp] theorem emit_veins (s : State) (o : Output) : (emit s o).veins = s.veins := rfl
@[simp] theorem emit_barriers (s : State) (o : Output) : (emit s o).barriers = s.barriers := rfl
@[simp] theorem emit_signals (s : State) (o : Output) : (emit s o).signals = s.signals := rfl
@[simp] theorem emit_remints (s : State) (o : Output) : (emit s o).remints = s.remints := rfl
@[simp] theorem emit_remNext (s : State) (o : Output) : (emit s o).remNext = s.remNext := rfl
@[simp] theorem emit_remMoved (s : State) (o : Output) : (emit s o).remMoved = s.remMoved := rfl
@[simp] theorem emit_ent (s : State) (o : Output) : (emit s o).ent = s.ent := rfl
@[simp] theorem emit_keys (s : State) (o : Output) : (emit s o).keys = s.keys := rfl
@[simp] theorem emit_far (s : State) (o : Output) : (emit s o).far = s.far := rfl
@[simp] theorem emit_seams (s : State) (o : Output) : (emit s o).seams = s.seams := rfl
@[simp] theorem emit_seamDirs (s : State) (o : Output) : (emit s o).seamDirs = s.seamDirs := rfl
@[simp] theorem emit_funcs (s : State) (o : Output) : (emit s o).funcs = s.funcs := rfl
@[simp] theorem emit_jobs (s : State) (o : Output) : (emit s o).jobs = s.jobs := rfl
@[simp] theorem emit_parts (s : State) (o : Output) : (emit s o).parts = s.parts := rfl
@[simp] theorem emit_pairs (s : State) (o : Output) : (emit s o).pairs = s.pairs := rfl
@[simp] theorem emit_ports (s : State) (o : Output) : (emit s o).ports = s.ports := rfl
@[simp] theorem emit_clrOps (s : State) (o : Output) : (emit s o).clrOps = s.clrOps := rfl
@[simp] theorem emit_colls (s : State) (o : Output) : (emit s o).colls = s.colls := rfl
@[simp] theorem emit_staging (s : State) (o : Output) : (emit s o).staging = s.staging := rfl
@[simp] theorem emit_clrTag (s : State) (o : Output) : (emit s o).clrTag = s.clrTag := rfl
@[simp] theorem emit_clrLast (s : State) (o : Output) : (emit s o).clrLast = s.clrLast := rfl
@[simp] theorem emit_ledger (s : State) (o : Output) : (emit s o).ledger = s.ledger := rfl
@[simp] theorem emit_tally (s : State) (o : Output) : (emit s o).tally = s.tally := rfl
@[simp] theorem emit_flash (s : State) (o : Output) : (emit s o).flash = s.flash := rfl
@[simp] theorem emit_comp (s : State) (o : Output) : (emit s o).comp = s.comp := rfl
@[simp] theorem emit_hm (s : State) (o : Output) : (emit s o).hm = s.hm := rfl
@[simp] theorem emit_pwr (s : State) (o : Output) : (emit s o).pwr = s.pwr := rfl
@[simp] theorem emit_start (s : State) (o : Output) : (emit s o).start = s.start := rfl
@[simp] theorem emit_dbg (s : State) (o : Output) : (emit s o).dbg = s.dbg := rfl
@[simp] theorem emit_closing (s : State) (o : Output) : (emit s o).closing = s.closing := rfl
@[simp] theorem emit_seqOps (s : State) (o : Output) : (emit s o).seqOps = s.seqOps := rfl
@[simp] theorem takeFree_pending (s : State) : (takeFree s).pending = s.pending := rfl
@[simp] theorem takeFree_out (s : State) : (takeFree s).out = s.out := rfl
@[simp] theorem takeFree_hallmark (s : State) : (takeFree s).hallmark = s.hallmark := rfl
@[simp] theorem takeFree_mem (s : State) : (takeFree s).mem = s.mem := rfl
@[simp] theorem takeFree_chk (s : State) : (takeFree s).chk = s.chk := rfl
@[simp] theorem takeFree_regs (s : State) : (takeFree s).regs = s.regs := rfl
@[simp] theorem takeFree_cores (s : State) : (takeFree s).cores = s.cores := rfl
@[simp] theorem takeFree_clusters (s : State) : (takeFree s).clusters = s.clusters := rfl
@[simp] theorem takeFree_veins (s : State) : (takeFree s).veins = s.veins := rfl
@[simp] theorem takeFree_barriers (s : State) : (takeFree s).barriers = s.barriers := rfl
@[simp] theorem takeFree_signals (s : State) : (takeFree s).signals = s.signals := rfl
@[simp] theorem takeFree_remints (s : State) : (takeFree s).remints = s.remints := rfl
@[simp] theorem takeFree_remNext (s : State) : (takeFree s).remNext = s.remNext := rfl
@[simp] theorem takeFree_remMoved (s : State) : (takeFree s).remMoved = s.remMoved := rfl
@[simp] theorem takeFree_ent (s : State) : (takeFree s).ent = s.ent := rfl
@[simp] theorem takeFree_keys (s : State) : (takeFree s).keys = s.keys := rfl
@[simp] theorem takeFree_far (s : State) : (takeFree s).far = s.far := rfl
@[simp] theorem takeFree_seams (s : State) : (takeFree s).seams = s.seams := rfl
@[simp] theorem takeFree_seamDirs (s : State) : (takeFree s).seamDirs = s.seamDirs := rfl
@[simp] theorem takeFree_funcs (s : State) : (takeFree s).funcs = s.funcs := rfl
@[simp] theorem takeFree_jobs (s : State) : (takeFree s).jobs = s.jobs := rfl
@[simp] theorem takeFree_parts (s : State) : (takeFree s).parts = s.parts := rfl
@[simp] theorem takeFree_pairs (s : State) : (takeFree s).pairs = s.pairs := rfl
@[simp] theorem takeFree_ports (s : State) : (takeFree s).ports = s.ports := rfl
@[simp] theorem takeFree_clrOps (s : State) : (takeFree s).clrOps = s.clrOps := rfl
@[simp] theorem takeFree_colls (s : State) : (takeFree s).colls = s.colls := rfl
@[simp] theorem takeFree_staging (s : State) : (takeFree s).staging = s.staging := rfl
@[simp] theorem takeFree_clrTag (s : State) : (takeFree s).clrTag = s.clrTag := rfl
@[simp] theorem takeFree_clrLast (s : State) : (takeFree s).clrLast = s.clrLast := rfl
@[simp] theorem takeFree_ledger (s : State) : (takeFree s).ledger = s.ledger := rfl
@[simp] theorem takeFree_tally (s : State) : (takeFree s).tally = s.tally := rfl
@[simp] theorem takeFree_flash (s : State) : (takeFree s).flash = s.flash := rfl
@[simp] theorem takeFree_comp (s : State) : (takeFree s).comp = s.comp := rfl
@[simp] theorem takeFree_hm (s : State) : (takeFree s).hm = s.hm := rfl
@[simp] theorem takeFree_pwr (s : State) : (takeFree s).pwr = s.pwr := rfl
@[simp] theorem takeFree_start (s : State) : (takeFree s).start = s.start := rfl
@[simp] theorem takeFree_dbg (s : State) : (takeFree s).dbg = s.dbg := rfl
@[simp] theorem takeFree_closing (s : State) : (takeFree s).closing = s.closing := rfl
@[simp] theorem takeFree_seqOps (s : State) : (takeFree s).seqOps = s.seqOps := rfl
@[simp] theorem modCore_pending (s : State) (c : Nat) (f : CoreSt → CoreSt) : (modCore s c f).pending = s.pending := rfl
@[simp] theorem modCore_out (s : State) (c : Nat) (f : CoreSt → CoreSt) : (modCore s c f).out = s.out := rfl
@[simp] theorem modCore_freeN (s : State) (c : Nat) (f : CoreSt → CoreSt) : (modCore s c f).freeN = s.freeN := rfl
@[simp] theorem modCore_hallmark (s : State) (c : Nat) (f : CoreSt → CoreSt) : (modCore s c f).hallmark = s.hallmark := rfl
@[simp] theorem modCore_mem (s : State) (c : Nat) (f : CoreSt → CoreSt) : (modCore s c f).mem = s.mem := rfl
@[simp] theorem modCore_chk (s : State) (c : Nat) (f : CoreSt → CoreSt) : (modCore s c f).chk = s.chk := rfl
@[simp] theorem modCore_regs (s : State) (c : Nat) (f : CoreSt → CoreSt) : (modCore s c f).regs = s.regs := rfl
@[simp] theorem modCore_clusters (s : State) (c : Nat) (f : CoreSt → CoreSt) : (modCore s c f).clusters = s.clusters := rfl
@[simp] theorem modCore_veins (s : State) (c : Nat) (f : CoreSt → CoreSt) : (modCore s c f).veins = s.veins := rfl
@[simp] theorem modCore_barriers (s : State) (c : Nat) (f : CoreSt → CoreSt) : (modCore s c f).barriers = s.barriers := rfl
@[simp] theorem modCore_signals (s : State) (c : Nat) (f : CoreSt → CoreSt) : (modCore s c f).signals = s.signals := rfl
@[simp] theorem modCore_remints (s : State) (c : Nat) (f : CoreSt → CoreSt) : (modCore s c f).remints = s.remints := rfl
@[simp] theorem modCore_remNext (s : State) (c : Nat) (f : CoreSt → CoreSt) : (modCore s c f).remNext = s.remNext := rfl
@[simp] theorem modCore_remMoved (s : State) (c : Nat) (f : CoreSt → CoreSt) : (modCore s c f).remMoved = s.remMoved := rfl
@[simp] theorem modCore_ent (s : State) (c : Nat) (f : CoreSt → CoreSt) : (modCore s c f).ent = s.ent := rfl
@[simp] theorem modCore_keys (s : State) (c : Nat) (f : CoreSt → CoreSt) : (modCore s c f).keys = s.keys := rfl
@[simp] theorem modCore_far (s : State) (c : Nat) (f : CoreSt → CoreSt) : (modCore s c f).far = s.far := rfl
@[simp] theorem modCore_seams (s : State) (c : Nat) (f : CoreSt → CoreSt) : (modCore s c f).seams = s.seams := rfl
@[simp] theorem modCore_seamDirs (s : State) (c : Nat) (f : CoreSt → CoreSt) : (modCore s c f).seamDirs = s.seamDirs := rfl
@[simp] theorem modCore_funcs (s : State) (c : Nat) (f : CoreSt → CoreSt) : (modCore s c f).funcs = s.funcs := rfl
@[simp] theorem modCore_jobs (s : State) (c : Nat) (f : CoreSt → CoreSt) : (modCore s c f).jobs = s.jobs := rfl
@[simp] theorem modCore_parts (s : State) (c : Nat) (f : CoreSt → CoreSt) : (modCore s c f).parts = s.parts := rfl
@[simp] theorem modCore_pairs (s : State) (c : Nat) (f : CoreSt → CoreSt) : (modCore s c f).pairs = s.pairs := rfl
@[simp] theorem modCore_ports (s : State) (c : Nat) (f : CoreSt → CoreSt) : (modCore s c f).ports = s.ports := rfl
@[simp] theorem modCore_clrOps (s : State) (c : Nat) (f : CoreSt → CoreSt) : (modCore s c f).clrOps = s.clrOps := rfl
@[simp] theorem modCore_colls (s : State) (c : Nat) (f : CoreSt → CoreSt) : (modCore s c f).colls = s.colls := rfl
@[simp] theorem modCore_staging (s : State) (c : Nat) (f : CoreSt → CoreSt) : (modCore s c f).staging = s.staging := rfl
@[simp] theorem modCore_clrTag (s : State) (c : Nat) (f : CoreSt → CoreSt) : (modCore s c f).clrTag = s.clrTag := rfl
@[simp] theorem modCore_clrLast (s : State) (c : Nat) (f : CoreSt → CoreSt) : (modCore s c f).clrLast = s.clrLast := rfl
@[simp] theorem modCore_ledger (s : State) (c : Nat) (f : CoreSt → CoreSt) : (modCore s c f).ledger = s.ledger := rfl
@[simp] theorem modCore_tally (s : State) (c : Nat) (f : CoreSt → CoreSt) : (modCore s c f).tally = s.tally := rfl
@[simp] theorem modCore_flash (s : State) (c : Nat) (f : CoreSt → CoreSt) : (modCore s c f).flash = s.flash := rfl
@[simp] theorem modCore_comp (s : State) (c : Nat) (f : CoreSt → CoreSt) : (modCore s c f).comp = s.comp := rfl
@[simp] theorem modCore_hm (s : State) (c : Nat) (f : CoreSt → CoreSt) : (modCore s c f).hm = s.hm := rfl
@[simp] theorem modCore_pwr (s : State) (c : Nat) (f : CoreSt → CoreSt) : (modCore s c f).pwr = s.pwr := rfl
@[simp] theorem modCore_start (s : State) (c : Nat) (f : CoreSt → CoreSt) : (modCore s c f).start = s.start := rfl
@[simp] theorem modCore_dbg (s : State) (c : Nat) (f : CoreSt → CoreSt) : (modCore s c f).dbg = s.dbg := rfl
@[simp] theorem modCore_closing (s : State) (c : Nat) (f : CoreSt → CoreSt) : (modCore s c f).closing = s.closing := rfl
@[simp] theorem modCore_seqOps (s : State) (c : Nat) (f : CoreSt → CoreSt) : (modCore s c f).seqOps = s.seqOps := rfl
@[simp] theorem modCl_pending (s : State) (k : Nat) (f : ClusterSt → ClusterSt) : (modCl s k f).pending = s.pending := rfl
@[simp] theorem modCl_out (s : State) (k : Nat) (f : ClusterSt → ClusterSt) : (modCl s k f).out = s.out := rfl
@[simp] theorem modCl_freeN (s : State) (k : Nat) (f : ClusterSt → ClusterSt) : (modCl s k f).freeN = s.freeN := rfl
@[simp] theorem modCl_hallmark (s : State) (k : Nat) (f : ClusterSt → ClusterSt) : (modCl s k f).hallmark = s.hallmark := rfl
@[simp] theorem modCl_mem (s : State) (k : Nat) (f : ClusterSt → ClusterSt) : (modCl s k f).mem = s.mem := rfl
@[simp] theorem modCl_chk (s : State) (k : Nat) (f : ClusterSt → ClusterSt) : (modCl s k f).chk = s.chk := rfl
@[simp] theorem modCl_regs (s : State) (k : Nat) (f : ClusterSt → ClusterSt) : (modCl s k f).regs = s.regs := rfl
@[simp] theorem modCl_cores (s : State) (k : Nat) (f : ClusterSt → ClusterSt) : (modCl s k f).cores = s.cores := rfl
@[simp] theorem modCl_veins (s : State) (k : Nat) (f : ClusterSt → ClusterSt) : (modCl s k f).veins = s.veins := rfl
@[simp] theorem modCl_barriers (s : State) (k : Nat) (f : ClusterSt → ClusterSt) : (modCl s k f).barriers = s.barriers := rfl
@[simp] theorem modCl_signals (s : State) (k : Nat) (f : ClusterSt → ClusterSt) : (modCl s k f).signals = s.signals := rfl
@[simp] theorem modCl_remints (s : State) (k : Nat) (f : ClusterSt → ClusterSt) : (modCl s k f).remints = s.remints := rfl
@[simp] theorem modCl_remNext (s : State) (k : Nat) (f : ClusterSt → ClusterSt) : (modCl s k f).remNext = s.remNext := rfl
@[simp] theorem modCl_remMoved (s : State) (k : Nat) (f : ClusterSt → ClusterSt) : (modCl s k f).remMoved = s.remMoved := rfl
@[simp] theorem modCl_ent (s : State) (k : Nat) (f : ClusterSt → ClusterSt) : (modCl s k f).ent = s.ent := rfl
@[simp] theorem modCl_keys (s : State) (k : Nat) (f : ClusterSt → ClusterSt) : (modCl s k f).keys = s.keys := rfl
@[simp] theorem modCl_far (s : State) (k : Nat) (f : ClusterSt → ClusterSt) : (modCl s k f).far = s.far := rfl
@[simp] theorem modCl_seams (s : State) (k : Nat) (f : ClusterSt → ClusterSt) : (modCl s k f).seams = s.seams := rfl
@[simp] theorem modCl_seamDirs (s : State) (k : Nat) (f : ClusterSt → ClusterSt) : (modCl s k f).seamDirs = s.seamDirs := rfl
@[simp] theorem modCl_funcs (s : State) (k : Nat) (f : ClusterSt → ClusterSt) : (modCl s k f).funcs = s.funcs := rfl
@[simp] theorem modCl_jobs (s : State) (k : Nat) (f : ClusterSt → ClusterSt) : (modCl s k f).jobs = s.jobs := rfl
@[simp] theorem modCl_parts (s : State) (k : Nat) (f : ClusterSt → ClusterSt) : (modCl s k f).parts = s.parts := rfl
@[simp] theorem modCl_pairs (s : State) (k : Nat) (f : ClusterSt → ClusterSt) : (modCl s k f).pairs = s.pairs := rfl
@[simp] theorem modCl_ports (s : State) (k : Nat) (f : ClusterSt → ClusterSt) : (modCl s k f).ports = s.ports := rfl
@[simp] theorem modCl_clrOps (s : State) (k : Nat) (f : ClusterSt → ClusterSt) : (modCl s k f).clrOps = s.clrOps := rfl
@[simp] theorem modCl_colls (s : State) (k : Nat) (f : ClusterSt → ClusterSt) : (modCl s k f).colls = s.colls := rfl
@[simp] theorem modCl_staging (s : State) (k : Nat) (f : ClusterSt → ClusterSt) : (modCl s k f).staging = s.staging := rfl
@[simp] theorem modCl_clrTag (s : State) (k : Nat) (f : ClusterSt → ClusterSt) : (modCl s k f).clrTag = s.clrTag := rfl
@[simp] theorem modCl_clrLast (s : State) (k : Nat) (f : ClusterSt → ClusterSt) : (modCl s k f).clrLast = s.clrLast := rfl
@[simp] theorem modCl_ledger (s : State) (k : Nat) (f : ClusterSt → ClusterSt) : (modCl s k f).ledger = s.ledger := rfl
@[simp] theorem modCl_tally (s : State) (k : Nat) (f : ClusterSt → ClusterSt) : (modCl s k f).tally = s.tally := rfl
@[simp] theorem modCl_flash (s : State) (k : Nat) (f : ClusterSt → ClusterSt) : (modCl s k f).flash = s.flash := rfl
@[simp] theorem modCl_comp (s : State) (k : Nat) (f : ClusterSt → ClusterSt) : (modCl s k f).comp = s.comp := rfl
@[simp] theorem modCl_hm (s : State) (k : Nat) (f : ClusterSt → ClusterSt) : (modCl s k f).hm = s.hm := rfl
@[simp] theorem modCl_pwr (s : State) (k : Nat) (f : ClusterSt → ClusterSt) : (modCl s k f).pwr = s.pwr := rfl
@[simp] theorem modCl_start (s : State) (k : Nat) (f : ClusterSt → ClusterSt) : (modCl s k f).start = s.start := rfl
@[simp] theorem modCl_dbg (s : State) (k : Nat) (f : ClusterSt → ClusterSt) : (modCl s k f).dbg = s.dbg := rfl
@[simp] theorem modCl_closing (s : State) (k : Nat) (f : ClusterSt → ClusterSt) : (modCl s k f).closing = s.closing := rfl
@[simp] theorem modCl_seqOps (s : State) (k : Nat) (f : ClusterSt → ClusterSt) : (modCl s k f).seqOps = s.seqOps := rfl
@[simp] theorem modVein_pending (s : State) (c : Nat) (f : VeinSt → VeinSt) : (modVein s c f).pending = s.pending := rfl
@[simp] theorem modVein_out (s : State) (c : Nat) (f : VeinSt → VeinSt) : (modVein s c f).out = s.out := rfl
@[simp] theorem modVein_freeN (s : State) (c : Nat) (f : VeinSt → VeinSt) : (modVein s c f).freeN = s.freeN := rfl
@[simp] theorem modVein_hallmark (s : State) (c : Nat) (f : VeinSt → VeinSt) : (modVein s c f).hallmark = s.hallmark := rfl
@[simp] theorem modVein_mem (s : State) (c : Nat) (f : VeinSt → VeinSt) : (modVein s c f).mem = s.mem := rfl
@[simp] theorem modVein_chk (s : State) (c : Nat) (f : VeinSt → VeinSt) : (modVein s c f).chk = s.chk := rfl
@[simp] theorem modVein_regs (s : State) (c : Nat) (f : VeinSt → VeinSt) : (modVein s c f).regs = s.regs := rfl
@[simp] theorem modVein_cores (s : State) (c : Nat) (f : VeinSt → VeinSt) : (modVein s c f).cores = s.cores := rfl
@[simp] theorem modVein_clusters (s : State) (c : Nat) (f : VeinSt → VeinSt) : (modVein s c f).clusters = s.clusters := rfl
@[simp] theorem modVein_barriers (s : State) (c : Nat) (f : VeinSt → VeinSt) : (modVein s c f).barriers = s.barriers := rfl
@[simp] theorem modVein_signals (s : State) (c : Nat) (f : VeinSt → VeinSt) : (modVein s c f).signals = s.signals := rfl
@[simp] theorem modVein_remints (s : State) (c : Nat) (f : VeinSt → VeinSt) : (modVein s c f).remints = s.remints := rfl
@[simp] theorem modVein_remNext (s : State) (c : Nat) (f : VeinSt → VeinSt) : (modVein s c f).remNext = s.remNext := rfl
@[simp] theorem modVein_remMoved (s : State) (c : Nat) (f : VeinSt → VeinSt) : (modVein s c f).remMoved = s.remMoved := rfl
@[simp] theorem modVein_ent (s : State) (c : Nat) (f : VeinSt → VeinSt) : (modVein s c f).ent = s.ent := rfl
@[simp] theorem modVein_keys (s : State) (c : Nat) (f : VeinSt → VeinSt) : (modVein s c f).keys = s.keys := rfl
@[simp] theorem modVein_far (s : State) (c : Nat) (f : VeinSt → VeinSt) : (modVein s c f).far = s.far := rfl
@[simp] theorem modVein_seams (s : State) (c : Nat) (f : VeinSt → VeinSt) : (modVein s c f).seams = s.seams := rfl
@[simp] theorem modVein_seamDirs (s : State) (c : Nat) (f : VeinSt → VeinSt) : (modVein s c f).seamDirs = s.seamDirs := rfl
@[simp] theorem modVein_funcs (s : State) (c : Nat) (f : VeinSt → VeinSt) : (modVein s c f).funcs = s.funcs := rfl
@[simp] theorem modVein_jobs (s : State) (c : Nat) (f : VeinSt → VeinSt) : (modVein s c f).jobs = s.jobs := rfl
@[simp] theorem modVein_parts (s : State) (c : Nat) (f : VeinSt → VeinSt) : (modVein s c f).parts = s.parts := rfl
@[simp] theorem modVein_pairs (s : State) (c : Nat) (f : VeinSt → VeinSt) : (modVein s c f).pairs = s.pairs := rfl
@[simp] theorem modVein_ports (s : State) (c : Nat) (f : VeinSt → VeinSt) : (modVein s c f).ports = s.ports := rfl
@[simp] theorem modVein_clrOps (s : State) (c : Nat) (f : VeinSt → VeinSt) : (modVein s c f).clrOps = s.clrOps := rfl
@[simp] theorem modVein_colls (s : State) (c : Nat) (f : VeinSt → VeinSt) : (modVein s c f).colls = s.colls := rfl
@[simp] theorem modVein_staging (s : State) (c : Nat) (f : VeinSt → VeinSt) : (modVein s c f).staging = s.staging := rfl
@[simp] theorem modVein_clrTag (s : State) (c : Nat) (f : VeinSt → VeinSt) : (modVein s c f).clrTag = s.clrTag := rfl
@[simp] theorem modVein_clrLast (s : State) (c : Nat) (f : VeinSt → VeinSt) : (modVein s c f).clrLast = s.clrLast := rfl
@[simp] theorem modVein_ledger (s : State) (c : Nat) (f : VeinSt → VeinSt) : (modVein s c f).ledger = s.ledger := rfl
@[simp] theorem modVein_tally (s : State) (c : Nat) (f : VeinSt → VeinSt) : (modVein s c f).tally = s.tally := rfl
@[simp] theorem modVein_flash (s : State) (c : Nat) (f : VeinSt → VeinSt) : (modVein s c f).flash = s.flash := rfl
@[simp] theorem modVein_comp (s : State) (c : Nat) (f : VeinSt → VeinSt) : (modVein s c f).comp = s.comp := rfl
@[simp] theorem modVein_hm (s : State) (c : Nat) (f : VeinSt → VeinSt) : (modVein s c f).hm = s.hm := rfl
@[simp] theorem modVein_pwr (s : State) (c : Nat) (f : VeinSt → VeinSt) : (modVein s c f).pwr = s.pwr := rfl
@[simp] theorem modVein_start (s : State) (c : Nat) (f : VeinSt → VeinSt) : (modVein s c f).start = s.start := rfl
@[simp] theorem modVein_dbg (s : State) (c : Nat) (f : VeinSt → VeinSt) : (modVein s c f).dbg = s.dbg := rfl
@[simp] theorem modVein_closing (s : State) (c : Nat) (f : VeinSt → VeinSt) : (modVein s c f).closing = s.closing := rfl
@[simp] theorem modVein_seqOps (s : State) (c : Nat) (f : VeinSt → VeinSt) : (modVein s c f).seqOps = s.seqOps := rfl

/-! ### Reading a unit after an update -/

/-- What getCore reads after setCore. -/
theorem getCore_setCore (s : State) (i j : Nat) (x : CoreSt) : getCore (setCore s i x) j = if j = i then x else getCore s j :=
  look_put _ _ _ _ _
@[simp] theorem getCore_setCore_self (s : State) (i : Nat) (x : CoreSt) : getCore (setCore s i x) i = x :=
  look_put_self _ _ _ _
theorem getCore_setCore_ne (s : State) (i j : Nat) (x : CoreSt) (h : j ≠ i) : getCore (setCore s i x) j = getCore s j :=
  look_put_ne _ _ _ _ _ h
/-- What getCl reads after setCl. -/
theorem getCl_setCl (s : State) (i j : Nat) (x : ClusterSt) : getCl (setCl s i x) j = if j = i then x else getCl s j :=
  look_put _ _ _ _ _
@[simp] theorem getCl_setCl_self (s : State) (i : Nat) (x : ClusterSt) : getCl (setCl s i x) i = x :=
  look_put_self _ _ _ _
theorem getCl_setCl_ne (s : State) (i j : Nat) (x : ClusterSt) (h : j ≠ i) : getCl (setCl s i x) j = getCl s j :=
  look_put_ne _ _ _ _ _ h
/-- What getVein reads after setVein. -/
theorem getVein_setVein (s : State) (i j : Nat) (x : VeinSt) : getVein (setVein s i x) j = if j = i then x else getVein s j :=
  look_put _ _ _ _ _
@[simp] theorem getVein_setVein_self (s : State) (i : Nat) (x : VeinSt) : getVein (setVein s i x) i = x :=
  look_put_self _ _ _ _
theorem getVein_setVein_ne (s : State) (i j : Nat) (x : VeinSt) (h : j ≠ i) : getVein (setVein s i x) j = getVein s j :=
  look_put_ne _ _ _ _ _ h
/-- What getBar reads after setBar. -/
theorem getBar_setBar (s : State) (i j : Nat) (x : Barrier) : getBar (setBar s i x) j = if j = i then x else getBar s j :=
  look_put _ _ _ _ _
@[simp] theorem getBar_setBar_self (s : State) (i : Nat) (x : Barrier) : getBar (setBar s i x) i = x :=
  look_put_self _ _ _ _
theorem getBar_setBar_ne (s : State) (i j : Nat) (x : Barrier) (h : j ≠ i) : getBar (setBar s i x) j = getBar s j :=
  look_put_ne _ _ _ _ _ h
/-- What getFunc reads after setFunc. -/
theorem getFunc_setFunc (s : State) (i j : Nat) (x : Func) : getFunc (setFunc s i x) j = if j = i then x else getFunc s j :=
  look_put _ _ _ _ _
@[simp] theorem getFunc_setFunc_self (s : State) (i : Nat) (x : Func) : getFunc (setFunc s i x) i = x :=
  look_put_self _ _ _ _
theorem getFunc_setFunc_ne (s : State) (i j : Nat) (x : Func) (h : j ≠ i) : getFunc (setFunc s i x) j = getFunc s j :=
  look_put_ne _ _ _ _ _ h
/-- What getPort reads after setPort. -/
theorem getPort_setPort (s : State) (i j : Nat) (x : Port) : getPort (setPort s i x) j = if j = i then x else getPort s j :=
  look_put _ _ _ _ _
@[simp] theorem getPort_setPort_self (s : State) (i : Nat) (x : Port) : getPort (setPort s i x) i = x :=
  look_put_self _ _ _ _
theorem getPort_setPort_ne (s : State) (i j : Nat) (x : Port) (h : j ≠ i) : getPort (setPort s i x) j = getPort s j :=
  look_put_ne _ _ _ _ _ h
/-- What getSeam reads after setSeam. -/
theorem getSeam_setSeam (s : State) (i j : Nat) (x : SeamSt) : getSeam (setSeam s i x) j = if j = i then x else getSeam s j :=
  look_put _ _ _ _ _
@[simp] theorem getSeam_setSeam_self (s : State) (i : Nat) (x : SeamSt) : getSeam (setSeam s i x) i = x :=
  look_put_self _ _ _ _
theorem getSeam_setSeam_ne (s : State) (i j : Nat) (x : SeamSt) (h : j ≠ i) : getSeam (setSeam s i x) j = getSeam s j :=
  look_put_ne _ _ _ _ _ h
/-- What getPart reads after setPart. -/
theorem getPart_setPart (s : State) (i j : Nat) (x : Layout) : getPart (setPart s i x) j = if j = i then x else getPart s j :=
  look_put _ _ _ _ _
@[simp] theorem getPart_setPart_self (s : State) (i : Nat) (x : Layout) : getPart (setPart s i x) i = x :=
  look_put_self _ _ _ _
theorem getPart_setPart_ne (s : State) (i j : Nat) (x : Layout) (h : j ≠ i) : getPart (setPart s i x) j = getPart s j :=
  look_put_ne _ _ _ _ _ h
@[simp] theorem getCore_modCore_self (s : State) (i : Nat) (f : CoreSt → CoreSt) : getCore (modCore s i f) i = f (getCore s i) :=
  look_put_self _ _ _ _
theorem getCore_modCore_ne (s : State) (i j : Nat) (f : CoreSt → CoreSt) (h : j ≠ i) : getCore (modCore s i f) j = getCore s j :=
  look_put_ne _ _ _ _ _ h
@[simp] theorem getCl_modCl_self (s : State) (i : Nat) (f : ClusterSt → ClusterSt) : getCl (modCl s i f) i = f (getCl s i) :=
  look_put_self _ _ _ _
theorem getCl_modCl_ne (s : State) (i j : Nat) (f : ClusterSt → ClusterSt) (h : j ≠ i) : getCl (modCl s i f) j = getCl s j :=
  look_put_ne _ _ _ _ _ h
@[simp] theorem getVein_modVein_self (s : State) (i : Nat) (f : VeinSt → VeinSt) : getVein (modVein s i f) i = f (getVein s i) :=
  look_put_self _ _ _ _
theorem getVein_modVein_ne (s : State) (i j : Nat) (f : VeinSt → VeinSt) (h : j ≠ i) : getVein (modVein s i f) j = getVein s j :=
  look_put_ne _ _ _ _ _ h
/-- A control-space register reads as it was last written. -/
@[simp] theorem getReg_setReg_self (s : State) (o : Nat) (w : Word) : getReg (setReg s o w) o = w :=
  look_put_self _ _ _ _
theorem getReg_setReg_ne (s : State) (o p : Nat) (w : Word) (h : p ≠ o) : getReg (setReg s o w) p = getReg s p :=
  look_put_ne _ _ _ _ _ h
theorem getPc_setPc (s : State) (k pc : Nat) (x : PseudoCh) : getPc (setPc s k pc x) k pc = x :=
  look_put_self _ _ _ _
theorem getSeamDir_setSeamDir (s : State) (i : Nat) (up : Bool) (x : SeamDir) :
    getSeamDir (setSeamDir s i up x) i up = x :=
  look_put_self _ _ _ _
theorem getRing_setRing (s : State) (f r : Nat) (x : Ring) : getRing (setRing s f r x) f r = x := by
  simp [getRing, setRing]
theorem getUnit_setUnit (v : VeinSt) (u : Nat) (x : BankUnit) : getUnit (setUnit v u x) u = x :=
  look_put_self _ _ _ _

/-! ### Units read through an update of something else -/

@[simp] theorem getCore_setCl (s : State) (k : Nat) (x : ClusterSt) (d : Nat) : getCore (setCl s k x) d = getCore s d := rfl
@[simp] theorem getCore_setVein (s : State) (c : Nat) (x : VeinSt) (d : Nat) : getCore (setVein s c x) d = getCore s d := rfl
@[simp] theorem getCore_setBar (s : State) (k : Nat) (x : Barrier) (d : Nat) : getCore (setBar s k x) d = getCore s d := rfl
@[simp] theorem getCore_setFunc (s : State) (f : Nat) (x : Func) (d : Nat) : getCore (setFunc s f x) d = getCore s d := rfl
@[simp] theorem getCore_setRing (s : State) (f r : Nat) (x : Ring) (d : Nat) : getCore (setRing s f r x) d = getCore s d := rfl
@[simp] theorem getCore_setPort (s : State) (n : Nat) (x : Port) (d : Nat) : getCore (setPort s n x) d = getCore s d := rfl
@[simp] theorem getCore_setPc (s : State) (k pc : Nat) (x : PseudoCh) (d : Nat) : getCore (setPc s k pc x) d = getCore s d := rfl
@[simp] theorem getCore_setSeam (s : State) (i : Nat) (x : SeamSt) (d : Nat) : getCore (setSeam s i x) d = getCore s d := rfl
@[simp] theorem getCore_setSeamDir (s : State) (i : Nat) (up : Bool) (x : SeamDir) (d : Nat) : getCore (setSeamDir s i up x) d = getCore s d := rfl
@[simp] theorem getCore_setPart (s : State) (p : Nat) (x : Layout) (d : Nat) : getCore (setPart s p x) d = getCore s d := rfl
@[simp] theorem getCore_setReg (s : State) (o : Nat) (w : Word) (d : Nat) : getCore (setReg s o w) d = getCore s d := rfl
@[simp] theorem getCore_setRegField (s : State) (o lo n v : Nat) (d : Nat) : getCore (setRegField s o lo n v) d = getCore s d := rfl
@[simp] theorem getCore_addRegField (s : State) (o lo n v : Nat) (d : Nat) : getCore (addRegField s o lo n v) d = getCore s d := rfl
@[simp] theorem getCore_resetRegs (s : State) (lo n : Nat) (d : Nat) : getCore (resetRegs s lo n) d = getCore s d := rfl
@[simp] theorem getCore_wrByte (s : State) (a : Nat) (b : Byte) (d : Nat) : getCore (wrByte s a b) d = getCore s d := rfl
@[simp] theorem getCore_wrBytes (s : State) (a : Nat) (bs : List Byte) (d : Nat) : getCore (wrBytes s a bs) d = getCore s d := rfl
@[simp] theorem getCore_zeroBytes (s : State) (a n : Nat) (d : Nat) : getCore (zeroBytes s a n) d = getCore s d := rfl
@[simp] theorem getCore_advanceTo (s : State) (t : Nat) (d : Nat) : getCore (advanceTo s t) d = getCore s d := rfl
@[simp] theorem getCore_emit (s : State) (o : Output) (d : Nat) : getCore (emit s o) d = getCore s d := rfl
@[simp] theorem getCore_takeFree (s : State) (d : Nat) : getCore (takeFree s) d = getCore s d := rfl
@[simp] theorem getCore_modCl (s : State) (k : Nat) (f : ClusterSt → ClusterSt) (d : Nat) : getCore (modCl s k f) d = getCore s d := rfl
@[simp] theorem getCore_modVein (s : State) (c : Nat) (f : VeinSt → VeinSt) (d : Nat) : getCore (modVein s c f) d = getCore s d := rfl
@[simp] theorem getCl_setCore (s : State) (c : Nat) (x : CoreSt) (d : Nat) : getCl (setCore s c x) d = getCl s d := rfl
@[simp] theorem getCl_setVein (s : State) (c : Nat) (x : VeinSt) (d : Nat) : getCl (setVein s c x) d = getCl s d := rfl
@[simp] theorem getCl_setBar (s : State) (k : Nat) (x : Barrier) (d : Nat) : getCl (setBar s k x) d = getCl s d := rfl
@[simp] theorem getCl_setFunc (s : State) (f : Nat) (x : Func) (d : Nat) : getCl (setFunc s f x) d = getCl s d := rfl
@[simp] theorem getCl_setRing (s : State) (f r : Nat) (x : Ring) (d : Nat) : getCl (setRing s f r x) d = getCl s d := rfl
@[simp] theorem getCl_setPort (s : State) (n : Nat) (x : Port) (d : Nat) : getCl (setPort s n x) d = getCl s d := rfl
@[simp] theorem getCl_setPc (s : State) (k pc : Nat) (x : PseudoCh) (d : Nat) : getCl (setPc s k pc x) d = getCl s d := rfl
@[simp] theorem getCl_setSeam (s : State) (i : Nat) (x : SeamSt) (d : Nat) : getCl (setSeam s i x) d = getCl s d := rfl
@[simp] theorem getCl_setSeamDir (s : State) (i : Nat) (up : Bool) (x : SeamDir) (d : Nat) : getCl (setSeamDir s i up x) d = getCl s d := rfl
@[simp] theorem getCl_setPart (s : State) (p : Nat) (x : Layout) (d : Nat) : getCl (setPart s p x) d = getCl s d := rfl
@[simp] theorem getCl_setReg (s : State) (o : Nat) (w : Word) (d : Nat) : getCl (setReg s o w) d = getCl s d := rfl
@[simp] theorem getCl_setRegField (s : State) (o lo n v : Nat) (d : Nat) : getCl (setRegField s o lo n v) d = getCl s d := rfl
@[simp] theorem getCl_addRegField (s : State) (o lo n v : Nat) (d : Nat) : getCl (addRegField s o lo n v) d = getCl s d := rfl
@[simp] theorem getCl_resetRegs (s : State) (lo n : Nat) (d : Nat) : getCl (resetRegs s lo n) d = getCl s d := rfl
@[simp] theorem getCl_wrByte (s : State) (a : Nat) (b : Byte) (d : Nat) : getCl (wrByte s a b) d = getCl s d := rfl
@[simp] theorem getCl_wrBytes (s : State) (a : Nat) (bs : List Byte) (d : Nat) : getCl (wrBytes s a bs) d = getCl s d := rfl
@[simp] theorem getCl_zeroBytes (s : State) (a n : Nat) (d : Nat) : getCl (zeroBytes s a n) d = getCl s d := rfl
@[simp] theorem getCl_advanceTo (s : State) (t : Nat) (d : Nat) : getCl (advanceTo s t) d = getCl s d := rfl
@[simp] theorem getCl_emit (s : State) (o : Output) (d : Nat) : getCl (emit s o) d = getCl s d := rfl
@[simp] theorem getCl_takeFree (s : State) (d : Nat) : getCl (takeFree s) d = getCl s d := rfl
@[simp] theorem getCl_modCore (s : State) (c : Nat) (f : CoreSt → CoreSt) (d : Nat) : getCl (modCore s c f) d = getCl s d := rfl
@[simp] theorem getCl_modVein (s : State) (c : Nat) (f : VeinSt → VeinSt) (d : Nat) : getCl (modVein s c f) d = getCl s d := rfl
@[simp] theorem getVein_setCore (s : State) (c : Nat) (x : CoreSt) (d : Nat) : getVein (setCore s c x) d = getVein s d := rfl
@[simp] theorem getVein_setCl (s : State) (k : Nat) (x : ClusterSt) (d : Nat) : getVein (setCl s k x) d = getVein s d := rfl
@[simp] theorem getVein_setBar (s : State) (k : Nat) (x : Barrier) (d : Nat) : getVein (setBar s k x) d = getVein s d := rfl
@[simp] theorem getVein_setFunc (s : State) (f : Nat) (x : Func) (d : Nat) : getVein (setFunc s f x) d = getVein s d := rfl
@[simp] theorem getVein_setRing (s : State) (f r : Nat) (x : Ring) (d : Nat) : getVein (setRing s f r x) d = getVein s d := rfl
@[simp] theorem getVein_setPort (s : State) (n : Nat) (x : Port) (d : Nat) : getVein (setPort s n x) d = getVein s d := rfl
@[simp] theorem getVein_setPc (s : State) (k pc : Nat) (x : PseudoCh) (d : Nat) : getVein (setPc s k pc x) d = getVein s d := rfl
@[simp] theorem getVein_setSeam (s : State) (i : Nat) (x : SeamSt) (d : Nat) : getVein (setSeam s i x) d = getVein s d := rfl
@[simp] theorem getVein_setSeamDir (s : State) (i : Nat) (up : Bool) (x : SeamDir) (d : Nat) : getVein (setSeamDir s i up x) d = getVein s d := rfl
@[simp] theorem getVein_setPart (s : State) (p : Nat) (x : Layout) (d : Nat) : getVein (setPart s p x) d = getVein s d := rfl
@[simp] theorem getVein_setReg (s : State) (o : Nat) (w : Word) (d : Nat) : getVein (setReg s o w) d = getVein s d := rfl
@[simp] theorem getVein_setRegField (s : State) (o lo n v : Nat) (d : Nat) : getVein (setRegField s o lo n v) d = getVein s d := rfl
@[simp] theorem getVein_addRegField (s : State) (o lo n v : Nat) (d : Nat) : getVein (addRegField s o lo n v) d = getVein s d := rfl
@[simp] theorem getVein_resetRegs (s : State) (lo n : Nat) (d : Nat) : getVein (resetRegs s lo n) d = getVein s d := rfl
@[simp] theorem getVein_wrByte (s : State) (a : Nat) (b : Byte) (d : Nat) : getVein (wrByte s a b) d = getVein s d := rfl
@[simp] theorem getVein_wrBytes (s : State) (a : Nat) (bs : List Byte) (d : Nat) : getVein (wrBytes s a bs) d = getVein s d := rfl
@[simp] theorem getVein_zeroBytes (s : State) (a n : Nat) (d : Nat) : getVein (zeroBytes s a n) d = getVein s d := rfl
@[simp] theorem getVein_advanceTo (s : State) (t : Nat) (d : Nat) : getVein (advanceTo s t) d = getVein s d := rfl
@[simp] theorem getVein_emit (s : State) (o : Output) (d : Nat) : getVein (emit s o) d = getVein s d := rfl
@[simp] theorem getVein_takeFree (s : State) (d : Nat) : getVein (takeFree s) d = getVein s d := rfl
@[simp] theorem getVein_modCore (s : State) (c : Nat) (f : CoreSt → CoreSt) (d : Nat) : getVein (modCore s c f) d = getVein s d := rfl
@[simp] theorem getVein_modCl (s : State) (k : Nat) (f : ClusterSt → ClusterSt) (d : Nat) : getVein (modCl s k f) d = getVein s d := rfl
@[simp] theorem getBar_setCore (s : State) (c : Nat) (x : CoreSt) (d : Nat) : getBar (setCore s c x) d = getBar s d := rfl
@[simp] theorem getBar_setCl (s : State) (k : Nat) (x : ClusterSt) (d : Nat) : getBar (setCl s k x) d = getBar s d := rfl
@[simp] theorem getBar_setVein (s : State) (c : Nat) (x : VeinSt) (d : Nat) : getBar (setVein s c x) d = getBar s d := rfl
@[simp] theorem getBar_setFunc (s : State) (f : Nat) (x : Func) (d : Nat) : getBar (setFunc s f x) d = getBar s d := rfl
@[simp] theorem getBar_setRing (s : State) (f r : Nat) (x : Ring) (d : Nat) : getBar (setRing s f r x) d = getBar s d := rfl
@[simp] theorem getBar_setPort (s : State) (n : Nat) (x : Port) (d : Nat) : getBar (setPort s n x) d = getBar s d := rfl
@[simp] theorem getBar_setPc (s : State) (k pc : Nat) (x : PseudoCh) (d : Nat) : getBar (setPc s k pc x) d = getBar s d := rfl
@[simp] theorem getBar_setSeam (s : State) (i : Nat) (x : SeamSt) (d : Nat) : getBar (setSeam s i x) d = getBar s d := rfl
@[simp] theorem getBar_setSeamDir (s : State) (i : Nat) (up : Bool) (x : SeamDir) (d : Nat) : getBar (setSeamDir s i up x) d = getBar s d := rfl
@[simp] theorem getBar_setPart (s : State) (p : Nat) (x : Layout) (d : Nat) : getBar (setPart s p x) d = getBar s d := rfl
@[simp] theorem getBar_setReg (s : State) (o : Nat) (w : Word) (d : Nat) : getBar (setReg s o w) d = getBar s d := rfl
@[simp] theorem getBar_setRegField (s : State) (o lo n v : Nat) (d : Nat) : getBar (setRegField s o lo n v) d = getBar s d := rfl
@[simp] theorem getBar_addRegField (s : State) (o lo n v : Nat) (d : Nat) : getBar (addRegField s o lo n v) d = getBar s d := rfl
@[simp] theorem getBar_resetRegs (s : State) (lo n : Nat) (d : Nat) : getBar (resetRegs s lo n) d = getBar s d := rfl
@[simp] theorem getBar_wrByte (s : State) (a : Nat) (b : Byte) (d : Nat) : getBar (wrByte s a b) d = getBar s d := rfl
@[simp] theorem getBar_wrBytes (s : State) (a : Nat) (bs : List Byte) (d : Nat) : getBar (wrBytes s a bs) d = getBar s d := rfl
@[simp] theorem getBar_zeroBytes (s : State) (a n : Nat) (d : Nat) : getBar (zeroBytes s a n) d = getBar s d := rfl
@[simp] theorem getBar_advanceTo (s : State) (t : Nat) (d : Nat) : getBar (advanceTo s t) d = getBar s d := rfl
@[simp] theorem getBar_emit (s : State) (o : Output) (d : Nat) : getBar (emit s o) d = getBar s d := rfl
@[simp] theorem getBar_takeFree (s : State) (d : Nat) : getBar (takeFree s) d = getBar s d := rfl
@[simp] theorem getBar_modCore (s : State) (c : Nat) (f : CoreSt → CoreSt) (d : Nat) : getBar (modCore s c f) d = getBar s d := rfl
@[simp] theorem getBar_modCl (s : State) (k : Nat) (f : ClusterSt → ClusterSt) (d : Nat) : getBar (modCl s k f) d = getBar s d := rfl
@[simp] theorem getBar_modVein (s : State) (c : Nat) (f : VeinSt → VeinSt) (d : Nat) : getBar (modVein s c f) d = getBar s d := rfl
@[simp] theorem getFunc_setCore (s : State) (c : Nat) (x : CoreSt) (d : Nat) : getFunc (setCore s c x) d = getFunc s d := rfl
@[simp] theorem getFunc_setCl (s : State) (k : Nat) (x : ClusterSt) (d : Nat) : getFunc (setCl s k x) d = getFunc s d := rfl
@[simp] theorem getFunc_setVein (s : State) (c : Nat) (x : VeinSt) (d : Nat) : getFunc (setVein s c x) d = getFunc s d := rfl
@[simp] theorem getFunc_setBar (s : State) (k : Nat) (x : Barrier) (d : Nat) : getFunc (setBar s k x) d = getFunc s d := rfl
@[simp] theorem getFunc_setPort (s : State) (n : Nat) (x : Port) (d : Nat) : getFunc (setPort s n x) d = getFunc s d := rfl
@[simp] theorem getFunc_setPc (s : State) (k pc : Nat) (x : PseudoCh) (d : Nat) : getFunc (setPc s k pc x) d = getFunc s d := rfl
@[simp] theorem getFunc_setSeam (s : State) (i : Nat) (x : SeamSt) (d : Nat) : getFunc (setSeam s i x) d = getFunc s d := rfl
@[simp] theorem getFunc_setSeamDir (s : State) (i : Nat) (up : Bool) (x : SeamDir) (d : Nat) : getFunc (setSeamDir s i up x) d = getFunc s d := rfl
@[simp] theorem getFunc_setPart (s : State) (p : Nat) (x : Layout) (d : Nat) : getFunc (setPart s p x) d = getFunc s d := rfl
@[simp] theorem getFunc_setReg (s : State) (o : Nat) (w : Word) (d : Nat) : getFunc (setReg s o w) d = getFunc s d := rfl
@[simp] theorem getFunc_setRegField (s : State) (o lo n v : Nat) (d : Nat) : getFunc (setRegField s o lo n v) d = getFunc s d := rfl
@[simp] theorem getFunc_addRegField (s : State) (o lo n v : Nat) (d : Nat) : getFunc (addRegField s o lo n v) d = getFunc s d := rfl
@[simp] theorem getFunc_resetRegs (s : State) (lo n : Nat) (d : Nat) : getFunc (resetRegs s lo n) d = getFunc s d := rfl
@[simp] theorem getFunc_wrByte (s : State) (a : Nat) (b : Byte) (d : Nat) : getFunc (wrByte s a b) d = getFunc s d := rfl
@[simp] theorem getFunc_wrBytes (s : State) (a : Nat) (bs : List Byte) (d : Nat) : getFunc (wrBytes s a bs) d = getFunc s d := rfl
@[simp] theorem getFunc_zeroBytes (s : State) (a n : Nat) (d : Nat) : getFunc (zeroBytes s a n) d = getFunc s d := rfl
@[simp] theorem getFunc_advanceTo (s : State) (t : Nat) (d : Nat) : getFunc (advanceTo s t) d = getFunc s d := rfl
@[simp] theorem getFunc_emit (s : State) (o : Output) (d : Nat) : getFunc (emit s o) d = getFunc s d := rfl
@[simp] theorem getFunc_takeFree (s : State) (d : Nat) : getFunc (takeFree s) d = getFunc s d := rfl
@[simp] theorem getFunc_modCore (s : State) (c : Nat) (f : CoreSt → CoreSt) (d : Nat) : getFunc (modCore s c f) d = getFunc s d := rfl
@[simp] theorem getFunc_modCl (s : State) (k : Nat) (f : ClusterSt → ClusterSt) (d : Nat) : getFunc (modCl s k f) d = getFunc s d := rfl
@[simp] theorem getFunc_modVein (s : State) (c : Nat) (f : VeinSt → VeinSt) (d : Nat) : getFunc (modVein s c f) d = getFunc s d := rfl
@[simp] theorem getPort_setCore (s : State) (c : Nat) (x : CoreSt) (d : Nat) : getPort (setCore s c x) d = getPort s d := rfl
@[simp] theorem getPort_setCl (s : State) (k : Nat) (x : ClusterSt) (d : Nat) : getPort (setCl s k x) d = getPort s d := rfl
@[simp] theorem getPort_setVein (s : State) (c : Nat) (x : VeinSt) (d : Nat) : getPort (setVein s c x) d = getPort s d := rfl
@[simp] theorem getPort_setBar (s : State) (k : Nat) (x : Barrier) (d : Nat) : getPort (setBar s k x) d = getPort s d := rfl
@[simp] theorem getPort_setFunc (s : State) (f : Nat) (x : Func) (d : Nat) : getPort (setFunc s f x) d = getPort s d := rfl
@[simp] theorem getPort_setRing (s : State) (f r : Nat) (x : Ring) (d : Nat) : getPort (setRing s f r x) d = getPort s d := rfl
@[simp] theorem getPort_setPc (s : State) (k pc : Nat) (x : PseudoCh) (d : Nat) : getPort (setPc s k pc x) d = getPort s d := rfl
@[simp] theorem getPort_setSeam (s : State) (i : Nat) (x : SeamSt) (d : Nat) : getPort (setSeam s i x) d = getPort s d := rfl
@[simp] theorem getPort_setSeamDir (s : State) (i : Nat) (up : Bool) (x : SeamDir) (d : Nat) : getPort (setSeamDir s i up x) d = getPort s d := rfl
@[simp] theorem getPort_setPart (s : State) (p : Nat) (x : Layout) (d : Nat) : getPort (setPart s p x) d = getPort s d := rfl
@[simp] theorem getPort_setReg (s : State) (o : Nat) (w : Word) (d : Nat) : getPort (setReg s o w) d = getPort s d := rfl
@[simp] theorem getPort_setRegField (s : State) (o lo n v : Nat) (d : Nat) : getPort (setRegField s o lo n v) d = getPort s d := rfl
@[simp] theorem getPort_addRegField (s : State) (o lo n v : Nat) (d : Nat) : getPort (addRegField s o lo n v) d = getPort s d := rfl
@[simp] theorem getPort_resetRegs (s : State) (lo n : Nat) (d : Nat) : getPort (resetRegs s lo n) d = getPort s d := rfl
@[simp] theorem getPort_wrByte (s : State) (a : Nat) (b : Byte) (d : Nat) : getPort (wrByte s a b) d = getPort s d := rfl
@[simp] theorem getPort_wrBytes (s : State) (a : Nat) (bs : List Byte) (d : Nat) : getPort (wrBytes s a bs) d = getPort s d := rfl
@[simp] theorem getPort_zeroBytes (s : State) (a n : Nat) (d : Nat) : getPort (zeroBytes s a n) d = getPort s d := rfl
@[simp] theorem getPort_advanceTo (s : State) (t : Nat) (d : Nat) : getPort (advanceTo s t) d = getPort s d := rfl
@[simp] theorem getPort_emit (s : State) (o : Output) (d : Nat) : getPort (emit s o) d = getPort s d := rfl
@[simp] theorem getPort_takeFree (s : State) (d : Nat) : getPort (takeFree s) d = getPort s d := rfl
@[simp] theorem getPort_modCore (s : State) (c : Nat) (f : CoreSt → CoreSt) (d : Nat) : getPort (modCore s c f) d = getPort s d := rfl
@[simp] theorem getPort_modCl (s : State) (k : Nat) (f : ClusterSt → ClusterSt) (d : Nat) : getPort (modCl s k f) d = getPort s d := rfl
@[simp] theorem getPort_modVein (s : State) (c : Nat) (f : VeinSt → VeinSt) (d : Nat) : getPort (modVein s c f) d = getPort s d := rfl
@[simp] theorem getSeam_setCore (s : State) (c : Nat) (x : CoreSt) (d : Nat) : getSeam (setCore s c x) d = getSeam s d := rfl
@[simp] theorem getSeam_setCl (s : State) (k : Nat) (x : ClusterSt) (d : Nat) : getSeam (setCl s k x) d = getSeam s d := rfl
@[simp] theorem getSeam_setVein (s : State) (c : Nat) (x : VeinSt) (d : Nat) : getSeam (setVein s c x) d = getSeam s d := rfl
@[simp] theorem getSeam_setBar (s : State) (k : Nat) (x : Barrier) (d : Nat) : getSeam (setBar s k x) d = getSeam s d := rfl
@[simp] theorem getSeam_setFunc (s : State) (f : Nat) (x : Func) (d : Nat) : getSeam (setFunc s f x) d = getSeam s d := rfl
@[simp] theorem getSeam_setRing (s : State) (f r : Nat) (x : Ring) (d : Nat) : getSeam (setRing s f r x) d = getSeam s d := rfl
@[simp] theorem getSeam_setPort (s : State) (n : Nat) (x : Port) (d : Nat) : getSeam (setPort s n x) d = getSeam s d := rfl
@[simp] theorem getSeam_setPc (s : State) (k pc : Nat) (x : PseudoCh) (d : Nat) : getSeam (setPc s k pc x) d = getSeam s d := rfl
@[simp] theorem getSeam_setSeamDir (s : State) (i : Nat) (up : Bool) (x : SeamDir) (d : Nat) : getSeam (setSeamDir s i up x) d = getSeam s d := rfl
@[simp] theorem getSeam_setPart (s : State) (p : Nat) (x : Layout) (d : Nat) : getSeam (setPart s p x) d = getSeam s d := rfl
@[simp] theorem getSeam_setReg (s : State) (o : Nat) (w : Word) (d : Nat) : getSeam (setReg s o w) d = getSeam s d := rfl
@[simp] theorem getSeam_setRegField (s : State) (o lo n v : Nat) (d : Nat) : getSeam (setRegField s o lo n v) d = getSeam s d := rfl
@[simp] theorem getSeam_addRegField (s : State) (o lo n v : Nat) (d : Nat) : getSeam (addRegField s o lo n v) d = getSeam s d := rfl
@[simp] theorem getSeam_resetRegs (s : State) (lo n : Nat) (d : Nat) : getSeam (resetRegs s lo n) d = getSeam s d := rfl
@[simp] theorem getSeam_wrByte (s : State) (a : Nat) (b : Byte) (d : Nat) : getSeam (wrByte s a b) d = getSeam s d := rfl
@[simp] theorem getSeam_wrBytes (s : State) (a : Nat) (bs : List Byte) (d : Nat) : getSeam (wrBytes s a bs) d = getSeam s d := rfl
@[simp] theorem getSeam_zeroBytes (s : State) (a n : Nat) (d : Nat) : getSeam (zeroBytes s a n) d = getSeam s d := rfl
@[simp] theorem getSeam_advanceTo (s : State) (t : Nat) (d : Nat) : getSeam (advanceTo s t) d = getSeam s d := rfl
@[simp] theorem getSeam_emit (s : State) (o : Output) (d : Nat) : getSeam (emit s o) d = getSeam s d := rfl
@[simp] theorem getSeam_takeFree (s : State) (d : Nat) : getSeam (takeFree s) d = getSeam s d := rfl
@[simp] theorem getSeam_modCore (s : State) (c : Nat) (f : CoreSt → CoreSt) (d : Nat) : getSeam (modCore s c f) d = getSeam s d := rfl
@[simp] theorem getSeam_modCl (s : State) (k : Nat) (f : ClusterSt → ClusterSt) (d : Nat) : getSeam (modCl s k f) d = getSeam s d := rfl
@[simp] theorem getSeam_modVein (s : State) (c : Nat) (f : VeinSt → VeinSt) (d : Nat) : getSeam (modVein s c f) d = getSeam s d := rfl
@[simp] theorem getPart_setCore (s : State) (c : Nat) (x : CoreSt) (d : Nat) : getPart (setCore s c x) d = getPart s d := rfl
@[simp] theorem getPart_setCl (s : State) (k : Nat) (x : ClusterSt) (d : Nat) : getPart (setCl s k x) d = getPart s d := rfl
@[simp] theorem getPart_setVein (s : State) (c : Nat) (x : VeinSt) (d : Nat) : getPart (setVein s c x) d = getPart s d := rfl
@[simp] theorem getPart_setBar (s : State) (k : Nat) (x : Barrier) (d : Nat) : getPart (setBar s k x) d = getPart s d := rfl
@[simp] theorem getPart_setFunc (s : State) (f : Nat) (x : Func) (d : Nat) : getPart (setFunc s f x) d = getPart s d := rfl
@[simp] theorem getPart_setRing (s : State) (f r : Nat) (x : Ring) (d : Nat) : getPart (setRing s f r x) d = getPart s d := rfl
@[simp] theorem getPart_setPort (s : State) (n : Nat) (x : Port) (d : Nat) : getPart (setPort s n x) d = getPart s d := rfl
@[simp] theorem getPart_setPc (s : State) (k pc : Nat) (x : PseudoCh) (d : Nat) : getPart (setPc s k pc x) d = getPart s d := rfl
@[simp] theorem getPart_setSeam (s : State) (i : Nat) (x : SeamSt) (d : Nat) : getPart (setSeam s i x) d = getPart s d := rfl
@[simp] theorem getPart_setSeamDir (s : State) (i : Nat) (up : Bool) (x : SeamDir) (d : Nat) : getPart (setSeamDir s i up x) d = getPart s d := rfl
@[simp] theorem getPart_setReg (s : State) (o : Nat) (w : Word) (d : Nat) : getPart (setReg s o w) d = getPart s d := rfl
@[simp] theorem getPart_setRegField (s : State) (o lo n v : Nat) (d : Nat) : getPart (setRegField s o lo n v) d = getPart s d := rfl
@[simp] theorem getPart_addRegField (s : State) (o lo n v : Nat) (d : Nat) : getPart (addRegField s o lo n v) d = getPart s d := rfl
@[simp] theorem getPart_resetRegs (s : State) (lo n : Nat) (d : Nat) : getPart (resetRegs s lo n) d = getPart s d := rfl
@[simp] theorem getPart_wrByte (s : State) (a : Nat) (b : Byte) (d : Nat) : getPart (wrByte s a b) d = getPart s d := rfl
@[simp] theorem getPart_wrBytes (s : State) (a : Nat) (bs : List Byte) (d : Nat) : getPart (wrBytes s a bs) d = getPart s d := rfl
@[simp] theorem getPart_zeroBytes (s : State) (a n : Nat) (d : Nat) : getPart (zeroBytes s a n) d = getPart s d := rfl
@[simp] theorem getPart_advanceTo (s : State) (t : Nat) (d : Nat) : getPart (advanceTo s t) d = getPart s d := rfl
@[simp] theorem getPart_emit (s : State) (o : Output) (d : Nat) : getPart (emit s o) d = getPart s d := rfl
@[simp] theorem getPart_takeFree (s : State) (d : Nat) : getPart (takeFree s) d = getPart s d := rfl
@[simp] theorem getPart_modCore (s : State) (c : Nat) (f : CoreSt → CoreSt) (d : Nat) : getPart (modCore s c f) d = getPart s d := rfl
@[simp] theorem getPart_modCl (s : State) (k : Nat) (f : ClusterSt → ClusterSt) (d : Nat) : getPart (modCl s k f) d = getPart s d := rfl
@[simp] theorem getPart_modVein (s : State) (c : Nat) (f : VeinSt → VeinSt) (d : Nat) : getPart (modVein s c f) d = getPart s d := rfl
@[simp] theorem getReg_setCore (s : State) (c : Nat) (x : CoreSt) (d : Nat) : getReg (setCore s c x) d = getReg s d := rfl
@[simp] theorem getReg_setCl (s : State) (k : Nat) (x : ClusterSt) (d : Nat) : getReg (setCl s k x) d = getReg s d := rfl
@[simp] theorem getReg_setVein (s : State) (c : Nat) (x : VeinSt) (d : Nat) : getReg (setVein s c x) d = getReg s d := rfl
@[simp] theorem getReg_setBar (s : State) (k : Nat) (x : Barrier) (d : Nat) : getReg (setBar s k x) d = getReg s d := rfl
@[simp] theorem getReg_setFunc (s : State) (f : Nat) (x : Func) (d : Nat) : getReg (setFunc s f x) d = getReg s d := rfl
@[simp] theorem getReg_setRing (s : State) (f r : Nat) (x : Ring) (d : Nat) : getReg (setRing s f r x) d = getReg s d := rfl
@[simp] theorem getReg_setPort (s : State) (n : Nat) (x : Port) (d : Nat) : getReg (setPort s n x) d = getReg s d := rfl
@[simp] theorem getReg_setPc (s : State) (k pc : Nat) (x : PseudoCh) (d : Nat) : getReg (setPc s k pc x) d = getReg s d := rfl
@[simp] theorem getReg_setSeam (s : State) (i : Nat) (x : SeamSt) (d : Nat) : getReg (setSeam s i x) d = getReg s d := rfl
@[simp] theorem getReg_setSeamDir (s : State) (i : Nat) (up : Bool) (x : SeamDir) (d : Nat) : getReg (setSeamDir s i up x) d = getReg s d := rfl
@[simp] theorem getReg_setPart (s : State) (p : Nat) (x : Layout) (d : Nat) : getReg (setPart s p x) d = getReg s d := rfl
@[simp] theorem getReg_wrByte (s : State) (a : Nat) (b : Byte) (d : Nat) : getReg (wrByte s a b) d = getReg s d := rfl
@[simp] theorem getReg_wrBytes (s : State) (a : Nat) (bs : List Byte) (d : Nat) : getReg (wrBytes s a bs) d = getReg s d := rfl
@[simp] theorem getReg_zeroBytes (s : State) (a n : Nat) (d : Nat) : getReg (zeroBytes s a n) d = getReg s d := rfl
@[simp] theorem getReg_advanceTo (s : State) (t : Nat) (d : Nat) : getReg (advanceTo s t) d = getReg s d := rfl
@[simp] theorem getReg_emit (s : State) (o : Output) (d : Nat) : getReg (emit s o) d = getReg s d := rfl
@[simp] theorem getReg_takeFree (s : State) (d : Nat) : getReg (takeFree s) d = getReg s d := rfl
@[simp] theorem getReg_modCore (s : State) (c : Nat) (f : CoreSt → CoreSt) (d : Nat) : getReg (modCore s c f) d = getReg s d := rfl
@[simp] theorem getReg_modCl (s : State) (k : Nat) (f : ClusterSt → ClusterSt) (d : Nat) : getReg (modCl s k f) d = getReg s d := rfl
@[simp] theorem getReg_modVein (s : State) (c : Nat) (f : VeinSt → VeinSt) (d : Nat) : getReg (modVein s c f) d = getReg s d := rfl
@[simp] theorem rdByte_setCore (s : State) (c : Nat) (x : CoreSt) (d : Nat) : rdByte (setCore s c x) d = rdByte s d := rfl
@[simp] theorem rdByte_setCl (s : State) (k : Nat) (x : ClusterSt) (d : Nat) : rdByte (setCl s k x) d = rdByte s d := rfl
@[simp] theorem rdByte_setVein (s : State) (c : Nat) (x : VeinSt) (d : Nat) : rdByte (setVein s c x) d = rdByte s d := rfl
@[simp] theorem rdByte_setBar (s : State) (k : Nat) (x : Barrier) (d : Nat) : rdByte (setBar s k x) d = rdByte s d := rfl
@[simp] theorem rdByte_setFunc (s : State) (f : Nat) (x : Func) (d : Nat) : rdByte (setFunc s f x) d = rdByte s d := rfl
@[simp] theorem rdByte_setRing (s : State) (f r : Nat) (x : Ring) (d : Nat) : rdByte (setRing s f r x) d = rdByte s d := rfl
@[simp] theorem rdByte_setPort (s : State) (n : Nat) (x : Port) (d : Nat) : rdByte (setPort s n x) d = rdByte s d := rfl
@[simp] theorem rdByte_setPc (s : State) (k pc : Nat) (x : PseudoCh) (d : Nat) : rdByte (setPc s k pc x) d = rdByte s d := rfl
@[simp] theorem rdByte_setSeam (s : State) (i : Nat) (x : SeamSt) (d : Nat) : rdByte (setSeam s i x) d = rdByte s d := rfl
@[simp] theorem rdByte_setSeamDir (s : State) (i : Nat) (up : Bool) (x : SeamDir) (d : Nat) : rdByte (setSeamDir s i up x) d = rdByte s d := rfl
@[simp] theorem rdByte_setPart (s : State) (p : Nat) (x : Layout) (d : Nat) : rdByte (setPart s p x) d = rdByte s d := rfl
@[simp] theorem rdByte_setReg (s : State) (o : Nat) (w : Word) (d : Nat) : rdByte (setReg s o w) d = rdByte s d := rfl
@[simp] theorem rdByte_setRegField (s : State) (o lo n v : Nat) (d : Nat) : rdByte (setRegField s o lo n v) d = rdByte s d := rfl
@[simp] theorem rdByte_addRegField (s : State) (o lo n v : Nat) (d : Nat) : rdByte (addRegField s o lo n v) d = rdByte s d := rfl
@[simp] theorem rdByte_resetRegs (s : State) (lo n : Nat) (d : Nat) : rdByte (resetRegs s lo n) d = rdByte s d := rfl
@[simp] theorem rdByte_advanceTo (s : State) (t : Nat) (d : Nat) : rdByte (advanceTo s t) d = rdByte s d := rfl
@[simp] theorem rdByte_emit (s : State) (o : Output) (d : Nat) : rdByte (emit s o) d = rdByte s d := rfl
@[simp] theorem rdByte_takeFree (s : State) (d : Nat) : rdByte (takeFree s) d = rdByte s d := rfl
@[simp] theorem rdByte_modCore (s : State) (c : Nat) (f : CoreSt → CoreSt) (d : Nat) : rdByte (modCore s c f) d = rdByte s d := rfl
@[simp] theorem rdByte_modCl (s : State) (k : Nat) (f : ClusterSt → ClusterSt) (d : Nat) : rdByte (modCl s k f) d = rdByte s d := rfl
@[simp] theorem rdByte_modVein (s : State) (c : Nat) (f : VeinSt → VeinSt) (d : Nat) : rdByte (modVein s c f) d = rdByte s d := rfl
@[simp] theorem rdBytes_setCore (s : State) (c : Nat) (x : CoreSt) (d e : Nat) : rdBytes (setCore s c x) d e = rdBytes s d e := rfl
@[simp] theorem rdBytes_setCl (s : State) (k : Nat) (x : ClusterSt) (d e : Nat) : rdBytes (setCl s k x) d e = rdBytes s d e := rfl
@[simp] theorem rdBytes_setVein (s : State) (c : Nat) (x : VeinSt) (d e : Nat) : rdBytes (setVein s c x) d e = rdBytes s d e := rfl
@[simp] theorem rdBytes_setBar (s : State) (k : Nat) (x : Barrier) (d e : Nat) : rdBytes (setBar s k x) d e = rdBytes s d e := rfl
@[simp] theorem rdBytes_setFunc (s : State) (f : Nat) (x : Func) (d e : Nat) : rdBytes (setFunc s f x) d e = rdBytes s d e := rfl
@[simp] theorem rdBytes_setRing (s : State) (f r : Nat) (x : Ring) (d e : Nat) : rdBytes (setRing s f r x) d e = rdBytes s d e := rfl
@[simp] theorem rdBytes_setPort (s : State) (n : Nat) (x : Port) (d e : Nat) : rdBytes (setPort s n x) d e = rdBytes s d e := rfl
@[simp] theorem rdBytes_setPc (s : State) (k pc : Nat) (x : PseudoCh) (d e : Nat) : rdBytes (setPc s k pc x) d e = rdBytes s d e := rfl
@[simp] theorem rdBytes_setSeam (s : State) (i : Nat) (x : SeamSt) (d e : Nat) : rdBytes (setSeam s i x) d e = rdBytes s d e := rfl
@[simp] theorem rdBytes_setSeamDir (s : State) (i : Nat) (up : Bool) (x : SeamDir) (d e : Nat) : rdBytes (setSeamDir s i up x) d e = rdBytes s d e := rfl
@[simp] theorem rdBytes_setPart (s : State) (p : Nat) (x : Layout) (d e : Nat) : rdBytes (setPart s p x) d e = rdBytes s d e := rfl
@[simp] theorem rdBytes_setReg (s : State) (o : Nat) (w : Word) (d e : Nat) : rdBytes (setReg s o w) d e = rdBytes s d e := rfl
@[simp] theorem rdBytes_setRegField (s : State) (o lo n v : Nat) (d e : Nat) : rdBytes (setRegField s o lo n v) d e = rdBytes s d e := rfl
@[simp] theorem rdBytes_addRegField (s : State) (o lo n v : Nat) (d e : Nat) : rdBytes (addRegField s o lo n v) d e = rdBytes s d e := rfl
@[simp] theorem rdBytes_resetRegs (s : State) (lo n : Nat) (d e : Nat) : rdBytes (resetRegs s lo n) d e = rdBytes s d e := rfl
@[simp] theorem rdBytes_advanceTo (s : State) (t : Nat) (d e : Nat) : rdBytes (advanceTo s t) d e = rdBytes s d e := rfl
@[simp] theorem rdBytes_emit (s : State) (o : Output) (d e : Nat) : rdBytes (emit s o) d e = rdBytes s d e := rfl
@[simp] theorem rdBytes_takeFree (s : State) (d e : Nat) : rdBytes (takeFree s) d e = rdBytes s d e := rfl
@[simp] theorem rdBytes_modCore (s : State) (c : Nat) (f : CoreSt → CoreSt) (d e : Nat) : rdBytes (modCore s c f) d e = rdBytes s d e := rfl
@[simp] theorem rdBytes_modCl (s : State) (k : Nat) (f : ClusterSt → ClusterSt) (d e : Nat) : rdBytes (modCl s k f) d e = rdBytes s d e := rfl
@[simp] theorem rdBytes_modVein (s : State) (c : Nat) (f : VeinSt → VeinSt) (d e : Nat) : rdBytes (modVein s c f) d e = rdBytes s d e := rfl

/-! ### Register files of a core -/

@[simp] theorem gpr_zero (x : CoreSt) : gpr x 0 = 0 := rfl
/-- g0 ignores writes (R56). -/
@[simp] theorem setGpr_zero (x : CoreSt) (w : Word) : setGpr x 0 w = x := rfl
/-- What a general register reads as after a write. -/
theorem gpr_setGpr (x : CoreSt) (r q : Nat) (w : Word) :
    gpr (setGpr x r w) q = if q = r ∧ r ≠ 0 then w else gpr x q := by
  unfold gpr setGpr
  by_cases hr : r = 0
  · simp [hr]
  · by_cases hq : q = 0
    · subst hq; simp [hr, Ne.symm hr]
    · by_cases h : q = r
      · subst h; simp [hr]
      · simp [hr, hq, h, look_put_ne]
/-- What a predicate register reads as after a write. -/
theorem preg_setPreg (x : CoreSt) (r q : Nat) (w : BitVec 128) :
    preg (setPreg x r w) q = if q = r ∧ r ≠ 0 then w else preg x q := by
  unfold preg setPreg
  by_cases hr : r = 0
  · simp [hr]
  · by_cases hq : q = 0
    · subst hq; simp [hr, Ne.symm hr]
    · by_cases h : q = r
      · subst h; simp [hr]
      · simp [hr, hq, h, look_put_ne]
/-- What a vector register reads as after a write. -/
theorem vreg_setVreg (x : CoreSt) (r q : Nat) (w : Vec) : vreg (setVreg x r w) q = if q = r then w else vreg x q :=
  look_put _ _ _ _ _
/-- What a descriptor register reads as after a write. -/
theorem dreg_setDreg (x : CoreSt) (r q : Nat) (w : Desc) : dreg (setDreg x r w) q = if q = r then w else dreg x q :=
  look_put _ _ _ _ _
/-- What a control word reads as after a write. -/
theorem getCw_setCw (x : CoreSt) (r q : Nat) (w : Word) : getCw (setCw x r w) q = if q = r then w else getCw x q :=
  look_put _ _ _ _ _

@[simp] theorem setVreg_g (x : CoreSt) (r : Nat) (w : Vec) : (setVreg x r w).g = x.g := rfl
@[simp] theorem setVreg_p (x : CoreSt) (r : Nat) (w : Vec) : (setVreg x r w).p = x.p := rfl
@[simp] theorem setVreg_d (x : CoreSt) (r : Nat) (w : Vec) : (setVreg x r w).d = x.d := rfl
@[simp] theorem setVreg_cw (x : CoreSt) (r : Nat) (w : Vec) : (setVreg x r w).cw = x.cw := rfl
@[simp] theorem setVreg_pc (x : CoreSt) (r : Nat) (w : Vec) : (setVreg x r w).pc = x.pc := rfl
@[simp] theorem setVreg_last (x : CoreSt) (r : Nat) (w : Vec) : (setVreg x r w).last = x.last := rfl
@[simp] theorem setVreg_run (x : CoreSt) (r : Nat) (w : Vec) : (setVreg x r w).run = x.run := rfl
@[simp] theorem setVreg_lastCode (x : CoreSt) (r : Nat) (w : Vec) : (setVreg x r w).lastCode = x.lastCode := rfl
@[simp] theorem setVreg_resetting (x : CoreSt) (r : Nat) (w : Vec) : (setVreg x r w).resetting = x.resetting := rfl
@[simp] theorem setVreg_halting (x : CoreSt) (r : Nat) (w : Vec) : (setVreg x r w).halting = x.halting := rfl
@[simp] theorem setVreg_wait (x : CoreSt) (r : Nat) (w : Vec) : (setVreg x r w).wait = x.wait := rfl
@[simp] theorem setVreg_waitSince (x : CoreSt) (r : Nat) (w : Vec) : (setVreg x r w).waitSince = x.waitSince := rfl
@[simp] theorem setVreg_waited (x : CoreSt) (r : Nat) (w : Vec) : (setVreg x r w).waited = x.waited := rfl
@[simp] theorem setVreg_cyc10 (x : CoreSt) (r : Nat) (w : Vec) : (setVreg x r w).cyc10 = x.cyc10 := rfl
@[simp] theorem setVreg_wdogNs (x : CoreSt) (r : Nat) (w : Vec) : (setVreg x r w).wdogNs = x.wdogNs := rfl
@[simp] theorem setVreg_seen (x : CoreSt) (r : Nat) (w : Vec) : (setVreg x r w).seen = x.seen := rfl
@[simp] theorem setVreg_buf (x : CoreSt) (r : Nat) (w : Vec) : (setVreg x r w).buf = x.buf := rfl
@[simp] theorem setVreg_failed (x : CoreSt) (r : Nat) (w : Vec) : (setVreg x r w).failed = x.failed := rfl
@[simp] theorem setVreg_deferred (x : CoreSt) (r : Nat) (w : Vec) : (setVreg x r w).deferred = x.deferred := rfl
@[simp] theorem setVreg_more (x : CoreSt) (r : Nat) (w : Vec) : (setVreg x r w).more = x.more := rfl
@[simp] theorem setVreg_dbl (x : CoreSt) (r : Nat) (w : Vec) : (setVreg x r w).dbl = x.dbl := rfl
@[simp] theorem setVreg_pref (x : CoreSt) (r : Nat) (w : Vec) : (setVreg x r w).pref = x.pref := rfl
@[simp] theorem setVreg_prefOrder (x : CoreSt) (r : Nat) (w : Vec) : (setVreg x r w).prefOrder = x.prefOrder := rfl
@[simp] theorem setVreg_asked (x : CoreSt) (r : Nat) (w : Vec) : (setVreg x r w).asked = x.asked := rfl
@[simp] theorem setVreg_ra (x : CoreSt) (r : Nat) (w : Vec) : (setVreg x r w).ra = x.ra := rfl
@[simp] theorem setVreg_loads (x : CoreSt) (r : Nat) (w : Vec) : (setVreg x r w).loads = x.loads := rfl
@[simp] theorem setVreg_discarded (x : CoreSt) (r : Nat) (w : Vec) : (setVreg x r w).discarded = x.discarded := rfl
@[simp] theorem setVreg_icache (x : CoreSt) (r : Nat) (w : Vec) : (setVreg x r w).icache = x.icache := rfl
@[simp] theorem setVreg_bht (x : CoreSt) (r : Nat) (w : Vec) : (setVreg x r w).bht = x.bht := rfl
@[simp] theorem setVreg_btb (x : CoreSt) (r : Nat) (w : Vec) : (setVreg x r w).btb = x.btb := rfl
@[simp] theorem setVreg_ras (x : CoreSt) (r : Nat) (w : Vec) : (setVreg x r w).ras = x.ras := rfl
@[simp] theorem setVreg_mispred (x : CoreSt) (r : Nat) (w : Vec) : (setVreg x r w).mispred = x.mispred := rfl
@[simp] theorem setVreg_moves (x : CoreSt) (r : Nat) (w : Vec) : (setVreg x r w).moves = x.moves := rfl
@[simp] theorem setVreg_appends (x : CoreSt) (r : Nat) (w : Vec) : (setVreg x r w).appends = x.appends := rfl
@[simp] theorem setVreg_bind (x : CoreSt) (r : Nat) (w : Vec) : (setVreg x r w).bind = x.bind := rfl
@[simp] theorem setVreg_streams (x : CoreSt) (r : Nat) (w : Vec) : (setVreg x r w).streams = x.streams := rfl
@[simp] theorem setVreg_msgs (x : CoreSt) (r : Nat) (w : Vec) : (setVreg x r w).msgs = x.msgs := rfl
@[simp] theorem setVreg_blk (x : CoreSt) (r : Nat) (w : Vec) : (setVreg x r w).blk = x.blk := rfl
@[simp] theorem setVreg_blkobj (x : CoreSt) (r : Nat) (w : Vec) : (setVreg x r w).blkobj = x.blkobj := rfl
@[simp] theorem setVreg_wfmt (x : CoreSt) (r : Nat) (w : Vec) : (setVreg x r w).wfmt = x.wfmt := rfl
@[simp] theorem setVreg_noPress (x : CoreSt) (r : Nat) (w : Vec) : (setVreg x r w).noPress = x.noPress := rfl
@[simp] theorem setVreg_pFaults (x : CoreSt) (r : Nat) (w : Vec) : (setVreg x r w).pFaults = x.pFaults := rfl
@[simp] theorem setVreg_pFlags (x : CoreSt) (r : Nat) (w : Vec) : (setVreg x r w).pFlags = x.pFlags := rfl
@[simp] theorem setVreg_nbFaults (x : CoreSt) (r : Nat) (w : Vec) : (setVreg x r w).nbFaults = x.nbFaults := rfl
@[simp] theorem setVreg_nbFlags (x : CoreSt) (r : Nat) (w : Vec) : (setVreg x r w).nbFlags = x.nbFlags := rfl
@[simp] theorem setVreg_waitPload (x : CoreSt) (r : Nat) (w : Vec) : (setVreg x r w).waitPload = x.waitPload := rfl
@[simp] theorem setDreg_g (x : CoreSt) (r : Nat) (w : Desc) : (setDreg x r w).g = x.g := rfl
@[simp] theorem setDreg_v (x : CoreSt) (r : Nat) (w : Desc) : (setDreg x r w).v = x.v := rfl
@[simp] theorem setDreg_p (x : CoreSt) (r : Nat) (w : Desc) : (setDreg x r w).p = x.p := rfl
@[simp] theorem setDreg_cw (x : CoreSt) (r : Nat) (w : Desc) : (setDreg x r w).cw = x.cw := rfl
@[simp] theorem setDreg_pc (x : CoreSt) (r : Nat) (w : Desc) : (setDreg x r w).pc = x.pc := rfl
@[simp] theorem setDreg_last (x : CoreSt) (r : Nat) (w : Desc) : (setDreg x r w).last = x.last := rfl
@[simp] theorem setDreg_run (x : CoreSt) (r : Nat) (w : Desc) : (setDreg x r w).run = x.run := rfl
@[simp] theorem setDreg_lastCode (x : CoreSt) (r : Nat) (w : Desc) : (setDreg x r w).lastCode = x.lastCode := rfl
@[simp] theorem setDreg_resetting (x : CoreSt) (r : Nat) (w : Desc) : (setDreg x r w).resetting = x.resetting := rfl
@[simp] theorem setDreg_halting (x : CoreSt) (r : Nat) (w : Desc) : (setDreg x r w).halting = x.halting := rfl
@[simp] theorem setDreg_wait (x : CoreSt) (r : Nat) (w : Desc) : (setDreg x r w).wait = x.wait := rfl
@[simp] theorem setDreg_waitSince (x : CoreSt) (r : Nat) (w : Desc) : (setDreg x r w).waitSince = x.waitSince := rfl
@[simp] theorem setDreg_waited (x : CoreSt) (r : Nat) (w : Desc) : (setDreg x r w).waited = x.waited := rfl
@[simp] theorem setDreg_cyc10 (x : CoreSt) (r : Nat) (w : Desc) : (setDreg x r w).cyc10 = x.cyc10 := rfl
@[simp] theorem setDreg_wdogNs (x : CoreSt) (r : Nat) (w : Desc) : (setDreg x r w).wdogNs = x.wdogNs := rfl
@[simp] theorem setDreg_seen (x : CoreSt) (r : Nat) (w : Desc) : (setDreg x r w).seen = x.seen := rfl
@[simp] theorem setDreg_buf (x : CoreSt) (r : Nat) (w : Desc) : (setDreg x r w).buf = x.buf := rfl
@[simp] theorem setDreg_failed (x : CoreSt) (r : Nat) (w : Desc) : (setDreg x r w).failed = x.failed := rfl
@[simp] theorem setDreg_deferred (x : CoreSt) (r : Nat) (w : Desc) : (setDreg x r w).deferred = x.deferred := rfl
@[simp] theorem setDreg_more (x : CoreSt) (r : Nat) (w : Desc) : (setDreg x r w).more = x.more := rfl
@[simp] theorem setDreg_dbl (x : CoreSt) (r : Nat) (w : Desc) : (setDreg x r w).dbl = x.dbl := rfl
@[simp] theorem setDreg_pref (x : CoreSt) (r : Nat) (w : Desc) : (setDreg x r w).pref = x.pref := rfl
@[simp] theorem setDreg_prefOrder (x : CoreSt) (r : Nat) (w : Desc) : (setDreg x r w).prefOrder = x.prefOrder := rfl
@[simp] theorem setDreg_asked (x : CoreSt) (r : Nat) (w : Desc) : (setDreg x r w).asked = x.asked := rfl
@[simp] theorem setDreg_ra (x : CoreSt) (r : Nat) (w : Desc) : (setDreg x r w).ra = x.ra := rfl
@[simp] theorem setDreg_loads (x : CoreSt) (r : Nat) (w : Desc) : (setDreg x r w).loads = x.loads := rfl
@[simp] theorem setDreg_discarded (x : CoreSt) (r : Nat) (w : Desc) : (setDreg x r w).discarded = x.discarded := rfl
@[simp] theorem setDreg_icache (x : CoreSt) (r : Nat) (w : Desc) : (setDreg x r w).icache = x.icache := rfl
@[simp] theorem setDreg_bht (x : CoreSt) (r : Nat) (w : Desc) : (setDreg x r w).bht = x.bht := rfl
@[simp] theorem setDreg_btb (x : CoreSt) (r : Nat) (w : Desc) : (setDreg x r w).btb = x.btb := rfl
@[simp] theorem setDreg_ras (x : CoreSt) (r : Nat) (w : Desc) : (setDreg x r w).ras = x.ras := rfl
@[simp] theorem setDreg_mispred (x : CoreSt) (r : Nat) (w : Desc) : (setDreg x r w).mispred = x.mispred := rfl
@[simp] theorem setDreg_moves (x : CoreSt) (r : Nat) (w : Desc) : (setDreg x r w).moves = x.moves := rfl
@[simp] theorem setDreg_appends (x : CoreSt) (r : Nat) (w : Desc) : (setDreg x r w).appends = x.appends := rfl
@[simp] theorem setDreg_bind (x : CoreSt) (r : Nat) (w : Desc) : (setDreg x r w).bind = x.bind := rfl
@[simp] theorem setDreg_streams (x : CoreSt) (r : Nat) (w : Desc) : (setDreg x r w).streams = x.streams := rfl
@[simp] theorem setDreg_msgs (x : CoreSt) (r : Nat) (w : Desc) : (setDreg x r w).msgs = x.msgs := rfl
@[simp] theorem setDreg_blk (x : CoreSt) (r : Nat) (w : Desc) : (setDreg x r w).blk = x.blk := rfl
@[simp] theorem setDreg_blkobj (x : CoreSt) (r : Nat) (w : Desc) : (setDreg x r w).blkobj = x.blkobj := rfl
@[simp] theorem setDreg_wfmt (x : CoreSt) (r : Nat) (w : Desc) : (setDreg x r w).wfmt = x.wfmt := rfl
@[simp] theorem setDreg_noPress (x : CoreSt) (r : Nat) (w : Desc) : (setDreg x r w).noPress = x.noPress := rfl
@[simp] theorem setDreg_pFaults (x : CoreSt) (r : Nat) (w : Desc) : (setDreg x r w).pFaults = x.pFaults := rfl
@[simp] theorem setDreg_pFlags (x : CoreSt) (r : Nat) (w : Desc) : (setDreg x r w).pFlags = x.pFlags := rfl
@[simp] theorem setDreg_nbFaults (x : CoreSt) (r : Nat) (w : Desc) : (setDreg x r w).nbFaults = x.nbFaults := rfl
@[simp] theorem setDreg_nbFlags (x : CoreSt) (r : Nat) (w : Desc) : (setDreg x r w).nbFlags = x.nbFlags := rfl
@[simp] theorem setDreg_waitPload (x : CoreSt) (r : Nat) (w : Desc) : (setDreg x r w).waitPload = x.waitPload := rfl
@[simp] theorem setCw_g (x : CoreSt) (r : Nat) (w : Word) : (setCw x r w).g = x.g := rfl
@[simp] theorem setCw_v (x : CoreSt) (r : Nat) (w : Word) : (setCw x r w).v = x.v := rfl
@[simp] theorem setCw_p (x : CoreSt) (r : Nat) (w : Word) : (setCw x r w).p = x.p := rfl
@[simp] theorem setCw_d (x : CoreSt) (r : Nat) (w : Word) : (setCw x r w).d = x.d := rfl
@[simp] theorem setCw_pc (x : CoreSt) (r : Nat) (w : Word) : (setCw x r w).pc = x.pc := rfl
@[simp] theorem setCw_last (x : CoreSt) (r : Nat) (w : Word) : (setCw x r w).last = x.last := rfl
@[simp] theorem setCw_run (x : CoreSt) (r : Nat) (w : Word) : (setCw x r w).run = x.run := rfl
@[simp] theorem setCw_lastCode (x : CoreSt) (r : Nat) (w : Word) : (setCw x r w).lastCode = x.lastCode := rfl
@[simp] theorem setCw_resetting (x : CoreSt) (r : Nat) (w : Word) : (setCw x r w).resetting = x.resetting := rfl
@[simp] theorem setCw_halting (x : CoreSt) (r : Nat) (w : Word) : (setCw x r w).halting = x.halting := rfl
@[simp] theorem setCw_wait (x : CoreSt) (r : Nat) (w : Word) : (setCw x r w).wait = x.wait := rfl
@[simp] theorem setCw_waitSince (x : CoreSt) (r : Nat) (w : Word) : (setCw x r w).waitSince = x.waitSince := rfl
@[simp] theorem setCw_waited (x : CoreSt) (r : Nat) (w : Word) : (setCw x r w).waited = x.waited := rfl
@[simp] theorem setCw_cyc10 (x : CoreSt) (r : Nat) (w : Word) : (setCw x r w).cyc10 = x.cyc10 := rfl
@[simp] theorem setCw_wdogNs (x : CoreSt) (r : Nat) (w : Word) : (setCw x r w).wdogNs = x.wdogNs := rfl
@[simp] theorem setCw_seen (x : CoreSt) (r : Nat) (w : Word) : (setCw x r w).seen = x.seen := rfl
@[simp] theorem setCw_buf (x : CoreSt) (r : Nat) (w : Word) : (setCw x r w).buf = x.buf := rfl
@[simp] theorem setCw_failed (x : CoreSt) (r : Nat) (w : Word) : (setCw x r w).failed = x.failed := rfl
@[simp] theorem setCw_deferred (x : CoreSt) (r : Nat) (w : Word) : (setCw x r w).deferred = x.deferred := rfl
@[simp] theorem setCw_more (x : CoreSt) (r : Nat) (w : Word) : (setCw x r w).more = x.more := rfl
@[simp] theorem setCw_dbl (x : CoreSt) (r : Nat) (w : Word) : (setCw x r w).dbl = x.dbl := rfl
@[simp] theorem setCw_pref (x : CoreSt) (r : Nat) (w : Word) : (setCw x r w).pref = x.pref := rfl
@[simp] theorem setCw_prefOrder (x : CoreSt) (r : Nat) (w : Word) : (setCw x r w).prefOrder = x.prefOrder := rfl
@[simp] theorem setCw_asked (x : CoreSt) (r : Nat) (w : Word) : (setCw x r w).asked = x.asked := rfl
@[simp] theorem setCw_ra (x : CoreSt) (r : Nat) (w : Word) : (setCw x r w).ra = x.ra := rfl
@[simp] theorem setCw_loads (x : CoreSt) (r : Nat) (w : Word) : (setCw x r w).loads = x.loads := rfl
@[simp] theorem setCw_discarded (x : CoreSt) (r : Nat) (w : Word) : (setCw x r w).discarded = x.discarded := rfl
@[simp] theorem setCw_icache (x : CoreSt) (r : Nat) (w : Word) : (setCw x r w).icache = x.icache := rfl
@[simp] theorem setCw_bht (x : CoreSt) (r : Nat) (w : Word) : (setCw x r w).bht = x.bht := rfl
@[simp] theorem setCw_btb (x : CoreSt) (r : Nat) (w : Word) : (setCw x r w).btb = x.btb := rfl
@[simp] theorem setCw_ras (x : CoreSt) (r : Nat) (w : Word) : (setCw x r w).ras = x.ras := rfl
@[simp] theorem setCw_mispred (x : CoreSt) (r : Nat) (w : Word) : (setCw x r w).mispred = x.mispred := rfl
@[simp] theorem setCw_moves (x : CoreSt) (r : Nat) (w : Word) : (setCw x r w).moves = x.moves := rfl
@[simp] theorem setCw_appends (x : CoreSt) (r : Nat) (w : Word) : (setCw x r w).appends = x.appends := rfl
@[simp] theorem setCw_bind (x : CoreSt) (r : Nat) (w : Word) : (setCw x r w).bind = x.bind := rfl
@[simp] theorem setCw_streams (x : CoreSt) (r : Nat) (w : Word) : (setCw x r w).streams = x.streams := rfl
@[simp] theorem setCw_msgs (x : CoreSt) (r : Nat) (w : Word) : (setCw x r w).msgs = x.msgs := rfl
@[simp] theorem setCw_blk (x : CoreSt) (r : Nat) (w : Word) : (setCw x r w).blk = x.blk := rfl
@[simp] theorem setCw_blkobj (x : CoreSt) (r : Nat) (w : Word) : (setCw x r w).blkobj = x.blkobj := rfl
@[simp] theorem setCw_wfmt (x : CoreSt) (r : Nat) (w : Word) : (setCw x r w).wfmt = x.wfmt := rfl
@[simp] theorem setCw_noPress (x : CoreSt) (r : Nat) (w : Word) : (setCw x r w).noPress = x.noPress := rfl
@[simp] theorem setCw_pFaults (x : CoreSt) (r : Nat) (w : Word) : (setCw x r w).pFaults = x.pFaults := rfl
@[simp] theorem setCw_pFlags (x : CoreSt) (r : Nat) (w : Word) : (setCw x r w).pFlags = x.pFlags := rfl
@[simp] theorem setCw_nbFaults (x : CoreSt) (r : Nat) (w : Word) : (setCw x r w).nbFaults = x.nbFaults := rfl
@[simp] theorem setCw_nbFlags (x : CoreSt) (r : Nat) (w : Word) : (setCw x r w).nbFlags = x.nbFlags := rfl
@[simp] theorem setCw_waitPload (x : CoreSt) (r : Nat) (w : Word) : (setCw x r w).waitPload = x.waitPload := rfl
@[simp] theorem setFlags_g (x : CoreSt) (r : Nat) : (setFlags x r).g = x.g := rfl
@[simp] theorem setFlags_v (x : CoreSt) (r : Nat) : (setFlags x r).v = x.v := rfl
@[simp] theorem setFlags_p (x : CoreSt) (r : Nat) : (setFlags x r).p = x.p := rfl
@[simp] theorem setFlags_d (x : CoreSt) (r : Nat) : (setFlags x r).d = x.d := rfl
@[simp] theorem setFlags_pc (x : CoreSt) (r : Nat) : (setFlags x r).pc = x.pc := rfl
@[simp] theorem setFlags_last (x : CoreSt) (r : Nat) : (setFlags x r).last = x.last := rfl
@[simp] theorem setFlags_run (x : CoreSt) (r : Nat) : (setFlags x r).run = x.run := rfl
@[simp] theorem setFlags_lastCode (x : CoreSt) (r : Nat) : (setFlags x r).lastCode = x.lastCode := rfl
@[simp] theorem setFlags_resetting (x : CoreSt) (r : Nat) : (setFlags x r).resetting = x.resetting := rfl
@[simp] theorem setFlags_halting (x : CoreSt) (r : Nat) : (setFlags x r).halting = x.halting := rfl
@[simp] theorem setFlags_wait (x : CoreSt) (r : Nat) : (setFlags x r).wait = x.wait := rfl
@[simp] theorem setFlags_waitSince (x : CoreSt) (r : Nat) : (setFlags x r).waitSince = x.waitSince := rfl
@[simp] theorem setFlags_waited (x : CoreSt) (r : Nat) : (setFlags x r).waited = x.waited := rfl
@[simp] theorem setFlags_cyc10 (x : CoreSt) (r : Nat) : (setFlags x r).cyc10 = x.cyc10 := rfl
@[simp] theorem setFlags_wdogNs (x : CoreSt) (r : Nat) : (setFlags x r).wdogNs = x.wdogNs := rfl
@[simp] theorem setFlags_seen (x : CoreSt) (r : Nat) : (setFlags x r).seen = x.seen := rfl
@[simp] theorem setFlags_buf (x : CoreSt) (r : Nat) : (setFlags x r).buf = x.buf := rfl
@[simp] theorem setFlags_failed (x : CoreSt) (r : Nat) : (setFlags x r).failed = x.failed := rfl
@[simp] theorem setFlags_deferred (x : CoreSt) (r : Nat) : (setFlags x r).deferred = x.deferred := rfl
@[simp] theorem setFlags_more (x : CoreSt) (r : Nat) : (setFlags x r).more = x.more := rfl
@[simp] theorem setFlags_dbl (x : CoreSt) (r : Nat) : (setFlags x r).dbl = x.dbl := rfl
@[simp] theorem setFlags_pref (x : CoreSt) (r : Nat) : (setFlags x r).pref = x.pref := rfl
@[simp] theorem setFlags_prefOrder (x : CoreSt) (r : Nat) : (setFlags x r).prefOrder = x.prefOrder := rfl
@[simp] theorem setFlags_asked (x : CoreSt) (r : Nat) : (setFlags x r).asked = x.asked := rfl
@[simp] theorem setFlags_ra (x : CoreSt) (r : Nat) : (setFlags x r).ra = x.ra := rfl
@[simp] theorem setFlags_loads (x : CoreSt) (r : Nat) : (setFlags x r).loads = x.loads := rfl
@[simp] theorem setFlags_discarded (x : CoreSt) (r : Nat) : (setFlags x r).discarded = x.discarded := rfl
@[simp] theorem setFlags_icache (x : CoreSt) (r : Nat) : (setFlags x r).icache = x.icache := rfl
@[simp] theorem setFlags_bht (x : CoreSt) (r : Nat) : (setFlags x r).bht = x.bht := rfl
@[simp] theorem setFlags_btb (x : CoreSt) (r : Nat) : (setFlags x r).btb = x.btb := rfl
@[simp] theorem setFlags_ras (x : CoreSt) (r : Nat) : (setFlags x r).ras = x.ras := rfl
@[simp] theorem setFlags_mispred (x : CoreSt) (r : Nat) : (setFlags x r).mispred = x.mispred := rfl
@[simp] theorem setFlags_moves (x : CoreSt) (r : Nat) : (setFlags x r).moves = x.moves := rfl
@[simp] theorem setFlags_appends (x : CoreSt) (r : Nat) : (setFlags x r).appends = x.appends := rfl
@[simp] theorem setFlags_bind (x : CoreSt) (r : Nat) : (setFlags x r).bind = x.bind := rfl
@[simp] theorem setFlags_streams (x : CoreSt) (r : Nat) : (setFlags x r).streams = x.streams := rfl
@[simp] theorem setFlags_msgs (x : CoreSt) (r : Nat) : (setFlags x r).msgs = x.msgs := rfl
@[simp] theorem setFlags_blk (x : CoreSt) (r : Nat) : (setFlags x r).blk = x.blk := rfl
@[simp] theorem setFlags_blkobj (x : CoreSt) (r : Nat) : (setFlags x r).blkobj = x.blkobj := rfl
@[simp] theorem setFlags_wfmt (x : CoreSt) (r : Nat) : (setFlags x r).wfmt = x.wfmt := rfl
@[simp] theorem setFlags_noPress (x : CoreSt) (r : Nat) : (setFlags x r).noPress = x.noPress := rfl
@[simp] theorem setFlags_pFaults (x : CoreSt) (r : Nat) : (setFlags x r).pFaults = x.pFaults := rfl
@[simp] theorem setFlags_pFlags (x : CoreSt) (r : Nat) : (setFlags x r).pFlags = x.pFlags := rfl
@[simp] theorem setFlags_nbFaults (x : CoreSt) (r : Nat) : (setFlags x r).nbFaults = x.nbFaults := rfl
@[simp] theorem setFlags_nbFlags (x : CoreSt) (r : Nat) : (setFlags x r).nbFlags = x.nbFlags := rfl
@[simp] theorem setFlags_waitPload (x : CoreSt) (r : Nat) : (setFlags x r).waitPload = x.waitPload := rfl
@[simp] theorem setEventBits_g (x : CoreSt) (w : Word) : (setEventBits x w).g = x.g := rfl
@[simp] theorem setEventBits_v (x : CoreSt) (w : Word) : (setEventBits x w).v = x.v := rfl
@[simp] theorem setEventBits_p (x : CoreSt) (w : Word) : (setEventBits x w).p = x.p := rfl
@[simp] theorem setEventBits_d (x : CoreSt) (w : Word) : (setEventBits x w).d = x.d := rfl
@[simp] theorem setEventBits_pc (x : CoreSt) (w : Word) : (setEventBits x w).pc = x.pc := rfl
@[simp] theorem setEventBits_last (x : CoreSt) (w : Word) : (setEventBits x w).last = x.last := rfl
@[simp] theorem setEventBits_run (x : CoreSt) (w : Word) : (setEventBits x w).run = x.run := rfl
@[simp] theorem setEventBits_lastCode (x : CoreSt) (w : Word) : (setEventBits x w).lastCode = x.lastCode := rfl
@[simp] theorem setEventBits_resetting (x : CoreSt) (w : Word) : (setEventBits x w).resetting = x.resetting := rfl
@[simp] theorem setEventBits_halting (x : CoreSt) (w : Word) : (setEventBits x w).halting = x.halting := rfl
@[simp] theorem setEventBits_wait (x : CoreSt) (w : Word) : (setEventBits x w).wait = x.wait := rfl
@[simp] theorem setEventBits_waitSince (x : CoreSt) (w : Word) : (setEventBits x w).waitSince = x.waitSince := rfl
@[simp] theorem setEventBits_waited (x : CoreSt) (w : Word) : (setEventBits x w).waited = x.waited := rfl
@[simp] theorem setEventBits_cyc10 (x : CoreSt) (w : Word) : (setEventBits x w).cyc10 = x.cyc10 := rfl
@[simp] theorem setEventBits_wdogNs (x : CoreSt) (w : Word) : (setEventBits x w).wdogNs = x.wdogNs := rfl
@[simp] theorem setEventBits_seen (x : CoreSt) (w : Word) : (setEventBits x w).seen = x.seen := rfl
@[simp] theorem setEventBits_buf (x : CoreSt) (w : Word) : (setEventBits x w).buf = x.buf := rfl
@[simp] theorem setEventBits_failed (x : CoreSt) (w : Word) : (setEventBits x w).failed = x.failed := rfl
@[simp] theorem setEventBits_deferred (x : CoreSt) (w : Word) : (setEventBits x w).deferred = x.deferred := rfl
@[simp] theorem setEventBits_more (x : CoreSt) (w : Word) : (setEventBits x w).more = x.more := rfl
@[simp] theorem setEventBits_dbl (x : CoreSt) (w : Word) : (setEventBits x w).dbl = x.dbl := rfl
@[simp] theorem setEventBits_pref (x : CoreSt) (w : Word) : (setEventBits x w).pref = x.pref := rfl
@[simp] theorem setEventBits_prefOrder (x : CoreSt) (w : Word) : (setEventBits x w).prefOrder = x.prefOrder := rfl
@[simp] theorem setEventBits_asked (x : CoreSt) (w : Word) : (setEventBits x w).asked = x.asked := rfl
@[simp] theorem setEventBits_ra (x : CoreSt) (w : Word) : (setEventBits x w).ra = x.ra := rfl
@[simp] theorem setEventBits_loads (x : CoreSt) (w : Word) : (setEventBits x w).loads = x.loads := rfl
@[simp] theorem setEventBits_discarded (x : CoreSt) (w : Word) : (setEventBits x w).discarded = x.discarded := rfl
@[simp] theorem setEventBits_icache (x : CoreSt) (w : Word) : (setEventBits x w).icache = x.icache := rfl
@[simp] theorem setEventBits_bht (x : CoreSt) (w : Word) : (setEventBits x w).bht = x.bht := rfl
@[simp] theorem setEventBits_btb (x : CoreSt) (w : Word) : (setEventBits x w).btb = x.btb := rfl
@[simp] theorem setEventBits_ras (x : CoreSt) (w : Word) : (setEventBits x w).ras = x.ras := rfl
@[simp] theorem setEventBits_mispred (x : CoreSt) (w : Word) : (setEventBits x w).mispred = x.mispred := rfl
@[simp] theorem setEventBits_moves (x : CoreSt) (w : Word) : (setEventBits x w).moves = x.moves := rfl
@[simp] theorem setEventBits_appends (x : CoreSt) (w : Word) : (setEventBits x w).appends = x.appends := rfl
@[simp] theorem setEventBits_bind (x : CoreSt) (w : Word) : (setEventBits x w).bind = x.bind := rfl
@[simp] theorem setEventBits_streams (x : CoreSt) (w : Word) : (setEventBits x w).streams = x.streams := rfl
@[simp] theorem setEventBits_msgs (x : CoreSt) (w : Word) : (setEventBits x w).msgs = x.msgs := rfl
@[simp] theorem setEventBits_blk (x : CoreSt) (w : Word) : (setEventBits x w).blk = x.blk := rfl
@[simp] theorem setEventBits_blkobj (x : CoreSt) (w : Word) : (setEventBits x w).blkobj = x.blkobj := rfl
@[simp] theorem setEventBits_wfmt (x : CoreSt) (w : Word) : (setEventBits x w).wfmt = x.wfmt := rfl
@[simp] theorem setEventBits_noPress (x : CoreSt) (w : Word) : (setEventBits x w).noPress = x.noPress := rfl
@[simp] theorem setEventBits_pFaults (x : CoreSt) (w : Word) : (setEventBits x w).pFaults = x.pFaults := rfl
@[simp] theorem setEventBits_pFlags (x : CoreSt) (w : Word) : (setEventBits x w).pFlags = x.pFlags := rfl
@[simp] theorem setEventBits_nbFaults (x : CoreSt) (w : Word) : (setEventBits x w).nbFaults = x.nbFaults := rfl
@[simp] theorem setEventBits_nbFlags (x : CoreSt) (w : Word) : (setEventBits x w).nbFlags = x.nbFlags := rfl
@[simp] theorem setEventBits_waitPload (x : CoreSt) (w : Word) : (setEventBits x w).waitPload = x.waitPload := rfl
@[simp] theorem setStream_g (x : CoreSt) (e : Nat) (t : Stream) : (setStream x e t).g = x.g := rfl
@[simp] theorem setStream_v (x : CoreSt) (e : Nat) (t : Stream) : (setStream x e t).v = x.v := rfl
@[simp] theorem setStream_p (x : CoreSt) (e : Nat) (t : Stream) : (setStream x e t).p = x.p := rfl
@[simp] theorem setStream_d (x : CoreSt) (e : Nat) (t : Stream) : (setStream x e t).d = x.d := rfl
@[simp] theorem setStream_cw (x : CoreSt) (e : Nat) (t : Stream) : (setStream x e t).cw = x.cw := rfl
@[simp] theorem setStream_pc (x : CoreSt) (e : Nat) (t : Stream) : (setStream x e t).pc = x.pc := rfl
@[simp] theorem setStream_last (x : CoreSt) (e : Nat) (t : Stream) : (setStream x e t).last = x.last := rfl
@[simp] theorem setStream_run (x : CoreSt) (e : Nat) (t : Stream) : (setStream x e t).run = x.run := rfl
@[simp] theorem setStream_lastCode (x : CoreSt) (e : Nat) (t : Stream) : (setStream x e t).lastCode = x.lastCode := rfl
@[simp] theorem setStream_resetting (x : CoreSt) (e : Nat) (t : Stream) : (setStream x e t).resetting = x.resetting := rfl
@[simp] theorem setStream_halting (x : CoreSt) (e : Nat) (t : Stream) : (setStream x e t).halting = x.halting := rfl
@[simp] theorem setStream_wait (x : CoreSt) (e : Nat) (t : Stream) : (setStream x e t).wait = x.wait := rfl
@[simp] theorem setStream_waitSince (x : CoreSt) (e : Nat) (t : Stream) : (setStream x e t).waitSince = x.waitSince := rfl
@[simp] theorem setStream_waited (x : CoreSt) (e : Nat) (t : Stream) : (setStream x e t).waited = x.waited := rfl
@[simp] theorem setStream_cyc10 (x : CoreSt) (e : Nat) (t : Stream) : (setStream x e t).cyc10 = x.cyc10 := rfl
@[simp] theorem setStream_wdogNs (x : CoreSt) (e : Nat) (t : Stream) : (setStream x e t).wdogNs = x.wdogNs := rfl
@[simp] theorem setStream_seen (x : CoreSt) (e : Nat) (t : Stream) : (setStream x e t).seen = x.seen := rfl
@[simp] theorem setStream_buf (x : CoreSt) (e : Nat) (t : Stream) : (setStream x e t).buf = x.buf := rfl
@[simp] theorem setStream_failed (x : CoreSt) (e : Nat) (t : Stream) : (setStream x e t).failed = x.failed := rfl
@[simp] theorem setStream_deferred (x : CoreSt) (e : Nat) (t : Stream) : (setStream x e t).deferred = x.deferred := rfl
@[simp] theorem setStream_more (x : CoreSt) (e : Nat) (t : Stream) : (setStream x e t).more = x.more := rfl
@[simp] theorem setStream_dbl (x : CoreSt) (e : Nat) (t : Stream) : (setStream x e t).dbl = x.dbl := rfl
@[simp] theorem setStream_pref (x : CoreSt) (e : Nat) (t : Stream) : (setStream x e t).pref = x.pref := rfl
@[simp] theorem setStream_prefOrder (x : CoreSt) (e : Nat) (t : Stream) : (setStream x e t).prefOrder = x.prefOrder := rfl
@[simp] theorem setStream_asked (x : CoreSt) (e : Nat) (t : Stream) : (setStream x e t).asked = x.asked := rfl
@[simp] theorem setStream_ra (x : CoreSt) (e : Nat) (t : Stream) : (setStream x e t).ra = x.ra := rfl
@[simp] theorem setStream_loads (x : CoreSt) (e : Nat) (t : Stream) : (setStream x e t).loads = x.loads := rfl
@[simp] theorem setStream_discarded (x : CoreSt) (e : Nat) (t : Stream) : (setStream x e t).discarded = x.discarded := rfl
@[simp] theorem setStream_icache (x : CoreSt) (e : Nat) (t : Stream) : (setStream x e t).icache = x.icache := rfl
@[simp] theorem setStream_bht (x : CoreSt) (e : Nat) (t : Stream) : (setStream x e t).bht = x.bht := rfl
@[simp] theorem setStream_btb (x : CoreSt) (e : Nat) (t : Stream) : (setStream x e t).btb = x.btb := rfl
@[simp] theorem setStream_ras (x : CoreSt) (e : Nat) (t : Stream) : (setStream x e t).ras = x.ras := rfl
@[simp] theorem setStream_mispred (x : CoreSt) (e : Nat) (t : Stream) : (setStream x e t).mispred = x.mispred := rfl
@[simp] theorem setStream_moves (x : CoreSt) (e : Nat) (t : Stream) : (setStream x e t).moves = x.moves := rfl
@[simp] theorem setStream_appends (x : CoreSt) (e : Nat) (t : Stream) : (setStream x e t).appends = x.appends := rfl
@[simp] theorem setStream_bind (x : CoreSt) (e : Nat) (t : Stream) : (setStream x e t).bind = x.bind := rfl
@[simp] theorem setStream_msgs (x : CoreSt) (e : Nat) (t : Stream) : (setStream x e t).msgs = x.msgs := rfl
@[simp] theorem setStream_blk (x : CoreSt) (e : Nat) (t : Stream) : (setStream x e t).blk = x.blk := rfl
@[simp] theorem setStream_blkobj (x : CoreSt) (e : Nat) (t : Stream) : (setStream x e t).blkobj = x.blkobj := rfl
@[simp] theorem setStream_wfmt (x : CoreSt) (e : Nat) (t : Stream) : (setStream x e t).wfmt = x.wfmt := rfl
@[simp] theorem setStream_noPress (x : CoreSt) (e : Nat) (t : Stream) : (setStream x e t).noPress = x.noPress := rfl
@[simp] theorem setStream_pFaults (x : CoreSt) (e : Nat) (t : Stream) : (setStream x e t).pFaults = x.pFaults := rfl
@[simp] theorem setStream_pFlags (x : CoreSt) (e : Nat) (t : Stream) : (setStream x e t).pFlags = x.pFlags := rfl
@[simp] theorem setStream_nbFaults (x : CoreSt) (e : Nat) (t : Stream) : (setStream x e t).nbFaults = x.nbFaults := rfl
@[simp] theorem setStream_nbFlags (x : CoreSt) (e : Nat) (t : Stream) : (setStream x e t).nbFlags = x.nbFlags := rfl
@[simp] theorem setStream_waitPload (x : CoreSt) (e : Nat) (t : Stream) : (setStream x e t).waitPload = x.waitPload := rfl
@[simp] theorem setGpr_v (x : CoreSt) (r : Nat) (w : Word) : (setGpr x r w).v = x.v := by
  unfold setGpr; split <;> rfl
@[simp] theorem setGpr_p (x : CoreSt) (r : Nat) (w : Word) : (setGpr x r w).p = x.p := by
  unfold setGpr; split <;> rfl
@[simp] theorem setGpr_d (x : CoreSt) (r : Nat) (w : Word) : (setGpr x r w).d = x.d := by
  unfold setGpr; split <;> rfl
@[simp] theorem setGpr_cw (x : CoreSt) (r : Nat) (w : Word) : (setGpr x r w).cw = x.cw := by
  unfold setGpr; split <;> rfl
@[simp] theorem setGpr_pc (x : CoreSt) (r : Nat) (w : Word) : (setGpr x r w).pc = x.pc := by
  unfold setGpr; split <;> rfl
@[simp] theorem setGpr_last (x : CoreSt) (r : Nat) (w : Word) : (setGpr x r w).last = x.last := by
  unfold setGpr; split <;> rfl
@[simp] theorem setGpr_run (x : CoreSt) (r : Nat) (w : Word) : (setGpr x r w).run = x.run := by
  unfold setGpr; split <;> rfl
@[simp] theorem setGpr_lastCode (x : CoreSt) (r : Nat) (w : Word) : (setGpr x r w).lastCode = x.lastCode := by
  unfold setGpr; split <;> rfl
@[simp] theorem setGpr_resetting (x : CoreSt) (r : Nat) (w : Word) : (setGpr x r w).resetting = x.resetting := by
  unfold setGpr; split <;> rfl
@[simp] theorem setGpr_halting (x : CoreSt) (r : Nat) (w : Word) : (setGpr x r w).halting = x.halting := by
  unfold setGpr; split <;> rfl
@[simp] theorem setGpr_wait (x : CoreSt) (r : Nat) (w : Word) : (setGpr x r w).wait = x.wait := by
  unfold setGpr; split <;> rfl
@[simp] theorem setGpr_waitSince (x : CoreSt) (r : Nat) (w : Word) : (setGpr x r w).waitSince = x.waitSince := by
  unfold setGpr; split <;> rfl
@[simp] theorem setGpr_waited (x : CoreSt) (r : Nat) (w : Word) : (setGpr x r w).waited = x.waited := by
  unfold setGpr; split <;> rfl
@[simp] theorem setGpr_cyc10 (x : CoreSt) (r : Nat) (w : Word) : (setGpr x r w).cyc10 = x.cyc10 := by
  unfold setGpr; split <;> rfl
@[simp] theorem setGpr_wdogNs (x : CoreSt) (r : Nat) (w : Word) : (setGpr x r w).wdogNs = x.wdogNs := by
  unfold setGpr; split <;> rfl
@[simp] theorem setGpr_seen (x : CoreSt) (r : Nat) (w : Word) : (setGpr x r w).seen = x.seen := by
  unfold setGpr; split <;> rfl
@[simp] theorem setGpr_buf (x : CoreSt) (r : Nat) (w : Word) : (setGpr x r w).buf = x.buf := by
  unfold setGpr; split <;> rfl
@[simp] theorem setGpr_failed (x : CoreSt) (r : Nat) (w : Word) : (setGpr x r w).failed = x.failed := by
  unfold setGpr; split <;> rfl
@[simp] theorem setGpr_deferred (x : CoreSt) (r : Nat) (w : Word) : (setGpr x r w).deferred = x.deferred := by
  unfold setGpr; split <;> rfl
@[simp] theorem setGpr_more (x : CoreSt) (r : Nat) (w : Word) : (setGpr x r w).more = x.more := by
  unfold setGpr; split <;> rfl
@[simp] theorem setGpr_dbl (x : CoreSt) (r : Nat) (w : Word) : (setGpr x r w).dbl = x.dbl := by
  unfold setGpr; split <;> rfl
@[simp] theorem setGpr_pref (x : CoreSt) (r : Nat) (w : Word) : (setGpr x r w).pref = x.pref := by
  unfold setGpr; split <;> rfl
@[simp] theorem setGpr_prefOrder (x : CoreSt) (r : Nat) (w : Word) : (setGpr x r w).prefOrder = x.prefOrder := by
  unfold setGpr; split <;> rfl
@[simp] theorem setGpr_asked (x : CoreSt) (r : Nat) (w : Word) : (setGpr x r w).asked = x.asked := by
  unfold setGpr; split <;> rfl
@[simp] theorem setGpr_ra (x : CoreSt) (r : Nat) (w : Word) : (setGpr x r w).ra = x.ra := by
  unfold setGpr; split <;> rfl
@[simp] theorem setGpr_loads (x : CoreSt) (r : Nat) (w : Word) : (setGpr x r w).loads = x.loads := by
  unfold setGpr; split <;> rfl
@[simp] theorem setGpr_discarded (x : CoreSt) (r : Nat) (w : Word) : (setGpr x r w).discarded = x.discarded := by
  unfold setGpr; split <;> rfl
@[simp] theorem setGpr_icache (x : CoreSt) (r : Nat) (w : Word) : (setGpr x r w).icache = x.icache := by
  unfold setGpr; split <;> rfl
@[simp] theorem setGpr_bht (x : CoreSt) (r : Nat) (w : Word) : (setGpr x r w).bht = x.bht := by
  unfold setGpr; split <;> rfl
@[simp] theorem setGpr_btb (x : CoreSt) (r : Nat) (w : Word) : (setGpr x r w).btb = x.btb := by
  unfold setGpr; split <;> rfl
@[simp] theorem setGpr_ras (x : CoreSt) (r : Nat) (w : Word) : (setGpr x r w).ras = x.ras := by
  unfold setGpr; split <;> rfl
@[simp] theorem setGpr_mispred (x : CoreSt) (r : Nat) (w : Word) : (setGpr x r w).mispred = x.mispred := by
  unfold setGpr; split <;> rfl
@[simp] theorem setGpr_moves (x : CoreSt) (r : Nat) (w : Word) : (setGpr x r w).moves = x.moves := by
  unfold setGpr; split <;> rfl
@[simp] theorem setGpr_appends (x : CoreSt) (r : Nat) (w : Word) : (setGpr x r w).appends = x.appends := by
  unfold setGpr; split <;> rfl
@[simp] theorem setGpr_bind (x : CoreSt) (r : Nat) (w : Word) : (setGpr x r w).bind = x.bind := by
  unfold setGpr; split <;> rfl
@[simp] theorem setGpr_streams (x : CoreSt) (r : Nat) (w : Word) : (setGpr x r w).streams = x.streams := by
  unfold setGpr; split <;> rfl
@[simp] theorem setGpr_msgs (x : CoreSt) (r : Nat) (w : Word) : (setGpr x r w).msgs = x.msgs := by
  unfold setGpr; split <;> rfl
@[simp] theorem setGpr_blk (x : CoreSt) (r : Nat) (w : Word) : (setGpr x r w).blk = x.blk := by
  unfold setGpr; split <;> rfl
@[simp] theorem setGpr_blkobj (x : CoreSt) (r : Nat) (w : Word) : (setGpr x r w).blkobj = x.blkobj := by
  unfold setGpr; split <;> rfl
@[simp] theorem setGpr_wfmt (x : CoreSt) (r : Nat) (w : Word) : (setGpr x r w).wfmt = x.wfmt := by
  unfold setGpr; split <;> rfl
@[simp] theorem setGpr_noPress (x : CoreSt) (r : Nat) (w : Word) : (setGpr x r w).noPress = x.noPress := by
  unfold setGpr; split <;> rfl
@[simp] theorem setGpr_pFaults (x : CoreSt) (r : Nat) (w : Word) : (setGpr x r w).pFaults = x.pFaults := by
  unfold setGpr; split <;> rfl
@[simp] theorem setGpr_pFlags (x : CoreSt) (r : Nat) (w : Word) : (setGpr x r w).pFlags = x.pFlags := by
  unfold setGpr; split <;> rfl
@[simp] theorem setGpr_nbFaults (x : CoreSt) (r : Nat) (w : Word) : (setGpr x r w).nbFaults = x.nbFaults := by
  unfold setGpr; split <;> rfl
@[simp] theorem setGpr_nbFlags (x : CoreSt) (r : Nat) (w : Word) : (setGpr x r w).nbFlags = x.nbFlags := by
  unfold setGpr; split <;> rfl
@[simp] theorem setGpr_waitPload (x : CoreSt) (r : Nat) (w : Word) : (setGpr x r w).waitPload = x.waitPload := by
  unfold setGpr; split <;> rfl
@[simp] theorem setPreg_g (x : CoreSt) (r : Nat) (w : BitVec 128) : (setPreg x r w).g = x.g := by
  unfold setPreg; split <;> rfl
@[simp] theorem setPreg_v (x : CoreSt) (r : Nat) (w : BitVec 128) : (setPreg x r w).v = x.v := by
  unfold setPreg; split <;> rfl
@[simp] theorem setPreg_d (x : CoreSt) (r : Nat) (w : BitVec 128) : (setPreg x r w).d = x.d := by
  unfold setPreg; split <;> rfl
@[simp] theorem setPreg_cw (x : CoreSt) (r : Nat) (w : BitVec 128) : (setPreg x r w).cw = x.cw := by
  unfold setPreg; split <;> rfl
@[simp] theorem setPreg_pc (x : CoreSt) (r : Nat) (w : BitVec 128) : (setPreg x r w).pc = x.pc := by
  unfold setPreg; split <;> rfl
@[simp] theorem setPreg_last (x : CoreSt) (r : Nat) (w : BitVec 128) : (setPreg x r w).last = x.last := by
  unfold setPreg; split <;> rfl
@[simp] theorem setPreg_run (x : CoreSt) (r : Nat) (w : BitVec 128) : (setPreg x r w).run = x.run := by
  unfold setPreg; split <;> rfl
@[simp] theorem setPreg_lastCode (x : CoreSt) (r : Nat) (w : BitVec 128) : (setPreg x r w).lastCode = x.lastCode := by
  unfold setPreg; split <;> rfl
@[simp] theorem setPreg_resetting (x : CoreSt) (r : Nat) (w : BitVec 128) : (setPreg x r w).resetting = x.resetting := by
  unfold setPreg; split <;> rfl
@[simp] theorem setPreg_halting (x : CoreSt) (r : Nat) (w : BitVec 128) : (setPreg x r w).halting = x.halting := by
  unfold setPreg; split <;> rfl
@[simp] theorem setPreg_wait (x : CoreSt) (r : Nat) (w : BitVec 128) : (setPreg x r w).wait = x.wait := by
  unfold setPreg; split <;> rfl
@[simp] theorem setPreg_waitSince (x : CoreSt) (r : Nat) (w : BitVec 128) : (setPreg x r w).waitSince = x.waitSince := by
  unfold setPreg; split <;> rfl
@[simp] theorem setPreg_waited (x : CoreSt) (r : Nat) (w : BitVec 128) : (setPreg x r w).waited = x.waited := by
  unfold setPreg; split <;> rfl
@[simp] theorem setPreg_cyc10 (x : CoreSt) (r : Nat) (w : BitVec 128) : (setPreg x r w).cyc10 = x.cyc10 := by
  unfold setPreg; split <;> rfl
@[simp] theorem setPreg_wdogNs (x : CoreSt) (r : Nat) (w : BitVec 128) : (setPreg x r w).wdogNs = x.wdogNs := by
  unfold setPreg; split <;> rfl
@[simp] theorem setPreg_seen (x : CoreSt) (r : Nat) (w : BitVec 128) : (setPreg x r w).seen = x.seen := by
  unfold setPreg; split <;> rfl
@[simp] theorem setPreg_buf (x : CoreSt) (r : Nat) (w : BitVec 128) : (setPreg x r w).buf = x.buf := by
  unfold setPreg; split <;> rfl
@[simp] theorem setPreg_failed (x : CoreSt) (r : Nat) (w : BitVec 128) : (setPreg x r w).failed = x.failed := by
  unfold setPreg; split <;> rfl
@[simp] theorem setPreg_deferred (x : CoreSt) (r : Nat) (w : BitVec 128) : (setPreg x r w).deferred = x.deferred := by
  unfold setPreg; split <;> rfl
@[simp] theorem setPreg_more (x : CoreSt) (r : Nat) (w : BitVec 128) : (setPreg x r w).more = x.more := by
  unfold setPreg; split <;> rfl
@[simp] theorem setPreg_dbl (x : CoreSt) (r : Nat) (w : BitVec 128) : (setPreg x r w).dbl = x.dbl := by
  unfold setPreg; split <;> rfl
@[simp] theorem setPreg_pref (x : CoreSt) (r : Nat) (w : BitVec 128) : (setPreg x r w).pref = x.pref := by
  unfold setPreg; split <;> rfl
@[simp] theorem setPreg_prefOrder (x : CoreSt) (r : Nat) (w : BitVec 128) : (setPreg x r w).prefOrder = x.prefOrder := by
  unfold setPreg; split <;> rfl
@[simp] theorem setPreg_asked (x : CoreSt) (r : Nat) (w : BitVec 128) : (setPreg x r w).asked = x.asked := by
  unfold setPreg; split <;> rfl
@[simp] theorem setPreg_ra (x : CoreSt) (r : Nat) (w : BitVec 128) : (setPreg x r w).ra = x.ra := by
  unfold setPreg; split <;> rfl
@[simp] theorem setPreg_loads (x : CoreSt) (r : Nat) (w : BitVec 128) : (setPreg x r w).loads = x.loads := by
  unfold setPreg; split <;> rfl
@[simp] theorem setPreg_discarded (x : CoreSt) (r : Nat) (w : BitVec 128) : (setPreg x r w).discarded = x.discarded := by
  unfold setPreg; split <;> rfl
@[simp] theorem setPreg_icache (x : CoreSt) (r : Nat) (w : BitVec 128) : (setPreg x r w).icache = x.icache := by
  unfold setPreg; split <;> rfl
@[simp] theorem setPreg_bht (x : CoreSt) (r : Nat) (w : BitVec 128) : (setPreg x r w).bht = x.bht := by
  unfold setPreg; split <;> rfl
@[simp] theorem setPreg_btb (x : CoreSt) (r : Nat) (w : BitVec 128) : (setPreg x r w).btb = x.btb := by
  unfold setPreg; split <;> rfl
@[simp] theorem setPreg_ras (x : CoreSt) (r : Nat) (w : BitVec 128) : (setPreg x r w).ras = x.ras := by
  unfold setPreg; split <;> rfl
@[simp] theorem setPreg_mispred (x : CoreSt) (r : Nat) (w : BitVec 128) : (setPreg x r w).mispred = x.mispred := by
  unfold setPreg; split <;> rfl
@[simp] theorem setPreg_moves (x : CoreSt) (r : Nat) (w : BitVec 128) : (setPreg x r w).moves = x.moves := by
  unfold setPreg; split <;> rfl
@[simp] theorem setPreg_appends (x : CoreSt) (r : Nat) (w : BitVec 128) : (setPreg x r w).appends = x.appends := by
  unfold setPreg; split <;> rfl
@[simp] theorem setPreg_bind (x : CoreSt) (r : Nat) (w : BitVec 128) : (setPreg x r w).bind = x.bind := by
  unfold setPreg; split <;> rfl
@[simp] theorem setPreg_streams (x : CoreSt) (r : Nat) (w : BitVec 128) : (setPreg x r w).streams = x.streams := by
  unfold setPreg; split <;> rfl
@[simp] theorem setPreg_msgs (x : CoreSt) (r : Nat) (w : BitVec 128) : (setPreg x r w).msgs = x.msgs := by
  unfold setPreg; split <;> rfl
@[simp] theorem setPreg_blk (x : CoreSt) (r : Nat) (w : BitVec 128) : (setPreg x r w).blk = x.blk := by
  unfold setPreg; split <;> rfl
@[simp] theorem setPreg_blkobj (x : CoreSt) (r : Nat) (w : BitVec 128) : (setPreg x r w).blkobj = x.blkobj := by
  unfold setPreg; split <;> rfl
@[simp] theorem setPreg_wfmt (x : CoreSt) (r : Nat) (w : BitVec 128) : (setPreg x r w).wfmt = x.wfmt := by
  unfold setPreg; split <;> rfl
@[simp] theorem setPreg_noPress (x : CoreSt) (r : Nat) (w : BitVec 128) : (setPreg x r w).noPress = x.noPress := by
  unfold setPreg; split <;> rfl
@[simp] theorem setPreg_pFaults (x : CoreSt) (r : Nat) (w : BitVec 128) : (setPreg x r w).pFaults = x.pFaults := by
  unfold setPreg; split <;> rfl
@[simp] theorem setPreg_pFlags (x : CoreSt) (r : Nat) (w : BitVec 128) : (setPreg x r w).pFlags = x.pFlags := by
  unfold setPreg; split <;> rfl
@[simp] theorem setPreg_nbFaults (x : CoreSt) (r : Nat) (w : BitVec 128) : (setPreg x r w).nbFaults = x.nbFaults := by
  unfold setPreg; split <;> rfl
@[simp] theorem setPreg_nbFlags (x : CoreSt) (r : Nat) (w : BitVec 128) : (setPreg x r w).nbFlags = x.nbFlags := by
  unfold setPreg; split <;> rfl
@[simp] theorem setPreg_waitPload (x : CoreSt) (r : Nat) (w : BitVec 128) : (setPreg x r w).waitPload = x.waitPload := by
  unfold setPreg; split <;> rfl

/-! ### Bytes of memory -/

/-- What a byte reads as after a store of one byte. -/
theorem rdByte_wrByte (s : State) (a e : Nat) (b : Byte) :
    rdByte (wrByte s a b) e = if e = a then b else rdByte s e :=
  look_put _ _ _ _ _
/-- What a byte reads as after a store of a run of bytes. -/
theorem rdByte_wrBytes (s : State) (a e : Nat) (bs : List Byte) :
    rdByte (wrBytes s a bs) e = if a ≤ e ∧ e < a + bs.length then bs.getD (e - a) 0 else rdByte s e :=
  look_putList _ _ _ _ _
/-- What a byte reads as after a range was cleared. -/
theorem rdByte_zeroBytes (s : State) (a n e : Nat) :
    rdByte (zeroBytes s a n) e = if a ≤ e ∧ e < a + n then 0 else rdByte s e := by
  unfold rdByte zeroBytes clearIn
  have h := look_filter memDefault (fun k => !(decide (a ≤ k) && decide (k < a + n))) s.mem e
  simp only [h]
  by_cases h1 : a ≤ e <;> by_cases h2 : e < a + n <;> simp [h1, h2, memDefault]

/-- Storing a byte keeps the canonical form of memory. -/
theorem wrByte_wf (s : State) (a : Nat) (b : Byte) (h : Memory.wf s.mem = true) : Memory.wf (wrByte s a b).mem = true :=
  canonical_put _ _ _ _ h
/-- Storing a run of bytes keeps the canonical form of memory. -/
theorem wrBytes_wf (s : State) (a : Nat) (bs : List Byte) (h : Memory.wf s.mem = true) :
    Memory.wf (wrBytes s a bs).mem = true :=
  canonical_putList _ _ _ _ h
/-- Clearing a range keeps the canonical form of memory. -/
theorem zeroBytes_wf (s : State) (a n : Nat) (h : Memory.wf s.mem = true) : Memory.wf (zeroBytes s a n).mem = true :=
  canonical_clearIn _ _ _ _ h
/-- A nanosecond changes nothing but the hallmark. -/
theorem tick_eq (s : State) : tick s = s ∨ tick s = { s with hallmark := s.hallmark + 1 } := by
  unfold tick; split
  · exact .inl rfl
  · exact .inr rfl

end Sys2Proof.Machine
end

