-- ==== Sys2Proof/Laws/Counters.lean ====
section
/-! SUPPORT. What counting an event, writing a ledger record, tracing and sending a message change. -/

namespace Sys2Proof.Machine

/-! ### Counting changes counters only -/

/-- t differs from s at most in control-space registers. -/
def OnlyRegs (s t : State) : Prop := ∃ r, t = { s with regs := r }

theorem OnlyRegs.rfl' (s : State) : OnlyRegs s s := ⟨s.regs, rfl⟩
theorem OnlyRegs.trans {s t u : State} (h : OnlyRegs s t) (k : OnlyRegs t u) : OnlyRegs s u := by
  obtain ⟨r, rfl⟩ := h; obtain ⟨q, rfl⟩ := k; exact ⟨q, rfl⟩
theorem OnlyRegs.setReg (s : State) (o : Nat) (w : Word) : OnlyRegs s (setReg s o w) := ⟨_, rfl⟩
theorem OnlyRegs.foldl {β : Type} (f : State → β → State) (h : ∀ s x, OnlyRegs s (f s x)) (l : List β) (s : State) :
    OnlyRegs s (l.foldl f s) := by
  induction l generalizing s with
  | nil => exact .rfl' s
  | cons x r ih => exact (h s x).trans (ih _)

theorem countOn_onlyRegs (s : State) (sel cnt scope n : Nat) : OnlyRegs s (countOn s sel cnt scope n) := by
  unfold countOn
  split
  · exact .rfl' s
  · dsimp only; split <;> exact ⟨_, rfl⟩

/-- Counting an event changes control-space registers only. -/
theorem bump_onlyRegs (s : State) (tbl evt n : Nat) (u : CountedIn) : OnlyRegs s (bump s tbl evt n u) := by
  have one : ∀ (s : State) (sel cnt scope : Nat) (ok : Nat → Bool), OnlyRegs s
      (match selects s sel tbl evt with
        | some i => if ok i then countOn s sel cnt scope n else s
        | none => s) := by
    intro s sel cnt scope ok
    split
    · split
      · exact countOn_onlyRegs ..
      · exact .rfl' s
    · exact .rfl' s
  unfold bump
  dsimp only
  have many : ∀ (l : List Nat) (s : State) (a b : Nat → Nat) (scope : Nat) (ok : Nat → Bool), OnlyRegs s
      (l.foldl (fun s i => match selects s (a i) tbl evt with
        | some j => if ok j then countOn s (a i) (b i) scope n else s
        | none => s) s) :=
    fun l s a b scope ok => OnlyRegs.foldl _ (fun s i => one s (a i) (b i) scope ok) l s
  have dies : ∀ s : State, OnlyRegs s ((List.range 4).foldl (fun s d => (List.range 16).foldl (fun s i =>
      match selects s (oDsel d i) tbl evt with
        | some j => if dieInst d (j % 4096) u then countOn s (oDsel d i) (oDcnt d i) 16 n else s
        | none => s) s) s) :=
    fun s => OnlyRegs.foldl _ (fun s d => many _ s (oDsel d) (oDcnt d) 16 fun j => dieInst d (j % 4096) u) _ s
  split
  · exact (many _ s _ _ _ _).trans (many _ _ _ _ _ _)
  · exact ((many _ s _ _ _ _).trans (dies _)).trans (many _ _ _ _ _ _)
  · exact (dies s).trans (many _ _ _ _ _ _)

@[simp] theorem bump_pending (s : State) (tbl evt n : Nat) (u : CountedIn) : (bump s tbl evt n u).pending = s.pending := by
  obtain ⟨_, h⟩ := bump_onlyRegs s tbl evt n u; rw [h]
@[simp] theorem bump_out (s : State) (tbl evt n : Nat) (u : CountedIn) : (bump s tbl evt n u).out = s.out := by
  obtain ⟨_, h⟩ := bump_onlyRegs s tbl evt n u; rw [h]
@[simp] theorem bump_freeN (s : State) (tbl evt n : Nat) (u : CountedIn) : (bump s tbl evt n u).freeN = s.freeN := by
  obtain ⟨_, h⟩ := bump_onlyRegs s tbl evt n u; rw [h]
@[simp] theorem bump_hallmark (s : State) (tbl evt n : Nat) (u : CountedIn) : (bump s tbl evt n u).hallmark = s.hallmark := by
  obtain ⟨_, h⟩ := bump_onlyRegs s tbl evt n u; rw [h]
@[simp] theorem bump_mem (s : State) (tbl evt n : Nat) (u : CountedIn) : (bump s tbl evt n u).mem = s.mem := by
  obtain ⟨_, h⟩ := bump_onlyRegs s tbl evt n u; rw [h]
@[simp] theorem bump_chk (s : State) (tbl evt n : Nat) (u : CountedIn) : (bump s tbl evt n u).chk = s.chk := by
  obtain ⟨_, h⟩ := bump_onlyRegs s tbl evt n u; rw [h]
@[simp] theorem bump_cores (s : State) (tbl evt n : Nat) (u : CountedIn) : (bump s tbl evt n u).cores = s.cores := by
  obtain ⟨_, h⟩ := bump_onlyRegs s tbl evt n u; rw [h]
@[simp] theorem bump_clusters (s : State) (tbl evt n : Nat) (u : CountedIn) : (bump s tbl evt n u).clusters = s.clusters := by
  obtain ⟨_, h⟩ := bump_onlyRegs s tbl evt n u; rw [h]
@[simp] theorem bump_veins (s : State) (tbl evt n : Nat) (u : CountedIn) : (bump s tbl evt n u).veins = s.veins := by
  obtain ⟨_, h⟩ := bump_onlyRegs s tbl evt n u; rw [h]
@[simp] theorem bump_barriers (s : State) (tbl evt n : Nat) (u : CountedIn) : (bump s tbl evt n u).barriers = s.barriers := by
  obtain ⟨_, h⟩ := bump_onlyRegs s tbl evt n u; rw [h]
@[simp] theorem bump_signals (s : State) (tbl evt n : Nat) (u : CountedIn) : (bump s tbl evt n u).signals = s.signals := by
  obtain ⟨_, h⟩ := bump_onlyRegs s tbl evt n u; rw [h]
@[simp] theorem bump_remints (s : State) (tbl evt n : Nat) (u : CountedIn) : (bump s tbl evt n u).remints = s.remints := by
  obtain ⟨_, h⟩ := bump_onlyRegs s tbl evt n u; rw [h]
@[simp] theorem bump_remNext (s : State) (tbl evt n : Nat) (u : CountedIn) : (bump s tbl evt n u).remNext = s.remNext := by
  obtain ⟨_, h⟩ := bump_onlyRegs s tbl evt n u; rw [h]
@[simp] theorem bump_remMoved (s : State) (tbl evt n : Nat) (u : CountedIn) : (bump s tbl evt n u).remMoved = s.remMoved := by
  obtain ⟨_, h⟩ := bump_onlyRegs s tbl evt n u; rw [h]
@[simp] theorem bump_ent (s : State) (tbl evt n : Nat) (u : CountedIn) : (bump s tbl evt n u).ent = s.ent := by
  obtain ⟨_, h⟩ := bump_onlyRegs s tbl evt n u; rw [h]
@[simp] theorem bump_keys (s : State) (tbl evt n : Nat) (u : CountedIn) : (bump s tbl evt n u).keys = s.keys := by
  obtain ⟨_, h⟩ := bump_onlyRegs s tbl evt n u; rw [h]
@[simp] theorem bump_far (s : State) (tbl evt n : Nat) (u : CountedIn) : (bump s tbl evt n u).far = s.far := by
  obtain ⟨_, h⟩ := bump_onlyRegs s tbl evt n u; rw [h]
@[simp] theorem bump_seams (s : State) (tbl evt n : Nat) (u : CountedIn) : (bump s tbl evt n u).seams = s.seams := by
  obtain ⟨_, h⟩ := bump_onlyRegs s tbl evt n u; rw [h]
@[simp] theorem bump_seamDirs (s : State) (tbl evt n : Nat) (u : CountedIn) : (bump s tbl evt n u).seamDirs = s.seamDirs := by
  obtain ⟨_, h⟩ := bump_onlyRegs s tbl evt n u; rw [h]
@[simp] theorem bump_funcs (s : State) (tbl evt n : Nat) (u : CountedIn) : (bump s tbl evt n u).funcs = s.funcs := by
  obtain ⟨_, h⟩ := bump_onlyRegs s tbl evt n u; rw [h]
@[simp] theorem bump_jobs (s : State) (tbl evt n : Nat) (u : CountedIn) : (bump s tbl evt n u).jobs = s.jobs := by
  obtain ⟨_, h⟩ := bump_onlyRegs s tbl evt n u; rw [h]
@[simp] theorem bump_parts (s : State) (tbl evt n : Nat) (u : CountedIn) : (bump s tbl evt n u).parts = s.parts := by
  obtain ⟨_, h⟩ := bump_onlyRegs s tbl evt n u; rw [h]
@[simp] theorem bump_pairs (s : State) (tbl evt n : Nat) (u : CountedIn) : (bump s tbl evt n u).pairs = s.pairs := by
  obtain ⟨_, h⟩ := bump_onlyRegs s tbl evt n u; rw [h]
@[simp] theorem bump_ports (s : State) (tbl evt n : Nat) (u : CountedIn) : (bump s tbl evt n u).ports = s.ports := by
  obtain ⟨_, h⟩ := bump_onlyRegs s tbl evt n u; rw [h]
@[simp] theorem bump_clrOps (s : State) (tbl evt n : Nat) (u : CountedIn) : (bump s tbl evt n u).clrOps = s.clrOps := by
  obtain ⟨_, h⟩ := bump_onlyRegs s tbl evt n u; rw [h]
@[simp] theorem bump_colls (s : State) (tbl evt n : Nat) (u : CountedIn) : (bump s tbl evt n u).colls = s.colls := by
  obtain ⟨_, h⟩ := bump_onlyRegs s tbl evt n u; rw [h]
@[simp] theorem bump_staging (s : State) (tbl evt n : Nat) (u : CountedIn) : (bump s tbl evt n u).staging = s.staging := by
  obtain ⟨_, h⟩ := bump_onlyRegs s tbl evt n u; rw [h]
@[simp] theorem bump_clrTag (s : State) (tbl evt n : Nat) (u : CountedIn) : (bump s tbl evt n u).clrTag = s.clrTag := by
  obtain ⟨_, h⟩ := bump_onlyRegs s tbl evt n u; rw [h]
@[simp] theorem bump_ledger (s : State) (tbl evt n : Nat) (u : CountedIn) : (bump s tbl evt n u).ledger = s.ledger := by
  obtain ⟨_, h⟩ := bump_onlyRegs s tbl evt n u; rw [h]
@[simp] theorem bump_tally (s : State) (tbl evt n : Nat) (u : CountedIn) : (bump s tbl evt n u).tally = s.tally := by
  obtain ⟨_, h⟩ := bump_onlyRegs s tbl evt n u; rw [h]
@[simp] theorem bump_flash (s : State) (tbl evt n : Nat) (u : CountedIn) : (bump s tbl evt n u).flash = s.flash := by
  obtain ⟨_, h⟩ := bump_onlyRegs s tbl evt n u; rw [h]
@[simp] theorem bump_comp (s : State) (tbl evt n : Nat) (u : CountedIn) : (bump s tbl evt n u).comp = s.comp := by
  obtain ⟨_, h⟩ := bump_onlyRegs s tbl evt n u; rw [h]
@[simp] theorem bump_hm (s : State) (tbl evt n : Nat) (u : CountedIn) : (bump s tbl evt n u).hm = s.hm := by
  obtain ⟨_, h⟩ := bump_onlyRegs s tbl evt n u; rw [h]
@[simp] theorem bump_pwr (s : State) (tbl evt n : Nat) (u : CountedIn) : (bump s tbl evt n u).pwr = s.pwr := by
  obtain ⟨_, h⟩ := bump_onlyRegs s tbl evt n u; rw [h]
@[simp] theorem bump_start (s : State) (tbl evt n : Nat) (u : CountedIn) : (bump s tbl evt n u).start = s.start := by
  obtain ⟨_, h⟩ := bump_onlyRegs s tbl evt n u; rw [h]
@[simp] theorem bump_dbg (s : State) (tbl evt n : Nat) (u : CountedIn) : (bump s tbl evt n u).dbg = s.dbg := by
  obtain ⟨_, h⟩ := bump_onlyRegs s tbl evt n u; rw [h]
@[simp] theorem bump_closing (s : State) (tbl evt n : Nat) (u : CountedIn) : (bump s tbl evt n u).closing = s.closing := by
  obtain ⟨_, h⟩ := bump_onlyRegs s tbl evt n u; rw [h]
@[simp] theorem bump_seqOps (s : State) (tbl evt n : Nat) (u : CountedIn) : (bump s tbl evt n u).seqOps = s.seqOps := by
  obtain ⟨_, h⟩ := bump_onlyRegs s tbl evt n u; rw [h]
@[simp] theorem getCore_bump (s : State) (tbl evt n : Nat) (u : CountedIn) (d : Nat) : getCore (bump s tbl evt n u) d = getCore s d := by
  simp [getCore]
@[simp] theorem getCl_bump (s : State) (tbl evt n : Nat) (u : CountedIn) (d : Nat) : getCl (bump s tbl evt n u) d = getCl s d := by
  simp [getCl]
@[simp] theorem getVein_bump (s : State) (tbl evt n : Nat) (u : CountedIn) (d : Nat) : getVein (bump s tbl evt n u) d = getVein s d := by
  simp [getVein]
@[simp] theorem getBar_bump (s : State) (tbl evt n : Nat) (u : CountedIn) (d : Nat) : getBar (bump s tbl evt n u) d = getBar s d := by
  simp [getBar]
@[simp] theorem getFunc_bump (s : State) (tbl evt n : Nat) (u : CountedIn) (d : Nat) : getFunc (bump s tbl evt n u) d = getFunc s d := by
  simp [getFunc]
@[simp] theorem getPort_bump (s : State) (tbl evt n : Nat) (u : CountedIn) (d : Nat) : getPort (bump s tbl evt n u) d = getPort s d := by
  simp [getPort]
@[simp] theorem getPart_bump (s : State) (tbl evt n : Nat) (u : CountedIn) (d : Nat) : getPart (bump s tbl evt n u) d = getPart s d := by
  simp [getPart]
@[simp] theorem rdByte_bump (s : State) (tbl evt n : Nat) (u : CountedIn) (d : Nat) : rdByte (bump s tbl evt n u) d = rdByte s d := by
  simp [rdByte]
@[simp] theorem rdBytes_bump (s : State) (tbl evt n : Nat) (u : CountedIn) (d e : Nat) : rdBytes (bump s tbl evt n u) d e = rdBytes s d e := by
  simp [rdBytes]

/-! ### A ledger record changes the ledger and its registers only -/

/-- t differs from s at most in control-space registers and the ledger. -/
def OnlyLedger (s t : State) : Prop := ∃ r l, t = { s with regs := r, ledger := l }

theorem OnlyLedger.self (s : State) (r : Map Word) (l : Ledger) : OnlyLedger s { s with regs := r, ledger := l } :=
  ⟨r, l, rfl⟩

theorem OnlyLedger.trans {s t u : State} (h : OnlyLedger s t) (k : OnlyLedger t u) : OnlyLedger s u := by
  obtain ⟨r, l, rfl⟩ := h; obtain ⟨q, m, rfl⟩ := k; exact ⟨q, m, rfl⟩

theorem ringWrite_onlyLedger (s : State) (r : LedgerRec) : OnlyLedger s (ringWrite s r).1 := by
  simp only [ringWrite]
  repeat' split
  all_goals exact .self s _ _

theorem flashCopy_onlyLedger (s : State) (r : LedgerRec) : OnlyLedger s (flashCopy s r) := by
  simp only [flashCopy]
  repeat' split
  all_goals first
    | exact .self s _ _
    | exact (OnlyLedger.self s _ _).trans (ringWrite_onlyLedger _ _)

theorem writeRecord_onlyLedger (s : State) (r : LedgerRec) : OnlyLedger s (writeRecord s r) := by
  have h := ringWrite_onlyLedger s r
  unfold writeRecord
  generalize ringWrite s r = q at h
  obtain ⟨s1, _ | x⟩ := q
  · exact h
  · exact h.trans (flashCopy_onlyLedger _ _)

/-- Writing a ledger record changes control-space registers and the ledger only. -/
theorem ledger_onlyLedger (s : State) (code sev : Nat) (part : Option Nat) (source : Nat) (payload : List Nat) :
    OnlyLedger s (ledger s code sev part source payload) := by
  simp only [ledger]
  repeat' split
  all_goals first
    | exact .self s _ _
    | exact (OnlyLedger.self s _ _).trans (writeRecord_onlyLedger _ _)

@[simp] theorem ledger_pending (s : State) (code sev : Nat) (part : Option Nat) (source : Nat) (payload : List Nat) : (ledger s code sev part source payload).pending = s.pending := by
  obtain ⟨_, _, h⟩ := ledger_onlyLedger s code sev part source payload; rw [h]
@[simp] theorem ledger_out (s : State) (code sev : Nat) (part : Option Nat) (source : Nat) (payload : List Nat) : (ledger s code sev part source payload).out = s.out := by
  obtain ⟨_, _, h⟩ := ledger_onlyLedger s code sev part source payload; rw [h]
@[simp] theorem ledger_freeN (s : State) (code sev : Nat) (part : Option Nat) (source : Nat) (payload : List Nat) : (ledger s code sev part source payload).freeN = s.freeN := by
  obtain ⟨_, _, h⟩ := ledger_onlyLedger s code sev part source payload; rw [h]
@[simp] theorem ledger_hallmark (s : State) (code sev : Nat) (part : Option Nat) (source : Nat) (payload : List Nat) : (ledger s code sev part source payload).hallmark = s.hallmark := by
  obtain ⟨_, _, h⟩ := ledger_onlyLedger s code sev part source payload; rw [h]
@[simp] theorem ledger_mem (s : State) (code sev : Nat) (part : Option Nat) (source : Nat) (payload : List Nat) : (ledger s code sev part source payload).mem = s.mem := by
  obtain ⟨_, _, h⟩ := ledger_onlyLedger s code sev part source payload; rw [h]
@[simp] theorem ledger_chk (s : State) (code sev : Nat) (part : Option Nat) (source : Nat) (payload : List Nat) : (ledger s code sev part source payload).chk = s.chk := by
  obtain ⟨_, _, h⟩ := ledger_onlyLedger s code sev part source payload; rw [h]
@[simp] theorem ledger_cores (s : State) (code sev : Nat) (part : Option Nat) (source : Nat) (payload : List Nat) : (ledger s code sev part source payload).cores = s.cores := by
  obtain ⟨_, _, h⟩ := ledger_onlyLedger s code sev part source payload; rw [h]
@[simp] theorem ledger_clusters (s : State) (code sev : Nat) (part : Option Nat) (source : Nat) (payload : List Nat) : (ledger s code sev part source payload).clusters = s.clusters := by
  obtain ⟨_, _, h⟩ := ledger_onlyLedger s code sev part source payload; rw [h]
@[simp] theorem ledger_veins (s : State) (code sev : Nat) (part : Option Nat) (source : Nat) (payload : List Nat) : (ledger s code sev part source payload).veins = s.veins := by
  obtain ⟨_, _, h⟩ := ledger_onlyLedger s code sev part source payload; rw [h]
@[simp] theorem ledger_barriers (s : State) (code sev : Nat) (part : Option Nat) (source : Nat) (payload : List Nat) : (ledger s code sev part source payload).barriers = s.barriers := by
  obtain ⟨_, _, h⟩ := ledger_onlyLedger s code sev part source payload; rw [h]
@[simp] theorem ledger_signals (s : State) (code sev : Nat) (part : Option Nat) (source : Nat) (payload : List Nat) : (ledger s code sev part source payload).signals = s.signals := by
  obtain ⟨_, _, h⟩ := ledger_onlyLedger s code sev part source payload; rw [h]
@[simp] theorem ledger_remints (s : State) (code sev : Nat) (part : Option Nat) (source : Nat) (payload : List Nat) : (ledger s code sev part source payload).remints = s.remints := by
  obtain ⟨_, _, h⟩ := ledger_onlyLedger s code sev part source payload; rw [h]
@[simp] theorem ledger_remNext (s : State) (code sev : Nat) (part : Option Nat) (source : Nat) (payload : List Nat) : (ledger s code sev part source payload).remNext = s.remNext := by
  obtain ⟨_, _, h⟩ := ledger_onlyLedger s code sev part source payload; rw [h]
@[simp] theorem ledger_remMoved (s : State) (code sev : Nat) (part : Option Nat) (source : Nat) (payload : List Nat) : (ledger s code sev part source payload).remMoved = s.remMoved := by
  obtain ⟨_, _, h⟩ := ledger_onlyLedger s code sev part source payload; rw [h]
@[simp] theorem ledger_ent (s : State) (code sev : Nat) (part : Option Nat) (source : Nat) (payload : List Nat) : (ledger s code sev part source payload).ent = s.ent := by
  obtain ⟨_, _, h⟩ := ledger_onlyLedger s code sev part source payload; rw [h]
@[simp] theorem ledger_keys (s : State) (code sev : Nat) (part : Option Nat) (source : Nat) (payload : List Nat) : (ledger s code sev part source payload).keys = s.keys := by
  obtain ⟨_, _, h⟩ := ledger_onlyLedger s code sev part source payload; rw [h]
@[simp] theorem ledger_far (s : State) (code sev : Nat) (part : Option Nat) (source : Nat) (payload : List Nat) : (ledger s code sev part source payload).far = s.far := by
  obtain ⟨_, _, h⟩ := ledger_onlyLedger s code sev part source payload; rw [h]
@[simp] theorem ledger_seams (s : State) (code sev : Nat) (part : Option Nat) (source : Nat) (payload : List Nat) : (ledger s code sev part source payload).seams = s.seams := by
  obtain ⟨_, _, h⟩ := ledger_onlyLedger s code sev part source payload; rw [h]
@[simp] theorem ledger_seamDirs (s : State) (code sev : Nat) (part : Option Nat) (source : Nat) (payload : List Nat) : (ledger s code sev part source payload).seamDirs = s.seamDirs := by
  obtain ⟨_, _, h⟩ := ledger_onlyLedger s code sev part source payload; rw [h]
@[simp] theorem ledger_funcs (s : State) (code sev : Nat) (part : Option Nat) (source : Nat) (payload : List Nat) : (ledger s code sev part source payload).funcs = s.funcs := by
  obtain ⟨_, _, h⟩ := ledger_onlyLedger s code sev part source payload; rw [h]
@[simp] theorem ledger_jobs (s : State) (code sev : Nat) (part : Option Nat) (source : Nat) (payload : List Nat) : (ledger s code sev part source payload).jobs = s.jobs := by
  obtain ⟨_, _, h⟩ := ledger_onlyLedger s code sev part source payload; rw [h]
@[simp] theorem ledger_parts (s : State) (code sev : Nat) (part : Option Nat) (source : Nat) (payload : List Nat) : (ledger s code sev part source payload).parts = s.parts := by
  obtain ⟨_, _, h⟩ := ledger_onlyLedger s code sev part source payload; rw [h]
@[simp] theorem ledger_pairs (s : State) (code sev : Nat) (part : Option Nat) (source : Nat) (payload : List Nat) : (ledger s code sev part source payload).pairs = s.pairs := by
  obtain ⟨_, _, h⟩ := ledger_onlyLedger s code sev part source payload; rw [h]
@[simp] theorem ledger_ports (s : State) (code sev : Nat) (part : Option Nat) (source : Nat) (payload : List Nat) : (ledger s code sev part source payload).ports = s.ports := by
  obtain ⟨_, _, h⟩ := ledger_onlyLedger s code sev part source payload; rw [h]
@[simp] theorem ledger_clrOps (s : State) (code sev : Nat) (part : Option Nat) (source : Nat) (payload : List Nat) : (ledger s code sev part source payload).clrOps = s.clrOps := by
  obtain ⟨_, _, h⟩ := ledger_onlyLedger s code sev part source payload; rw [h]
@[simp] theorem ledger_colls (s : State) (code sev : Nat) (part : Option Nat) (source : Nat) (payload : List Nat) : (ledger s code sev part source payload).colls = s.colls := by
  obtain ⟨_, _, h⟩ := ledger_onlyLedger s code sev part source payload; rw [h]
@[simp] theorem ledger_staging (s : State) (code sev : Nat) (part : Option Nat) (source : Nat) (payload : List Nat) : (ledger s code sev part source payload).staging = s.staging := by
  obtain ⟨_, _, h⟩ := ledger_onlyLedger s code sev part source payload; rw [h]
@[simp] theorem ledger_clrTag (s : State) (code sev : Nat) (part : Option Nat) (source : Nat) (payload : List Nat) : (ledger s code sev part source payload).clrTag = s.clrTag := by
  obtain ⟨_, _, h⟩ := ledger_onlyLedger s code sev part source payload; rw [h]
@[simp] theorem ledger_tally (s : State) (code sev : Nat) (part : Option Nat) (source : Nat) (payload : List Nat) : (ledger s code sev part source payload).tally = s.tally := by
  obtain ⟨_, _, h⟩ := ledger_onlyLedger s code sev part source payload; rw [h]
@[simp] theorem ledger_flash (s : State) (code sev : Nat) (part : Option Nat) (source : Nat) (payload : List Nat) : (ledger s code sev part source payload).flash = s.flash := by
  obtain ⟨_, _, h⟩ := ledger_onlyLedger s code sev part source payload; rw [h]
@[simp] theorem ledger_comp (s : State) (code sev : Nat) (part : Option Nat) (source : Nat) (payload : List Nat) : (ledger s code sev part source payload).comp = s.comp := by
  obtain ⟨_, _, h⟩ := ledger_onlyLedger s code sev part source payload; rw [h]
@[simp] theorem ledger_hm (s : State) (code sev : Nat) (part : Option Nat) (source : Nat) (payload : List Nat) : (ledger s code sev part source payload).hm = s.hm := by
  obtain ⟨_, _, h⟩ := ledger_onlyLedger s code sev part source payload; rw [h]
@[simp] theorem ledger_pwr (s : State) (code sev : Nat) (part : Option Nat) (source : Nat) (payload : List Nat) : (ledger s code sev part source payload).pwr = s.pwr := by
  obtain ⟨_, _, h⟩ := ledger_onlyLedger s code sev part source payload; rw [h]
@[simp] theorem ledger_start (s : State) (code sev : Nat) (part : Option Nat) (source : Nat) (payload : List Nat) : (ledger s code sev part source payload).start = s.start := by
  obtain ⟨_, _, h⟩ := ledger_onlyLedger s code sev part source payload; rw [h]
@[simp] theorem ledger_dbg (s : State) (code sev : Nat) (part : Option Nat) (source : Nat) (payload : List Nat) : (ledger s code sev part source payload).dbg = s.dbg := by
  obtain ⟨_, _, h⟩ := ledger_onlyLedger s code sev part source payload; rw [h]
@[simp] theorem ledger_closing (s : State) (code sev : Nat) (part : Option Nat) (source : Nat) (payload : List Nat) : (ledger s code sev part source payload).closing = s.closing := by
  obtain ⟨_, _, h⟩ := ledger_onlyLedger s code sev part source payload; rw [h]
@[simp] theorem ledger_seqOps (s : State) (code sev : Nat) (part : Option Nat) (source : Nat) (payload : List Nat) : (ledger s code sev part source payload).seqOps = s.seqOps := by
  obtain ⟨_, _, h⟩ := ledger_onlyLedger s code sev part source payload; rw [h]
@[simp] theorem getCore_ledger (s : State) (code sev : Nat) (part : Option Nat) (source : Nat) (payload : List Nat) (d : Nat) : getCore (ledger s code sev part source payload) d = getCore s d := by
  simp [getCore]
@[simp] theorem getCl_ledger (s : State) (code sev : Nat) (part : Option Nat) (source : Nat) (payload : List Nat) (d : Nat) : getCl (ledger s code sev part source payload) d = getCl s d := by
  simp [getCl]
@[simp] theorem getVein_ledger (s : State) (code sev : Nat) (part : Option Nat) (source : Nat) (payload : List Nat) (d : Nat) : getVein (ledger s code sev part source payload) d = getVein s d := by
  simp [getVein]
@[simp] theorem getBar_ledger (s : State) (code sev : Nat) (part : Option Nat) (source : Nat) (payload : List Nat) (d : Nat) : getBar (ledger s code sev part source payload) d = getBar s d := by
  simp [getBar]
@[simp] theorem getFunc_ledger (s : State) (code sev : Nat) (part : Option Nat) (source : Nat) (payload : List Nat) (d : Nat) : getFunc (ledger s code sev part source payload) d = getFunc s d := by
  simp [getFunc]
@[simp] theorem getPort_ledger (s : State) (code sev : Nat) (part : Option Nat) (source : Nat) (payload : List Nat) (d : Nat) : getPort (ledger s code sev part source payload) d = getPort s d := by
  simp [getPort]
@[simp] theorem getPart_ledger (s : State) (code sev : Nat) (part : Option Nat) (source : Nat) (payload : List Nat) (d : Nat) : getPart (ledger s code sev part source payload) d = getPart s d := by
  simp [getPart]
@[simp] theorem rdByte_ledger (s : State) (code sev : Nat) (part : Option Nat) (source : Nat) (payload : List Nat) (d : Nat) : rdByte (ledger s code sev part source payload) d = rdByte s d := by
  simp [rdByte]
@[simp] theorem rdBytes_ledger (s : State) (code sev : Nat) (part : Option Nat) (source : Nat) (payload : List Nat) (d e : Nat) : rdBytes (ledger s code sev part source payload) d e = rdBytes s d e := by
  simp [rdBytes]

/-! ### A trace record changes its cluster's buffer and its registers only -/

/-- t differs from s at most in control-space registers and in the trace buffers. -/
def OnlyTrace (s t : State) : Prop := ∃ r k, t = { s with regs := r, clusters := k }

/-- Tracing an event changes control-space registers and clusters only. -/
theorem trace_onlyTrace (s : State) (k kind source : Nat) (payload : List Nat) :
    OnlyTrace s (trace s k kind source payload) := by
  have h (r : Map Word) (k : Map ClusterSt) : OnlyTrace s { s with regs := r, clusters := k } := ⟨r, k, rfl⟩
  simp only [trace]
  repeat' split
  all_goals exact h _ _

@[simp] theorem trace_pending (s : State) (k kind source : Nat) (payload : List Nat) : (trace s k kind source payload).pending = s.pending := by
  obtain ⟨_, _, h⟩ := trace_onlyTrace s k kind source payload; rw [h]
@[simp] theorem trace_out (s : State) (k kind source : Nat) (payload : List Nat) : (trace s k kind source payload).out = s.out := by
  obtain ⟨_, _, h⟩ := trace_onlyTrace s k kind source payload; rw [h]
@[simp] theorem trace_freeN (s : State) (k kind source : Nat) (payload : List Nat) : (trace s k kind source payload).freeN = s.freeN := by
  obtain ⟨_, _, h⟩ := trace_onlyTrace s k kind source payload; rw [h]
@[simp] theorem trace_hallmark (s : State) (k kind source : Nat) (payload : List Nat) : (trace s k kind source payload).hallmark = s.hallmark := by
  obtain ⟨_, _, h⟩ := trace_onlyTrace s k kind source payload; rw [h]
@[simp] theorem trace_mem (s : State) (k kind source : Nat) (payload : List Nat) : (trace s k kind source payload).mem = s.mem := by
  obtain ⟨_, _, h⟩ := trace_onlyTrace s k kind source payload; rw [h]
@[simp] theorem trace_chk (s : State) (k kind source : Nat) (payload : List Nat) : (trace s k kind source payload).chk = s.chk := by
  obtain ⟨_, _, h⟩ := trace_onlyTrace s k kind source payload; rw [h]
@[simp] theorem trace_cores (s : State) (k kind source : Nat) (payload : List Nat) : (trace s k kind source payload).cores = s.cores := by
  obtain ⟨_, _, h⟩ := trace_onlyTrace s k kind source payload; rw [h]
@[simp] theorem trace_veins (s : State) (k kind source : Nat) (payload : List Nat) : (trace s k kind source payload).veins = s.veins := by
  obtain ⟨_, _, h⟩ := trace_onlyTrace s k kind source payload; rw [h]
@[simp] theorem trace_barriers (s : State) (k kind source : Nat) (payload : List Nat) : (trace s k kind source payload).barriers = s.barriers := by
  obtain ⟨_, _, h⟩ := trace_onlyTrace s k kind source payload; rw [h]
@[simp] theorem trace_signals (s : State) (k kind source : Nat) (payload : List Nat) : (trace s k kind source payload).signals = s.signals := by
  obtain ⟨_, _, h⟩ := trace_onlyTrace s k kind source payload; rw [h]
@[simp] theorem trace_remints (s : State) (k kind source : Nat) (payload : List Nat) : (trace s k kind source payload).remints = s.remints := by
  obtain ⟨_, _, h⟩ := trace_onlyTrace s k kind source payload; rw [h]
@[simp] theorem trace_remNext (s : State) (k kind source : Nat) (payload : List Nat) : (trace s k kind source payload).remNext = s.remNext := by
  obtain ⟨_, _, h⟩ := trace_onlyTrace s k kind source payload; rw [h]
@[simp] theorem trace_remMoved (s : State) (k kind source : Nat) (payload : List Nat) : (trace s k kind source payload).remMoved = s.remMoved := by
  obtain ⟨_, _, h⟩ := trace_onlyTrace s k kind source payload; rw [h]
@[simp] theorem trace_ent (s : State) (k kind source : Nat) (payload : List Nat) : (trace s k kind source payload).ent = s.ent := by
  obtain ⟨_, _, h⟩ := trace_onlyTrace s k kind source payload; rw [h]
@[simp] theorem trace_keys (s : State) (k kind source : Nat) (payload : List Nat) : (trace s k kind source payload).keys = s.keys := by
  obtain ⟨_, _, h⟩ := trace_onlyTrace s k kind source payload; rw [h]
@[simp] theorem trace_far (s : State) (k kind source : Nat) (payload : List Nat) : (trace s k kind source payload).far = s.far := by
  obtain ⟨_, _, h⟩ := trace_onlyTrace s k kind source payload; rw [h]
@[simp] theorem trace_seams (s : State) (k kind source : Nat) (payload : List Nat) : (trace s k kind source payload).seams = s.seams := by
  obtain ⟨_, _, h⟩ := trace_onlyTrace s k kind source payload; rw [h]
@[simp] theorem trace_seamDirs (s : State) (k kind source : Nat) (payload : List Nat) : (trace s k kind source payload).seamDirs = s.seamDirs := by
  obtain ⟨_, _, h⟩ := trace_onlyTrace s k kind source payload; rw [h]
@[simp] theorem trace_funcs (s : State) (k kind source : Nat) (payload : List Nat) : (trace s k kind source payload).funcs = s.funcs := by
  obtain ⟨_, _, h⟩ := trace_onlyTrace s k kind source payload; rw [h]
@[simp] theorem trace_jobs (s : State) (k kind source : Nat) (payload : List Nat) : (trace s k kind source payload).jobs = s.jobs := by
  obtain ⟨_, _, h⟩ := trace_onlyTrace s k kind source payload; rw [h]
@[simp] theorem trace_parts (s : State) (k kind source : Nat) (payload : List Nat) : (trace s k kind source payload).parts = s.parts := by
  obtain ⟨_, _, h⟩ := trace_onlyTrace s k kind source payload; rw [h]
@[simp] theorem trace_pairs (s : State) (k kind source : Nat) (payload : List Nat) : (trace s k kind source payload).pairs = s.pairs := by
  obtain ⟨_, _, h⟩ := trace_onlyTrace s k kind source payload; rw [h]
@[simp] theorem trace_ports (s : State) (k kind source : Nat) (payload : List Nat) : (trace s k kind source payload).ports = s.ports := by
  obtain ⟨_, _, h⟩ := trace_onlyTrace s k kind source payload; rw [h]
@[simp] theorem trace_clrOps (s : State) (k kind source : Nat) (payload : List Nat) : (trace s k kind source payload).clrOps = s.clrOps := by
  obtain ⟨_, _, h⟩ := trace_onlyTrace s k kind source payload; rw [h]
@[simp] theorem trace_colls (s : State) (k kind source : Nat) (payload : List Nat) : (trace s k kind source payload).colls = s.colls := by
  obtain ⟨_, _, h⟩ := trace_onlyTrace s k kind source payload; rw [h]
@[simp] theorem trace_staging (s : State) (k kind source : Nat) (payload : List Nat) : (trace s k kind source payload).staging = s.staging := by
  obtain ⟨_, _, h⟩ := trace_onlyTrace s k kind source payload; rw [h]
@[simp] theorem trace_clrTag (s : State) (k kind source : Nat) (payload : List Nat) : (trace s k kind source payload).clrTag = s.clrTag := by
  obtain ⟨_, _, h⟩ := trace_onlyTrace s k kind source payload; rw [h]
@[simp] theorem trace_ledger (s : State) (k kind source : Nat) (payload : List Nat) : (trace s k kind source payload).ledger = s.ledger := by
  obtain ⟨_, _, h⟩ := trace_onlyTrace s k kind source payload; rw [h]
@[simp] theorem trace_tally (s : State) (k kind source : Nat) (payload : List Nat) : (trace s k kind source payload).tally = s.tally := by
  obtain ⟨_, _, h⟩ := trace_onlyTrace s k kind source payload; rw [h]
@[simp] theorem trace_flash (s : State) (k kind source : Nat) (payload : List Nat) : (trace s k kind source payload).flash = s.flash := by
  obtain ⟨_, _, h⟩ := trace_onlyTrace s k kind source payload; rw [h]
@[simp] theorem trace_comp (s : State) (k kind source : Nat) (payload : List Nat) : (trace s k kind source payload).comp = s.comp := by
  obtain ⟨_, _, h⟩ := trace_onlyTrace s k kind source payload; rw [h]
@[simp] theorem trace_hm (s : State) (k kind source : Nat) (payload : List Nat) : (trace s k kind source payload).hm = s.hm := by
  obtain ⟨_, _, h⟩ := trace_onlyTrace s k kind source payload; rw [h]
@[simp] theorem trace_pwr (s : State) (k kind source : Nat) (payload : List Nat) : (trace s k kind source payload).pwr = s.pwr := by
  obtain ⟨_, _, h⟩ := trace_onlyTrace s k kind source payload; rw [h]
@[simp] theorem trace_start (s : State) (k kind source : Nat) (payload : List Nat) : (trace s k kind source payload).start = s.start := by
  obtain ⟨_, _, h⟩ := trace_onlyTrace s k kind source payload; rw [h]
@[simp] theorem trace_dbg (s : State) (k kind source : Nat) (payload : List Nat) : (trace s k kind source payload).dbg = s.dbg := by
  obtain ⟨_, _, h⟩ := trace_onlyTrace s k kind source payload; rw [h]
@[simp] theorem trace_closing (s : State) (k kind source : Nat) (payload : List Nat) : (trace s k kind source payload).closing = s.closing := by
  obtain ⟨_, _, h⟩ := trace_onlyTrace s k kind source payload; rw [h]
@[simp] theorem trace_seqOps (s : State) (k kind source : Nat) (payload : List Nat) : (trace s k kind source payload).seqOps = s.seqOps := by
  obtain ⟨_, _, h⟩ := trace_onlyTrace s k kind source payload; rw [h]
@[simp] theorem getCore_trace (s : State) (k kind source : Nat) (payload : List Nat) (d : Nat) : getCore (trace s k kind source payload) d = getCore s d := by
  simp [getCore]
@[simp] theorem getVein_trace (s : State) (k kind source : Nat) (payload : List Nat) (d : Nat) : getVein (trace s k kind source payload) d = getVein s d := by
  simp [getVein]
@[simp] theorem getBar_trace (s : State) (k kind source : Nat) (payload : List Nat) (d : Nat) : getBar (trace s k kind source payload) d = getBar s d := by
  simp [getBar]
@[simp] theorem getFunc_trace (s : State) (k kind source : Nat) (payload : List Nat) (d : Nat) : getFunc (trace s k kind source payload) d = getFunc s d := by
  simp [getFunc]
@[simp] theorem getPort_trace (s : State) (k kind source : Nat) (payload : List Nat) (d : Nat) : getPort (trace s k kind source payload) d = getPort s d := by
  simp [getPort]
@[simp] theorem getPart_trace (s : State) (k kind source : Nat) (payload : List Nat) (d : Nat) : getPart (trace s k kind source payload) d = getPart s d := by
  simp [getPart]
@[simp] theorem rdByte_trace (s : State) (k kind source : Nat) (payload : List Nat) (d : Nat) : rdByte (trace s k kind source payload) d = rdByte s d := by
  simp [rdByte]
@[simp] theorem rdBytes_trace (s : State) (k kind source : Nat) (payload : List Nat) (d e : Nat) : rdBytes (trace s k kind source payload) d e = rdBytes s d e := by
  simp [rdBytes]

end Sys2Proof.Machine
end

