-- ==== Sys2Proof/Laws/Memory.lean ====
section
/-! SUPPORT. What the protected memories' operations change: bytes, check bits, registers and the ledger, with memory
kept in its canonical form. -/

namespace Sys2Proof.Machine

/-- t differs from s at most in memory, check bits, registers and the ledger, and its memory is canonical if s's is. -/
def MemEffect (s t : State) : Prop :=
  (∃ r l m k, t = { s with regs := r, ledger := l, mem := m, chk := k }) ∧
    (Memory.wf s.mem = true → Memory.wf t.mem = true)

theorem MemEffect.same (s : State) : MemEffect s s := ⟨⟨_, _, _, _, rfl⟩, id⟩
theorem MemEffect.trans {s t u : State} (h : MemEffect s t) (k : MemEffect t u) : MemEffect s u := by
  obtain ⟨⟨r, l, m, c, rfl⟩, hw⟩ := h
  obtain ⟨⟨r', l', m', c', rfl⟩, kw⟩ := k
  exact ⟨⟨r', l', m', c', rfl⟩, fun h => kw (hw h)⟩
theorem MemEffect.foldl {β : Type} (f : State → β → State) (h : ∀ s x, MemEffect s (f s x)) (l : List β) (s : State) :
    MemEffect s (l.foldl f s) := by
  induction l generalizing s with
  | nil => exact .same s
  | cons x r ih => exact (h s x).trans (ih _)
theorem MemEffect.foldl_fst {β γ : Type} (f : State × γ → β → State × γ) (h : ∀ p x, MemEffect p.1 (f p x).1)
    (l : List β) (p : State × γ) : MemEffect p.1 (l.foldl f p).1 := by
  induction l generalizing p with
  | nil => exact .same _
  | cons x r ih => exact (h p x).trans (ih _)

theorem OnlyRegs.memEffect {s t : State} (h : OnlyRegs s t) : MemEffect s t := by
  obtain ⟨r, rfl⟩ := h; exact ⟨⟨_, _, _, _, rfl⟩, id⟩
theorem OnlyLedger.memEffect {s t : State} (h : OnlyLedger s t) : MemEffect s t := by
  obtain ⟨r, l, rfl⟩ := h; exact ⟨⟨_, _, _, _, rfl⟩, id⟩

theorem wrByte_memEffect (s : State) (a : Nat) (b : Byte) : MemEffect s (wrByte s a b) :=
  ⟨⟨_, _, _, _, rfl⟩, wrByte_wf s a b⟩
theorem wrBytes_memEffect (s : State) (a : Nat) (bs : List Byte) : MemEffect s (wrBytes s a bs) :=
  ⟨⟨_, _, _, _, rfl⟩, wrBytes_wf s a bs⟩
theorem zeroBytes_memEffect (s : State) (a n : Nat) : MemEffect s (zeroBytes s a n) :=
  ⟨⟨_, _, _, _, rfl⟩, zeroBytes_wf s a n⟩
theorem setReg_memEffect (s : State) (o : Nat) (w : Word) : MemEffect s (setReg s o w) :=
  ⟨⟨_, _, _, _, rfl⟩, id⟩
theorem setChk_memEffect (s : State) (k : Map Word) : MemEffect s { s with chk := k } :=
  ⟨⟨_, _, _, _, rfl⟩, id⟩
theorem bump_memEffect (s : State) (tbl evt n : Nat) (u : CountedIn) : MemEffect s (bump s tbl evt n u) :=
  (bump_onlyRegs s tbl evt n u).memEffect
theorem ledger_memEffect (s : State) (code sev : Nat) (part : Option Nat) (source : Nat) (payload : List Nat) :
    MemEffect s (ledger s code sev part source payload) :=
  (ledger_onlyLedger s code sev part source payload).memEffect

theorem setSealedCheck_memEffect (s : State) (c off : Nat) (chk : List Byte) :
    MemEffect s (setSealedCheck s c off chk) := by
  unfold setSealedCheck
  split
  · exact wrBytes_memEffect ..
  · exact .same s
theorem freshCode_memEffect (s : State) (u : MemUnit) : MemEffect s (freshCode s u) := by
  unfold freshCode
  split
  · exact setChk_memEffect ..
  · exact setSealedCheck_memEffect ..
  · exact setChk_memEffect ..
  · exact .same s
theorem poisonUnit_memEffect (s : State) (u : MemUnit) : MemEffect s (poisonUnit s u) := by
  unfold poisonUnit
  split
  · exact setChk_memEffect ..
  · exact setSealedCheck_memEffect ..
  · exact setChk_memEffect ..
  · exact .same s
theorem flipBytes_memEffect (s : State) (a : Nat) (fs : List (Nat × Nat)) : MemEffect s (flipBytes s a fs) :=
  MemEffect.foldl _ (fun s _ => wrByte_memEffect s _ _) fs s
theorem recordCorrected_memEffect (s : State) (u : MemUnit) : MemEffect s (recordCorrected s u) :=
  setReg_memEffect ..
theorem recordLost_memEffect (s : State) (u : MemUnit) (kind : Nat) : MemEffect s (recordLost s u kind) := by
  unfold recordLost
  dsimp only
  split
  · exact .same s
  · exact setReg_memEffect ..
theorem countUnit_memEffect (s : State) (u : MemUnit) (ok : Bool) : MemEffect s (countUnit s u ok) := by
  unfold countUnit
  split
  · exact bump_memEffect ..
  · exact bump_memEffect ..
  · exact .same s

/-- What a read of a unit may change (R428, R432). -/
theorem noteRead_memEffect (s : State) (u : MemUnit) (who : Nat) (core : Option Nat) :
    MemEffect s (noteRead s u who core) := by
  unfold noteRead
  split
  · exact .same s
  · exact ((((flipBytes_memEffect ..).trans (freshCode_memEffect ..)).trans (recordCorrected_memEffect ..)).trans
      (countUnit_memEffect ..)).trans (ledger_memEffect ..)
  · rename_i kind _
    split
    · exact countUnit_memEffect ..
    · have h1 : MemEffect s (countUnit (recordLost s u kind) u false) :=
        (recordLost_memEffect ..).trans (countUnit_memEffect ..)
      by_cases hk : kind = 2
      · cases core with
        | none => simpa [hk] using (hk ▸ h1).trans (ledger_memEffect ..)
        | some c => simpa [hk] using ((hk ▸ h1).trans (bump_memEffect ..)).trans (ledger_memEffect ..)
      · cases core with
        | none => simpa [hk] using h1.trans (ledger_memEffect ..)
        | some c => simpa [hk] using h1.trans (ledger_memEffect ..)

/-- A unit whose code is good is read without any effect (R426). -/
theorem noteRead_good (s : State) (u : MemUnit) (who : Nat) (core : Option Nat) (h : verdictOf s u = .good) :
    noteRead s u who core = s := by
  simp [noteRead, h]

/-- What a read of a range may change. -/
theorem readUnits_memEffect (s : State) (a n who : Nat) (core : Option Nat) :
    MemEffect s (readUnits s a n who core).1 :=
  MemEffect.foldl_fst _ (fun p u => noteRead_memEffect p.1 u who core) _ (s, [])

/-- A range whose units are all good is read without any effect, and none is lost. -/
theorem readUnits_good (s : State) (a n who : Nat) (core : Option Nat)
    (h : ∀ u ∈ unitsOf s a n, verdictOf s u = .good) : readUnits s a n who core = (s, []) := by
  unfold readUnits
  generalize unitsOf s a n = us at h
  induction us with
  | nil => rfl
  | cons u r ih =>
    have hu : verdictOf s u = .good := h u (by simp)
    simp only [List.foldl_cons, noteRead_good s u who core hu, lostCode, hu, if_true]
    exact ih fun v hv => h v (by simp [hv])

theorem poisonBy_memEffect (s : State) (u : MemUnit) (core : Option Nat) : MemEffect s (poisonBy s u core) := by
  unfold poisonBy
  dsimp only
  split
  · split
    · exact poisonUnit_memEffect ..
    · exact (poisonUnit_memEffect ..).trans (bump_memEffect ..)
  · exact poisonUnit_memEffect ..

/-- What a write into one unit may change (R429, R431). -/
theorem writeUnit_memEffect (s : State) (u : MemUnit) (a : Nat) (bs : List Byte) (who : Nat) (core : Option Nat) :
    MemEffect s (writeUnit s u a bs who core).1 := by
  unfold writeUnit
  split
  · exact noteRead_memEffect ..
  split
  · exact (wrBytes_memEffect ..).trans (freshCode_memEffect ..)
  · split
    · exact (noteRead_memEffect ..).trans (poisonBy_memEffect ..)
    · exact ((noteRead_memEffect ..).trans (wrBytes_memEffect ..)).trans (freshCode_memEffect ..)

/-- What a write of a range may change. -/
theorem writeUnits_memEffect (s : State) (a : Nat) (bs : List Byte) (who : Nat) (core : Option Nat) :
    MemEffect s (writeUnits s a bs who core).1 :=
  MemEffect.foldl_fst _ (fun p u => by dsimp only; exact writeUnit_memEffect p.1 u _ _ who core) _ (s, [])

/-- What a write into one unit that keeps half bytes may change (R113, R431). -/
theorem writeHalf_memEffect (s : State) (u : MemUnit) (a : Nat) (bs : List Byte) (half : Bool) (who : Nat)
    (core : Option Nat) : MemEffect s (writeHalf s u a bs half who core).1 := by
  unfold writeHalf
  split
  · exact (noteRead_memEffect ..).trans (poisonBy_memEffect ..)
  · exact writeUnit_memEffect ..

/-- What a write of bytes of which some are lost may change (R430). -/
theorem writeHalves_memEffect (s : State) (a : Nat) (bs : List (Byte × Bool)) (halves : List Nat) (who : Nat)
    (core : Option Nat) : MemEffect s (writeHalves s a bs halves who core).1 := by
  refine MemEffect.foldl_fst _ (fun p u => ?_) _ (s, [])
  dsimp only
  split
  · split
    · refine MemEffect.foldl _ (fun s e => ?_) _ p.1
      split
      · exact .same s
      · exact wrByte_memEffect ..
    · exact poisonBy_memEffect ..
  · exact writeHalf_memEffect ..

/-- What a write of whole bytes of which some are lost may change (R430). -/
theorem writeMixed_memEffect (s : State) (a : Nat) (bs : List (Byte × Bool)) (who : Nat) (core : Option Nat) :
    MemEffect s (writeMixed s a bs who core).1 := writeHalves_memEffect s a bs [] who core

/-- What the initialisation of a sealed region changes (R157). -/
theorem initSealed_memEffect (s : State) (c : Nat) (r : Region) : MemEffect s (initSealed s c r) :=
  (zeroBytes_memEffect ..).trans (wrBytes_memEffect ..)

/-- What zeroing a local store changes (R439). -/
theorem zeroLs_memEffect (s : State) (c : Nat) : MemEffect s (zeroLs s c) :=
  (zeroBytes_memEffect s _ _).trans (setChk_memEffect ..)

/-! ### What every memory effect leaves alone -/

theorem MemEffect.getCore {s t : State} (h : MemEffect s t) (c : Nat) : getCore t c = getCore s c := by
  obtain ⟨⟨r, l, m, k, rfl⟩, _⟩ := h; rfl
theorem MemEffect.getCl {s t : State} (h : MemEffect s t) (c : Nat) : getCl t c = getCl s c := by
  obtain ⟨⟨r, l, m, k, rfl⟩, _⟩ := h; rfl
theorem MemEffect.getVein {s t : State} (h : MemEffect s t) (c : Nat) : getVein t c = getVein s c := by
  obtain ⟨⟨r, l, m, k, rfl⟩, _⟩ := h; rfl
theorem MemEffect.pending {s t : State} (h : MemEffect s t) : t.pending = s.pending := by
  obtain ⟨⟨r, l, m, k, rfl⟩, _⟩ := h; rfl
theorem MemEffect.hallmark {s t : State} (h : MemEffect s t) : t.hallmark = s.hallmark := by
  obtain ⟨⟨r, l, m, k, rfl⟩, _⟩ := h; rfl
theorem MemEffect.wf {s t : State} (h : MemEffect s t) (hs : Memory.wf s.mem = true) : Memory.wf t.mem = true := h.2 hs

end Sys2Proof.Machine
end

