-- ==== Sys2Proof/Laws/Access.lean ====
section
/-! SUPPORT. Accesses that leave no trace: a line of a vein in no sealed region, in the row its bank has open, with no
counter that selects it, reads as zeros where nothing is listed and takes zeros without any effect. -/

namespace Sys2Proof.Machine

/-- The row of a vein offset is open, touched now, and its pair is not at refresh debt 8. -/
def rowNow (s : State) (c off : Nat) : Bool :=
  decide (look noRow (getVein s c).rows (bankRow s c off).1 = some ((bankRow s c off).2, elapsed s)) &&
    decide (debtOf (getVein s c) ((bankRow s c off).1 / 2) ≠ 8)

theorem portTouch_open {s : State} {c off n : Nat} (hrow : rowNow s c off = true)
    (hb : bump s 5 2 n (.core c) = s) : portTouch s c off n = s := by
  simp only [rowNow, Bool.and_eq_true, decide_eq_true_eq] at hrow
  unfold portTouch refreshFirst
  simp only [hrow.1, hrow.2, if_true, if_false, Option.any_some, beq_self_eq_true, hb]

theorem portAccess_open {s : State} {c off : Nat} (hrow : rowNow s c off = true)
    (h32 : (off % 32 + 64 + 31) / 32 = 2)
    (hr : ∀ r, regionAt s c off = some r → r.kind ≠ kindSealed)
    (hb : bump s 5 2 2 (.core c) = s) : portAccess s c off 64 = s := by
  unfold portAccess
  rw [h32, portTouch_open hrow hb]
  cases hq : regionAt s c off with
  | none => rfl
  | some r => exact if_pos (hr r hq)

/-- A line of a vein that is open to a requester, in no sealed region, on its requester's die, in the row its bank has
open. -/
structure Quiet (s : State) (q : Requester) (c off a : Nat) : Prop where
  read  : gate s q a false = none
  write : gate s q a true = none
  place : placeOf a = .vein c off
  bytes : (off % 32 + 64 + 31) / 32 = 2
  plain : ∀ r, regionAt s c off = some r → r.kind ≠ kindSealed
  row   : rowNow s c off = true
  near  : q.die = dieOfAddr a
  units : ∀ u ∈ unitsOf s a 64, u.code = 0
  still : bump s 5 2 2 (.core c) = s

theorem crossed_quiet {s : State} {q : Requester} {c off a : Nat} (h : Quiet s q c off a) (n : Nat) (w : Bool) :
    crossed s q a n w = s := by
  unfold crossed countCross
  exact if_pos h.near

theorem portServe_quiet {s : State} {q : Requester} {c off a : Nat} (h : Quiet s q c off a) : portServe s a 64 = s := by
  unfold portServe
  rw [h.place]
  exact portAccess_open h.row h.bytes h.plain h.still

theorem look_above (m : Map Byte) (b a : Nat) (h : ∀ e ∈ m, b ≤ e.1) (ha : a < b) : look memDefault m a = 0 := by
  induction m with
  | nil => rfl
  | cons e r ih =>
    obtain ⟨k, v⟩ := e
    have hk : b ≤ k := h (k, v) (by simp)
    have : a ≠ k := by omega
    rw [look, if_neg this]
    exact ih fun e he => h e (by simp [he])

theorem lookList_above (m : Map Byte) (b a n : Nat) (h : ∀ e ∈ m, b ≤ e.1) (ha : a + n ≤ b) :
    lookList memDefault m a n = List.replicate n 0 := by
  induction n generalizing a with
  | zero => rfl
  | succ n ih => rw [lookList, look_above m b a h (by omega), ih (a + 1) (by omega), List.replicate_succ]

theorem cellsFrom_zeros (a n : Nat) : cellsFrom memDefault a (List.replicate n (0 : Byte)) = [] := by
  induction n generalizing a with
  | zero => rfl
  | succ n ih =>
    rw [List.replicate_succ, cellsFrom]
    exact (if_pos rfl).trans (ih (a + 1))

theorem putList_zeros (m : Map Byte) (b a n : Nat) (h : ∀ e ∈ m, b ≤ e.1) (ha : a + n ≤ b) :
    putList memDefault m a (List.replicate n (0 : Byte)) = m := by
  rw [putList, cellsFrom_zeros, List.filter_eq_nil_iff.2, List.filter_eq_self.2]
  · rfl
  · intro e he; have := h e he; simp; omega
  · intro e he; have := h e he; simp; omega

theorem marked_zeros (s : State) (a n : Nat) (h : rdBytes s a n = List.replicate n (0 : Byte)) :
    markedBytes s a n [] = List.replicate n (0, false) := by
  unfold markedBytes
  rw [h]
  apply List.ext_getElem <;> simp

theorem readLine_quiet {s : State} {q : Requester} {c off a b : Nat} (who : Nat) (h : Quiet s q c off a)
    (hm : ∀ e ∈ s.mem, b ≤ e.1) (ho : a + 64 ≤ b) :
    readLine s q a 64 who = (s, .ok (List.replicate 64 (0, false)) []) := by
  have hr : readUnits s a 64 who q.core = (s, []) :=
    readUnits_good s _ _ _ _ fun u hu => by
      unfold verdictOf
      simp only [h.units u hu]
  have hz := marked_zeros s a 64 (lookList_above s.mem b a 64 hm ho)
  unfold readLine
  simp only [h.read, crossed_quiet h, h.place, portServe_quiet h, hr]
  exact congrArg (fun l => (s, AccRes.ok l [])) hz

theorem foldl_still {α β : Type} (f : α → β → α) (x : α) (l : List β) (h : ∀ y ∈ l, f x y = x) : l.foldl f x = x := by
  induction l with
  | nil => rfl
  | cons y r ih => rw [List.foldl_cons, h y (by simp)]; exact ih fun z hz => h z (by simp [hz])

theorem writeUnit_zeros {s : State} {u : MemUnit} {b a n who : Nat} {core : Option Nat} (h : u.code = 0)
    (hm : ∀ e ∈ s.mem, b ≤ e.1) (ha : a + n ≤ b) :
    writeUnit s u a (List.replicate n 0) who core = (s, []) := by
  unfold writeUnit freshCode lineFailed
  simp only [h, decide_true, Bool.true_or, Bool.false_eq_true, if_false, if_true, wrBytes, putList_zeros s.mem b a n hm ha]

theorem writeLine_quiet {s : State} {q : Requester} {c off a b : Nat} (who : Nat) (h : Quiet s q c off a)
    (hm : ∀ e ∈ s.mem, b ≤ e.1) (ho : a + 64 ≤ b) (hu : ∀ u ∈ unitsOf s a 64, a ≤ u.addr ∧ u.addr ≤ a + 64) :
    writeLine s q a (List.replicate 64 (0, false)) who = (s, .ok [] []) := by
  have hw : writeMixed s a (List.replicate 64 (0, false)) who q.core = (s, []) := by
    unfold writeMixed writeHalves
    rw [List.length_replicate]
    refine foldl_still _ _ _ fun u hi => ?_
    have := hu u hi
    dsimp only
    rw [List.drop_replicate, List.take_replicate, List.map_replicate]
    have hf : ((List.replicate (min (min (a + 64) (u.addr + u.size) - max a u.addr) (64 - (max a u.addr - a)))
        ((0 : Byte), false)).any fun x => x.2) = false := by simp
    rw [hf]
    simp only [Bool.false_eq_true, if_false, List.any_nil, writeHalf, Bool.false_and]
    rw [writeUnit_zeros (h.units u hi) hm (by omega)]
    rfl
  unfold writeLine
  simp only [h.write, crossed_quiet h, h.place, List.length_replicate, portServe_quiet h, hw]

theorem readRange_quiet {s : State} {q : Requester} {a n who : Nat} (h : ∀ p ∈ piecesOf a n,
    readLine s q p.1 p.2 who = (s, .ok (List.replicate p.2 (0, false)) [])) :
    readRange s q a n who = (s, (piecesOf a n).flatMap fun p => List.replicate p.2 (0, false), [], none) := by
  have key : ∀ (l : List (Nat × Nat)) (bs : List (Byte × Bool)), (∀ p ∈ l,
      readLine s q p.1 p.2 who = (s, .ok (List.replicate p.2 (0, false)) [])) →
      l.foldl (fun r p =>
        match r.2.2.2 with
        | some _ => r
        | none =>
          match readLine r.1 q p.1 p.2 who with
          | (s1, .ok bs lost) => (s1, r.2.1 ++ bs, r.2.2.1 ++ lost, none)
          | (s1, e) => (s1, r.2.1, r.2.2.1, some (p.1, e))) (s, bs, ([] : List (Nat × Nat)), (none : Option (Nat × AccRes))) =
        (s, bs ++ l.flatMap fun p => List.replicate p.2 (0, false), [], none) := by
    intro l
    induction l with
    | nil => intro bs _; simp
    | cons p r ih =>
      intro bs h
      rw [List.foldl_cons]
      simp only [h p (by simp)]
      rw [show ([] : List (Nat × Nat)) ++ [] = [] from rfl, ih _ fun p hp => h p (by simp [hp])]
      simp
  exact (key _ [] h).trans (by simp)

theorem writeRange_quiet {s : State} {q : Requester} {a who : Nat} {bs : List (Byte × Bool)}
    (h : ∀ p ∈ piecesOf a bs.length, writeLine s q p.1 ((bs.drop (p.1 - a)).take p.2) who = (s, .ok [] [])) :
    writeRange s q a bs who = (s, [], none) := by
  unfold writeRange
  refine foldl_still _ _ _ fun p hp => ?_
  dsimp only
  rw [h p hp]
  rfl

/-- The lines of frame f of a vein, at a place, as a check that computes. -/
def quietLine (s : State) (q : Requester) (c a off : Nat) : Bool :=
  (gate s q a false).isNone && (gate s q a true).isNone && decide (placeOf a = .vein c off) &&
    decide ((off % 32 + 64 + 31) / 32 = 2) && (regionAt s c off).all (fun r => decide (r.kind ≠ kindSealed)) &&
    rowNow s c off && decide (q.die = dieOfAddr a) &&
    (unitsOf s a 64).all fun u => u.code == 0 && decide (a ≤ u.addr) && decide (u.addr ≤ a + 64)

theorem Quiet.of {s : State} {q : Requester} {c a off : Nat} (h : quietLine s q c a off = true)
    (hb : bump s 5 2 2 (.core c) = s) :
    Quiet s q c off a ∧ ∀ u ∈ unitsOf s a 64, a ≤ u.addr ∧ u.addr ≤ a + 64 := by
  unfold quietLine at h
  simp only [Bool.and_eq_true, decide_eq_true_eq, Option.isNone_iff_eq_none, List.all_eq_true, beq_iff_eq,
    Option.all_eq_true] at h
  obtain ⟨⟨⟨⟨⟨⟨⟨h1, h2⟩, h3⟩, h4⟩, h5⟩, h6⟩, h8⟩, h7⟩ := h
  exact ⟨⟨h1, h2, h3, h4, fun r hr => h5 r hr, h6, h8, fun u hu => (h7 u hu).1.1, hb⟩,
    fun u hu => ⟨(h7 u hu).1.2, (h7 u hu).2⟩⟩

theorem flatMap_replicate {α β : Type} (x : β) (l : List α) (f : α → Nat) :
    (l.flatMap fun p => List.replicate (f p) x) = List.replicate (l.map f).sum x := by
  induction l with
  | nil => rfl
  | cons a r ih => rw [List.flatMap_cons, ih, List.map_cons, List.sum_cons, List.replicate_append_replicate]

theorem readRange_zeros {s : State} {q : Requester} {a n who : Nat} (h : ∀ p ∈ piecesOf a n,
    readLine s q p.1 p.2 who = (s, .ok (List.replicate p.2 (0, false)) [])) (hn : ((piecesOf a n).map (·.2)).sum = n) :
    readRange s q a n who = (s, List.replicate n (0, false), [], none) := by
  rw [readRange_quiet h, flatMap_replicate, hn]

/-- A frame of zeros in a vein that is quiet there reads as such, and takes zeros without a trace. -/
theorem frame_quiet {s : State} {q : Requester} {c b n a off : Nat}
    (h : ∀ i, i < 256 → quietLine s q c (a + 64 * i) (off + 64 * i) = true)
    (hb : bump s 5 2 2 (.core c) = s) (hm : ∀ e ∈ s.mem, b ≤ e.1)
    (hp : piecesOf a n = (List.range 256).map fun i => (a + 64 * i, 64)) (hn : n = 256 * 64) (ho : a + n ≤ b) :
    readRange s q a n 9 = (s, List.replicate n (0, false), [], none) ∧
      writeRange s q a (List.replicate n (0, false)) 9 = (s, [], none) := by
  have hl : ∀ p ∈ piecesOf a n, ∃ i, i < 256 ∧ p = (a + 64 * i, 64) := by
    intro p hi
    rw [hp, List.mem_map] at hi
    obtain ⟨i, hi, rfl⟩ := hi
    exact ⟨i, List.mem_range.1 hi, rfl⟩
  constructor
  · refine readRange_zeros (fun p hq => ?_) ?_
    · obtain ⟨i, hi, rfl⟩ := hl p hq
      exact readLine_quiet 9 (Quiet.of (h i hi) hb).1 hm (by dsimp only; omega)
    · rw [hp, List.map_map, hn]
      have e : ∀ l : List Nat, (l.map fun _ => 64).sum = l.length * 64 := by
        intro l
        induction l with
        | nil => rfl
        | cons x r ih => rw [List.map_cons, List.sum_cons, ih, List.length_cons]; omega
      exact (e _).trans (by rw [List.length_range])
  · refine writeRange_quiet fun p hq => ?_
    rw [List.length_replicate] at hq
    obtain ⟨i, hi, rfl⟩ := hl p hq
    dsimp only
    rw [List.drop_replicate, List.take_replicate, show min 64 (n - (a + 64 * i - a)) = 64 by omega]
    have := Quiet.of (h i hi) hb
    exact writeLine_quiet 9 this.1 hm (by omega) this.2

/-- An event that no counter of a core or its cluster selects is not counted. -/
theorem bump_unselected {s : State} {tbl evt n c : Nat}
    (h : ∀ i ∈ List.range 8, selects s (oCoSel c i) tbl evt = none ∧ selects s (oClSel (c / 16) i) tbl evt = none) :
    bump s tbl evt n (.core c) = s := by
  unfold bump
  dsimp only
  rw [foldl_still _ s, foldl_still _ s]
  · intro i hi; rw [(h i hi).2]
  · intro i hi; rw [(h i hi).1]

end Sys2Proof.Machine
end

