-- ==== Sys2Proof/Laws/Issue.lean ====
section
/-! SUPPORT. What the fetch of an instruction changes, and what its issue answers for each way its meaning ends. -/

namespace Sys2Proof.Machine

/-- A line that is fetched changes the core's instruction cache, and otherwise what a read of the line may change. -/
theorem fetchLine_ok (s s1 : State) (c a n : Nat) (h : fetchLine s c a n = .ok s1) :
    ∃ m l, MemEffect s m ∧ s1 = modCore m c fun x => { x with icache := l } := by
  unfold fetchLine at h
  dsimp only at h
  have ready : ∀ r : FetchRes, (if (getCore s c).icache.contains (a / 64) then
        .ok (setCore s c { getCore s c with icache := touchIcache (getCore s c).icache (a / 64) })
      else match readUnits s a n 1 (some c) with
        | (s1, []) => .ok (modCore s1 c fun x => { x with icache := touchIcache x.icache (a / 64) })
        | (_, l :: _) => .trap ⟨2, l.2, a⟩) = r → r = .ok s1 →
      ∃ m l, MemEffect s m ∧ s1 = modCore m c fun x => { x with icache := l } := by
    intro r hr hk
    subst hr
    split at hk
    · cases hk
      exact ⟨s, _, .same s, rfl⟩
    · have hm := readUnits_memEffect s a n 1 (some c)
      generalize readUnits s a n 1 (some c) = q at hk hm
      obtain ⟨s2, _ | ⟨l, ls⟩⟩ := q
      · cases hk
        exact ⟨s2, touchIcache (getCore s2 c).icache (a / 64), hm, rfl⟩
      · cases hk
  split at h
  · split at h
    · exact ready _ rfl h
    · cases h
  · split at h
    · split at h
      · cases h
      · exact ready _ rfl h
    · cases h
  · cases h

/-- What a successful fetch leaves alone: every core but for its instruction cache, memory's canonical form, and all that
neither a line nor the cache touches. -/
structure FetchEffect (s t : State) (c : Nat) : Prop where
  own   : getCore t c = { getCore s c with icache := (getCore t c).icache }
  other : ∀ d, d ≠ c → getCore t d = getCore s d
  wf    : Memory.wf s.mem = true → Memory.wf t.mem = true

theorem FetchEffect.trans {s t u : State} {c : Nat} (h : FetchEffect s t c) (k : FetchEffect t u c) :
    FetchEffect s u c :=
  ⟨by rw [k.own, h.own], fun d hd => (k.other d hd).trans (h.other d hd), fun hs => k.wf (h.wf hs)⟩

theorem fetchLine_effect (s s1 : State) (c a n : Nat) (h : fetchLine s c a n = .ok s1) : FetchEffect s s1 c := by
  obtain ⟨m, l, hm, rfl⟩ := fetchLine_ok s s1 c a n h
  exact ⟨by simp [hm.getCore], fun d hd => by simp [getCore_modCore_ne _ _ _ _ hd, hm.getCore],
    fun hs => by simpa using hm.wf hs⟩

/-- What a fetch that succeeds may change. -/
theorem fetch_effect (s s1 : State) (c a n : Nat) (h : fetch s c a n = .ok s1) : FetchEffect s s1 c := by
  unfold fetch at h
  dsimp only at h
  cases h1 : fetchLine s c a (min n (64 - a % 64)) with
  | wait => rw [h1] at h; cases h
  | trap t => rw [h1] at h; cases h
  | ok t =>
    rw [h1] at h
    dsimp only at h
    have e1 := fetchLine_effect _ _ _ _ _ h1
    by_cases hn : n ≤ min n (64 - a % 64)
    · rw [if_pos hn] at h
      dsimp only at h
      split at h
      · cases h; exact e1
      · cases h
    · rw [if_neg hn] at h
      cases h2 : fetchLine t c (a + min n (64 - a % 64)) (n - min n (64 - a % 64)) with
      | wait => rw [h2] at h; cases h
      | trap t => rw [h2] at h; cases h
      | ok u =>
        rw [h2] at h
        dsimp only at h
        split at h
        · cases h; exact e1.trans (fetchLine_effect _ _ _ _ _ h2)
        · cases h

/-- A fetch within a line that the instruction cache holds, of a word that is an instruction, only moves the line to the
front. -/
theorem fetch_cached (s : State) (c off n : Nat) (d : Nat) (hp : placeOf d = .ls c off) (hn : n ≤ 64 - d % 64)
    (hc : (getCore s c).icache.contains (d / 64) = true)
    (hw : wordLegal (rdNat s d 4) (rdNat s (d + 4) 4) = true) :
    fetch s c d n = .ok (modCore s c fun x => { x with icache := touchIcache x.icache (d / 64) }) := by
  have hm : min n (64 - d % 64) = n := by omega
  simp only [fetch, fetchLine, hp, hc, if_true, hm, Nat.le_refl]
  exact if_pos hw

/-- What a fetch leaves of the core that fetches: everything but its instruction cache. -/
theorem fetch_getCore (s s1 : State) (c a n : Nat) (h : fetch s c a n = .ok s1) :
    getCore s1 c = { getCore s c with icache := (getCore s1 c).icache } := (fetch_effect s s1 c a n h).own

/-- A fetch leaves every other core alone. -/
theorem fetch_getCore_ne (s s1 : State) (c d a n : Nat) (h : fetch s c a n = .ok s1) (hd : d ≠ c) :
    getCore s1 d = getCore s d := (fetch_effect s s1 c a n h).other d hd

/-- A fetch keeps memory in its canonical form. -/
theorem fetch_wf (s s1 : State) (c a n : Nat) (h : fetch s c a n = .ok s1) (hs : Memory.wf s.mem = true) :
    Memory.wf s1.mem = true := (fetch_effect s s1 c a n h).wf hs

variable {s s1 : State} {c : Nat} {i : Inst}

/-- An instruction that issues does what its meaning says of the state after its fetch. -/
theorem issue_eq (h : Issues s c i s1) (ra : CoreSt → CoreSt) (body : State → Eff) :
    issue s c i ra body = match body s1 with
      | .stall s2 => s2
      | .trap s2 t dfr more => if (getCore s c).loads.isEmpty then takeTrap s2 c t (getCore s c).pc dfr more else s
      | .trapNext s2 t =>
        if (getCore s c).loads.isEmpty then
          takeTrap (commit s2 c (getCore s c).pc ((getCore s c).pc + BitVec.ofNat 64 i.size)) c t
            ((getCore s c).pc + BitVec.ofNat 64 i.size) false false
        else s
      | .go s2 => commit s2 c (getCore s c).pc ((getCore s c).pc + BitVec.ofNat 64 i.size)
      | .jump s2 t => commit s2 c (getCore s c).pc t
      | .jumpTrap s2 a t dfr more => takeTrap (commit s2 c (getCore s c).pc a) c t a dfr more := by
  obtain ⟨able, alone, free, got, older⟩ := h
  have hf : (i.regs.any fun r => r != 0 && (busyRegs s c).contains r) = false := by
    rw [List.any_eq_false]
    intro r hr
    rcases free r hr with h | h
    · simp [h]
    · simp [h]
  have ho : (i.waits && !(getCore s c).loads.isEmpty) = false := by
    cases hw : i.waits
    · rfl
    · simp [older hw]
  simp only [issue, able, alone, hf, ho, got, Bool.not_true, Bool.false_eq_true, if_false,
    Option.isSome_none] <;> (cases body s1 <;> rfl)

theorem issue_go {ra : CoreSt → CoreSt} {body : State → Eff} {s2 : State} (h : Issues s c i s1) (hb : body s1 = .go s2) :
    issue s c i ra body = commit s2 c (getCore s c).pc ((getCore s c).pc + BitVec.ofNat 64 i.size) := by
  rw [issue_eq h, hb]

theorem issue_jump {ra : CoreSt → CoreSt} {body : State → Eff} {s2 : State} {t : Word} (h : Issues s c i s1)
    (hb : body s1 = .jump s2 t) : issue s c i ra body = commit s2 c (getCore s c).pc t := by
  rw [issue_eq h, hb]

theorem issue_stall {ra : CoreSt → CoreSt} {body : State → Eff} {s2 : State} (h : Issues s c i s1)
    (hb : body s1 = .stall s2) : issue s c i ra body = s2 := by
  rw [issue_eq h, hb]

theorem issue_trap {ra : CoreSt → CoreSt} {body : State → Eff} {s2 : State} {t : TrapInfo} {dfr more : Bool}
    (h : Issues s c i s1) (hl : (getCore s c).loads = []) (hb : body s1 = .trap s2 t dfr more) :
    issue s c i ra body = takeTrap s2 c t (getCore s c).pc dfr more := by
  rw [issue_eq h, hb]
  simp [hl]

/-- A commit changes the core that commits, and counters. -/
theorem commit_getCore (s : State) (c : Nat) (a b : Word) :
    getCore (commit s c a b) c = { getCore s c with pc := b, last := a, blocked := [], blk := 0, blkobj := 0 } := by
  simp [commit]
theorem commit_getCore_ne (s : State) (c d : Nat) (a b : Word) (h : d ≠ c) :
    getCore (commit s c a b) d = getCore s d := by
  simp [commit, getCore_modCore_ne _ _ _ _ h]
@[simp] theorem commit_mem (s : State) (c : Nat) (a b : Word) : (commit s c a b).mem = s.mem := by
  simp [commit]
@[simp] theorem commit_pending (s : State) (c : Nat) (a b : Word) : (commit s c a b).pending = s.pending := by
  simp [commit]
/-- A commit changes cores and control-space registers only. -/
theorem commit_eq (s : State) (c : Nat) (a b : Word) : ∃ q r, commit s c a b = { s with cores := q, regs := r } := by
  obtain ⟨r, h⟩ := bump_onlyRegs (modCore s c fun x => { x with pc := b, last := a, blocked := [], blk := 0, blkobj := 0 }) 0x03 2 1 (.core c)
  exact ⟨_, r, h⟩

/-- Nothing happens to an instruction whose core cannot issue. -/
theorem issue_blocked (ra : CoreSt → CoreSt) (body : State → Eff) (h : canIssue s c = false) : issue s c i ra body = s := by
  simp [issue, h]

end Sys2Proof.Machine
end

