-- ==== Sys2Proof/Machine/Sideband.lean ====
section
/-! DEFINITION. The management sideband (R449, R526): its address and the sensors it reads. It never writes control space, so
no command acts through it. -/

namespace Sys2Proof.Machine

/-- What the sensors of the sideband read (R449): input power in 0.1 W, the strata readings of the last round in 1/16 °C
(none: the sensor has failed), the state of the governor, and whether FAULT_N is asserted. -/
structure SidebandSensors where
  inputPower : Nat
  strata     : List (Option Int)
  governor   : GovState
  faultN     : Bool
  deriving DecidableEq, Repr

/-- The strata readings that the sideband exposes. -/
def strataReadings (s : State) : List (Option Int) :=
  (List.range 256).map fun i => if s.pwr.failed.contains i then none else some (look (fun _ => 0) s.pwr.sensors i)

/-- The sensors as the comptroller's firmware serves them; none while no firmware runs (R445, R449). -/
def sidebandSensors (s : State) : Option SidebandSensors :=
  if s.comp.state = .firmware then
    some ⟨s.pwr.inputs.headD 0, strataReadings s, s.pwr.state, s.start.faultN⟩
  else none

/-- The static address of the endpoint: 0x60 and the value of SLOT_ID3 to SLOT_ID0 (R526). -/
def sidebandStatic (s : State) : Nat := 0x60 + s.start.pins % 16

/-- The address at which the endpoint answers: the dynamic one, once a controller has assigned one under I3C basic (R526). -/
def sidebandAddress (s : State) : Nat := s.start.dynAddr.getD (sidebandStatic s)

end Sys2Proof.Machine
end

