-- ==== Sys2Proof/Tests/Slice0.lean ====
section
/-! SUPPORT. Tests: the terms that a well-formed command refuses, worked examples of the manual, and for each statement
with hypotheses a state and operands that meet them. -/

namespace Sys2Proof.Tests.Slice0

open Sys2Proof Sys2Proof.Machine

/-! ### Small states -/

/-- The device after a start with core 0 running at address 0, its first line in its instruction cache. -/
def run0 (f : CoreSt → CoreSt) : State :=
  setCore State.reset 0 (f { CoreSt.idle with run := .running, icache := [0] })

/-- Core 0 with general registers as given. -/
def gprs (l : Map Word) : State := run0 fun x => { x with g := l }

/-- The state after the fetch of an instruction of n bytes by core c. -/
def fetched (s : State) (c n : Nat) : State :=
  match fetch s c (getCore s c).pc.toNat n with
  | .ok t => t
  | _ => s

/-- Whether an instruction of core c issues. -/
def issuing (s : State) (c : Nat) (i : Inst) : Bool :=
  canIssue s c && (getCore s c).ra.isNone && (i.regs.all fun r => r == 0 || !(busyRegs s c).contains r) &&
    (match fetch s c (getCore s c).pc.toNat i.size with
      | .ok _ => true
      | _ => false) && (!i.waits || (getCore s c).loads.isEmpty)

/-- The state that a command leaves. -/
def nextOf (i : Instr) (s : State) : State :=
  match exec i s with
  | .next t => t
  | _ => s

theorem issues_of {s : State} {c : Nat} {i : Inst} (h : issuing s c i = true) : Issues s c i (fetched s c i.size) := by
  simp only [issuing, Bool.and_eq_true, List.all_eq_true, Bool.or_eq_true, beq_iff_eq] at h
  obtain ⟨⟨⟨⟨h1, h2⟩, h3⟩, h4⟩, h5⟩ := h
  refine ⟨h1, by simpa using h2, fun r hr => ?_, ?_, fun hw => ?_⟩
  · rcases h3 r hr with h | h
    · exact .inl h
    · exact .inr (by simpa using h)
  · unfold fetched
    split at h4
    · next t ht => rw [ht]
    · cases h4
  · simpa [hw] using h5

/-- An instruction of core c issues in a state, and a condition holds after its fetch. -/
def Ready (s : State) (c : Nat) (i : Inst) (ok : State → Prop) : Prop := ∃ s1, Issues s c i s1 ∧ ok s1

theorem ready_of {s : State} {c : Nat} {i : Inst} {ok : State → Prop} (h : issuing s c i = true)
    (k : ok (fetched s c i.size)) : Ready s c i ok := ⟨_, issues_of h, k⟩

/-- An address whose place is not the control space. -/
theorem not_ctl {a : Nat} {p : Place} (h : placeOf a = p) (hp : ∀ o, p ≠ .ctl o) : ∀ o, placeOf a ≠ .ctl o :=
  fun o => h ▸ hp o

/-- Whether a requester may write a register that is being served. -/
def mayWrite (s : State) (r : Req) (off : Nat) : Bool :=
  decide (standing s r off true = .allowed) && (!byFirmware off || decide (s.comp.state = .firmware))

theorem writable_of {s : State} {r : Req} {off : Nat} (h : mayWrite s r off = true) : Writable s r off := by
  simp only [mayWrite, Bool.and_eq_true, decide_eq_true_eq, Bool.or_eq_true, Bool.not_eq_true'] at h
  exact ⟨h.1, fun hb => h.2.resolve_left (by simp [hb])⟩

/-! ### The queue and memory -/

theorem meets_StepRunsFront : ({ State.reset with pending := [.halt 0, .halt 1] } : State).pending = [.halt 0, .halt 1] := rfl

theorem meets_StepAlwaysAnswers : State.reset.pending = [] ∧ State.reset.start.phase ≠ .unpowered := by decide +kernel

theorem meets_StepKeepsCanonical : Canonical (wrByte State.reset 5 7) ∧
    step (wrByte State.reset 5 7) = .next { wrByte State.reset 5 7 with hallmark := 1 } :=
  ⟨show _ = _ from by decide +kernel, rfl⟩

/-! ### Scalar instructions -/

theorem meets_ScalarArithmetic :
    Ready (gprs [(2, 5), (3, 7)]) 0 ⟨4, [1, 2, 3], false⟩ (fun s1 => gpr (getCore s1 0) 3 = 7) :=
  ready_of (by decide +kernel) (by decide +kernel)

theorem meets_ControlFlow :
    Ready (gprs [(2, 8), (31, 64)]) 0 ⟨4, [2, 31], false⟩ (fun s1 => (gpr (getCore s1 0) 2).toNat % 4 = 0 ∧
      (gpr (getCore s1 0) 31).toNat % 4 = 0) ∧
    Ready (gprs [(2, 9)]) 0 ⟨4, [2], false⟩ (fun s1 => ¬ (gpr (getCore s1 0) 2).toNat % 4 = 0 ∧
      (getCore s1 0).loads = []) ∧
    (getCore (run0 fun x => { x with mispred := true }) 0).mispred = true := by
  refine ⟨ready_of ?_ ?_, ready_of ?_ ?_, ?_⟩ <;> decide +kernel

theorem meets_ControlWords :
    cwAllotted 0x0A = true ∧ cwAllotted 0x1F = false ∧
    Ready (gprs []) 0 ⟨8, [1], true⟩ (fun s1 => (getCw (getCore s1 0) 0).getLsbD 0 = false) ∧
    Ready (run0 fun x => { x with cw := [(0, 1)] }) 0 ⟨8, [1], true⟩
      (fun s1 => (getCw (getCore s1 0) 0).getLsbD 0 = true ∧ (getCore s1 0).loads = []) := by
  refine ⟨?_, ?_, ready_of ?_ ?_, ready_of ?_ ?_⟩ <;> decide +kernel

theorem meets_TrapEntry :
    (getCore (gprs []) 0).ra = none ∧ (getCw (getCore (gprs []) 0) 0).getLsbD 2 = false := by decide +kernel

theorem meets_Loads :
    Ready (gprs [(2, 0x100)]) 0 ⟨4, [1, 2], false⟩ (fun s1 =>
      let x := getCore s1 0
      let a := (gpr x 2 + (8 : BitVec 14).signExtend 64).toNat
      placeOf a = .ls 0 0x108 ∧ a % 8 = 0 ∧ inOwnPartition s1 0 a = true ∧ movesMeet x.moves a 8 = false ∧
        forward x a 8 = .miss ∧ prefHit x a 8 = none ∧ ownFull s1 0 a = false ∧
        (match coreRead s1 0 a 8 2 with
          | (_, .ok _ bs) => bs == List.replicate 8 0
          | _ => false) = true) ∧
    (let x := getCore (run0 fun x => { x with loads := [⟨1, .inl 5, 0x100, snapshotOf x, 0⟩] }) 0
     x.loads = [⟨1, .inl 5, 0x100, snapshotOf (getCore (gprs []) 0), 0⟩] ∧ x.ra = none ∧ x.halting = false ∧ x.dbl = none) ∧
    State.reset.jobs = [] := by
  refine ⟨ready_of ?_ ?_, ?_⟩ <;> decide +kernel

theorem meets_OperandTraps :
    Ready (gprs [(2, 0x101)]) 0 ⟨4, [1, 2], true⟩ (fun s1 => placeOf (gpr (getCore s1 0) 2 + 0).toNat = .ls 0 0x101 ∧
      (gpr (getCore s1 0) 2 + 0).toNat % 2 ≠ 0 ∧ (gpr (getCore s1 0) 2 + 0).toNat % 8 ≠ 0 ∧
      (getCore s1 0).loads = []) ∧
    Ready (gprs []) 0 ⟨4, [], false⟩ (fun s1 => (getCore s1 0).loads = []) ∧ 2 < (3 : BitVec 4).toNat := by
  refine ⟨ready_of ?_ ?_, ready_of ?_ ?_, by decide⟩ <;> decide +kernel

/-- A store buffer of n entries, one a line, the youngest on line n. -/
def bufOf (n : Nat) : List StoreEnt := (List.range n).map fun i => ⟨i + 1, [], false, []⟩

theorem meets_Stores :
    Ready (gprs [(2, 0x100), (1, 9)]) 0 ⟨4, [1, 2], true⟩ (fun s1 =>
      placeOf 0x100 = .ls 0 0x100 ∧ (gpr (getCore s1 0) 2 + 0).toNat = 0x100 ∧ inOwnPartition s1 0 0x100 = true ∧
      gate s1 (coreReq s1 0) 0x100 true ≠ some .unmapped ∧
      (bufferStore (getCore s1 0) 0x100 (natLe 8 9) true false).isSome = true) ∧
    bufOf 3 = bufOf 2 ++ [⟨3, [], false, []⟩] ∧ (bufOf 16).length = 16 ∧ (16 : Nat) ≠ 0x100 / 128 ∧
    bufOf 16 = bufOf 15 ++ [⟨16, [], false, []⟩] := by
  refine ⟨ready_of ?_ ?_, ?_, ?_, by decide, ?_⟩ <;> decide +kernel

/-- Core 0 with one store of eight bytes at address 0x100 in its buffer. -/
def storing : State := run0 fun x => { x with buf := [⟨2, setLineBytes [] 0 [1, 2, 3, 4, 5, 6, 7, 8], false, [(0x100, 8)]⟩] }

theorem meets_StoreDrains :
    (let x := getCore storing 0
     x.buf = [⟨2, setLineBytes [] 0 [1, 2, 3, 4, 5, 6, 7, 8], false, [(0x100, 8)]⟩] ∧ x.moves = [] ∧ x.halting = false ∧
       x.dbl = none) ∧
    crossing storing false 0 0 = .free ∧ (getCl storing 0).queues = [] ∧
    storeRuns 2 (setLineBytes [] 0 [1, 2, 3, 4, 5, 6, 7, 8]) = [(0x100, [1, 2, 3, 4, 5, 6, 7, 8])] ∧
    placeOf 0x100 = .ls 0 0x100 ∧ populated storing 0 = true ∧ dieUp storing 0 = true ∧ (getCl storing 0).power = .on ∧
    verdictOf storing ⟨0x100, 1, 8⟩ = .good ∧ storing.jobs = [] ∧
    (getCore (run0 fun x => { x with failed := [⟨3, 0, 8⟩] }) 0).failed = [⟨3, 0, 8⟩] ∧
    (getCore (run0 fun x => { x with failed := [⟨3, 0, 8⟩], deferred := some ⟨3, 1, 0⟩ }) 0).deferred = some ⟨3, 1, 0⟩ := by
  decide +kernel

/-! ### Vector and system instructions -/

theorem meets_Lanes : vecWidth 0 = some 32 ∧ vecWidth 2 = some 16 ∧ permWidth 0 = some 32 ∧
    Ready (run0 id) 0 ⟨4, [], false⟩ (fun _ => True) :=
  ⟨by decide, by decide, by decide, ready_of (by decide +kernel) trivial⟩

theorem meets_Reductions : vecWidth 0 = some 32 ∧ (1 : PReg) ≠ 0 ∧
    Ready (run0 id) 0 ⟨4, [], false⟩ (fun s1 => (getCore s1 0).loads = []) :=
  ⟨by decide, by decide, ready_of (by decide +kernel) (by decide +kernel)⟩

/-- FP32 to BF16 of 64 values: v0 and v1 into v2. -/
theorem meets_RotationAndConversion :
    vecWidth 0 = some 32 ∧ cvtFormat 0 = true ∧ cvtFormat 1 = true ∧ cvtGroups 2 0 0 0 0 1 64 = false ∧
    blockLen 0 = 0 ∧ blockLen 1 = 0 ∧
    Ready (run0 id) 0 ⟨4, [], false⟩ (fun _ => True) ∧
    Ready (run0 id) 0 ⟨8, [], false⟩ (fun s1 => rmCode (getCore s1 0) ≠ 4) := by
  refine ⟨by decide, by decide, by decide, ?_, by decide, by decide, ready_of ?_ trivial, ready_of ?_ ?_⟩ <;>
    decide +kernel

/-- Whether a read gives these bytes and the state it leaves. -/
def reads (r : State × CoreRead) (bs : List Byte) : Bool :=
  match r with
  | (t, .ok u b) => decide (t = u) && b == bs
  | _ => false

theorem meets_VectorMemory :
    Ready (gprs [(2, 0x100)]) 0 ⟨4, [2], true⟩ (fun s1 =>
      let x := getCore s1 0
      let a := (gpr x 2 + (1 : BitVec 12).signExtend 64 * 128).toNat
      a = 0x180 ∧ vmFault s1 0 a 128 = false ∧ movesMeet x.moves a 128 = false ∧ forward x a 128 = .miss ∧
        reads (coreRead s1 0 a 128 2) (List.replicate 128 0) = true ∧
        (bufferStore x a (natLe 128 (vreg x 0).toNat) false false).isSome = true ∧ x.loads = []) ∧
    2 < (3 : BitVec 4).toNat ∧ 15 < (16 : BitVec 5).toNat ∧ 7 < (8 : BitVec 5).toNat :=
  ⟨ready_of (by decide +kernel) (by decide +kernel), by decide, by decide, by decide⟩

theorem meets_WaitsAndSignals :
    Ready (run0 fun x => { x with g := [(2, 1)], cw := [(10, 1)] }) 0 ⟨4, [1, 2, 3], true⟩
      (fun s1 => getCw (getCore s1 0) 0xA &&& gpr (getCore s1 0) 2 ≠ 0) ∧
    Ready (gprs [(2, 1), (3, 100)]) 0 ⟨4, [1, 2, 3], true⟩ (fun s1 =>
      getCw (getCore s1 0) 0xA &&& gpr (getCore s1 0) 2 = 0 ∧ gpr (getCore s1 0) 3 ≠ 0) ∧
    Ready (gprs []) 0 ⟨4, [1, 2, 3], true⟩ (fun s1 => gpr (getCore s1 0) 2 = 0 ∧ gpr (getCore s1 0) 3 = 0) ∧
    (getCl State.reset 0).paused = false ∧
    Ready (gprs [(2, 17)]) 0 ⟨4, [2], true⟩ (fun s1 => populated s1 17 = true ∧ partOf s1 17 = partOf s1 0 ∧
      released s1 0 = true ∧ (getCore s1 0).deferred = none) ∧
    Ready { gprs [(2, 17)] with parts := [(0, ⟨[0], 0, 4096, 1024, 0, 0, 0⟩)] } 0 ⟨4, [2], true⟩
      (fun s1 => ¬ partOf s1 17 = partOf s1 0) ∧
    takesEvents State.reset 0 = true ∧ (getCore State.reset 0).wait = none ∧
    (getCore (run0 fun x => { x with run := .waiting, wait := some (.event 1 1 (some 100)) }) 0).wait =
      some (.event 1 1 (some 100)) ∧
    (let s := { run0 fun x => { x with run := .waiting, wait := some (.event 6 1 none) } with signals := [⟨3, 0, 2⟩] }
     s.signals = [⟨3, 0, 2⟩] ∧ takesEvents s 0 = true ∧ crossing s false (signalDie ⟨3, 0, 2⟩) 0 ≠ .held ∧ (getCore s 0).wait = some (.event 6 1 none) ∧
      (getCl s 0).paused = false ∧ ((getCw (getCore s 0) 0xA ||| (1 <<< 2)) &&& 6 : Word) ≠ 0) := by
  refine ⟨ready_of ?_ ?_, ready_of ?_ ?_, ready_of ?_ ?_, ?_, ready_of ?_ ?_, ready_of ?_ ?_, ?_⟩ <;> decide +kernel

theorem meets_ReleasePoints :
    Ready (run0 id) 0 ⟨4, [], true⟩ (fun s1 =>
      let x := getCore s1 0
      released s1 0 = true ∧ x.deferred = none ∧ (getCw x 0).getLsbD 0 = false ∧ x.bind = none ∧ x.pFaults = [] ∧
        x.nbFaults = [] ∧ coreQuiet s1 0 = true ∧ s1.jobs = [] ∧ x.dbl = none) ∧
    Ready storing 0 ⟨4, [], true⟩ (fun s1 => released s1 0 = false) ∧
    Ready (run0 fun x => { x with deferred := some ⟨3, 0, 8⟩ }) 0 ⟨4, [], true⟩ (fun s1 =>
      released s1 0 = true ∧ (getCore s1 0).deferred = some ⟨3, 0, 8⟩) ∧
    Ready (run0 fun x => { x with cw := [(0, 1)] }) 0 ⟨4, [], true⟩ (fun s1 =>
      (getCw (getCore s1 0) 0).getLsbD 0 = true) ∧
    Ready (run0 fun x => { x with deferred := some ⟨3, 0, 8⟩ }) 0 ⟨4, [], true⟩ (fun s1 =>
      (getCw (getCore s1 0) 0).getLsbD 0 = false ∧ (getCore s1 0).deferred = some ⟨3, 0, 8⟩ ∧
        (getCore s1 0).ra = none) := by
  refine ⟨ready_of ?_ ?_, ready_of ?_ ?_, ready_of ?_ ?_, ready_of ?_ ?_, ready_of ?_ ?_⟩ <;> decide +kernel

/-- Core 0 with its registers 2 and 3 holding a barrier's ID and a number, and the barrier in a state. -/
def barring (id n : Word) (key : Nat) (b : Barrier) : State := setBar (gprs [(2, id), (3, n)]) key b

theorem meets_Barriers :
    Ready (barring 0 0 0 ⟨2, 1, 5, []⟩) 0 ⟨4, [1, 2, 3], true⟩ (fun s1 => barKey s1 0 0 = some 0 ∧
      released s1 0 = true ∧ (getCore s1 0).deferred = none ∧ (getBar s1 0).count ≤ (getBar s1 0).arrived + 1) ∧
    Ready (barring 0 0 0 ⟨3, 0, 5, []⟩) 0 ⟨4, [1, 2, 3], true⟩ (fun s1 =>
      (getBar s1 0).arrived + 1 < (getBar s1 0).count ∧ genDone (getBar s1 0) 5 = false ∧
        genDone (getBar s1 0) 4 = true) ∧
    Ready (barring 0 16 0 ⟨3, 0, 5, []⟩) 0 ⟨4, [2, 3], true⟩ (fun s1 => (getCw (getCore s1 0) 0).getLsbD 0 = false ∧
      (gpr (getCore s1 0) 3).toNat = 16 ∧ (getBar s1 0).arrived = 0) ∧
    Ready (barring 0 17 0 ⟨3, 0, 5, []⟩) 0 ⟨4, [2, 3], true⟩ (fun s1 => (getCore s1 0).loads = [] ∧
      (gpr (getCore s1 0) 3).toNat = 17 ∧ (0 : Nat) < 0x10000) := by
  refine ⟨ready_of ?_ ?_, ready_of ?_ ?_, ready_of ?_ ?_, ready_of ?_ ?_⟩ <;> decide +kernel

/-- Core 0 waiting in a barrier for generation 4, which has completed, or has not. -/
def waiting4 (freed : Bool) : State :=
  setBar (run0 fun x => { x with run := .waiting, wait := some (.barrier 0 0 4 1 freed), cw := [(13, 100)] }) 0
    ⟨2, 0, if freed then 5 else 4, []⟩

theorem meets_BarrierEnds :
    (getCore (waiting4 true) 0).wait = some (.barrier 0 0 4 1 true) ∧
    (∀ d, d / 16 = 0 → d ≠ 0 → (getCore (waiting4 true) d).wait = none) ∧ (getCl (waiting4 true) 0).paused = false ∧
    (getCl (modCl (waiting4 true) 0 fun x => { x with paused := true }) 0).paused = true ∧
    (getCore (waiting4 false) 0).wait = some (.barrier 0 0 4 1 false) ∧
    (getCw (getCore (waiting4 false) 0) 0xD).toNat % 2 ^ 32 ≠ 0 ∧ (getCore (waiting4 false) 0).ra = none ∧
    (getCl (waiting4 false) 0).paused = false ∧ (getCw (getCore (waiting4 false) 0) 0).getLsbD 2 = false := by
  have h : ∀ e, e < 16 → e ≠ 0 → (getCore (waiting4 true) e).wait = none := by decide +kernel
  refine ⟨?_, fun d hd h0 => h d (by omega) h0, ?_⟩ <;> decide +kernel

/-- Core 0 with a load from far memory outstanding, on which its next instruction waits. -/
def farLoading : State := run0 fun x => { x with
  cw := [(14, 0x120)], loads := [⟨1, .inl 5, farAddr 0 0, snapshotOf x, 0⟩], blocked := [1] }

theorem meets_CoreTimers :
    (let s := run0 fun x => { x with cw := [(11, 50), (12, 100)] }
     let x := getCore s 0
     (x.loads = [] ∧ x.ra = none ∧ x.halting = false ∧ x.dbl = none ∧ x.resetting = none ∧ s.jobs = []) ∧
      (getCw x 0xC).toNat % 2 ^ 32 ≠ 0 ∧ x.run = .running ∧ x.wait = none ∧ (getCl s 0).paused = false ∧
      (getCl s 0).power = .on ∧ (getCw x 0).getLsbD 2 = false ∧ getCw x 0xB ≠ 0) ∧
    (let x := getCore farLoading 0
     canIssue farLoading 0 = true ∧ x.ra = none ∧ (getCw x 0xE).getLsbD 8 = true ∧ x.loads.any (stallLoad x 0) = true) ∧
    ((getCore (nextOf (.runAheadEntry 0) farLoading) 0).ra.map fun a => a.left) = some 32 ∧
    ((getCore (run0 fun x => { x with ra := some ⟨[], [], 0, 0, []⟩ }) 0).ra.map fun a => a.left) = some 0 := by
  decide +kernel

theorem meets_CoreControl :
    (let s := setCore State.reset 0 CoreSt.idle
     let x := getCore s 0
     takesEvents s 0 = true ∧ (x.loads = [] ∧ x.ra = none ∧ x.halting = false ∧ x.dbl = none ∧ x.resetting = none ∧
       s.jobs = []) ∧ x.run = .reset) ∧
    (let s := run0 id
     let x := getCore s 0
     x.run = .running ∧ x.wait = none ∧ x.buf = [] ∧ x.moves = [] ∧ coreQuiet s 0 = true ∧ x.bind = none ∧
       x.pFaults = [] ∧ x.nbFaults = []) ∧
    mayWrite State.reset (.core 5) (oCoCtl 0) = true ∧ mayWrite State.reset (.core 5) (coBase 0 + 0x20) = true ∧
    (getCore (run0 fun x => { x with resetting := some true }) 0).resetting = some true ∧
    (getCore (run0 fun x => { x with resetting := some false }) 0).resetting = some false := by decide +kernel

/-! ### The press and the vein -/

/-- A press tensor of 4 runs of 64 elements at address 0x1000, in format f. -/
def tensor (f : Nat) : Desc :=
  BitVec.ofNat 256 (2 ^ 252 + f * 2 ^ 248 + 0x1000 * 2 ^ 144 + 256 * 2 ^ 112 + 64 * 2 ^ 64 + 4 * 2 ^ 32)

/-- Core 0 with press tensors in d0 (FP16) and d1 (FP32), one row in register 3, and the whole window. -/
def pressing : State := run0 fun x => { x with
  d := [(0, tensor 1), (1, tensor 0)], g := [(3, 1)], cw := [(16, 0x4000000)] }

theorem meets_PressCommands :
    Ready pressing 0 ⟨4, [2, 3], true⟩ (fun s1 =>
      PressTakes s1 0 ∧ PressTensor s1 0 0 ∧ PressTensor s1 0 1 ∧ pressWeight 1 = true ∧
      (pressDesc (dreg (getCore s1 0) 0).toNat).fmt = 1 ∧ (pressDesc (dreg (getCore s1 0) 1).toNat).fmt = 0 ∧
      (gpr (getCore s1 0) 2).toNat = 0 ∧ (gpr (getCore s1 0) 3).toNat % 2048 = 1 ∧ (getCore s1 0).wfmt = 15 ∧
      windowRows (getCore s1 0) 1 = some 1 ∧ pressOutstanding s1 0 = 0 ∧ (getCore s1 0).pFaults = [] ∧
      blockLen 0 = 0) ∧
    Ready (modCl pressing 0 fun x => setQueue x 0 [⟨2, 0, 0, 1, false, false, 0, 0⟩]) 0 ⟨4, [1], true⟩
      (fun s1 => pressOutstanding s1 0 ≠ 0) ∧
    Ready (run0 fun x => { x with pFaults := [⟨0xB, 2, 0⟩] }) 0 ⟨4, [1], true⟩
      (fun s1 => pressOutstanding s1 0 = 0 ∧ (getCore s1 0).pFaults = [⟨0xB, 2, 0⟩]) := by
  refine ⟨ready_of ?_ ?_, ready_of ?_ ?_, ready_of ?_ ?_⟩ <;> (try unfold PressTakes PressTensor) <;> decide +kernel

/-- A PLOAD of the tensor in FP16, a PFEED of one row of it, a PDRAIN of one row to the tensor in FP32. -/
def load1 : PressCmd := ⟨0, (tensor 1).toNat, 0, 0, false, false, 0, 0⟩
def feed1 : PressCmd := ⟨1, (tensor 1).toNat, 0, 1, false, true, 0, 0⟩
def drain1 : PressCmd := ⟨2, (tensor 0).toNat, 0, 1, false, false, 0, 0⟩

/-- Cluster 0 with a press state. -/
def press0 (f : ClusterSt → ClusterSt) : State := modCl (run0 id) 0 f

/-- A run of core 0 of cluster 0 with nothing in its tile, loaded or not. -/
def runOf (kt : Nat) (loaded : Bool) : PressRun := ⟨0, load1, kt, loaded, false, [], none, 0⟩

theorem meets_PressWork :
    (∀ s ∈ [press0 id, press0 fun x => { x with shadow := some (runOf 64 false) },
      press0 fun x => { x with drain := some (0, drain1) }], PressRuns s 0) ∧
    (let s := press0 fun x => setQueue x 0 [{ load1 with kt := 64 }, feed1]
     pressChoice s 0 = some 0 ∧ pressQueue (getCl s 0) 0 = { load1 with kt := 64 } :: [feed1] ∧ load1.op = 0 ∧
       (getCl s 0).shadow = none ∧ dieUp s 0 = true) ∧
    (let s := press0 fun x => { setQueue x 0 [feed1] with susp := [runOf 64 true] }
     pressChoice s 0 = some 0 ∧ pressQueue (getCl s 0) 0 = feed1 :: [] ∧ feed1.op = 1 ∧
       (getCl s 0).susp.find? (·.core == 0) = some (runOf 64 true) ∧ (getCl s 0).shadow = none) ∧
    (let s := press0 fun x => { x with shadow := some (runOf 64 false) }
     (getCl s 0).shadow = some (runOf 64 false) ∧ (runOf 64 false).loaded = false ∧ (getCore s 0).buf = []) ∧
    (let s := press0 fun x => { x with
      feed := some (0, feed1), fed := true, current := some (runOf 64 true), activity := .passes }
     (getCl s 0).feed = some (0, feed1) ∧ (getCl s 0).current = some (runOf 64 true) ∧ (getCl s 0).fed = true ∧
       (getCl s 0).activity = .passes ∧ (getCl s 0).power = .on ∧ feed1.last = true) ∧
    (let s := press0 fun x => setQueue x 0 [drain1]
     roundRobin (getCl s 0).lastDrain
         ((List.range 16).filter fun i => (pressQueue (getCl s 0) i).head?.any (·.op == 2)) = some 0 ∧
       (pressQueue (getCl s 0) 0).head? = some drain1 ∧ (getCl s 0).drain = none) ∧
    (let s := press0 fun x => { x with drain := some (0, drain1) }
     (getCl s 0).drain = some (0, drain1) ∧ (getCl s 0).feed.any (fun f => rowsMeet f.2 drain1) = false ∧
       (getCore s 0).buf = []) := by
  unfold PressRuns
  decide +kernel

theorem meets_PressActivity :
    (let s := press0 fun x => { setQueue x 1 [{ load1 with kt := 64 }, feed1] with current := some (runOf 64 true) }
     let x := getCl s 0
     x.current = some (runOf 64 true) ∧ x.feed = none ∧ x.power = .on ∧ pressQueue x 0 = [] ∧
       pressCandidate s 0 1 = true) ∧
    (getCl (press0 fun x => { x with activity := .gap }) 0).activity = .gap ∧
    (getCl (press0 fun x => { x with activity := .rampDown }) 0).activity = .rampDown ∧
    (getCl (press0 fun x => { x with activity := .rampUp }) 0).activity = .rampUp ∧
    populatedCl State.reset 0 = true ∧ (getCl State.reset 0).failed = false ∧ (getCl State.reset 0).absent = false ∧
    State.reset.jobs = [] ∧ (∀ c, (getCore State.reset c).halting = false ∧ (getCore State.reset c).dbl = none) := by
  iterate 8 refine .intro (by decide +kernel) ?_
  exact fun _ => ⟨rfl, rfl⟩

/-- Core 0 about to move 32 bytes between its vein, whose first slab is an open region, and its local store. -/
def moving : State :=
  setReg (gprs [(2, BitVec.ofNat 64 (veinAddr 0 0)), (3, 0x1000), (4, 32)]) (oRegion 0 0) (BitVec.ofNat 64 (8 * 256 + 2 ^ 19))

theorem meets_Moves :
    Ready moving 0 ⟨4, [2, 3, 4], true⟩ (fun s1 =>
      (∀ l, moveOf s1 0 0 l (veinAddr 0 0) 0x1000 32 = .inl ⟨l, veinAddr 0 0, 0x1000, 32, 1, 0, none⟩) ∧
      (gpr (getCore s1 0) 2).toNat = veinAddr 0 0 ∧ (gpr (getCore s1 0) 3).toNat = 0x1000 ∧
      (gpr (getCore s1 0) 4).toNat = 32 ∧ (getCore s1 0).moves.length < 8 ∧ (getCore s1 0).buf = [] ∧
      ownFull s1 0 (veinAddr 0 0) = false ∧ moveOf s1 0 0 true (veinAddr 0 0 + 1) 0x1000 32 = .inr (veinAddr 0 0 + 1)) ∧
    (let s := modCore moving 0 fun x => { x with moves := [⟨true, veinAddr 0 0, 0x1000, 32, 1, 0, none⟩] }
     (getCore s 0).moves = [⟨true, veinAddr 0 0, 0x1000, 32, 1, 0, none⟩] ∧
       (runMove s 0 ⟨true, veinAddr 0 0, 0x1000, 32, 1, 0, none⟩).2.1 = none) ∧
    (let s := modCore moving 0 fun x => { x with asked := [veinAddr 0 0] }
     (getCore s 0).asked.contains (veinAddr 0 0) = true ∧ (getCore s 0).moves = [] ∧ (getCore s 0).buf = [] ∧
       reads (coreRead s 0 (veinAddr 0 0) 32 2) (List.replicate 32 0) = true ∧
       (match coreRead s 0 (veinAddr 0 0) 32 2 with
         | (t, _) => decide (getCore t 0 = getCore s 0)) = true) := by
  refine ⟨ready_of ?_ ?_, ?_⟩ <;> decide +kernel

/-- Core 0's vein with a sealed region of one slab, and a state of its controller. -/
def vein0 (f : VeinSt → VeinSt) : State :=
  modVein (setReg State.reset (oRegion 0 0) (BitVec.ofNat 64 (256 + 2 ^ 20))) 0 f

/-- A read of 8 bytes at an offset by a Clearing port's agent, and as it waits in the guest queue. -/
def guest8 (off : BitVec 26) : GuestReq := ⟨1, 0, 0, false, off, 8, []⟩
def queued8 : Guest := ⟨guest8 0, 0, false, none, none⟩

theorem meets_VeinUpkeep :
    (let s := vein0 fun v => { v with debt := [(0, 3), (1, 8)] }
     veinRuns s 0 = true ∧ debtOf (getVein s 0) 0 = 3 ∧ debtOf (getVein s 0) 1 = 8 ∧ pairWanted s 0 0 = false) ∧
    (let s := vein0 fun v => { v with debt := [(0, 3)], guests := [queued8] }
     debtOf (getVein s 0) 0 = 3 ∧ pairWanted s 0 ((bankRow s 0 0).1 / 2) = true) ∧
    (let s := vein0 id
     regField s (oVscrub 0) 16 1 ≠ 0 ∧ (getVein s 0).scrubDue = none ∧ sealedRegions s 0 ≠ []) ∧
    (let s := vein0 fun v => { v with scrubDue := some 5 }
     (getVein s 0).scrubDue = some 5 ∧ (getVein s 0).urgent = false ∧ sealedRow s 0 (getVein s 0).scrubAt = some 0 ∧
       debtOf (getVein s 0) ((bankRow s 0 0).1 / 2) ≠ 8 ∧ regionWaits s 0 0 = false ∧
       scrubYields s 0 (bankRow s 0 0).1 = false) := by decide +kernel

/-- Core 0's vein with a guest queued and the unit of its bank streaming. -/
def held0 : State := vein0 fun v => setUnit { v with guests := [queued8] } 0 { BankUnit.idle with
  busy := true, queue := [(0, .product 0 0 0 0 false false true false)] }

theorem meets_VeinRequests :
    look noRow (getVein (vein0 fun v => { v with rows := [(3, some (7, 5))] }) 0).rows 3 = some (7, 5) ∧
    (bankRow held0 0 0).1 / 2 = 0 ∧ leastNat (pairRequests held0 0 0) = some 0 ∧ heldBank (getVein held0 0) 0 = true ∧
    (let s := setReg (vein0 fun v => { v with guests := [queued8] }) (oVctl 0) 0x1000000
     (getVein s 0).guests = [queued8] ∧ regField s (oVctl 0) 24 8 ≠ 0) ∧
    guestComes held0 0 (guest8 0) = true ∧ guestHeld held0 0 (guest8 0) = true ∧
    (getVein held0 0).guests.length < 32 ∧
    32 ≤ (getVein (modVein held0 0 fun v => { v with guests := List.replicate 32 queued8 }) 0).guests.length ∧
    guestComes moving 0 (guest8 0) = true ∧ guestHeld moving 0 (guest8 0) = false ∧
    (serveGuest moving 0 (guest8 0)).2 = true ∧
    (let s := vein0 fun v => { v with initing := [0] }
     guestComes s 0 (guest8 0) = true ∧ (serveGuest s 0 (guest8 0)).2 = false ∧
       (getVein (serveGuest s 0 (guest8 0)).1 0).guests.length < 32) ∧
    guestComes State.reset 0 (guest8 0) = true ∧ (guest8 0).offset.toNat % 64 + (guest8 0).size ≤ 64 ∧
    dieUp State.reset 0 = true ∧ regionWaits State.reset 0 0 = false ∧ regionAt State.reset 0 0 = none := by decide +kernel

/-- A page of a far stack whose lines are arriving. -/
def page0 : CachePage := ⟨0, 0, false, false, [], [], true⟩

theorem meets_Regions :
    mayWrite State.reset (.core 0) (oRegion 0 0) = true ∧ mayWrite State.reset (.core 0) (coBase 0 + 0x130) = true ∧
    veinRuns State.reset 0 = true ∧ regionRefused State.reset 0 0 (regionOf (256 + 2 ^ 19)) = false ∧
    (regionOf (256 + 2 ^ 19)).kind = kindOpen ∧ regionRefused State.reset 0 0 (regionOf (2 ^ 19)) = true ∧
    regionRefused State.reset 0 0 (regionOf (256 + 2 ^ 20)) = false ∧ (regionOf (256 + 2 ^ 20)).kind = kindSealed ∧
    (getVein State.reset 0).initing.contains 0 = false ∧
    regionRefused (vein0 id) 0 0 (regionOf 0) = false ∧ (regionOf 0).kind = 0 ∧
    (regionOf (getReg (vein0 id) (oRegion 0 0)).toNat).kind ≠ 0 ∧
    (∀ zf : Bool, let s := vein0 fun v => { v with unused := [(1, 256 + 2 ^ 20, zf)] }
     (getVein s 0).unused.find? (·.1 == 1) = some (1, 256 + 2 ^ 20, zf) ∧ (getVein s 0).initing.contains 1 = false ∧
       regionRead s 0 (regionOf (256 + 2 ^ 20)) = false ∧ priorWaits s 0 1 = false ∧ (getVein s 0).guests = []) ∧
    (let s := vein0 fun v => { v with unused := [(1, 256 + 2 ^ 20, true)], initing := [1] }
     (getVein s 0).unused.find? (·.1 == 1) = some (1, 256 + 2 ^ 20, true) ∧ (getVein s 0).initing.contains 1 = true) ∧
    (let s := vein0 fun v => { v with initing := [0] }
     veinRuns s 0 = true ∧ (getVein s 0).initing.contains 0 = true ∧
       (getVein s 0).unused.find? (·.1 == 0) = none ∧ (getVein s 0).guests = []) ∧
    (modStart State.reset fun x => { x with tiered := true }).start.tiered = true ∧ State.reset.start.tiered = false ∧
    (getVein (vein0 fun v => { v with flush := true }) 0).flush = true ∧ (getVein State.reset 0).flush = false ∧
    (let s := vein0 fun v => { v with pages := [(0, page0)] }
     (getVein s 0).pages.find? (fun e => e.2.filling) = some (0, page0) ∧ nextLine page0 = some 0) := by decide +kernel

/-! ### Near-bank processing -/

/-- Core 0 with an INT8 strip of one row of 32 elements in d0, at the start of its vein, whose first 16 slabs are an open
region, and unit 0's slot loaded. -/
def stripping (g : Map Word) : State :=
  modVein (setReg (run0 fun x => { x with g := g, d := [(0,
      BitVec.ofNat 256 (2 * 2 ^ 252 + 8 * 2 ^ 248 + veinAddr 0 0 * 2 ^ 144 + 32 * 2 ^ 64 + 1 * 2 ^ 32))] })
    (oRegion 0 0) (BitVec.ofNat 64 (8 * 256 + 2 ^ 19))) 0 fun v =>
      setUnit v 0 { BankUnit.idle with slots := [(0, ⟨some 8, false, false⟩)] }

theorem meets_NearBankCommands :
    Ready (stripping [(3, 0x1000)]) 0 ⟨4, [2, 3], true⟩ (fun s1 =>
      let t := stripDesc (dreg (getCore s1 0) 0).toNat
      let p := productOp 0 0x1000
      let span := productSpan t p false
      t.kind = 2 ∧ t.rsv = false ∧ t.formatOk = true ∧ t.lenOk = true ∧
        rowsWait s1 0 ((t.rowsRead span.1 (min span.2 (span.1 + 2 ^ 24))).map t.rowAddr) = false ∧
        productTrap s1 0 t p 0 0x1000 0 false false true false = none ∧ queuesFull s1 0 [t.unit] = false ∧
        stripWaits s1 0 = false) ∧
    Ready (stripping [(2, 0x1000), (3, BitVec.ofNat 64 (1 + 8 * 2 ^ 20 + 32 * 2 ^ 24))]) 0 ⟨4, [2, 3], true⟩ (fun s1 =>
      let l := latchLoad (gpr (getCore s1 0) 3).toNat
      l.vcfg ≠ 3 ∧ (l.afmt = 8 ∨ l.afmt = 3 ∨ l.afmt = 1) ∧ l.bytes % 32 = 0 ∧ 32 ≤ l.bytes ∧
        l.first * slotBytes l.vcfg + l.bytes ≤ 8192 ∧ lsSide 0 0x1000 l.bytes = true ∧ maskUnits l.mask ≠ [] ∧
        (∀ u ∈ maskUnits l.mask, hiddenPair s1 0 u = false) ∧ queuesFull s1 0 (maskUnits l.mask) = false ∧
        (getCore s1 0).buf = []) ∧
    Ready (stripping [(2, 0x1000)]) 0 ⟨4, [2, 3], true⟩ (fun s1 =>
      let t := stripDesc (dreg (getCore s1 0) 0).toNat
      let unit := getUnit (getVein s1 0) t.unit
      let list := gatherList unit 0 1
      outWidth 0 = some 4 ∧ fieldNat 0 10 2 ≠ 3 ∧ outOk 0 0x1000 4 = true ∧ unit.queue = [] ∧
        t.kind = 2 ∧ t.rsv = false ∧ t.formatOk = true ∧ queuesFull s1 0 [t.unit] = false ∧ stripWaits s1 0 = false ∧
        0 < slotCount (recordOf unit).1 ∧ (look (fun _ => LatchSlot.empty) (recordOf unit).2 0).fmt ≠ none ∧
        t.baseOk 0 = true ∧ t.lenOk = true ∧ t.len ≤ 1024 ∧ 0 < t.rows ∧ t.rows ≤ 65536 ∧
        4 * 1 ≤ slotBytes (recordOf unit).1 ∧ outOk 0 0x1000 (t.len * 4) = true ∧ (∀ e ∈ list, e % 65536 < t.rows) ∧
        rowsWait s1 0 (list.flatMap fun _ => (t.rowsRead 0 t.rowBytes).map t.rowAddr) = false ∧
        rowsTrap s1 0 t.unit (list.flatMap fun _ => (t.rowsRead 0 t.rowBytes).map t.rowAddr) = none) ∧
    Ready (modStart (gprs []) fun x => { x with maint := true }) 0 ⟨4, [2, 3], true⟩ (fun s1 =>
      (getCw (getCore s1 0) 0).getLsbD 0 = false ∧
      (∀ r ∈ [physRow 0, physRow (fieldNat 0 16 15)], sameSubarray (physRow 0) r = true) ∧ s1.start.maint = true ∧
      queuesFull s1 0 [(physRow 0).1 / 2] = false) ∧
    Ready (gprs []) 0 ⟨4, [2, 3], true⟩ (fun s1 => s1.start.maint = false ∧ (getCore s1 0).loads = []) ∧
    Ready (run0 fun x => { x with cw := [(0, 1)] }) 0 ⟨4, [2, 3], true⟩
      (fun s1 => (getCw (getCore s1 0) 0).getLsbD 0 = true ∧ (getCore s1 0).loads = []) := by
  refine ⟨ready_of ?_ ?_, ready_of ?_ ?_, ready_of ?_ ?_, ready_of ?_ ?_, ready_of ?_ ?_, ready_of ?_ ?_⟩ <;>
    decide +kernel

/-- Core 0's vein with a command at the head of unit 0, streaming. -/
def streaming (cmd : NbCmd) : State := modVein (run0 id) 0 fun v =>
  setUnit v 0 { BankUnit.idle with queue := [(0, cmd)], busy := true }

/-- A latch load of 32 bytes into unit 0, and a KATT. -/
def load32 : NbCmd := .load 0x1000 (1 + 8 * 2 ^ 20 + 32 * 2 ^ 24) none
def katt0 : NbCmd := .katt 0 0 0 false none

/-- A contribution of one value to combiner slot 2. -/
def giving : Contribution := ⟨0, 0, 2, 0, 1, 1, true, [], [7]⟩

theorem meets_BankUnits :
    Ready (run0 id) 0 ⟨4, [1], true⟩ (fun s1 => (nbOutstanding s1 0).length = 0 ∧ (getCore s1 0).nbFaults = []) ∧
    Ready (streaming load32) 0 ⟨4, [1], true⟩ (fun s1 => (nbOutstanding s1 0).length ≠ 0) ∧
    Ready (run0 fun x => { x with nbFaults := [⟨9, 1, 0⟩] }) 0 ⟨4, [1], true⟩
      (fun s1 => (nbOutstanding s1 0).length = 0 ∧ (getCore s1 0).nbFaults = [⟨9, 1, 0⟩]) ∧
    (nextNb State.reset 0 0).isNone = true ∧
    (((nextNb (streaming load32) 0 0).any fun x => x.2.1 == 0 && x.2.2 == load32) = true) ∧
    outputFull (getVein (streaming load32) 0) 0 load32 = false ∧
    (((nextNb (streaming katt0) 0 0).any fun x => x.2.1 == 0 && x.2.2 == katt0) = true) ∧
    (let s := modVein (streaming (.product 0 0 0 0 false false true true)) 0 fun v =>
       { v with waiting := List.replicate 64 { giving with vals := List.replicate 16 7 } }
     (nextNb s 0 0).isSome = true ∧
       outputFull (getVein s 0) 0 (.product 0 0 0 0 false false true true) = true) ∧
    (getCl (streaming load32) 0).paused = false ∧ veinRuns (streaming load32) 0 = true ∧
    (getCl (modCl State.reset 0 fun x => { x with paused := true }) 0).paused = true ∧
    (let s := modVein (run0 id) 0 fun v => { v with waiting := [giving] }
     let mine := (getVein s 0).waiting.filter (·.slot == 2)
     mine.find? (fun x => mine.all fun y => decide (x.seq ≤ y.seq)) = some giving ∧
       combinerOlder (getVein s 0) 2 giving.seq false = false) := by
  refine ⟨ready_of ?_ ?_, ready_of ?_ ?_, ready_of ?_ ?_, ?_⟩ <;> decide +kernel

/-! ### The key-value cache -/

/-- The base of a sequence table at the start of far memory. -/
def tableAt : Nat := farAddr 0 0

/-- A device whose sequence table holds one record, of one list of head dimension 32, with a state word; the list has a
header that names core 0 alone and some pages, and one page-table entry. -/
def cached (w : SeqState) (pages : Nat) (e : Entry) (f : CoreSt → CoreSt) : State :=
  let s := run0 fun x => f { x with cw := [(0x20, BitVec.ofNat 64 (16 * 2 ^ 51 + tableAt))] }
  let s1 := wrBytes s tableAt (natLe 8 w.word ++ natLe 8 (tableAt + 0x1000 + 2 ^ 48 + 2 ^ 56))
  let s2 := wrBytes s1 (tableAt + 0x1000) (natLe 8 (pages + w.gen * 2 ^ 32) ++
    natLe 8 (tableAt + 0x2000 + 4 * 2 ^ 48) ++ natLe 4 0x3F800000 ++ natLe 4 0x3F800000)
  wrBytes s2 (tableAt + 0x2000) (natLe 8 e.word ++ natLe 8 (2 ^ 64 - 1 - e.word))

/-- An entry that is not valid, and one that names frame 3 of core 0. -/
def noPage : Entry := ⟨false, false, false, 0, 0, 0, 0⟩
def page3 : Entry := ⟨true, false, false, 5, 0, 0, 3⟩

/-- Whether an operation goes through, with a condition on what it gives. -/
def gives {α : Type} (r : KRes α) (ok : State → α → Bool) : Bool :=
  match r with
  | .ok s x => ok s x
  | _ => false

/-- The record of sequence 0 as core 0 reads it. -/
def record0 (s : State) : KRes SeqRec := readRecord s 0 (some 0) tableAt

theorem meets_SequenceStates :
    Ready (cached ⟨0, 0, 0, 0⟩ 0 noPage id) 0 ⟨4, [1, 2, 3], true⟩ (fun s1 =>
      (getCw (getCore s1 0) 0).getLsbD 0 = false ∧ 0 < seqSize s1 0 ∧ seqAddr s1 0 0 = tableAt ∧
      released s1 0 = true ∧ (getCore s1 0).deferred = none ∧ gives (record0 s1) (fun s2 r =>
        r.word.st == 0 && r.cfgOk && gives (kEach s2 r.headers fun s a =>
          (readHead s 0 (some 0) a).andThen fun s h => if h.tbase % 16 ≠ 0 then .trap s ⟨6, 7, 0⟩ else .ok s ())
          (fun s3 _ => (nextWord s3 r ⟨1, 0, 0, 0⟩).isSome)) = true) ∧
    Ready (cached ⟨1, 0, 40, 7⟩ 0 noPage fun x => { x with g := [(3, 4)] }) 0 ⟨4, [1, 2, 3], true⟩ (fun s1 =>
      (gpr (getCore s1 0) 3).toNat = 4 ∧ gives (record0 s1) (fun _ r => r.word.st == 1 && r.word.esc == 0 &&
        decide (4 ≤ r.word.len) && decide (r.word.len + 4 ≤ 1048576) && decide (r.word.gen < 2 ^ 32 - 1)) = true) ∧
    (let x := getCore (run0 fun x => { x with wait := some (.cache 1 5 0 tableAt) }) 0
     x.wait = some (.cache 1 5 0 tableAt) ∧ x.halting = false ∧ x.dbl = none) := by
  refine ⟨ready_of ?_ ?_, ready_of ?_ ?_, ?_⟩ <;> decide +kernel

/-- A device with sequence 0 open, about to append one position from address 0x1000. -/
def appending : State := cached ⟨1, 0, 40, 7⟩ 0 noPage fun x => { x with
  d := [(0, BitVec.ofNat 256 (3 * 2 ^ 252))], g := [(2, 0x1000), (3, BitVec.ofNat 64 (2 ^ 20))] }

/-- The same with a length table of one entry, for sequence q, at address 0x2000. -/
def ragged (q : Nat) : State :=
  let s := cached ⟨1, 0, 40, 7⟩ 0 noPage fun x => { x with
    d := [(0, BitVec.ofNat 256 (3 * 2 ^ 252))], g := [(2, 0x1000), (3, BitVec.ofNat 64 (0x2000 + 2 ^ 48))] }
  wrBytes s 0x2000 (natLe 8 (q * 2 ^ 52 + 2 ^ 12))

theorem meets_CacheAppends :
    (let s := { cached ⟨2, 0, 0, 7⟩ 0 noPage id with closing := [(0, 0, tableAt + 64)] }
     s.closing.find? (fun e => e.1 == 0 && e.2.1 == 0) = some (0, 0, tableAt + 64) ∧
       gives (readRecord s 0 none (tableAt + 64)) (fun s1 r => gives (closeLists s1 0 r) fun _ _ => true) = true) ∧
    (let x := getCore (run0 fun x => { x with appends := [⟨1, 0, 1, none, 0, []⟩] }) 0
     x.appends = [⟨1, 0, 1, none, 0, []⟩] ∧ x.halting = false ∧ x.dbl = none ∧ x.loads = [] ∧ x.ra = none) ∧
    (getVein (vein0 fun v => { v with frames := [(3, .pending false)] }) 0).frames.find?
      (fun e => e.2 == .pending false) = some (3, .pending false) ∧
    (mayWrite moving (.core 0) (coBase 0 + 0x210) = true ∧ frameFits moving 0 3 = true ∧ frameOf (getVein moving 0) 3 = .absent ∧
      frameOf (getVein (modVein moving 0 fun v => setFrame v 3 .free) 0) 3 = .free) ∧
    Ready appending 0 ⟨4, [2, 3, 1], true⟩ (fun s1 =>
      let x := getCore s1 0
      let t := listDesc (dreg x 0).toNat
      t.kind = 3 ∧ t.rsv = false ∧ t.sfmt ≤ 1 ∧ lsSide 0 0x1000 1 = true ∧ fieldNat (gpr x 3).toNat 20 16 = 1 ∧
        t.seq < seqSize s1 0 ∧ x.appends.length < 8 ∧ x.buf = [] ∧ x.moves = [] ∧ gives (record0 s1) (fun s2 r =>
          gives (appendList s2 ⟨0, 0, false, 0, 0, 0, 0, 0, 1, 0x1000, 0x1000 + r.hd * 4⟩
            fun hd => lsSide 0 0x1000 (2 * hd * 4)) (fun _ y => y.1 == stPoolFull && y.2.1 == 0)) = true ∧
        movesMeet x.moves 0x1000 0x80000 = false) ∧
    Ready (ragged 20) 0 ⟨4, [2, 3, 1], true⟩ (fun s1 =>
      let x := getCore s1 0
      fieldNat (gpr x 3).toNat 48 11 = 1 ∧ lsSide 0 0x2000 8 = true ∧ x.appends = [] ∧
        reads (coreRead s1 0 0x2000 8 2) (natLe 8 (20 * 2 ^ 52 + 2 ^ 12)) = true ∧
        lengthTable s1 0x2000 1 = .inl [(20, 0, 1)] ∧ seqSize s1 0 ≤ 20) ∧
    Ready (ragged 0) 0 ⟨4, [2, 3, 1], true⟩ (fun s1 =>
      reads (coreRead s1 0 0x2000 8 2) (natLe 8 (2 ^ 12)) = true ∧ lengthTable s1 0x2000 1 = .inl [(0, 0, 1)] ∧
        0 < seqSize s1 0 ∧ gives (record0 s1) (fun s2 r =>
          match raggedLoop ⟨0, 0, false, 0, 0, 0, 0, 0, 0, 0x1000, 0⟩ r.hd 4 1 0 [(0, 0, 1)] s2 0 0 with
          | .inl (.ok _ y) => y.1 == stPoolFull && y.2.1 == 0
          | _ => false) = true) := by
  refine ⟨?_, ?_, ?_, ?_, ready_of ?_ ?_, ready_of ?_ ?_, ready_of ?_ ?_⟩ <;> decide +kernel

/-- An attention descriptor of one query row of head dimension 32 in FP16 at address 0x1000. -/
def attending : Desc := BitVec.ofNat 256 (4 * 2 ^ 252 + 2 ^ 208 + 0x1000 * 2 ^ 144)
/-- A mask descriptor of 64 rows and 64 columns whose map is at address 0x1000 and whose tiles are at 0x2000. -/
def masking : Desc := BitVec.ofNat 256 (5 * 2 ^ 252 + 0x1000 * 2 ^ 192 + 0x2000 * 2 ^ 144 + 63 * 2 ^ 128 + 63 * 2 ^ 112)

theorem meets_Attention :
    Ready (cached ⟨1, 0, 40, 7⟩ 0 noPage fun x => { x with
        d := [(0, attending)], g := [(2, BitVec.ofNat 64 (2 ^ 16 + 2 ^ 24)), (3, 0x8000)] }) 0 ⟨4, [2, 3], true⟩ (fun s1 =>
      let q := attnDesc (dreg (getCore s1 0) 0).toNat
      q.kind = 4 ∧ q.rsv = false ∧ q.mkind ≠ 3 ∧ q.qfmt = 1 ∧ q.seq < seqSize s1 0 ∧ q.maddr = 0 ∧
        badSide 0 [(q.qaddr, q.nq * q.hd * q.width), (0x8000, recordSize q.nq q.hd)] = none ∧
        queuesFull s1 0 (List.range 16) = false ∧ (getCore s1 0).buf = [] ∧ (getCore s1 0).moves = []) ∧
    Ready (run0 fun x => { x with d := [(0, attending)], g := [(2, 0x1000), (3, 1), (4, 0x8000)] }) 0
        ⟨4, [2, 3, 4], true⟩ (fun s1 =>
      let x := getCore s1 0
      let t := attnDesc (dreg x 0).toNat
      let size := recordSize t.nq t.hd
      t.kind = 4 ∧ t.rsv = false ∧ t.mkind ≠ 3 ∧ (gpr x 3).toNat % 65536 = 1 ∧ lsSide 0 0x8000 size = true ∧
        lsSide 0 0x8000 (t.nq * t.hd * 4) = true ∧ placeOf 0x1000 = .ls 0 0x1000 ∧ 0x1000 + size ≤ 0x80000 ∧
        inOwnPartition s1 0 0x1000 = true ∧ x.buf = [] ∧ x.moves = [] ∧
        reads (mergeReads s1 0 0x1000 0 size 1) (List.replicate 0 0) = false ∧
        (match mergeReads s1 0 0x1000 0 size 1 with
          | (s2, .ok s3 _) => decide (s2 = s3)
          | _ => false) = true) ∧
    Ready (wrByte (run0 fun x => { x with d := [(0, attending)], g := [(2, 0x1000), (3, 0x400002), (4, 0x8000)] })
        (0x1040 + recordSize 1 32 - 32) 7) 0 ⟨4, [2, 3, 4], true⟩ (fun s1 =>
      let size := recordSize 1 32
      (getCore s1 0).loads = [] ∧ (match mergeReads s1 0 0x1000 64 size 2 with
          | (s2, .ok s3 _) => decide (s2 = s3) && !(trailerOf s2 0x1000 64 size 1 0 8 == trailerOf s2 0x1000 64 size 0 0 8)
          | _ => false) = true) ∧
    Ready (run0 fun x => { x with d := [(0, masking)] }) 0 ⟨4, [2], true⟩ (fun s1 =>
      let m := maskDesc (dreg (getCore s1 0) 0).toNat
      m.kind = 5 ∧ m.rsv = false ∧ m.form ≤ 1 ∧ m.lt = false ∧ m.win = 0 ∧
        badSide 0 [(m.map, 32 + 2 * 1 * 1), (m.tiles, 512 * (1 * 2))] = none ∧ (m.rows + 63) / 64 = 1 ∧
        (m.cols + 63) / 64 = 1) := by
  refine ⟨ready_of ?_ ?_, ready_of ?_ ?_, ready_of ?_ ?_, ready_of ?_ ?_⟩ <;> decide +kernel

/-! ### Remint, generators, sampling and the entropy source -/

/-- A remint descriptor: op, sequence 0, one page of one span in cluster 0, its head 0 of layer 0. -/
def remDesc (op : Nat) : List Byte := natLe 64 (op + 2 ^ 80 + 2 ^ 96)

/-- The ring of die 0 for partition 0 served, with one descriptor at its head in the far memory. -/
def reminting (op : Nat) : State :=
  let s := setReg (setReg (setReg (cached ⟨1, 0, 40, 7⟩ 1 page3 id) (oRemBase 0 0) (BitVec.ofNat 64 (tableAt + 0x4000)))
    (oRemTail 0 0) 1) (oRemRctl 0 0) 0x100
  wrBytes (setReg s (oRemCtl 0) 0x100) (tableAt + 0x4000) (remDesc op)

/-- The descriptor as the engine has read it. -/
def remJob (op : Nat) : RemintJob := ⟨remDesc op, tableAt + 0x4000, 0, 0, 0, 0, 0, 0, none, 0, []⟩

/-- The state after the engine has taken the descriptor from the ring. -/
def remRead (op : Nat) : State :=
  (readLine (setReg (reminting op) (oRemHead 0 0) 1) (remintReq 0 0) (tableAt + 0x4000) 64 9).1

/-- The sequence table of the one core that has one. -/
theorem remRead_table (op : Nat) (h : op = 1 ∨ op = 2) : seqTable (remRead op) 0 = (tableAt, 16) := by
  have e : ((remRead op).cores.filter fun e => partOf (remRead op) e.1 == some 0 &&
      (getCw e.2 0x20).toNat / 2 ^ 51 != 0).map (fun e => (getCw e.2 0x20).toNat) = [16 * 2 ^ 51 + tableAt] := by
    rcases h with rfl | rfl <;> decide +kernel
  have p : (getPart (remRead op) 0).seqs = 4096 := by rcases h with rfl | rfl <;> decide +kernel
  simp only [seqTable, e, p]
  have d : ([16 * 2 ^ 51 + tableAt] : List Nat).eraseDups = [16 * 2 ^ 51 + tableAt] := by decide +kernel
  simp only [d, List.length_singleton, Nat.max_self, Nat.mod_one]
  decide +kernel

theorem remRead_plan (op : Nat) (h : op = 1 ∨ op = 2) : ∃ s2 a, remPlan (remRead op) 0 (remJob op) = .ok s2 (.inr a) := by
  unfold remPlan
  rw [remRead_table op h]
  dsimp only
  rcases h with rfl | rfl
  · have : gives (readRecord (remRead 1) 0 none (tableAt + 64 * (remJob 1).seq)) (fun s r =>
      !(decide (r.layers ≤ 0) || decide (r.heads ≤ 0)) && !((List.range 1).any fun i =>
        !populatedCl s ((remJob 1).cluster i) || partOfCl s ((remJob 1).cluster i) != some 0)) = true := by decide +kernel
    generalize readRecord (remRead 1) 0 none (tableAt + 64 * (remJob 1).seq) = q at this
    have c : (((remJob 1).op ≠ 1 && (remJob 1).op ≠ 2) || (remJob 1).count = 0 || (remJob 1).span = 0 ||
      16 ≤ (remJob 1).seq || !(remJob 1).sigOk (remRead 1) 0) = false := by decide +kernel
    have c1 : (remJob 1).layer = 0 ∧ (remJob 1).head = 0 ∧ (remJob 1).op = 1 ∧ (remJob 1).seq < 16 ∧
      ((remJob 1).count + (remJob 1).span - 1) / (remJob 1).span = 1 := by decide +kernel
    cases q <;> simp_all [gives, Nat.not_le_of_lt]
  · have : gives (readRecord (remRead 2) 0 none (tableAt + 64 * (remJob 2).seq)) (fun _ r =>
      !(decide (r.layers ≤ 0) || decide (r.heads ≤ 0))) = true := by decide +kernel
    generalize readRecord (remRead 2) 0 none (tableAt + 64 * (remJob 2).seq) = q at this
    have c : (((remJob 2).op ≠ 1 && (remJob 2).op ≠ 2) || (remJob 2).count = 0 || (remJob 2).span = 0 ||
      16 ≤ (remJob 2).seq || !(remJob 2).sigOk (remRead 2) 0) = false := by decide +kernel
    have c1 : (remJob 2).layer = 0 ∧ (remJob 2).head = 0 ∧ (remJob 2).op = 2 ∧ (remJob 2).seq < 16 := by decide +kernel
    cases q <;> simp_all [gives, Nat.not_le_of_lt]

theorem meets_Remint :
    (∀ off ∈ [oRemTail 0 0, oRemRctl 0 0], mayWrite State.reset (.host 0) off = true) ∧
    (∀ op ∈ [1, 2], let s := reminting op
      remServes s 0 0 = true ∧ getRem s 0 0 = [] ∧ remReady (getRem s 0 0) true = true ∧ (getReg s (oRemHead 0 0)).toNat % remSize s 0 0 = 0 ∧
        (getReg s (oRemTail 0 0)).toNat = 1 ∧ (getReg s (oRemBase 0 0)).toNat = tableAt + 0x4000 ∧
        inPartition s 0 (tableAt + 0x4000) = true ∧ placeOf (tableAt + 0x4000) = .far 0 0x4000 ∧
        (match readLine (setReg s (oRemHead 0 0) 1) (remintReq 0 0) (tableAt + 0x4000) 64 9 with
          | (_, .ok bs []) => bs.map (·.1) == remDesc op
          | _ => false) = true) ∧
    (∃ s2 a, remPlan (remRead 1) 0 (remJob 1) = .ok s2 (.inr a)) ∧
    (∃ s2 a, remPlan (remRead 2) 0 (remJob 2) = .ok s2 (.inr a)) ∧
    gives (clearMarks 0 (tableAt + 0x1000) 1 (takeFree (remRead 2)) { remJob 2 with list := tableAt + 0x1000 })
      (fun _ _ => true) = true := by
  refine ⟨?_, ?_, remRead_plan 1 (.inl rfl), remRead_plan 2 (.inr rfl), ?_⟩ <;> decide +kernel

/-- Ring 0 of die 0 working on a restripe of the list whose header stands behind the sequence table. -/
def restriping (e : Entry) (j : RemintJob) (f : VeinSt → VeinSt) : State :=
  let s := setReg (setReg (cached ⟨1, 0, 40, 7⟩ 1 e id) (oRemRctl 0 0) 0x100) (oRemCtl 0) 0x100
  let s1 := setReg (setReg s (oKres 0) 0) (oRegion 0 0) (BitVec.ofNat 64 (8 * 256 + 2 ^ 19 + 3 * 2 ^ 21))
  setRem (modVein s1 0 f) 0 0 [j]

/-- Its descriptor in work. -/
def working : RemintJob := { remJob 1 with list := tableAt + 0x1000 }

/-- The rows that hold frames 3 and 4 of core 0's vein, open. -/
def openRows : Map (Option (Nat × Nat)) :=
  ((List.range 8).map fun i => (i, some (1, 0))) ++ (List.range 8).map fun i => (24 + i, some (0, 0))

/-- The state in which a page is moved from frame 3 to frame 4; that with its entry marked and the new frame taken; and
that in which its copy is read back. -/
def paging (e : Entry) (f : Frame7) : State := restriping e working fun v => { setFrame v 4 f with rows := openRows }
def marked : State :=
  bump (modVein (writeEntry (paging page3 .free) (farAddr 0 0 + 0x2000) 0 { page3 with mov := true }) 0 fun v =>
    setFrame v 4 (.used false)) 0x07 3 1 (.core 0)
def flying : RemintPage := ⟨0, 0, 3, 0, 4, List.replicate 16384 0, false⟩
def reading : State :=
  setRem (paging { page3 with mov := true } (.used false)) 0 0 [{ working with flight := [flying] }]

/-- The lines of frame f of core 0's vein as the engine finds them, the counters, and the memory. -/
def quietFrame (s : State) (f : Nat) : Bool :=
  ((List.range 256).all fun i =>
      quietLine s (remintReq 0 0) 0 (veinAddr 0 (f * 16384) + 64 * i) (f * 16384 + 64 * i)) &&
    ((List.range 8).all fun i => (selects s (oCoSel 0 i) 5 2).isNone && (selects s (oClSel 0 i) 5 2).isNone) &&
    (s.mem.all fun e => decide (farAddr 0 0 ≤ e.1)) &&
    decide (piecesOf (veinAddr 0 (f * 16384)) 16384 = (List.range 256).map fun i => (veinAddr 0 (f * 16384) + 64 * i, 64)) &&
    decide (veinAddr 0 (f * 16384) + 16384 ≤ farAddr 0 0)

theorem quietFrame_does {s : State} {f : Nat} (h : quietFrame s f = true) :
    readFrame s (remintReq 0 0) 0 f = some (s, .inl (List.replicate 16384 0)) ∧
      writeFrameBytes s (remintReq 0 0) 0 f (List.replicate 16384 0) = some (s, none) := by
  unfold quietFrame at h
  simp only [Bool.and_eq_true, List.all_eq_true, decide_eq_true_eq, Option.isNone_iff_eq_none] at h
  obtain ⟨⟨⟨⟨h1, h2⟩, h3⟩, h4⟩, h5⟩ := h
  unfold readFrame writeFrameBytes clean
  generalize hn : 16384 = n at h1 h4 h5 ⊢
  have k := frame_quiet (fun i hi => h1 i (List.mem_range.2 hi)) (bump_unselected h2) h3 h4 hn.symm h5
  rw [List.map_replicate, k.1, k.2]
  dsimp only
  rw [List.map_replicate]
  exact ⟨rfl, rfl⟩

theorem marked_quiet : (quietFrame marked 3 && quietFrame marked 4) = true := by decide +kernel
/-- The last page in flight: none is left to start. -/
def done1 : State :=
  setRem (paging { page3 with mov := true } (.used false)) 0 0 [{ working with next := 1, flight := [flying] }]

theorem done1_quiet : quietFrame done1 4 = true := by decide +kernel

theorem meets_Remint_pages :
    (let s := restriping noPage working id
     (getRem s 0 0)[0]? = some working ∧ dieUp s 0 = true ∧ s.pwr.regsOff = false ∧ remTurn s 0 0 = true ∧
       remFlying (getRem s 0 0) = none ∧ remStarter (getRem s 0 0) = some 0 ∧
       gives (remEntry s 0 working.list 0) (fun _ e => !e.2.v) = true) ∧
    (let s := paging page3 .free
     (getRem s 0 0)[0]? = some working ∧ (working.target 0).1 = 0 ∧ (working.target 0).2 = 0 ∧ remTurn s 0 0 = true ∧
       remFlying (getRem s 0 0) = none ∧ remStarter (getRem s 0 0) = some 0 ∧
       s.pwr.regsOff = false ∧ gives (remEntry s 0 working.list 0) (fun s1 x => decide (s1 = s ∧ x.1 = farAddr 0 0 + 0x2000) &&
         decide ((x.2.v, x.2.esc, x.2.mov) = (true, false, false)) &&
         decide ((x.2.count, x.2.index, x.2.core, x.2.frame) = (5, 0, 0, 3))) = true ∧ dieUp s 0 = true ∧
       regField s (oKres 0) 0 13 < freeFrames (getVein s 0) ∧ chooseFrame (getVein s 0) 0 = some 4) ∧
    readFrame marked (remintReq 0 0) 0 3 = some (marked, .inl (List.replicate 16384 0)) ∧ dieUp marked 0 = true ∧
    writeFrameBytes marked (remintReq 0 0) 0 4 (List.replicate 16384 0) = some (marked, none) ∧
    ((getRem reading 0 0)[0]? = some { working with flight := [flying] } ∧ reading.pwr.regsOff = false ∧
      remTurn reading 0 0 = true ∧ remFlying (getRem reading 0 0) = some (0, flying)) ∧
    ((getRem done1 0 0)[0]? = some { working with next := 1, flight := [flying] } ∧ done1.pwr.regsOff = false ∧
      remTurn done1 0 0 = false ∧ remFlying (getRem done1 0 0) = some (0, flying) ∧ dieUp done1 0 = true ∧
      readFrame done1 (remintReq 0 0) 0 4 = some (done1, .inl flying.buf) ∧
      gives (remEntry done1 0 working.list 0) (fun _ _ => true) = true) ∧
    (let j := { working with next := 1 }
     let s := restriping page3 j id
     getRem s 0 0 = j :: [] ∧ j.flight = [] ∧ j.count ≤ j.next ∧ j.header = false ∧ j.failed = 0 ∧
       rangeGate s (remintReq 0 0) (j.addr + 48) 16 true = none) := by
  have m := (Bool.and_eq_true _ _ ▸ marked_quiet : _ ∧ _)
  refine ⟨?_, ?_, (quietFrame_does m.1).1, ?_, (quietFrame_does m.2).2, ⟨rfl, ?_, ?_, rfl⟩,
    ⟨rfl, ?_, ?_, rfl, ?_, (quietFrame_does done1_quiet).1, ?_⟩, ?_⟩ <;> decide +kernel

/-- Core 0 with its sequence table, a generator record of the state gs for sequence 0, and general registers. -/
def seeded (gs : Nat) (l : Map Word) : State :=
  wrBytes (cached ⟨1, 0, 40, 7⟩ 0 noPage fun x => { x with g := l }) (tableAt + 32) (natLe 32 (7 + 5 * 2 ^ 128 + gs * 2 ^ 192))

/-- The generator of sequence 0, bound. -/
def bound0 : Binding := ⟨0, tableAt, 7, 5⟩

/-- The state seeded with the generator bound. -/
def binding (l : Map Word) : State := modCore (seeded 1 l) 0 fun x => { x with bind := some bound0 }

theorem meets_Generators :
    (∀ gs ∈ [0, 1, 3], Ready (seeded gs []) 0 ⟨4, [1, 2], true⟩ (fun s1 =>
      0 < seqSize s1 0 ∧ seqAddr s1 0 0 = tableAt ∧ (getCore s1 0).buf = [] ∧ (getCore s1 0).moves = [] ∧
        (getCore s1 0).bind = none ∧
        gives (readStruct s1 (partNum s1 0) (some 0) (tableAt + 32) 32) (fun _ w => fieldNat w 192 2 == gs) = true)) ∧
    Ready (binding []) 0 ⟨4, [1], true⟩ (fun s1 => (getCore s1 0).bind = some bound0 ∧
      gives (writeGenerator s1 0 (bound0.record + 48) (natLe 8 bound0.counter)) (fun _ _ => true) = true) ∧
    Ready (binding []) 0 ⟨4, [1, 2, 3, 4], true⟩ (fun s1 =>
      gives (writeGenerator s1 0 (tableAt + 32) (natLe 16 0 ++ natLe 8 0 ++ natLe 8 1)) (fun _ _ => true) = true) ∧
    Ready (seeded 1 [(2, 16)]) 0 ⟨4, [1, 2], true⟩ (fun s1 => (getCore s1 0).bind = none ∧ seqSize s1 0 ≤ 16) := by
  refine ⟨fun gs h => ready_of (by revert gs; decide +kernel) (by revert gs; decide +kernel), ready_of ?_ ?_,
    ready_of ?_ ?_, ready_of ?_ ?_⟩ <;> decide +kernel

/-- Core 0 with candidates at 0x1000: tokens 9 and 3 with the values 1 and 2 in FP32. -/
def choosing (b c : Nat) : State :=
  wrBytes (binding [(2, 0x1000), (3, BitVec.ofNat 64 b), (4, BitVec.ofNat 64 c)]) 0x1000
    (natLe 4 9 ++ natLe 4 0x3F800000 ++ natLe 4 3 ++ natLe 4 0x40000000)

/-- Those candidates in order, as SMPLK picks them. -/
def chosen : List (Nat × Nat) := topK 2 (candidates (natLe 4 9 ++ natLe 4 0x3F800000 ++ natLe 4 3 ++ natLe 4 0x40000000) 2 true 0)

theorem meets_Sampling :
    (∀ b ∈ [1 + 2 ^ 18 + 2 ^ 24, 1 + 2 ^ 18 + 2 ^ 24 + 2 ^ 25 + 2 ^ 26 + 0x3F800000 * 2 ^ 32],
      Ready (choosing b 0x8000) 0 ⟨4, [1, 2, 3, 4], true⟩ (fun s1 =>
        fieldNat b 18 6 + 1 = 2 ∧ b % 2 ^ 18 + 1 = 2 ∧ (gpr (getCore s1 0) 3).toNat = b ∧
          sampleSide 0 0x1000 16 = true ∧ sampleSide 0 0x8000 16 = true ∧
          (getCore s1 0).buf = [] ∧ (getCore s1 0).moves = [] ∧
          reads (coreRead s1 0 0x1000 16 2)
            (natLe 4 9 ++ natLe 4 0x3F800000 ++ natLe 4 3 ++ natLe 4 0x40000000) = true ∧
          chosen = [(3, 0x40000000), (9, 0x3F800000)] ∧
          (writeUnits (coreRead s1 0 0x1000 16 2).1 0x8000 (natLe 8 0 ++ natLe 8 0) 3 (some 0)).2 = [])) ∧
    badTau 0x3F800000 = false ∧ abs32 0x3F800000 ≠ 0 ∧ bitNat (1 + 2 ^ 18 + 2 ^ 24 + 2 ^ 25 + 2 ^ 26 + 0x3F800000 * 2 ^ 32) 25 = true ∧
    bitNat (1 + 2 ^ 18 + 2 ^ 24 + 2 ^ 25 + 2 ^ 26 + 0x3F800000 * 2 ^ 32) 26 = true ∧
    badTotal ((runningSums 0 (weightsOf chosen true 0x3F800000)).getLast?.getD 0) = false ∧
    badTau 0xBF800000 = true ∧
    Ready (choosing (2 + 2 ^ 7 + 0x3F000000 * 2 ^ 32) 0x3F800000) 0 ⟨4, [1, 2, 3, 4], true⟩ (fun s1 =>
      (gpr (getCore s1 0) 4).toNat = 0x3F800000 ∧ (gpr (getCore s1 0) 3).toNat % 128 = 2 ∧
        bitNat (gpr (getCore s1 0) 3).toNat 7 = true ∧ (getCore s1 0).bind.isSome = true) ∧
    Ready (choosing (2 + 2 ^ 7) 0xBF800000) 0 ⟨4, [1, 2, 3, 4], true⟩ (fun s1 =>
      badTau ((gpr (getCore s1 0) 4).toNat % 2 ^ 32) = true) := by
  refine ⟨fun b h => ready_of (by revert b; decide +kernel) (by revert b; decide +kernel), ?_, ?_, ?_, ?_, ?_, ?_,
    ready_of ?_ ?_, ready_of ?_ ?_⟩ <;> decide +kernel

theorem meets_EntropySource :
    (∀ e ∈ [EntState.ready, EntState.failed], Ready { seeded 0 [(3, 47)] with ent := e } 0 ⟨4, [1, 2, 3], true⟩ (fun s1 =>
      (gpr (getCore s1 0) 3).toNat % 64 ≤ 47 ∧ 0 < seqSize s1 0 ∧ seqAddr s1 0 0 = tableAt ∧ (getCore s1 0).buf = [] ∧
        (getCore s1 0).moves = [] ∧ s1.ent = e ∧ s1.keys = [] ∧
        gives (readStruct s1 (partNum s1 0) (some 0) (tableAt + 56) 8) (fun s2 w =>
          gives (writeGenerator s2 0 (tableAt + 56) (natLe 8 (setFieldNat w 0 2 2))) (fun _ _ => true)) = true)) ∧
    (let s := { seeded 0 [] with ent := .ready, keys := [⟨0, tableAt, 5⟩] }
     s.ent = .ready ∧ s.keys = [⟨0, tableAt, 5⟩]) ∧
    ({ State.reset with ent := .startUp } : State).ent = .startUp ∧
    (let s := { State.reset with ent := .ready }
     s.ent = .ready ∧ s.keys = [] ∧ standing s (.host 0) oEntCtl true = .allowed ∧ byFirmware oEntCtl = false) ∧
    (let s := { State.reset with ent := .failed }
     s.ent = .failed ∧ standing s (.host 0) oEntCtl true = .allowed) ∧
    (let s := { State.reset with ent := .off }
     s.ent = .off ∧ standing s (.host 0) oEntCtl true = .allowed) := by
  refine ⟨fun e h => ?_, ?_⟩
  · obtain rfl | rfl : e = .ready ∨ e = .failed := by simpa using h
    all_goals refine ready_of ?_ ?_ <;> decide +kernel
  all_goals decide +kernel

/-! ### Far memory and the seams -/

/-- A read of 8 bytes at an offset. -/
def farRead (off : BitVec 36) : FarReq := ⟨0, false, off, 8, []⟩

/-- The pseudo-channel of offset 0 of far stack 0 with a state of its own. -/
def far0 (x : PseudoCh) : State := setPc State.reset 0 0 x

theorem meets_FarMemory :
    (farPlace State.reset 0 0).1 = 0 ∧ dieUp State.reset 0 = true ∧ 0 < farBytes State.reset 0 ∧
    farBytes State.reset 0 ≤ 2 ^ 37 - 64 ∧
    dieUp (modStart State.reset fun x => { x with dies := [3] }) 0 = false ∧
    (let s := far0 { PseudoCh.idle with queue := [⟨farRead 0, 0, 0, false⟩] }
     (getPc s 0 0).queue = [⟨farRead 0, 0, 0, false⟩] ∧ verdictOf s (unitAt s (farAddr 0 0)) = .good ∧
       farAged s ⟨farRead 0, 0, 0, false⟩ = false) ∧
    (let s := far0 { PseudoCh.idle with queue := [⟨farRead 0, 0, 0, false⟩] }
     farNext s 0 (getPc s 0 0) = some 0 ∧ (getPc s 0 0).queue.findIdx? (!farAged s ·) = some 0) ∧
    (let s := far0 { PseudoCh.idle with
        queue := List.replicate 12 ⟨⟨0, true, 0, 1, [5]⟩, 0, 0, false⟩ }
     (getPc s 0 0).queue.length ≤ 48 ∧ 12 ≤ farWrites (getPc s 0 0)) ∧
    ((farUnits State.reset 0).contains 0 = true ∧ (getPc State.reset 0 0).queue = []) ∧
    leastNat ((getPc (far0 { PseudoCh.idle with rows := [(0, 7)] }) 0 0).rows.map (·.2)) = some 7 ∧
    bitNat (farChannels State.reset 0) 0 = true ∧ bitNat (State.reset.start.farFail.getD 0 0) 0 = false ∧
    0 < State.reset.start.farFail.length := by decide +kernel

/-- A read record of 8 bytes of the far memory of a seam's receiving die, by core 0. -/
def plain1 : PlainRec := ⟨7, 1, 0, 0, BitVec.ofNat 48 (farAddr 2 0), 8, []⟩

theorem meets_Seams :
    seamUp State.reset 0 = true ∧ seamEnd 0 true = 1 ∧ dieUp State.reset 1 = true ∧
    (getSeam State.reset 0).retraining = [] ∧ (getSeam State.reset 0).movePlain = false ∧
    dieOfAddr (farAddr 2 0) = 1 ∧ (plain1.addr).toNat = farAddr 2 0 ∧ (getSeamDir State.reset 0 true).done = [] ∧
    (match runRecord State.reset 1 plain1 with
      | some (_, st, bs) => st == 0 && bs == List.replicate 8 0
      | none => false) = true ∧
    (let s := setSeamDir State.reset 0 true { SeamDir.idle with done := [(7, (0, []))] }
     (getSeamDir s 0 true).done.find? (·.1 == 7) = some (7, (0, []))) ∧
    bundleWorks State.reset 0 3 = true ∧
    (dieOfAddr (BitVec.ofNat 48 (farAddr 0 0)).toNat ≠ seamEnd 0 true ∧ (1 : BitVec 4).toNat = 1) ∧
    (let s := setSeam State.reset 0 { SeamSt.idle with moveBulk := true }
     (getSeam s 0).moveBulk = true ∧ (getSeam s 0).movePlain = false ∧ (streamEngines s 0).getLast?.isSome = true) ∧
    (let s := setSeam State.reset 0 { SeamSt.idle with replays := [(3, List.replicate 16 0)] }
     (look (fun _ => []) (getSeam s 0).replays 3).length = 16) ∧
    (let s := setSeam State.reset 0 { SeamSt.idle with retraining := [3] }
     (getSeam s 0).retraining.contains 3 = true) ∧
    (3 ≤ (workingBundles State.reset 0).length ∧ plainEngine State.reset 0 = 0 ∧
      bundleWorks State.reset 0 13 = true ∧ (streamEngines State.reset 0).contains 13 = false ∧ 2 ≤ (bulkEngines State.reset 0).length ∧
      (∀ e ∈ [1, 2, 3], (diePaths 0 e).any (fun p => (pathLegs p).all fun l => seamUp State.reset l.1) = true)) ∧
    (let s := setSeam (setRegField State.reset (oSeamStat 0) 16 16 0xE000) 0 { SeamSt.idle with movePlain := true }
     (getSeam s 0).movePlain = true ∧ (getSeam s 0).moveBulk = false ∧
       (streamEngines s 0).find? (!carries s 0 ·) = some 13) := by decide +kernel

/-! ### Streams and transfers -/

/-- A stream descriptor that names entry 0 of core 1024, a ring of 4 KiB at 0x1000, with some other bits. -/
def streamOf (more : Nat) : Desc := BitVec.ofNat 256 (6 * 2 ^ 252 + 1024 * 2 ^ 236 + 0x1000 * 2 ^ 144 + more)

/-- Core 0 and its stream entry 0, with the descriptor given. -/
def core0st (d : Desc) (t : Stream) : State := run0 fun x => setStream { x with d := [(0, d)] } 0 t

/-- Core 1024 with its stream entry 0. -/
def peer0 (t : Stream) (s : State) : State := modCore s 1024 fun x => setStream x 0 t

/-- An entry in opening toward core 1024, one that receives from it or from core 0, and the sending end of a stream. -/
def opens (n : Nat) : Stream := { Stream.idle with kind := .opening, setup := n, peer := 1024, engines := [(0, 1)] }
def takes (p : Nat) (es : List (Nat × Nat)) : Stream :=
  { Stream.idle with kind := .recv, peer := p, engines := es, base := 0x1000, size := 4096 }
def sends (q : List (List (Byte × Bool))) (fs : List Nat) : Stream :=
  { Stream.idle with kind := .send, peer := 1024, engines := [(0, 1)], credit := 4096, queue := q, faults := fs }

theorem meets_Streams :
    Ready (core0st (streamOf 0) Stream.idle) 0 ⟨4, [1], true⟩ (fun s1 =>
      let t := streamDesc (dreg (getCore s1 0) 0).toNat
      t.kind = 6 ∧ t.rsv = false ∧ (getStream (getCore s1 0) 0).kind = .free ∧ t.peer = 1024 ∧ t.pstream = 0 ∧
        badPeer s1 0 t.peer = false ∧ routeOf s1 0 (t.peer / 1024) t.way = some [0, 1] ∧
        chooseEngines s1 t.engine (pathLegs [0, 1]) = some [(0, 1)] ∧ chooseEngines s1 15 (pathLegs [0, 1]) = none ∧
        badPeer s1 0 1 = true ∧ t.rbase % t.rsize = 0 ∧ lsSide 0 t.rbase t.rsize = true) ∧
    Ready (core0st (streamOf 0) (opens 1)) 0 ⟨4, [1], true⟩ (fun s1 => (getStream (getCore s1 0) 0).kind ≠ .free) ∧
    Ready (core0st (streamOf (2 ^ 192)) Stream.idle) 0 ⟨4, [1], true⟩
      (fun s1 => (streamDesc (dreg (getCore s1 0) 0).toNat).rsv = true) ∧
    Ready (core0st (streamOf (32 * 2 ^ 144)) Stream.idle) 0 ⟨4, [1], true⟩ (fun s1 =>
      let t := streamDesc (dreg (getCore s1 0) 0).toNat
      t.kind = 6 ∧ t.rsv = false ∧ t.rbase % t.rsize ≠ 0) ∧
    Ready (setRegField (core0st (streamOf 0) Stream.idle) (oSeamStat 0) 0 2 3) 0 ⟨4, [1], true⟩ (fun s1 =>
      badPeer s1 0 1024 = false ∧ (pathOpen s1 [0, 1] = false)) ∧
    (∀ m ∈ [0, 1, 2], let s := modCore (peer0 (takes 0 []) (core0st (streamOf 0) (opens m))) 0 fun x =>
        { x with wait := some (.topen 1 0) }
      (getStream (getCore s 0) 0).kind = .opening ∧ (getStream (getCore s 0) 0).setup = m ∧
        (getCore s 0).wait = some (.topen 1 0) ∧ (getCore s 0).halting = false ∧ (getCore s 0).dbl = none ∧ s.jobs = [] ∧
        acceptsFrom (getStream (getCore s 1024) 0) 0 0 = true) ∧
    (let s := core0st (streamOf 0) (sends [] [])
     (getStream (getCore s 0) 0).kind = .send ∧ (getStream (getCore s 0) 0).engines ≠ [] ∧
       (getStream (getCore s 0) 0).closed = false ∧ (getStream (getCore s 1024) 0).kind ≠ .recv) := by
  refine ⟨ready_of ?_ ?_, ready_of ?_ ?_, ready_of ?_ ?_, ready_of ?_ ?_, ready_of ?_ ?_, ?_, ?_⟩ <;> decide
    +kernel

/-- Core 0 with a stream entry and general registers, its peer core 1024 running. -/
def linked (t r : Stream) (l : Map Word) : State :=
  let s := modCore (core0st 0 t) 0 fun x => { x with g := l }
  modCore (peer0 r s) 1024 fun x => { x with run := .running }

theorem meets_StreamData :
    Ready (linked (sends [] []) Stream.idle [(1, 0x2000), (2, 32)]) 0 ⟨4, [1, 2], true⟩ (fun s1 =>
      lsSide 0 0x2000 32 = true ∧ (gpr (getCore s1 0) 1).toNat = 0x2000 ∧ (gpr (getCore s1 0) 2).toNat = 32 ∧
        (getStream (getCore s1 0) 0).kind = .send ∧ (getStream (getCore s1 0) 0).closed = false ∧
        (getStream (getCore s1 0) 0).queue.length < 8 ∧ (getCore s1 0).buf = [] ∧
        (match readRange s1 (coreReq s1 0) 0x2000 32 8 with
          | (_, _, [], none) => true
          | _ => false) = true) ∧
    Ready (linked (sends [] []) Stream.idle [(1, 0x2000), (2, 31)]) 0 ⟨4, [1, 2], true⟩ (fun s1 =>
      (gpr (getCore s1 0) 2).toNat % 32 ≠ 0) ∧
    (let s := linked (sends [clean [1, 2, 3]] []) (takes 0 [(0, 1)]) []
     (getStream (getCore s 0) 0).queue = [clean [1, 2, 3]] ∧ receiverOf s 0 0 = some (takes 0 [(0, 1)]) ∧
       0 < min 3 (getStream (getCore s 0) 0).credit ∧ (getSeam s 0).retraining = [] ∧ (getCl s 0).power = .on ∧
       (getCl s 64).power = .on ∧ (getCore s 1024).wait = none) ∧
    Ready (linked { takes 1024 [(0, 1)] with unread := 64 } Stream.idle [(1, 32)]) 0 ⟨4, [1], true⟩ (fun s1 =>
      (getStream (getCore s1 0) 0).kind = .recv ∧ (gpr (getCore s1 0) 1).toNat = 32 ∧
        (getStream (getCore s1 0) 0).unread = 64) ∧
    Ready (linked { takes 1024 [(0, 1)] with unread := 64 } Stream.idle [(1, 96)]) 0 ⟨4, [1], true⟩ (fun s1 =>
      (getStream (getCore s1 0) 0).unread < (gpr (getCore s1 0) 1).toNat) ∧
    Ready (linked (sends [] []) Stream.idle []) 0 ⟨4, [], true⟩ (fun s1 =>
      (getStream (getCore s1 0) 0).queue = [] ∧ (getStream (getCore s1 0) 0).faults = []) ∧
    Ready (linked (sends [] [3]) Stream.idle []) 0 ⟨4, [], true⟩ (fun s1 => (getStream (getCore s1 0) 0).kind = .send ∧
      (getStream (getCore s1 0) 0).queue = [] ∧ (getStream (getCore s1 0) 0).faults = [3]) := by
  refine ⟨ready_of ?_ ?_, ready_of ?_ ?_, ?_, ready_of ?_ ?_, ready_of ?_ ?_, ready_of ?_ ?_, ready_of ?_ ?_⟩ <;>
    decide +kernel

/-- A transfer descriptor: 32 bytes from an address to another, with some other bits. -/
def xferDesc (a b more : Nat) : Desc := BitVec.ofNat 256 (7 * 2 ^ 252 + a * 2 ^ 192 + b * 2 ^ 144 + 32 * 2 ^ 112 + more)

/-- A transfer of 32 bytes by core 0. -/
def xfer32 (a b : Nat) (drop : Bool) : Transfer := ⟨0, 1, a, b, 32, 1, 0, 0, drop, 0, none⟩

/-- The transfer engine of cluster 0 with one transfer. -/
def moving32 (t : Transfer) : State := modCl (run0 id) 0 fun x => { x with xfers := [t] }

theorem meets_Transfers :
    Ready (core0st (xferDesc (farAddr 0 0) (farAddr 2 0) 0) Stream.idle) 0 ⟨4, [1], true⟩ (fun s1 =>
      let w := (dreg (getCore s1 0) 0).toNat
      fieldNat w 252 4 = 7 ∧ fieldNat w 240 12 = 0 ∧ w % 2 ^ 32 = 0 ∧ fieldNat w 112 32 = 32 ∧
        fieldNat w 192 48 = farAddr 0 0 ∧ farAddr 0 0 % 32 = 0 ∧ fieldNat w 144 48 = farAddr 2 0 ∧ farAddr 2 0 % 32 = 0 ∧
        fieldNat w 64 32 = 0 ∧ fieldNat w 32 32 = 0 ∧ (getCl s1 0).xfers = [] ∧ (getCore s1 0).buf = []) ∧
    Ready (core0st (xferDesc 0 0 1) Stream.idle) 0 ⟨4, [1], true⟩ (fun s1 =>
      (dreg (getCore s1 0) 0).toNat % 2 ^ 32 ≠ 0) ∧
    (∀ drop : Bool, let s := moving32 (xfer32 (farAddr 0 0) (farAddr 2 0) drop)
      (getCl s 0).paused = false ∧ s.pwr.regsOff = false ∧
        (getCl s 0).xfers = [xfer32 (farAddr 0 0) (farAddr 2 0) drop] ∧
        (xferPieces 0 2 s (xfer32 (farAddr 0 0) (farAddr 2 0) drop)).2.2 = true ∧
        (xferPieces 0 2 s (xfer32 (farAddr 0 0) (farAddr 2 0) drop)).2.1.drop = drop ∧
        (xferPieces 0 2 s (xfer32 (farAddr 0 0) (farAddr 2 0) drop)).2.1.fail = none ∧
        bulkEngines s 0 ≠ [] ∧ legHeld s true (0, true) = false ∧ seamEnd 0 false = 0 ∧ (getSeamDir s 0 true).turn = 0 ∧
        (((List.range 130).map fun j => (0 + j) % 130).findSome? fun a =>
          (bulkStep s (0, true) 0 (bulkAgent 0 a)).map fun _ => a) = some 1 ∧ bulkAgent 0 1 = .transfers 0 ∧
        (xferPiece s 0 (xfer32 (farAddr 0 0) (farAddr 2 0) drop)).isSome = true) ∧
    (let s := setSeam (moving32 (xfer32 (farAddr 0 0) (farAddr 2 0) false)) 0
       { getSeam State.reset 0 with moveBulk := true }
     (getCl s 0).paused = false ∧ (xferPieces 0 2 s (xfer32 (farAddr 0 0) (farAddr 2 0) false)).2.2 = false) := by
  refine ⟨ready_of ?_ ?_, ready_of ?_ ?_, ?_⟩ <;> decide +kernel

/-! ### The host interface -/

/-- Command ring 0 of partition 0 served, with a state of its own. -/
def ring0 (f : Ring → Ring) : State :=
  let s := setReg State.reset (oCrCtl 0 0) 0x100
  let s1 := setFunc s 0 { getFunc s 0 with bme := true }
  setRing s1 0 0 (f (getRing s1 0 0))

/-- A descriptor with an operation, job ID 9 and some other bits. -/
def desc9 (op more : Nat) : List Byte := natLe 64 (op + 9 * 2 ^ 32 + more)

/-- The ring with a descriptor at its head. -/
def heads (d : List Byte) : State := ring0 fun x => { x with head := some d }

/-- A run of core 0 of cluster 0 at 0x1000 with the argument 77. -/
def runDesc (cores : Nat) : List Byte := desc9 1 (0x1000 * 2 ^ 64 + 77 * 2 ^ 128 + 2 ^ 200 + cores * 2 ^ 224)

/-- A job of partition 0 on core 0. -/
def job9 : Job :=
  match (nextOf (.jobAdmission 0 0) (heads (runDesc 1))).jobs with
  | j :: _ => j
  | [] => ⟨0, 0, 0, 0, [], .running, 0, 0, 0, false, none, 0, 0, false, none, 0⟩

theorem meets_RingsAndJobs :
    (∀ off ∈ [oCrTail 0 0, oCrCtl 0 0, oCcHead 0 0], mayWrite State.reset (.host 0) off = true) ∧
    State.reset.comp.state = .firmware ∧ State.reset.start.phase = .ready ∧
    (modStart State.reset fun x => { x with phase := .starting }).start.phase ≠ .ready ∧
    readsNext (setReg (ring0 id) (oCrTail 0 0) 1) 0 0 = true ∧
    (let s := setReg (heads (runDesc 1)) (oCrTail 0 0) 1
     readsNext s 0 0 = true ∧ (getRing s 0 0).head ≠ none) ∧
    (∀ op ∈ [0, 1, 2, 5], headDesc (heads (desc9 op 0)) 0 0 = some (desc9 op 0) ∧ descField (desc9 op 0) 0 1 = op) ∧
    runRefusal (heads (desc9 1 0)) 0 (desc9 1 0) = some (stPartitionFault, 0) ∧
    (let s := heads (runDesc 1)
     headDesc s 0 0 = some (runDesc 1) ∧ runRefusal s 0 (runDesc 1) = none ∧ runCores s 0 (runDesc 1) = [0] ∧
       jobOf s 0 = none ∧ s.jobs = [] ∧ descField (runDesc 1) 0 1 = 1 ∧ s.start.maint = false ∧
       s.comp.state = .firmware) ∧
    (let s := heads (desc9 2 (9 * 2 ^ 64))
     (getRing s 0 0).aborting = none ∧ abortOf s 0 0 = some (0, desc9 2 (9 * 2 ^ 64)) ∧ descField (desc9 2 (9 * 2 ^ 64)) 8 4 = 9 ∧
       ((List.range 4).find? fun i => copyNamed (getRing s 0 i) 9) = none) ∧
    (∀ e ∈ [some (0, 0), none], let s := { heads (desc9 2 (9 * 2 ^ 64)) with jobs := [{ job9 with ending := e }] }
     abortOf s 0 0 = some (0, desc9 2 (9 * 2 ^ 64)) ∧ (getRing s 0 0).aborting = none ∧ job9.state = .running ∧
       (s.jobs.find? fun j => j.part == 0 && j.job == 9) = some { job9 with ending := e }) ∧
    (let s := ring0 fun x => { x with head := some (desc9 2 (9 * 2 ^ 64)), aborting := some (0, 0) }
     abortOf s 0 0 = some (0, desc9 2 (9 * 2 ^ 64)) ∧ (getRing s 0 0).aborting = some (0, 0) ∧ s.jobs = [] ∧
       ((List.range 4).any fun i => copyNamed (getRing s 0 i) 9) = false) ∧
    (let s := setRing (heads (desc9 2 (9 * 2 ^ 64))) 0 1 { Ring.idle with
       copy := some ⟨true, 0, 0, 32, 9, 0, none, none, 0, false, false, 0⟩ }
     abortOf s 0 0 = some (0, desc9 2 (9 * 2 ^ 64)) ∧ s.jobs = [] ∧
       ((List.range 4).find? fun i => copyNamed (getRing s 0 i) 9) = some 1) ∧
    (let s := { State.reset with jobs := [{ job9 with limit := 5 }] }
     (s.jobs.find? fun j => j.part == 0 && j.job == 9) = some { job9 with limit := 5 } ∧ job9.ending = none) ∧
    (let c : Completion := ⟨9, 0, 0, 0, none, 0, none⟩
     let s := ring0 fun x => { x with recs := [c] }
     (getRing s 0 0).recs = [c] ∧ recsHeld s 0 0 = false ∧ ringRoom s 0 0 = true) := by decide +kernel

/-- A copy of 32 bytes between 0x1000 of the host and the start of far memory. -/
def copy32 (toHost asked : Bool) : Copy := ⟨toHost, farAddr 0 0, 0x1000, 32, 9, 0, none, none, 0, asked, false, 0⟩

/-- The ring with a copy in progress. -/
def copying (toHost asked : Bool) : State :=
  ring0 fun x => { x with head := some (desc9 3 0), copy := some (copy32 toHost asked) }

theorem meets_Copies :
    (let d := desc9 3 (farAddr 0 0 * 2 ^ 64 + 0x1000 * 2 ^ 128 + 32 * 2 ^ 192)
     ringServed (heads d) 0 0 = true ∧ (getRing (heads d) 0 0).copy = none ∧ (getRing (heads d) 0 0).head = some d ∧
       descField d 0 1 = 3 ∧ (copyOf d 0).status = none) ∧
    (∀ b : Bool, currentCopy (copying b false) 0 0 (if b then 4 else 3) = some (copy32 b false) ∧
      (getFunc (copying b true) 0).flr = false) ∧
    (let s := ring0 fun x => { x with copy := some { copy32 true false with status := some 1 } }
     currentCopy s 0 0 4 = some { copy32 true false with status := some 1 }) ∧
    (let s := setFunc (copying false true) 0 { getFunc (copying false true) 0 with flr := true }
     (getFunc s 0).flr = true ∧ (getRing s 0 0).copy = some (copy32 false true)) ∧
    readsNext (setReg (ring0 id) (oCrTail 0 0) 1) 0 0 = true ∧
    (match copyOut (copying true false) 0 0 (2 ^ 47) 32 with
      | some (_, _, some _) => true
      | _ => false) = true ∧
    (match copyIn (copying false true) 0 0 (2 ^ 47) (clean (List.replicate 32 7)) with
      | some (_, some _) => true
      | _ => false) = true ∧
    (match copyOut (copying true false) 0 0 (farAddr 0 0) (copy32 true false).chunk with
      | some (_, b, none) => !b.isEmpty
      | _ => false) = true ∧
    ((getRing (copying false true) 0 0).copy = some (copy32 false true) ∧ (copy32 false true).chunk = 32 ∧
      (match copyIn (copying false true) 0 0 (farAddr 0 0) (clean (List.replicate 32 7)) with
        | some (_, none) => true
        | _ => false) = true) ∧
    (let c := { copy32 false false with status := some 0 }
     let s := ring0 fun x => { x with head := some (desc9 3 0), copy := some c }
     (getRing s 0 0).copy = some c ∧ (getRing s 0 0).head = some (desc9 3 0) ∧ (getFunc s 0).bme = true) := by
  decide +kernel

/-- The device with the aperture of partition 0 at the start of far memory. -/
def aperture : State := setReg State.reset (oApbase 0) (BitVec.ofNat 64 (farAddr 0 0))

theorem meets_HostAccesses :
    bar2Bad aperture 0 (bar2Addr aperture 0 (2 ^ 36 - 4)) 8 = some 2 ∧
    (let a := bar2Addr aperture 0 0
     bar2Bad aperture 0 a 8 = none ∧
       (match readRange aperture ⟨2, 0, 0, 0, false⟩ a 8 12, writeRange aperture ⟨2, 0, 0, 0, false⟩ a (clean (List.replicate 8 7)) 13 with
         | (_, _, _, none), (_, _, none) => true
         | _, _ => false) = true) ∧
    (let s := setReg State.reset (oApbase 0) (BitVec.ofNat 64 (veinAddr 0 0))
     let a := bar2Addr s 0 0
     bar2Bad s 0 a 8 = none ∧
       (match readRange s ⟨2, 0, 0, 0, false⟩ a 8 12, writeRange s ⟨2, 0, 0, 0, false⟩ a (clean (List.replicate 8 7)) 13 with
         | (_, _, _, some (_, why)), (_, _, some (_, why1)) => decide (why ≠ .wait ∧ why1 ≠ .wait)
         | _, _ => false) = true) ∧
    standing State.reset (.host 1) oEntCtl false = .outside false ∧
    (standing State.reset (.host 0) (oViol 0) false = .allowed ∧ isRc (oViol 0) = true) ∧
    (mayWrite State.reset (.host 0) oEntCtl = true ∧ oEntCtl % 8 = 0) ∧
    (∀ w : Bool, standing State.reset (.host 0) (clBase 0 + 0x7F8) w = .reserved) ∧
    (let s := setRing State.reset 0 0 { Ring.idle with
       copy := some ⟨true, 0, 0, 32, 9, 0, none, none, 0, true, false, 0⟩ }
     readsOut s 0 = true ∧ (getFunc s 0).flr = false) ∧
    (readsOut State.reset 0 = false ∧ readsOut State.reset 1 = false) ∧
    (setFunc State.reset 0 { Func.idle with flr := true } |> fun s => (getFunc s 0).flr) = true ∧
    State.reset.start.phase ≠ .unpowered ∧ bitNat (getReg (ring0 id) (oCrCtl 0 0)).toNat 8 = true := by decide +kernel

/-- The registers of partition 1's layout: its sequences, and their complements. -/
def asking (w : Nat) (bad : Bool) : State :=
  let s := setReg State.reset (oPart 1 5) (BitVec.ofNat 64 w)
  setReg s (oPartR 1 5) (if bad then 0 else ~~~ BitVec.ofNat 64 w &&& BitVec.ofNat 64 (partMask 5))

theorem meets_PartitionCommits :
    mayWrite State.reset (.host 0) (oPartCtl 1) = true ∧
    commitRefusal (asking 16 true) 1 = some 1 ∧ commitRefusal (asking (2 ^ 48) false) 1 = none := by decide +kernel

/-! ### The Clearing -/

/-- Clearing queue 0 of partition 0 served, with a descriptor at its head in far memory, and port 0 with an own one. -/
def clearing (d : List Byte) : State :=
  let s := setReg (setReg State.reset (oClrQctl 0 0) 0x10) (oClrQbase 0 0) (BitVec.ofNat 64 (farAddr 0 0))
  wrBytes (setReg s (oClrQtail 0 0) 1) (farAddr 0 0) d

/-- A Clearing descriptor with an op, and other bits. -/
def clrDesc (op more : Nat) : List Byte := natLe 64 (op + more)

/-- A collective in progress. -/
def coll0 : Collective := ⟨0, 0, clrDesc 4 0, farAddr 0 0, 0, false, 0, [], 0⟩

/-- A frame for this node of a type, with a sequence number, payload and place. -/
def frame0 (type seq dst : Nat) (bs : List Byte) : Frame where
  type := BitVec.ofNat 4 type
  vc := 0
  units := 1
  hops := 1
  lseq := BitVec.ofNat 16 seq
  dst := BitVec.ofNat 12 dst
  src := 1
  domain := 5
  tag := 0
  shortHm := 0
  addr := BitVec.ofNat 48 (farAddr 0 0)
  status := 0
  op := 0
  fmt := 0
  collId := 0
  stepNo := 0
  core := 0
  event := 3
  payload := bs

/-- The device with partition 0 in Clearing domain 5. -/
def domained : State := setPart State.reset 0 { getPart State.reset 0 with domain := 5 }

/-- A frame delivered at port 0. -/
def delivered (s : State) (x : Frame) : State :=
  setPort s 0 { getPort s 0 with rxSeq := x.lseq.toNat, unacked := true, seen := elapsed s }

/-- Whether a frame arrives at port 0 with the next number. -/
def arriving (s : State) (x : Frame) : Bool :=
  decide ((getPort s 0).state = .up) && decide (x.lseq.toNat = (getPort s 0).expects)

theorem arrives_of {s : State} {x : Frame} (h : arriving s x = true) : Arrives s 0 x (delivered s x) := by
  simp only [arriving, Bool.and_eq_true, decide_eq_true_eq] at h
  exact ⟨h.1, h.2, rfl⟩

theorem meets_Clearing :
    mayWrite State.reset (.host 0) (oClrQtail 0 0) = true ∧
    (∀ d ∈ [clrDesc 1 0, clrDesc 2 0, clrDesc 3 0, clrDesc 1 (2 ^ 64), clrDesc 0 0, clrDesc 4 0, clrDesc 4 (2 ^ 236)],
      let s := clearing d
      (match clrRead s 0 0 with
        | some (s1, some (e, a)) => e == d && a == farAddr 0 0 && !clrBadSig (clrAdvance s1 0 0) 0 d && s1.colls == []
        | _ => false) = true ∧ clrMayTake s 0 0 false = true ∧ clrMayTake s 0 0 true = true) ∧
    (clrLocal (clrDesc 1 0) % 64 = 0 ∧ clrRemote (clrDesc 1 0) % 64 = 0 ∧ clrBytes (clrDesc 1 0) % 64 = 0 ∧
      clrLocal (clrDesc 1 (2 ^ 64)) % 64 ≠ 0 ∧ fieldNat (descField (clrDesc 3 0) 16 8) 12 6 ≤ 47 ∧
      collectiveOf 0 0 (clrOp (clrDesc 4 0)) = some (.allReduce 0 0) ∧ collBad (clrDesc 4 0) = false ∧
      clrN (clrDesc 4 0) = 1 ∧ collBad (clrDesc 4 (2 ^ 236)) = true) ∧
    (match clrRead (setReg (clearing (clrDesc 1 0)) (oClrQbase 0 0) 0) 0 0 with
      | some (_, none) => true
      | _ => false) = true ∧
    (let s := setRegField { State.reset with colls := [coll0] } oClrCtl 16 16 1
     (s.colls.find? fun c => c.part == 0 && c.q == 0) = some coll0 ∧ regField s oClrCtl 16 16 ≠ 0) ∧
    (∀ t ∈ [1, 2, 5], let x := frame0 t 0 4095 (if t = 1 then List.replicate 64 7 else [])
      arriving domained x = true ∧ x.dst.toNat = ownNode domained ∧ (serveFrame (delivered domained x) 0 x).isSome = true) ∧
    (∀ t ∈ [3, 6], let x := frame0 t 0 4095 []
      arriving domained x = true ∧ (clrResponse (delivered domained x) x).isSome = true) ∧
    (let x := { frame0 6 0 4095 [] with op := 1 }
     let s := { domained with colls := [coll0] }
     arriving s x = true ∧ ((delivered s x).colls.find? fun c =>
       stagedFor (delivered s x) c.part c.q x && clrColl c.desc % 65536 == x.collId.toNat) = some coll0) ∧
    (domainPart domained 5 = some 0 ∧ domainPart domained 6 = none ∧ stagedBytes domained < 2 ^ 21) ∧
    (getPort (setPort State.reset 0 { Port.trained with state := .down }) 0).state ≠ .up ∧
    (let p := getPort State.reset 0
     p.state = .up ∧ p.expects = 0 ∧ (p.expects + 65536 - (frame0 1 65535 4095 []).lseq.toNat) % 65536 ≤ 32768 ∧
       32768 < (p.expects + 65536 - (frame0 1 5 4095 []).lseq.toNat) % 65536) ∧
    (let x := frame0 1 0 9 []
     let s := setReg State.reset (oClrRoute 1) 0
     let t := bump (delivered s x) 0x0A 7 x.payload.length (.port 0)
     arriving s x = true ∧ x.dst.toNat ≠ ownNode s ∧ x.hops ≠ 0 ∧ bitNat (getReg s oClrCtl).toNat 32 = true ∧
       (sendFrame t 16 { x with hops := 0 }).isSome = true ∧
       bitNat (getReg (setReg s oClrCtl 0) oClrCtl).toNat 32 = false ∧
       sendFrame (setReg t (oClrRoute 1) (~~~ (0 : Word))) 16 { x with hops := 0 } = none) := by
  decide +kernel

theorem meets_Ports :
    (let p := getPort State.reset 0
     p.state = .up ∧ p.queue = [] ∧ p.replay = [] ∧ State.reset.clrOps = [] ∧ State.reset.colls = []) ∧
    (getPort (setPort State.reset 0 { Port.trained with unacked := true }) 0).unacked = true ∧
    (∀ n ∈ [0, 2], let p := getPort (setPort State.reset 0 { Port.trained with state := .retraining, fails := n }) 0
      p.state = .retraining ∧ p.fails = n ∧ p.queue = []) ∧
    ((12 : BitVec 4).toNat % 4 ≠ 3 ∧ 12 ≤ (12 : BitVec 4).toNat ∧ (5 : BitVec 4).toNat % 4 ≠ 3 ∧ (5 : BitVec 4).toNat < 12) ∧
    mayWrite State.reset (.host 0) (oClrPctl 0) = true ∧
    (∀ st ∈ [PortState.down, .disabled],
      (getPort (setPort State.reset 0 { Port.trained with state := st }) 0).state = st) ∧
    (let o : ClrOp := ⟨0, 0, 1, clrDesc 1 0, 0, 0, 64, 0, [(7, 0, 64)], 0, 0, false⟩
     let s := { State.reset with clrOps := [o] }
     (s.clrOps.findIdx? fun o => o.frames.any (·.1 == 7)) = some 0 ∧ s.clrOps[0]? = some o) := by decide +kernel

/-! ### The hallmark and the governor -/

/-- The device with a hallmark state. -/
def hm0 (f : HmSt → HmSt) : State := modHm State.reset f

theorem meets_Hallmark :
    (let m := (hm0 fun m => { m with state := .free, lastPulse := none }).hm
     m.state = .free ∧ m.lastPulse = none) ∧
    (∀ g ∈ [0, 2], let m := (hm0 fun m => { m with state := .acquire, first := false, good := g }).hm
      m.state = .acquire ∧ m.first = false ∧ m.good = g) ∧
    (let m := (hm0 fun m => { m with state := .locked, lastPulse := some 7 }).hm
     m.state = .locked ∧ m.lastPulse = some 7) ∧
    (hm0 fun m => { m with step := some (100, 5) }).hm.step = some (100, 5) ∧
    (hm0 fun m => { m with slew := -5 }).hm.slew ≠ 0 ∧
    bitNat (hm0 id).hm.unlocked 1 = false ∧ bitNat (hm0 fun m => { m with unlocked := 2 }).hm.unlocked 1 = true ∧
    (let s := hallmarkTo (hm0 fun m => { m with state := .locked, lastPulse := some 0 }) 1000000000
     ppsValid s true 1000000000 = true ∧ ppsValid s true 1000500001 = false ∧ s.hm.state = .locked) ∧
    ((0 : Word) = ~~~ getReg (setReg State.reset oEpoch (~~~ 0)) oEpoch ∧ (1 : Word) ≠ ~~~ getReg State.reset oEpoch) ∧
    (∀ off ∈ [oEpoch, oEpochR, oHmCtl], mayWrite State.reset (.host 0) off = true) := by
  decide +kernel

/-- Cluster 0 with a state of its own. -/
def cl0 (f : ClusterSt → ClusterSt) : State := modCl State.reset 0 f

/-- The device with a governor state. -/
def pwr0 (f : PwrSt → PwrSt) : State := modPwr State.reset f

theorem meets_Governor :
    (populatedCl State.reset 0 = true ∧ (getCl State.reset 0).power = .on ∧ (getCl State.reset 0).ramping = false) ∧
    (∀ p ∈ [(5, 6), (6, 5)], let x := getCl (cl0 fun x => { x with op := p.1, opTarget := p.2 }) 0
      x.op = p.1 ∧ x.opTarget = p.2 ∧ x.power = .on) ∧
    ((getCl State.reset 0).reserve = false ∧ (getCl (cl0 fun x => { x with reserve := true }) 0).reserve = true) ∧
    (getCl (cl0 fun x => { x with ramping := true }) 0).ramping = true ∧
    (∀ off ∈ [oPwrLimit, oPwrLimit + 8, oPwrTlim, oPwrTlim + 8], mayWrite State.reset (.host 0) off = true) ∧
    (∀ m ∈ [limitMask, tlimMask], (~~~ (0 : Word)) &&& BitVec.ofNat 64 m = ~~~ (0 : Word) &&& BitVec.ofNat 64 m) ∧
    (0 &&& BitVec.ofNat 64 limitMask ≠ ~~~ (0 : Word) &&& BitVec.ofNat 64 limitMask) ∧
    governs State.reset = true ∧ (pwr0 fun x => { x with applyAt := some 5 }).pwr.applyAt = some 5 ∧
    (let s := pwr0 fun x => { x with alert := true }
     s.pwr.alert = true ∧ governs s = true) ∧
    (let s := cl0 fun x => { x with paused := true, pauseEnd := 5 }
     (getCl s 0).paused = true ∧ (getCl s 0).pauseEnd ≠ 0 ∧ s.pwr.hwPause = false) ∧
    (State.reset.start.phase ≠ .unpowered ∧ State.reset.pwr.alert = false) ∧
    (let s := pwr0 fun x => { x with shutAt := some 5 }
     s.pwr.shutAt = some 5 ∧ s.pwr.regsOff = false) := by decide +kernel

/-! ### Starts, resets and what changes of itself -/

/-- A start that finds nothing amiss, with its image ready after ms; and one that finds something. -/
def starts (a : Bool) (ms : BitVec 16) (f : Option FatalStart) : StartEnv := ⟨0, [], [], f, a, false, ms⟩

/-- A locator of a cluster of die 0, and its retirement request. -/
def retiring : Word := BitVec.ofNat 64 (3 * 2 ^ 60)

theorem meets_StartsAndFlash :
    (modStart State.reset fun x => { x with phase := .unpowered }).start.phase = .unpowered ∧
    (let s := modStart State.reset fun x => { x with phase := .starting }
     s.start.phase = .starting ∧ s.comp.state = .firmware) ∧
    State.reset.start.phase = .ready ∧ State.reset.comp.lastSeq ≠ some 1 ∧
    (∀ off ∈ [oAsyCtl, oAsyNext, oRetireR], mayWrite State.reset (.host 0) off = true) ∧ State.reset.jobs = [] ∧
    chooseImage (repairErases State.reset) (starts true 10 none) = some (false, false) ∧
    chooseImage (repairErases State.reset) (starts false 10 none) = none ∧
    ({ State.reset with jobs := [job9] } : State).jobs ≠ [] ∧
    (let s := setReg State.reset oRetire retiring
     retireResult s (getReg s oRetire) (~~~retiring) = 0 ∧ retireResult s (getReg s oRetire) 0 = 1 ∧
       (getPair s oRetire).obv = false ∧ (getPair (setPair s oRetire ⟨true, false, false⟩) oRetire).obv = true) ∧
    (modFlash State.reset fun f => { f with programs := 1 }).flash.programs = 1 ∧
    (modFlash State.reset fun f => { f with programs := 2 }).flash.programs = 2 ∧
    (let s := modFlash State.reset fun f => { f with erasing := [0x100], journal := [(0x100, false)] }
     s.flash.erasing = [0x100] ∧ (0x100, false) ∈ s.flash.journal) := by decide +kernel

theorem meets_UnitResets :
    mayWrite State.reset (.host 0) (oClRst 0) = true ∧
    (populatedCl State.reset 0 = true ∧ dieUp State.reset 0 = true ∧ (getCl State.reset 0).power = .on ∧
      clusterHasJob State.reset 0 = false) ∧
    (let s := { State.reset with jobs := [job9] }
     clusterHasJob s 0 = true ∧ (getCl s 0).power = .on) ∧
    (getCl (cl0 fun x => { x with power := .off }) 0).power = .off ∧
    (let s := modCore (cl0 fun x => { x with power := .resetting }) 0 fun x => { x with resetting := some true }
     (getCl s 0).power = .resetting ∧ (getCl s 0).rst = [] ∧ (getCore s 0).resetting = some true) ∧
    (let s := cl0 fun x => { x with power := .poweringUp }
     (getCl s 0).power = .poweringUp ∧ (getCl s 0).rst = []) ∧
    takesEvents State.reset 0 = true ∧
    mayWrite State.reset (.host 0) oDrst = true ∧
    (run0 (fun x => { x with loads := [⟨1, .inl 5, 0x80000 * 16, snapshotOf x, 0⟩] }) |> fun s =>
      (getCore s 0).loads.map fun l => l.addr / 0x80000 / 16) = [1] ∧
    (dieUp State.reset 1 = true ∧ (modStart State.reset fun x => { x with dies := [0, 1, 0, 0] }).start.dies.getD 1 0 = 1) := by
  decide +kernel

theorem meets_SoftErrors :
    populatedPlace State.reset (placeOf (farAddr 0 0)) = true ∧ (unitAt State.reset (farAddr 0 0)).code = 3 ∧
    populatedPlace State.reset (placeOf 0) = true ∧ (unitAt State.reset 0).code = 1 ∧
    (let s := setReg State.reset (oRegion 0 0) (BitVec.ofNat 64 (2 * 2 ^ 19 + 2 ^ 8))
     populatedPlace s (placeOf (veinAddr 0 0)) = true ∧ (unitAt s (veinAddr 0 0)).code = 2 ∧
       placeOf (unitAt s (veinAddr 0 0)).addr = .vein 0 0 ∧ (regionAt s 0 0).isSome = true) ∧
    populatedPlace State.reset (placeOf (2 ^ 47)) = false ∧
    populated State.reset 0 = true ∧ populatedCl State.reset 0 = true ∧
    (let s := modStart State.reset fun x => { x with gone := [0] }
     populated s 0 = false ∧ populatedCl s 0 = false) := by decide +kernel

/-! ### The comptroller -/

/-- The PF's mailbox with a command in work and its first argument. -/
def boxed (cmd a : Nat) : State :=
  let s := setReg State.reset (oCmbArg 0 0) (BitVec.ofNat 64 a)
  setFunc s 0 { getFunc s 0 with cmbBusy := some (cmd, none) }

theorem meets_ComptrollerEvents :
    State.reset.start.phase = .ready ∧ State.reset.comp.state = .firmware ∧ State.reset.comp.state ≠ .failed ∧
    (modStart State.reset fun x => { x with irqAt := some 5 }).start.irqAt = some 5 ∧
    (∀ cmd ∈ [1, 2, 3, 4, 5, 8], (getFunc (boxed cmd 0) 0).cmbBusy = some (cmd, none) ∧
      (boxed cmd 0).comp.state = .firmware) ∧
    (fieldNat (boxArg (boxed 2 0) 0 0) 8 3 ≤ sevWarn ∧ sevWarn < fieldNat (boxArg (boxed 2 0x700) 0 0) 8 3) ∧
    (boxArg (boxed 3 0) 0 0 % 4096 = 0 ∧ populated (boxed 3 0) 0 = true ∧ partOf (boxed 3 0) 0 = some 0 ∧
      (getCore (boxed 3 0) 0).msgs = []) ∧
    (getCore (modCore (boxed 3 0) 0 fun x => { x with msgs := List.replicate 4 [] }) 0).msgs.length = 4 ∧
    (partOf (setPart (boxed 3 0) 0 { getPart (boxed 3 0) 0 with clusters := [] }) 0 ≠ some 0) := by decide +kernel

/-- A record of the ledger. -/
def record1 : LedgerRec := ⟨0, 0x0502, 2, true, 0, 0, 0, 0, [], false⟩

/-- The device with a ledger. -/
def led0 (f : Ledger → Ledger) : State := { State.reset with ledger := f State.reset.ledger }

theorem meets_LedgerAndTally :
    mayWrite State.reset (.core 0) (coBase 0 + 0x2E0) = true ∧
    (∀ off ∈ [oLdgCtl + 0x18, oLdgCtl + 0x20], mayWrite State.reset (.host 0) off = true) ∧
    (let n := fun l : Map Nat => look (fun _ => 0) (led0 fun x => { x with tokens := l }).ledger.tokens 0x0502
     n [] = 0 ∧ n [(0x0502, 3)] ≠ 0) ∧
    (led0 fun x => { x with queue := [record1] }).ledger.queue = [record1] ∧
    (led0 fun x => { x with holdEnd := some 5 }).ledger.holdEnd = some 5 := by decide +kernel

/-- The header of an image of 256 bytes, all but its checksum, and with it. -/
def header0 : List Byte := natLe 16 (0x34514654 + 0x0004 * 2 ^ 32 + 0xB1 * 2 ^ 48 + 2 ^ 56 + 5 * 2 ^ 64 + 256 * 2 ^ 96) ++
  List.replicate 236 0
def header1 : List Byte := header0 ++ natLe 4 (crc32c header0)

/-- An update of slot B with a header, at an offset. -/
def updating (x : List Byte) (next : Nat) : State := modComp State.reset fun c => { c with update := some (true, x, next) }

/-- Every word of a class as the factory stored it, with its complement. -/
theorem accepted_factory : calAccepted 4 ((Config.factoryWords 4).flatMap fun w => [w, ~~~w]) = true := by
  have p : ∀ l : List Word, pairUp (l.flatMap fun w => [w, ~~~w]) = l.map fun w => (w, ~~~w) := by
    intro l
    induction l with
    | nil => rfl
    | cons a r ih => simp only [List.flatMap_cons, List.cons_append, List.nil_append, pairUp, ih, List.map_cons]
  have n : ∀ l : List Word, (l.flatMap fun w => [w, ~~~w]).length = 2 * l.length := by
    intro l
    induction l with
    | nil => rfl
    | cons a r ih => simp only [List.flatMap_cons, List.length_append, List.length_cons, List.length_nil, ih]; omega
  simp [calAccepted, p, n, calRange]

theorem meets_ServicePort :
    (let s := modComp State.reset fun c => { c with lastSeq := some 5 }
     s.start.phase ≠ .unpowered ∧ s.comp.lastSeq = some 5 ∧ s.comp.lastSeq ≠ some 6) ∧
    headerOk [] = false ∧ headerOk header1 = true ∧
    (modComp State.reset fun c => { c with state := .failed }).comp.state ≠ .firmware ∧
    ({ State.reset.flash with journal := List.replicate 3584 (0, false) } : Flash).journal.length = 3584 ∧
    (State.reset.comp.update = none ∧ State.reset.comp.slotB = false ∧ State.reset.flash.journal = []) ∧
    (let s := updating [] 0
     s.comp.update = some (true, [], 0) ∧ headerLength [] = 0 ∧
       sha256 [] ≠ (([] : List Byte).drop 16).take 32) ∧
    (let x := List.replicate 16 0 ++ sha256 []
     headerLength x = 0 ∧ sha256 [] = (x.drop 16).take 32) ∧
    (let s := updating header1 0
     0 + 256 ≤ headerLength header1 ∧ blockErasing s.flash true 256 256 = false ∧
       (imageOf s.flash true).body = []) ∧
    (modComp State.reset fun c => { c with state := .recovery }).comp.state = .recovery ∧
    calAccepted 5 [] = false := by decide +kernel

/-! ### Counters, traces and the hang analysis -/

theorem meets_HangAnalysis :
    ((boxed 8 0).comp.state = .firmware ∧ (boxed 8 0).dbg.busy = false ∧
      (getFunc (boxed 8 0) 0).cmbBusy = some (8, none)) ∧
    graphBufferOk State.reset (farAddr 0 0) 4096 = true ∧ graphBufferOk State.reset 0 4096 = false ∧
    (let s := { boxed 8 0 with dbg := { State.reset.dbg with busy := true } }
     s.dbg.busy = true) ∧
    (let s := setReg (setReg (setReg State.reset oHangBuf (BitVec.ofNat 64 (farAddr 0 0))) oHangLen 4096) oHangCtl 1
     let s1 := { modCore s 0 fun x => { x with blk := 1 } with hallmark := 10 ^ 12 }
     (getReg s1 oHangCtl).getLsbD 0 = true ∧ regField s1 oHangBuf 0 48 = farAddr 0 0 ∧ regField s1 oHangLen 0 32 = 4096 ∧
       graphBufferOk s1 (farAddr 0 0) 4096 = true ∧ (getCore s1 0).blk ≠ 0 ∧
       (getCore s1 0).blk + hangThresh s1 * 1000000 ≤ s1.hallmark ∧ s1.dbg.lastAuto = none) ∧
    (let s := run0 fun x => { x with wait := some (.event 1 1 none) }
     (blockingOf s 0).isSome = true ∧ populated s 0 = true ∧ (getCore s 0).blk = 0) := by decide +kernel

/-- The trace channel of cluster 0 enabled with its function mastering the bus or not, and a record in its buffer. -/
def tracing (bme : Bool) (l : List TraceRec) : State :=
  let s := setReg (modCl State.reset 0 fun x => { x with trace := l }) (oTrCtl 0) 0x101
  setFunc s 0 { getFunc s 0 with bme := bme }

/-- A trace record. -/
def trace1 : TraceRec := ⟨0, 0, 1, 0, []⟩

theorem meets_CountersAndTraces :
    (let x : CounterAt := ⟨0, oCoSel 0 0, oCoPmc 0 0, 0⟩
     counterAt State.reset (oCoPmc 0 0) true = some x ∧ mayWrite State.reset (.host 0) (oCoPmc 0 0) = true ∧
       isReg (oCoPmc 0 0) = true ∧ bitNat (getReg (setReg State.reset x.sel (BitVec.ofNat 64 (2 ^ 39))) x.sel).toNat 39 = true ∧
       bitNat (getReg State.reset oPctl).toNat x.scope = false) ∧
    (mayWrite State.reset (.host 0) oPctl = true ∧ mayWrite State.reset (.host 1) oPctl = true ∧
      (match viewerOf State.reset (.host 0), viewerOf State.reset (.host 1) with
        | .full _, .part _ _ => true
        | _, _ => false) = true) ∧
    (∀ b : Bool, let s := tracing b [trace1]
      partOfCl s 0 = some 0 ∧ (getCl s 0).trace = [trace1] ∧ populatedCl s 0 = true ∧
        bitNat (getReg s (oTrCtl 0)).toNat 0 = true ∧ bitNat (getReg s (oTrStat 0)).toNat 0 = false ∧
        (getFunc s 0).bme = b) ∧
    (∀ n ∈ [1, 5], let s := setReg (tracing true [trace1]) (oTrTail 0) (BitVec.ofNat 64 n)
      decide ((regField s (oTrHead 0) 0 23 + 1) % traceRing s 0 = regField s (oTrTail 0) 0 23) = decide (n = 1)) ∧
    (mayWrite (tracing true []) (.host 0) (clBase 0 + 0x530) = true ∧ mayWrite State.reset (.host 0) (clBase 0 + 0x530) = true ∧
      bitNat (getReg State.reset (oTrCtl 0)).toNat 8 = false ∧
      bitNat (getReg (tracing true []) (oTrCtl 0)).toNat 8 = true ∧ (getCl (tracing true []) 0).trace.length < 2048) ∧
    mayWrite State.reset (.host 0) (oTrCtl 0) = true := by decide +kernel

/-! ### Terms that a well-formed command refuses -/

/-- A read of n bytes at offset o of a far stack that carries data. -/
def farReq (o n : Nat) (bs : List Byte) : FarReq := ⟨0, false, BitVec.ofNat 36 o, n, bs⟩

theorem refused_guestAccess : (Instr.guestAccess 0 ⟨0, 0, 0, false, 0, 0, []⟩).wf = false ∧
    (Instr.guestAccess 0 ⟨0, 0, 0, false, 0, 4097, []⟩).wf = false ∧
    (Instr.guestAccess 0 ⟨0, 0, 0, true, 0, 2, [7]⟩).wf = false ∧
    (Instr.guestAccess 0 ⟨0, 0, 0, true, 0, 2, [7, 7]⟩).wf = true := by decide +kernel
theorem refused_farRequest : (Instr.farRequest 0 (farReq 0 65 [])).wf = false ∧
    (Instr.farRequest 0 (farReq 60 8 [])).wf = false ∧ (Instr.farRequest 0 (farReq 0 8 [7])).wf = false ∧
    (Instr.farRequest 0 (farReq 56 8 [])).wf = true := by decide +kernel
theorem refused_plainRecord : (Instr.plainRecord 0 true ⟨0, 1, 0, 0, 0, 129, []⟩).wf = false ∧
    (Instr.plainRecord 0 true ⟨0, 2, 0, 0, 0, 0, List.replicate 129 0⟩).wf = false ∧
    (Instr.plainRecord 0 true ⟨0, 1, 0, 0, 0, 128, []⟩).wf = true := by decide +kernel
theorem refused_hostReplies : (Instr.commandDescriptorRead 0 0 (.data (List.replicate 4097 0))).wf = false ∧
    (Instr.hostReadCompletion 0 0 (.poisoned (List.replicate 4097 0))).wf = false ∧
    (Instr.commandDescriptorRead 0 0 (.data (List.replicate 64 0))).wf = true := by decide +kernel
theorem refused_bar2 : (Instr.bar2Read 0 0 0).wf = false ∧ (Instr.bar2Read 0 0 4097).wf = false ∧
    (Instr.bar2Write 0 0 [] false).wf = false ∧ (Instr.bar2Read 0 0 4096).wf = true := by decide +kernel
theorem refused_frames : (∀ i ∈ [Instr.writeFrame, .readRequestFrame, .readResponseFrame, .writeResponseFrame, .signalFrame,
      .collectiveDataFrame, .linkControlFrame, .forwardedFrame],
      (i 0 { frame0 1 0 0 [] with units := 17 }).wf = false ∧ (i 0 (frame0 1 0 0 (List.replicate 65 0))).wf = false ∧
        (i 0 (frame0 1 0 0 [])).wf = true) := by decide +kernel
theorem refused_readings : (Instr.housekeepingRoundEnd ⟨[], List.replicate 256 0, 0, 0, 0, 0⟩).wf = false ∧
    (Instr.housekeepingRoundEnd ⟨List.replicate 256 none, [], 0, 0, 0, 0⟩).wf = false ∧
    (Instr.housekeepingRoundEnd ⟨List.replicate 256 none, List.replicate 256 0, 0, 0, 0, 0⟩).wf = true := by decide +kernel
theorem refused_starts : (∀ e ∈ [(⟨0, [.cluster 0 1, .cluster 0 1], [], none, true, true, 0⟩ : StartEnv),
      ⟨0, [], [.cluster 0 1, .cluster 0 1], none, true, true, 0⟩],
      (Instr.coldStart e).wf = false ∧ (Instr.warmStart (.host 0) e).wf = false ∧
        (Instr.imageWatchdogExpiry e).wf = false ∧ (Instr.restart 0 false e).wf = false) ∧
    (Instr.coldStart (starts true 0 none)).wf = true := by decide +kernel
theorem refused_servicePort : (Instr.imgBegin 0 0 []).wf = false ∧ (Instr.imgData 0 0 []).wf = false ∧
    (Instr.imgData 0 0 (List.replicate 300 0)).wf = false ∧ (Instr.imgData 0 0 (List.replicate 4096 0)).wf = false ∧
    (Instr.calWrite 0 0 (List.replicate 512 0)).wf = false ∧ (Instr.inclClear 0 0 []).wf = false ∧
    (Instr.inclClear 0 0 (List.replicate 511 0)).wf = false ∧ (Instr.imgBegin 0 0 header1).wf = true ∧
    (Instr.imgData 0 0 (List.replicate 512 0)).wf = true := by decide +kernel

/-! ### Worked examples of the manual -/

/-- Table 17.12: where core 0x3A7, its cluster and its function's registers lie. -/
theorem test_addresses : lsAddr 0x3A7 0 = 0x1D380000 ∧ veinAddr 0x3A7 0 = 0x4E9C000000 ∧
    coBase 0x3A7 + 0x110 = 0x13A7110 ∧ clBase 58 + 8 = 0x1E8008 ∧ oViol 3 = 0x10C10 := by decide +kernel

/-- The worked example of chapter 17: VF 3 writes DEV_SCRATCH, which is not in its write view. -/
theorem test_outsideView : getReg (nextOf (.registerWrite (.host 3) 0x28 5) State.reset) (oViol 3) =
    BitVec.ofNat 64 (2 ^ 63 + 2 ^ 61 + 4 * 2 ^ 57 + 0x28) := by decide +kernel

/-- The worked example of chapter 17: with the aperture at 0x4E_8000_0000 the vein of core 0x3A7 begins at BAR2 offset
0x1C00_0000. -/
theorem test_aperture : bar2Addr (setReg State.reset (oApbase 3) 0x4E80000000) 3 0x1C000000 = veinAddr 0x3A7 0 := by
  decide +kernel

/-- The example of R34: the byte 0x9A holds the weights +1, 0, -1, -1, +1. -/
theorem test_ternary : (List.range 5).map (tqDigit 0x9A) = [1, 0, -1, -1, 1] := by decide +kernel

/-- The worked example of chapter 14: the retirement of bank unit 9 of core 0x3A7, whose cluster has slot 61. -/
theorem test_retire :
    let s := setReg State.reset oRetire 0x4000001EBC400000
    let t := nextOf (.retirementRequest (.host 0) 0xBFFFFFE143BFFFFF) s
    regField t oRstat 40 8 = 0 ∧ t.flash.pend = [(0x4000001EBC400000, 0xBFFFFFE143BFFFFF)] := by decide +kernel

/-- The check value of CRC-32C and the digest of the empty message (log entry 20, R478). -/
theorem test_codes : crc32c ([49, 50, 51, 52, 53, 54, 55, 56, 57] : List Byte) = 0xE3069283 ∧
    leNat (sha256 []).reverse = 0xe3b0c44298fc1c149afbf4c8996fb92427ae41e4649b934ca495991b7852b855 := by decide +kernel

/-! ### One step each -/

/-- Scalar arithmetic wraps, and a shift takes the low 6 bits of its amount (R64). -/
theorem test_add_wraps : gpr (getCore (nextOf (.add 0 3 1 2) (gprs [(1, BitVec.ofNat 64 (2 ^ 64 - 1)), (2, 2)])) 0) 3 = 1 := by
  decide +kernel
theorem test_shift_amount : gpr (getCore (nextOf (.shl 0 3 1 2) (gprs [(1, 3), (2, 65)])) 0) 3 = 6 := by decide +kernel

/-- MULH is the high half of the signed product (Table 3.8): -2^63 × 4 has -2 there. -/
theorem test_mulh : gpr (getCore (nextOf (.mulh 0 3 1 2) (gprs [(1, BitVec.ofNat 64 (2 ^ 63)), (2, 4)])) 0) 3 =
    BitVec.ofInt 64 (-2) := by decide +kernel

/-- g0 reads as zero and discards writes (R56). -/
theorem test_g0 : gpr (getCore (nextOf (.add 0 0 1 1) (gprs [(1, 5)])) 0) 0 = 0 := by decide +kernel

/-- A misaligned load takes trap 0x04 with its address (R65), at supervisor level with the trapped pc saved (R99). -/
theorem test_misaligned : let x := getCore (nextOf (.ldd 0 3 1 4) (gprs [(1, 0x1001)])) 0
    causeWord ⟨4, 0, 0⟩ false false = getCw x 3 ∧ getCw x 4 = 0x1005 ∧ getCw x 2 = 0 := by decide +kernel

end Sys2Proof.Tests.Slice0
end

/-! Lane arithmetic (O14). Lanes packed into a register read back as they were; what writing a vector register and
setting flags leaves of a core; then one law for every instruction that ends in `mapLanes`, of which each statement
about a lane instruction is a use. -/

namespace Sys2Proof.Machine

/-! ### Lanes of a register (R67) -/

/-- A lane fits its width. -/
theorem laneOf_lt (w : Nat) (x : Vec) (i : Nat) : laneOf w x i < 2 ^ w :=
  Nat.mod_lt _ (Nat.two_pow_pos w)

/-- A field that lies inside a word of n bits is the field of the number the word was made from. -/
theorem fieldNat_toNat_ofNat (x lo w n : Nat) (h : lo + w ≤ n) :
    fieldNat (BitVec.ofNat n x).toNat lo w = fieldNat x lo w := by
  apply Nat.eq_of_testBit_eq
  intro i
  simp only [fieldNat, BitVec.toNat_ofNat, Nat.testBit_mod_two_pow, Nat.testBit_div_two_pow]
  by_cases hi : i < w
  · have : i + lo < n := by omega
    simp [this]
  · simp [hi]

/-- Field j of a list packed at width w is the list's entry j. -/
theorem fieldNat_packed (w : Nat) (ls : List Nat) (j : Nat) :
    fieldNat (ls.foldr (fun l a => a * 2 ^ w + l % 2 ^ w) 0) (w * j) w = ls.getD j 0 % 2 ^ w := by
  induction ls generalizing j with
  | nil => simp [fieldNat]
  | cons l ls ih =>
    cases j with
    | zero => simp [fieldNat]
    | succ j =>
      have hdiv (a : Nat) : (a * 2 ^ w + l % 2 ^ w) / 2 ^ w = a := by
        rw [Nat.mul_comm, Nat.mul_add_div (Nat.two_pow_pos w), Nat.div_eq_of_lt (Nat.mod_lt _ (Nat.two_pow_pos w)),
          Nat.add_zero]
      have hpow : 2 ^ (w * (j + 1)) = 2 ^ w * 2 ^ (w * j) := by rw [Nat.mul_succ, Nat.add_comm, Nat.pow_add]
      rw [List.getD_cons_succ, ← ih j]
      simp only [fieldNat, List.foldr_cons]
      rw [hpow, ← Nat.div_div_eq_div_mul, hdiv]

/-- A lane that lies inside the register reads back what was packed into it. -/
theorem laneOf_ofLanes (w : Nat) (ls : List Nat) (j : Nat) (h : w * (j + 1) ≤ 1024) :
    laneOf w (ofLanes w ls) j = ls.getD j 0 % 2 ^ w := by
  rw [laneOf, ofLanes, fieldNat_toNat_ofNat _ _ _ _ (by rwa [Nat.mul_succ] at h), fieldNat_packed]

/-- Lane j after `mapLanes`: computed where the predicate governs it, otherwise as before (R57). -/
theorem laneOf_mapLanes (x : CoreSt) (vd pk w : Nat) (f : Nat → Nat × Nat) (j : Nat) (h : j < 1024 / w) :
    laneOf w (vreg (mapLanes x vd pk w f) vd) j =
      if (preg x pk).getLsbD j then (f j).1 % 2 ^ w else laneOf w (vreg x vd) j := by
  have hj : w * (j + 1) ≤ 1024 := (Nat.mul_le_mul_left w h).trans (Nat.mul_div_le 1024 w)
  have hv : ∀ v fl, vreg (setFlags (setVreg x vd v) fl) vd = v :=
    fun v _ => (vreg_setVreg x vd vd v).trans (if_pos rfl)
  rw [mapLanes, hv, laneOf_ofLanes w _ j hj]
  simp only [List.map_map, List.getD_eq_getElem?_getD, List.getElem?_map, List.getElem?_range h, Option.map_some,
    Option.getD_some, Function.comp_apply]
  split
  · rfl
  · exact Nat.mod_eq_of_lt (laneOf_lt _ _ _)

/-! ### What a vector instruction leaves alone -/

/-- Flags once set stay set (R42). -/
theorem getCw_setFlags_sticky (x : CoreSt) (fl b : Nat) (h : (getCw x 7).getLsbD b = true) :
    (getCw (setFlags x fl) 7).getLsbD b = true := by
  rw [setFlags, getCw_setCw, if_pos rfl, BitVec.getLsbD_or, h, Bool.true_or]

/-- A commit leaves the vector registers alone. -/
theorem vreg_commit (s : State) (c r : Nat) (a b : Word) :
    vreg (getCore (commit s c a b) c) r = vreg (getCore s c) r := by
  rw [commit_getCore]
  rfl

/-- A core that has written vd, set flags and committed keeps all that a vector instruction must keep. -/
theorem VectorFrame.of_commit {s s1 : State} {c : Nat} {i : Inst} (h : Issues s c i s1) (vd fl : Nat) (v : Vec)
    (f : CoreSt → CoreSt) (hf : f (getCore s1 c) = setFlags (setVreg (getCore s1 c) vd v) fl) :
    VectorFrame (getCore s c)
      (getCore (commit (modCore s1 c f) c (getCore s c).pc ((getCore s c).pc + 4)) c) vd := by
  have hy : getCore (commit (modCore s1 c f) c (getCore s c).pc ((getCore s c).pc + 4)) c =
      { setFlags (setVreg (getCore s c) vd v) fl with
        pc := (getCore s c).pc + 4, last := (getCore s c).pc, blocked := [], blk := 0, blkobj := 0,
        icache := (getCore s1 c).icache } := by
    rw [commit_getCore, getCore_modCore_self, hf, fetch_getCore _ _ _ _ _ h.got]
    rfl
  rw [hy]
  exact {
    others := fun r hr => (vreg_setVreg (getCore s c) vd r v).trans (if_neg hr)
    sticky := fun b hb => getCw_setFlags_sticky (setVreg (getCore s c) vd v) fl b hb
    words := fun n hn => (getCw_setCw (setVreg (getCore s c) vd v) 7 n _).trans (if_neg hn)
    rest := rfl }

/-- A commit of a change to one core changes that core and counters. -/
theorem onlyCore_commit_modCore (s : State) (c : Nat) (f : CoreSt → CoreSt) (a b : Word) :
    OnlyCore c s (commit (modCore s c f) c a b) := by
  constructor
  · obtain ⟨q, r, h⟩ := commit_eq (modCore s c f) c a b
    rw [h]
    rfl
  · intro d hd
    rw [commit_getCore_ne _ _ _ _ _ hd, getCore_modCore_ne _ _ _ _ hd]

/-! ### The law of lane instructions -/

section LaneLaws

variable {i : Instr} {c : CoreId} {vd : VReg} {pk : PReg} {fmt w : Nat} {F : CoreSt → Nat → Nat × Nat}

/-- An instruction whose meaning is `mapLanes` of the core obeys the law of lanes. What it computes may not depend on
the instruction cache, which its fetch changes. -/
theorem laneLaw_of_mapLanes {body : State → Eff}
    (hexec : ∀ s, exec i s = .next (issue s c.toNat ⟨4, [], false⟩ (raSkip 4) body))
    (hbody : ∀ s, body s = .go (modCore s c.toNat fun x => mapLanes x vd.toNat pk.toNat w (F x)))
    (hF : ∀ x l, F { x with icache := l } = F x) :
    LaneLaw i c vd pk w fun x j => (F x j).1 := by
  intro s s1 h
  refine ⟨_, (hexec s).trans (congrArg _ (issue_go h (hbody s1))), ?_,
    VectorFrame.of_commit h _ _ _ _ rfl, onlyCore_commit_modCore _ _ _ _ _⟩
  intro j hj
  have hx := fetch_getCore _ _ _ _ _ h.got
  have hFx : F (getCore s1 c.toNat) = F (getCore s c.toNat) := by rw [hx, hF]
  have hp : preg (getCore s1 c.toNat) pk.toNat = preg (getCore s c.toNat) pk.toNat := by rw [hx]; rfl
  have hv : vreg (getCore s1 c.toNat) vd.toNat = vreg (getCore s c.toNat) vd.toNat := by rw [hx]; rfl
  have hlane := laneOf_mapLanes (getCore s1 c.toNat) vd.toNat pk.toNat w (F (getCore s1 c.toNat)) j hj
  rw [vreg_commit, getCore_modCore_self, hlane, hFx, hp, hv]

/-- The law of lanes of an instruction of two or three operands with a format that has lanes (R67). -/
theorem laneLaw_of_vecOp {f : CoreSt → Nat → CoreSt}
    (hexec : ∀ s, exec i s = .next (vecOp s c.toNat fmt f)) (hw : vecWidth fmt = some w)
    (hf : ∀ x, f x w = mapLanes x vd.toNat pk.toNat w (F x)) (hF : ∀ x l, F { x with icache := l } = F x) :
    LaneLaw i c vd pk w fun x j => (F x j).1 :=
  laneLaw_of_mapLanes hexec (fun s => by simp only [hw, hf]) hF

/-- The law of lanes of a function of one operand with a format that has lanes (R53). -/
theorem laneLaw_of_vecUnary {va sub : Nat} {f : Nat → Bool → Nat → Nat × Nat}
    (hexec : ∀ s, exec i s = .next (vecUnary s c.toNat vd.toNat va 0 pk.toNat fmt sub f))
    (hw : vecWidth fmt = some w) :
    LaneLaw i c vd pk w fun x j => (f (rmCode x) (ftzOf x) (laneOf w (vreg x va) j)).1 :=
  laneLaw_of_mapLanes (F := fun x j => f (rmCode x) (ftzOf x) (laneOf w (vreg x va) j)) hexec
    (fun s => by simp only [hw, ne_eq, not_true_eq_false, if_false]) fun _ _ => rfl

/-- The law of lanes of VMAX without its compare form (R53, R69). -/
theorem laneLaw_vmax {va vb : VReg} {fm : BitVec 4} (hw : vecWidth fm.toNat = some w) :
    LaneLaw (.vmax c vd va vb pk fm none) c vd pk w fun x j =>
      (maxLane fm.toNat (laneOf w (vreg x va.toNat) j) (laneOf w (vreg x vb.toNat) j)).1 :=
  laneLaw_of_mapLanes
    (F := fun x j =>
      let r := maxLane fm.toNat (laneOf w (vreg x va.toNat) j) (laneOf w (vreg x vb.toNat) j)
      (r.1, r.2.2))
    (fun _ => rfl) (fun s => by simp only [hw, reduceCtorEq, if_false]) fun _ _ => rfl

/-- The law of lanes of VPERM (R71). -/
theorem laneLaw_vperm {va vb : VReg} {fm : BitVec 4} (hw : permWidth fm.toNat = some w) :
    LaneLaw (.vperm c vd va vb pk fm) c vd pk w fun x j =>
      let k := laneOf w (vreg x vb.toNat) j
      if bitNat k (w - 1) then 0 else laneOf w (vreg x va.toNat) (k % (1024 / w)) :=
  laneLaw_of_mapLanes
    (F := fun x j =>
      let k := laneOf w (vreg x vb.toNat) j
      (if bitNat k (w - 1) then 0 else laneOf w (vreg x va.toNat) (k % (1024 / w)), 0))
    (fun _ => rfl) (fun s => by simp only [hw]) fun _ _ => rfl

end LaneLaws

/-- Settles O14: each lane instruction ends in `mapLanes`, so each is a use of the law of lanes. -/
theorem lanes : Obligations.Lanes := by
  unfold Obligations.Lanes
  refine ⟨fun c vd va vb pk fmt w hw => ⟨?add, ?mul, ?fma, laneLaw_vmax hw⟩,
    fun c vd va vb pk fmt w => ⟨fun hw => ⟨?exp, ?rsq⟩, laneLaw_vperm⟩⟩
  case add => exact laneLaw_of_vecOp (fun _ => rfl) hw (fun _ => rfl) fun _ _ => rfl
  case mul => exact laneLaw_of_vecOp (fun _ => rfl) hw (fun _ => rfl) fun _ _ => rfl
  case fma => exact laneLaw_of_vecOp (fun _ => rfl) hw (fun _ => rfl) fun _ _ => rfl
  case exp => exact laneLaw_of_vecUnary (fun _ => rfl) hw
  case rsq => exact laneLaw_of_vecUnary (fun _ => rfl) hw

end Sys2Proof.Machine

/-! Reasoning rules for the instructions of a core: what a fetch and a commit leave of the core, changes that stay within
one core, and the laws of instructions that commit or trap. -/

namespace Sys2Proof.Machine

/-! ### The core that issues (R55) -/

section Fetched

variable {s s1 : State} {c : Nat} {i : Inst}

/-- The fetch leaves all of the core but its instruction cache. -/
theorem Issues.getCore_eq (h : Issues s c i s1) :
    getCore s1 c = { getCore s c with icache := (getCore s1 c).icache } :=
  fetch_getCore _ _ _ _ _ h.got

theorem Issues.gpr_eq (h : Issues s c i s1) (r : Nat) : gpr (getCore s1 c) r = gpr (getCore s c) r := by
  rw [h.getCore_eq]; rfl

theorem Issues.pc_eq (h : Issues s c i s1) : (getCore s1 c).pc = (getCore s c).pc := by rw [h.getCore_eq]

theorem Issues.loads_eq (h : Issues s c i s1) : (getCore s1 c).loads = (getCore s c).loads := by rw [h.getCore_eq]

/-- A core that issues has neither a wait nor a double trap on its way, and does not halt (R96, R98). -/
theorem Issues.awake (h : Issues s c i s1) :
    (getCore s1 c).wait = none ∧ (getCore s1 c).dbl = none ∧ (getCore s1 c).halting = false := by
  have able := h.able
  simp only [canIssue, Bool.and_eq_true, Option.isNone_iff_eq_none, Bool.not_eq_true'] at able
  obtain ⟨⟨⟨⟨⟨⟨-, hhalt⟩, hdbl⟩, -⟩, hwait⟩, -⟩, -⟩ := able
  rw [h.getCore_eq]
  exact ⟨hwait, hdbl, hhalt⟩

end Fetched

/-! ### Changes within one core -/

theorem OnlyCore.refl (c : Nat) (s : State) : OnlyCore c s s := ⟨rfl, fun _ _ => rfl⟩

theorem OnlyCore.trans {c : Nat} {s t u : State} (h : OnlyCore c s t) (k : OnlyCore c t u) : OnlyCore c s u :=
  ⟨k.1.trans (by rw [h.1]), fun d hd => (k.2 d hd).trans (h.2 d hd)⟩

theorem OnlyCore.setCore (s : State) (c : Nat) (x : CoreSt) : OnlyCore c s (setCore s c x) :=
  ⟨rfl, fun _ hd => getCore_setCore_ne _ _ _ _ hd⟩

theorem OnlyCore.modCore (s : State) (c : Nat) (f : CoreSt → CoreSt) : OnlyCore c s (modCore s c f) :=
  OnlyCore.setCore _ _ _

theorem OnlyRegs.onlyCore {s t : State} (h : OnlyRegs s t) (c : Nat) : OnlyCore c s t := by
  obtain ⟨r, rfl⟩ := h
  exact ⟨rfl, fun _ _ => rfl⟩

theorem OnlyCore.commit {c : Nat} {s t : State} (h : OnlyCore c s t) (a b : Word) : OnlyCore c s (commit t c a b) :=
  (h.trans (OnlyCore.modCore _ _ _)).trans ((bump_onlyRegs _ _ _ _ _).onlyCore c)

theorem OnlyCore.sameMemory {c : Nat} {s t : State} (h : OnlyCore c s t) : SameMemory s t := by
  intro a
  rw [h.1]
  rfl

/-- A commit leaves the memory alone. -/
theorem SameMemory.commit {s t : State} (h : SameMemory s t) (c : Nat) (a b : Word) : SameMemory s (commit t c a b) :=
  fun d => ((OnlyCore.refl c t).commit a b |>.sameMemory d).trans (h d)

theorem SameMemory.setCore (s : State) (c : Nat) (x : CoreSt) : SameMemory s (setCore s c x) := fun _ => rfl

/-! ### A core after a commit -/

/-- A core that has committed the instruction at an address and goes on at another. -/
def committed (x : CoreSt) (at_ next : Word) : CoreSt :=
  { x with pc := next, last := at_, blk := 0, blkobj := 0, blocked := [] }

theorem getCore_commit (s : State) (c : Nat) (a b : Word) :
    getCore (commit s c a b) c = committed (getCore s c) a b :=
  commit_getCore s c a b

@[simp] theorem committed_pc (x : CoreSt) (a b : Word) : (committed x a b).pc = b := rfl
@[simp] theorem committed_g (x : CoreSt) (a b : Word) : (committed x a b).g = x.g := rfl
@[simp] theorem committed_v (x : CoreSt) (a b : Word) : (committed x a b).v = x.v := rfl
@[simp] theorem gpr_committed (x : CoreSt) (a b : Word) (r : Nat) : gpr (committed x a b) r = gpr x r := rfl
@[simp] theorem preg_committed (x : CoreSt) (a b : Word) (r : Nat) : preg (committed x a b) r = preg x r := rfl
@[simp] theorem getCw_committed (x : CoreSt) (a b : Word) (n : Nat) : getCw (committed x a b) n = getCw x n := rfl

/-! ### The laws of instructions that commit or trap -/

section Laws

variable {i : Instr} {c : CoreId} {n : Nat} {regs : List Nat} {w : Bool} {ra : State → CoreSt → CoreSt}
  {body : State → Eff} {ok : State → Prop}

/-- An instruction whose meaning goes on with f, where ok holds, obeys the law of commits. -/
theorem commitLaw_of_go {f : State → State}
    (hexec : ∀ s, exec i s = .next (issue s c.toNat ⟨n, regs, w⟩ (ra s) body))
    (hbody : ∀ s, ok s → body s = .go (f s)) : CommitLaw i c n regs w ok f :=
  fun s s1 h hok => (hexec s).trans (congrArg _ (issue_go h (hbody s1 hok)))

/-- An instruction whose meaning is a plain trap, where ok holds, obeys the law of traps. -/
theorem trapLaw_of_trap {e : State → TrapInfo}
    (hexec : ∀ s, exec i s = .next (issue s c.toNat ⟨n, regs, w⟩ (ra s) body))
    (hbody : ∀ s, ok s → body s = .trap s (e s) false false) : TrapLaw i c n regs w ok e :=
  fun s s1 h hl hok => (hexec s).trans (congrArg _ (issue_trap h hl (hbody s1 hok)))

end Laws

end Sys2Proof.Machine

/-! Scalar arithmetic (O6): one law for every instruction that writes a register from general registers. -/

namespace Sys2Proof.Machine

/-- An instruction whose meaning is `aluOp` obeys the law of scalar arithmetic. What it computes may not depend on the
instruction cache, which its fetch changes. -/
theorem aluLaw_of_aluOp {i : Instr} {c : CoreId} {rd : GReg} {srcs : List Nat} {f g : CoreSt → Word}
    (hexec : ∀ s, exec i s = .next (aluOp s c.toNat rd.toNat srcs g)) (hg : ∀ x, g x = f x)
    (hf : ∀ x l, f { x with icache := l } = f x) : AluLaw i c rd (rd.toNat :: srcs) f := by
  intro s s1 h
  refine ⟨_, (hexec s).trans (congrArg _ (issue_go h rfl)), fun r => ?_, by rw [getCore_commit]; rfl, ?_,
    onlyCore_commit_modCore _ _ _ _ _⟩
  · rw [getCore_commit, gpr_committed, getCore_modCore_self, gpr_setGpr, h.gpr_eq, hg, h.getCore_eq, hf]
  · rw [getCore_commit, getCore_modCore_self, h.getCore_eq]
    unfold SameButGprs setGpr
    split <;> rfl

end Sys2Proof.Machine

namespace Sys2Proof.Machine

/-- Bit i of a number in which the field of n bits from lo on was replaced. -/
theorem testBit_setFieldNat (x lo n v i : Nat) :
    (setFieldNat x lo n v).testBit i = if lo ≤ i ∧ i < lo + n then v.testBit (i - lo) else x.testBit i := by
  have hsplit : setFieldNat x lo n v = 2 ^ lo * (2 ^ n * (x / 2 ^ (lo + n)) + v % 2 ^ n) + x % 2 ^ lo := by
    unfold setFieldNat
    rw [Nat.pow_add]
    ring
  have hlow : x % 2 ^ lo < 2 ^ lo := Nat.mod_lt _ (Nat.two_pow_pos lo)
  have hfield : v % 2 ^ n < 2 ^ n := Nat.mod_lt _ (Nat.two_pow_pos n)
  rw [hsplit, Nat.testBit_two_pow_mul_add _ hlow, Nat.testBit_two_pow_mul_add _ hfield]
  simp only [Nat.testBit_mod_two_pow, Nat.testBit_div_two_pow]
  by_cases h1 : i < lo
  · have : ¬ lo ≤ i := by omega
    simp [h1, this]
  · by_cases h2 : i < lo + n
    · have : i - lo < n := by omega
      have h3 : lo ≤ i := by omega
      simp [h1, h2, h3, this]
    · have : ¬ i - lo < n := by omega
      have h3 : i - lo - n + (lo + n) = i := by omega
      simp [h1, h2, this, h3]

/-- A halfword placed in the cleared place of a word, by number and by bits (Table 3.8). -/
theorem ofNat_setFieldNat (x : Word) (lo : Nat) (v : BitVec 16) :
    BitVec.ofNat 64 (setFieldNat x.toNat lo 16 v.toNat) =
      (x &&& ~~~((0xFFFF : Word) <<< lo)) ||| (v.setWidth 64) <<< lo := by
  have hmask (k : Nat) : (0xFFFF : Word).getLsbD k = decide (k < 16) := by
    rw [show (0xFFFF : Word) = (BitVec.allOnes 16).setWidth 64 from rfl, BitVec.getLsbD_setWidth, BitVec.getLsbD_allOnes]
    by_cases hk : k < 16
    · simp [hk]; omega
    · simp [hk]
  refine BitVec.eq_of_getLsbD_eq fun i hi => ?_
  have hv : i - lo < 64 := by omega
  simp only [BitVec.getLsbD_ofNat, hi, decide_true, Bool.true_and, testBit_setFieldNat, BitVec.testBit_toNat,
    BitVec.getLsbD_or, BitVec.getLsbD_and, BitVec.getLsbD_not, BitVec.getLsbD_shiftLeft, BitVec.getLsbD_setWidth, hmask, hv]
  by_cases h1 : i < lo
  · have : ¬ lo ≤ i := by omega
    simp [h1, this]
  · have h3 : lo ≤ i := by omega
    by_cases h2 : i < lo + 16
    · have : i - lo < 16 := by omega
      simp [h1, h2, h3, this]
    · have : ¬ i - lo < 16 := by omega
      have hz : v.getLsbD (i - lo) = false := BitVec.getLsbD_of_ge _ _ (by omega)
      simp [h1, h2, this, hz]

/-- The number of a halfword in an otherwise clear word (Table 3.8). -/
theorem ofNat_setFieldNat_zero (lo : Nat) (v : BitVec 16) :
    BitVec.ofNat 64 (setFieldNat 0 lo 16 v.toNat) = (v.setWidth 64) <<< lo := by
  simpa using ofNat_setFieldNat 0 lo v

theorem shamt_setWidth (amt : BitVec 6) : shamt (amt.setWidth 64) = amt.toNat := by
  simp [shamt]; omega

/-- Settles O6: each scalar instruction is `aluOp`, so each is a use of the law of scalar arithmetic. -/
theorem scalarArithmetic : Obligations.ScalarArithmetic := by
  unfold Obligations.ScalarArithmetic
  refine ⟨fun c rd ra rb p uns => ⟨?_, ?_, ?_, ?_, ?_, ?_, ?_, ?_, ?_, ?_, ?_, ?_⟩,
    fun c rd ra imm amt hw => ⟨?_, ?_, ?_, ?_, ?slt, ?shl, ?shr, ?sha, ?clear, ?keep⟩⟩
  case slt =>
    exact aluLaw_of_aluOp (fun _ => rfl) (fun x => if_congr BitVec.slt_iff_toInt_lt rfl rfl) fun _ _ => rfl
  case shl | shr | sha =>
    exact aluLaw_of_aluOp (fun _ => rfl) (fun x => by simp only [shamt_setWidth]) fun _ _ => rfl
  case clear =>
    exact aluLaw_of_aluOp (srcs := []) (fun _ => rfl) (fun x => ofNat_setFieldNat_zero _ _) fun _ _ => rfl
  case keep =>
    exact aluLaw_of_aluOp (srcs := [rd.toNat]) (fun _ => rfl) (fun x => ofNat_setFieldNat _ _ _) fun _ _ => rfl
  all_goals exact aluLaw_of_aluOp (fun _ => rfl) (fun _ => rfl) fun _ _ => rfl

end Sys2Proof.Machine

/-! Control flow (O7): the law of conditional branches, and one rule for every instruction that jumps. -/

namespace Sys2Proof.Machine

section Jumps

variable {i : Instr} {c : Nat} {n : Nat} {regs : List Nat} {w : Bool} {ra : CoreSt → CoreSt} {body : State → Eff}
  {s s1 s2 : State} {a : Word}

/-- An instruction that jumps, having changed its core alone, leaves the core committed at its target. -/
theorem does_jump (h : Issues s c ⟨n, regs, w⟩ s1) (hexec : exec i s = .next (issue s c ⟨n, regs, w⟩ ra body))
    (hbody : body s1 = .jump s2 a) (honly : OnlyCore c s1 s2) :
    ∃ t, Does i s t ∧ getCore t c = committed (getCore s2 c) (getCore s c).pc a ∧ OnlyCore c s1 t :=
  ⟨_, hexec.trans (congrArg _ (issue_jump h hbody)), getCore_commit _ _ _ _, honly.commit _ _⟩

/-- An instruction that goes on, having changed its core alone, leaves the core committed at the next one. -/
theorem does_go (h : Issues s c ⟨n, regs, w⟩ s1) (hexec : exec i s = .next (issue s c ⟨n, regs, w⟩ ra body))
    (hbody : body s1 = .go s2) (honly : OnlyCore c s1 s2) :
    ∃ t, Does i s t ∧
      getCore t c = committed (getCore s2 c) (getCore s c).pc ((getCore s c).pc + BitVec.ofNat 64 n) ∧
      OnlyCore c s1 t :=
  ⟨_, hexec.trans (congrArg _ (issue_go h hbody)), getCore_commit _ _ _ _, honly.commit _ _⟩

end Jumps

/-- The prediction of a branch, and a commit, change nothing but the flow of control (R85). -/
theorem sameButFlow_predict (x : CoreSt) (p a b : Word) (taken : Bool) (ic : List Nat) :
    SameButFlow x (committed (predict { x with icache := ic } p taken) a b) := rfl

/-- A conditional branch obeys the law of branches (R64, R85). -/
theorem branchLaw_of_branch {i : Instr} {c : CoreId} {ra rb : GReg} {off : BitVec 16} {f : Word → Word → Bool}
    {g : CoreSt → Bool} (hexec : ∀ s, exec i s = .next (branch s c.toNat ra.toNat rb.toNat off f))
    (hg : ∀ x, f (gpr x ra.toNat) (gpr x rb.toNat) = g x) : BranchLaw i c [ra.toNat, rb.toNat] off g := by
  intro s s1 h
  have htaken : f (gpr (getCore s1 c.toNat) ra.toNat) (gpr (getCore s1 c.toNat) rb.toNat) = g (getCore s c.toNat) := by
    rw [h.gpr_eq, h.gpr_eq, hg]
  have honly (b : Bool) := OnlyCore.setCore s1 c.toNat (predict (getCore s1 c.toNat) (getCore s1 c.toNat).pc b)
  cases hb : g (getCore s c.toNat) with
  | true =>
    obtain ⟨t, hdoes, hcore, hrest⟩ := does_jump h (hexec s) (by simp only [htaken, hb, if_true]; rfl) (honly true)
    refine ⟨t, hdoes, ?_, ?_, hrest⟩
    · rw [hcore, h.pc_eq]; rfl
    · rw [hcore, getCore_setCore_self, h.getCore_eq]
      exact sameButFlow_predict _ _ _ _ _ _
  | false =>
    obtain ⟨t, hdoes, hcore, hrest⟩ :=
      does_go h (hexec s) (by simp only [htaken, hb, Bool.false_eq_true, if_false]) (honly false)
    refine ⟨t, hdoes, ?_, ?_, hrest⟩
    · rw [hcore]; rfl
    · rw [hcore, getCore_setCore_self, h.getCore_eq]
      exact sameButFlow_predict _ _ _ _ _ _

/-- A call leaves its own address + 4 in g31, and every other general register as it was (Table 3.8). -/
theorem gpr_linked (x : CoreSt) (r : Nat) : gpr (linked x) r = if r = 31 then x.pc + 4 else gpr x r := by
  have h : gpr (linked x) r = gpr (setGpr x 31 (x.pc + 4)) r := rfl
  rw [h, gpr_setGpr]
  simp

/-- A commit changes nothing but the flow of control. -/
theorem SameButFlow.committed {x y : CoreSt} (h : SameButFlow x y) (a b : Word) : SameButFlow x (committed y a b) := by
  unfold SameButFlow at h ⊢
  rw [h]
  rfl

section Jumps

variable {i : Instr} {c : CoreId} {s s1 : State}

/-- A jump by an offset (Table 3.8). -/
theorem does_jump_offset {off : BitVec 25} (h : Issues s c.toNat ⟨4, [], false⟩ s1) :
    ∃ t, Does (.jump c off) s t ∧ (getCore t c.toNat).pc = (getCore s c.toNat).pc + 4 * off.signExtend 64 ∧
      SameButFlow (getCore s c.toNat) (getCore t c.toNat) ∧ OnlyCore c.toNat s1 t := by
  obtain ⟨t, hdoes, hcore, honly⟩ := does_jump (i := .jump c off) h rfl rfl (OnlyCore.refl _ _)
  refine ⟨t, hdoes, ?_, ?_, honly⟩
  · rw [hcore, committed_pc, h.pc_eq]; rfl
  · rw [hcore, h.getCore_eq]; rfl

/-- A call by an offset (Table 3.8). -/
theorem does_call_offset {off : BitVec 25} (h : Issues s c.toNat ⟨4, [31], false⟩ s1) :
    ∃ t, Does (.call c off) s t ∧ (getCore t c.toNat).pc = (getCore s c.toNat).pc + 4 * off.signExtend 64 ∧
      (∀ r, gpr (getCore t c.toNat) r = if r = 31 then (getCore s c.toNat).pc + 4 else gpr (getCore s c.toNat) r) ∧
      OnlyCore c.toNat s1 t := by
  obtain ⟨t, hdoes, hcore, honly⟩ := does_jump (i := .call c off) h rfl rfl (OnlyCore.modCore s1 c.toNat linked)
  refine ⟨t, hdoes, ?_, fun r => ?_, honly⟩
  · rw [hcore, committed_pc, h.pc_eq]; rfl
  · rw [hcore, gpr_committed, getCore_modCore_self, gpr_linked, h.gpr_eq, h.pc_eq]

/-- A core whose target buffer has learnt the target of a register jump (R85). -/
def retargeted (x : CoreSt) (t : Word) : CoreSt :=
  { x with mispred := btbTarget x != t, btb := put (fun _ => 0) x.btb (btbSlot x.pc) t }

/-- A jump through a register to a target that is a multiple of 4 (R65). -/
theorem does_jumpReg {ra : GReg} {link : Bool} {regs : List Nat} (h : Issues s c.toNat ⟨4, regs, false⟩ s1)
    (hregs : regs = if link then [ra.toNat, 31] else [ra.toNat])
    (hexec : exec i s = .next (jumpReg s c.toNat ra.toNat link))
    (ha : (gpr (getCore s c.toNat) ra.toNat).toNat % 4 = 0) :
    ∃ t, Does i s t ∧ (getCore t c.toNat).pc = gpr (getCore s c.toNat) ra.toNat ∧
      getCore t c.toNat =
        committed (if link then linked (retargeted (getCore s1 c.toNat) (gpr (getCore s c.toNat) ra.toNat))
          else retargeted (getCore s1 c.toNat) (gpr (getCore s c.toNat) ra.toNat))
          (getCore s c.toNat).pc (gpr (getCore s c.toNat) ra.toNat) ∧
      OnlyCore c.toNat s1 t := by
  subst hregs
  obtain ⟨t, hdoes, hcore, honly⟩ := does_jump h hexec
    (by simp only [h.gpr_eq, ha, ne_eq, not_true_eq_false, if_false]; rfl) (OnlyCore.setCore s1 c.toNat
      (if link then linked (retargeted (getCore s1 c.toNat) (gpr (getCore s c.toNat) ra.toNat))
        else retargeted (getCore s1 c.toNat) (gpr (getCore s c.toNat) ra.toNat)))
  refine ⟨t, hdoes, by rw [hcore, committed_pc], ?_, honly⟩
  rw [hcore, getCore_setCore_self]

/-- A return to a target that is a multiple of 4 (Table 3.8). -/
theorem does_ret (h : Issues s c.toNat ⟨4, [31], false⟩ s1) (ha : (gpr (getCore s c.toNat) 31).toNat % 4 = 0) :
    ∃ t, Does (.ret c) s t ∧ (getCore t c.toNat).pc = gpr (getCore s c.toNat) 31 ∧
      SameButFlow (getCore s c.toNat) (getCore t c.toNat) ∧ OnlyCore c.toNat s1 t := by
  obtain ⟨t, hdoes, hcore, honly⟩ := does_jump (i := .ret c) h rfl
    (by simp only [h.gpr_eq, ha, ne_eq, not_true_eq_false, if_false]; rfl) (OnlyCore.setCore s1 c.toNat
      { getCore s1 c.toNat with
        mispred := rasTarget (getCore s1 c.toNat) != gpr (getCore s c.toNat) 31
        ras := (getCore s1 c.toNat).ras.drop 1 })
  refine ⟨t, hdoes, by rw [hcore, committed_pc], ?_, honly⟩
  rw [hcore, getCore_setCore_self, h.getCore_eq]
  rfl

end Jumps

/-- Settles O7: conditional branches by their law, jumps, calls and returns by the rule of what jumps. -/
theorem controlFlow : Obligations.ControlFlow := by
  unfold Obligations.ControlFlow
  refine ⟨fun c ra rb off => ⟨?eq, ?ne, ?lt, ?ge⟩,
    fun c ra off s s1 => ⟨does_jump_offset, does_call_offset, ?reg, ?callReg, does_ret, ?trap⟩, ?resolved⟩
  case eq => exact branchLaw_of_branch (fun _ => rfl) fun _ => beq_eq_decide _ _
  case ne => exact branchLaw_of_branch (fun _ => rfl) fun _ => by rw [bne, beq_eq_decide, decide_not]
  case lt => exact branchLaw_of_branch (fun _ => rfl) fun _ => rfl
  case ge => exact branchLaw_of_branch (fun _ => rfl) fun _ => rfl
  case reg =>
    intro h ha
    obtain ⟨t, hdoes, hpc, hcore, honly⟩ := does_jumpReg (i := .jumpRegister c ra) (link := false) h rfl rfl ha
    refine ⟨t, hdoes, hpc, ?_, honly⟩
    rw [hcore, h.getCore_eq]
    rfl
  case callReg =>
    intro h ha
    obtain ⟨t, hdoes, hpc, hcore, honly⟩ := does_jumpReg (i := .callRegister c ra) (link := true) h rfl rfl ha
    refine ⟨t, hdoes, hpc, fun r => ?_, honly⟩
    rw [hcore, if_pos rfl, gpr_committed, gpr_linked, ← h.gpr_eq r, ← h.pc_eq]
    rfl
  case trap =>
    intro h ha hl
    have ha : (gpr (getCore s1 c.toNat) ra.toNat).toNat % 4 ≠ 0 := by rwa [h.gpr_eq]
    exact congrArg Host.Outcome.next ((issue_trap h hl (if_pos ha)).trans (by rw [h.gpr_eq]))
  case resolved =>
    intro c s hm
    refine ⟨_, congrArg Host.Outcome.next (if_pos hm), ?_, (OnlyCore.modCore _ _ _).trans ((bump_onlyRegs _ _ _ _ _).onlyCore _)⟩
    rw [bumpCore, getCore_bump, getCore_modCore_self]

end Sys2Proof.Machine

/-! Control words (O8) and the traps of operands (O11). -/

namespace Sys2Proof.Machine

/-- The words that task level may write, as a check and in words (R58). -/
theorem cwTask_iff (n : Nat) : cwTask n = true ↔ n = 0x06 ∨ n = 0x07 ∨ n = 0x0A ∨ n = 0x0B := by
  simp [cwTask, or_assoc]

/-- Settles O8: a read and a write of a control word go on or trap as the word is allotted and the level allows. -/
theorem controlWords : Obligations.ControlWords := by
  unfold Obligations.ControlWords
  refine ⟨fun c rd cw => ⟨fun ha => ?_, fun ha => ?_⟩, fun c cw ra => ⟨fun ha => ?_, fun ha => ?_, fun ha => ?_⟩⟩
  · exact commitLaw_of_go (fun _ => rfl) fun s _ => if_pos ha
  · exact trapLaw_of_trap (fun _ => rfl) fun s _ => if_neg (ne_true_of_eq_false ha)
  · refine commitLaw_of_go (fun _ => rfl) fun s hok => ?_
    have hlevel : (atTask (getCore s c.toNat) && !cwTask cw.toNat) = false := by
      rcases hok with h | h
      · have htask : atTask (getCore s c.toNat) = false := h
        rw [htask, Bool.false_and]
      · rw [(cwTask_iff _).2 h, Bool.not_true, Bool.and_false]
    simp only [ha, hlevel, Bool.not_true, Bool.false_eq_true, if_false]
  · refine trapLaw_of_trap (fun _ => rfl) fun s hok => ?_
    have hlevel : (atTask (getCore s c.toNat) && !cwTask cw.toNat) = true := by
      obtain ⟨htask, hclosed⟩ : atTask (getCore s c.toNat) = true ∧ _ := hok
      rw [htask, Bool.true_and, Bool.not_eq_true', Bool.eq_false_iff]
      exact fun h => hclosed ((cwTask_iff _).1 h)
    simp only [ha, hlevel, Bool.not_true, Bool.false_eq_true, if_false, if_true]
    rfl
  · refine trapLaw_of_trap (fun _ => rfl) fun s _ => ?_
    simp only [ha, Bool.not_false, if_true]
    rfl

/-! ### Operands that trap (R65, R67) -/

/-- A load of memory at a misaligned address traps (R65). -/
theorem loadMemory_misaligned (s : State) (c rd : Nat) {a n : Nat} (h : a % n ≠ 0) :
    loadMemory s c rd a n = .at s 4 0 a := by
  simp [loadMemory, h]

/-- A store into memory at a misaligned address traps (R65). -/
theorem storeMemory_misaligned (s : State) (c : Nat) {a n : Nat} (bs : List Byte) (h : a % n ≠ 0) :
    storeMemory s c a n bs = .at s 4 0 a := by
  simp [storeMemory, h]

/-- Outside the control space the place of an address selects the other arm. -/
theorem placeOf_not_ctl {α : Type} {a : Nat} (f : Nat → α) (x : α) (h : ∀ o, placeOf a ≠ .ctl o) :
    (match placeOf a with
      | .ctl o => f o
      | _ => x) = x := by
  cases hp : placeOf a with
  | ctl o => exact absurd hp (h o)
  | ls | vein | far | none => rfl

section Misaligned

variable {i : Instr} {c : CoreId} {rd ra : GReg} {off : BitVec 14} {size n : Nat}

/-- A scalar load that is misaligned, outside the control space, traps (R65). -/
theorem trapLaw_of_load (hexec : ∀ s, exec i s = .next (load s c.toNat rd.toNat ra.toNat off size)) (hn : 2 ^ size = n) :
    TrapLaw i c 4 [rd.toNat, ra.toNat] false
      (fun s1 => (∀ o, placeOf (gpr (getCore s1 c.toNat) ra.toNat + off.signExtend 64).toNat ≠ .ctl o) ∧
        (gpr (getCore s1 c.toNat) ra.toNat + off.signExtend 64).toNat % n ≠ 0)
      (fun s1 => ⟨4, 0, (gpr (getCore s1 c.toNat) ra.toNat + off.signExtend 64).toNat⟩) := by
  subst hn
  refine trapLaw_of_trap hexec fun s ⟨hplace, ha⟩ => ?_
  exact (placeOf_not_ctl _ _ hplace).trans (loadMemory_misaligned _ _ _ ha)

/-- A scalar store that is misaligned, outside the control space, traps (R65). -/
theorem trapLaw_of_store (hexec : ∀ s, exec i s = .next (store s c.toNat rd.toNat ra.toNat off size))
    (hn : 2 ^ size = n) :
    TrapLaw i c 4 [rd.toNat, ra.toNat] true
      (fun s1 => (∀ o, placeOf (gpr (getCore s1 c.toNat) ra.toNat + off.signExtend 64).toNat ≠ .ctl o) ∧
        (gpr (getCore s1 c.toNat) ra.toNat + off.signExtend 64).toNat % n ≠ 0)
      (fun s1 => ⟨4, 0, (gpr (getCore s1 c.toNat) ra.toNat + off.signExtend 64).toNat⟩) := by
  subst hn
  refine trapLaw_of_trap hexec fun s ⟨hplace, ha⟩ => ?_
  exact (placeOf_not_ctl _ _ hplace).trans (storeMemory_misaligned _ _ _ ha)

end Misaligned

/-- A vector instruction with a format that has no lanes takes trap 0x0C (R67). -/
theorem trapLaw_of_vecOp {i : Instr} {c : CoreId} {fmt : Nat} {f : CoreSt → Nat → CoreSt}
    (hexec : ∀ s, exec i s = .next (vecOp s c.toNat fmt f)) (hw : vecWidth fmt = none) :
    TrapLaw i c 4 [] false (fun _ => True) fun _ => ⟨0xC, 0, fmt⟩ :=
  trapLaw_of_trap hexec fun s _ => by simp only [hw]; rfl

/-- Settles O11: misaligned accesses by the laws of loads and stores, formats by that of vector instructions. -/
theorem operandTraps : Obligations.OperandTraps := by
  unfold Obligations.OperandTraps
  refine ⟨fun c rd ra off => ⟨?_, ?_, ?_, ?sth, ?stw, ?std⟩, fun c vd va vb pk fmt half hf => ?fmts⟩
  case sth | stw | std => exact trapLaw_of_store (fun _ => rfl) rfl
  case fmts =>
    have hw : vecWidth fmt.toNat = none := by
      unfold vecWidth
      rw [if_neg (by omega), if_neg (by simp; omega)]
    refine ⟨?_, ?_, ?_, ?_, ?_⟩
    all_goals exact trapLaw_of_vecOp (fun _ => rfl) hw
  all_goals exact trapLaw_of_load (fun _ => rfl) rfl

end Sys2Proof.Machine

/-! Trap entry (O9): what `takeTrap` leaves in a core that is in no handler. -/

namespace Sys2Proof.Machine

@[simp] theorem getCw_syncCoreSt (x : CoreSt) (t : Nat) (k : ClusterSt) (n : Nat) :
    getCw (syncCoreSt t k x) n = getCw x n := rfl

@[simp] theorem getCore_syncCore_self (s : State) (c : Nat) :
    getCore (syncCore s c) c = syncCoreSt (elapsed s) (getCl s (c / 16)) (getCore s c) :=
  getCore_modCore_self _ _ _

theorem getCore_syncCore_ne (s : State) {c d : Nat} (h : d ≠ c) : getCore (syncCore s c) d = getCore s d :=
  getCore_modCore_ne _ _ _ _ h

/-- A core that is not in run-ahead has nothing to give up. -/
theorem leaveRunAhead_of_none {x : CoreSt} (h : x.ra = none) : leaveRunAhead x = x := by
  rw [leaveRunAhead, h]

/-- A core that begins to run its handler: fetch goes on there, and what it waited for or had predicted is given up. -/
def inHandler (x : CoreSt) (pc : Word) (code : Nat) : CoreSt :=
  { x with
    pc := pc, pref := [], prefOrder := [], wait := none, run := .running
    blk := 0, blkobj := 0, lastCode := code, mispred := false, waited := 0, waitPload := false, blocked := [] }

/-- Trap entry writes four control words and begins the handler (R99). -/
theorem enterTrap_eq (x : CoreSt) (t : TrapInfo) (tpc : Word) (dfr more level : Bool) :
    enterTrap x t tpc dfr more level =
      inHandler
        (setCw (setCw (setCw (setCw x 2 tpc) 3 (causeWord t dfr more)) 4 (BitVec.ofNat 64 t.val)) 0
          ((getCw x 0 &&& ~~~(7 : Word)) ||| (4 : Word) ||| (if level then (2 : Word) else 0)))
        (getCw x 1 &&& ~~~(3 : Word)) t.code := rfl

@[simp] theorem inHandler_pc (x : CoreSt) (pc : Word) (n : Nat) : (inHandler x pc n).pc = pc := rfl
@[simp] theorem inHandler_pref (x : CoreSt) (pc : Word) (n : Nat) : (inHandler x pc n).pref = [] := rfl
@[simp] theorem inHandler_g (x : CoreSt) (pc : Word) (n : Nat) : (inHandler x pc n).g = x.g := rfl
@[simp] theorem inHandler_v (x : CoreSt) (pc : Word) (n : Nat) : (inHandler x pc n).v = x.v := rfl
@[simp] theorem inHandler_p (x : CoreSt) (pc : Word) (n : Nat) : (inHandler x pc n).p = x.p := rfl
@[simp] theorem inHandler_d (x : CoreSt) (pc : Word) (n : Nat) : (inHandler x pc n).d = x.d := rfl
@[simp] theorem inHandler_buf (x : CoreSt) (pc : Word) (n : Nat) : (inHandler x pc n).buf = x.buf := rfl
@[simp] theorem inHandler_deferred (x : CoreSt) (pc : Word) (n : Nat) : (inHandler x pc n).deferred = x.deferred := rfl
@[simp] theorem getCw_inHandler (x : CoreSt) (pc : Word) (n r : Nat) : getCw (inHandler x pc n) r = getCw x r := rfl

/-- The control words after trap entry (Table 3.10). -/
theorem getCw_enterTrap (x : CoreSt) (t : TrapInfo) (tpc : Word) (dfr more level : Bool) (n : Nat) :
    getCw (enterTrap x t tpc dfr more level) n =
      if n = 0 then (getCw x 0 &&& ~~~(7 : Word)) ||| (4 : Word) ||| (if level then (2 : Word) else 0)
      else if n = 4 then BitVec.ofNat 64 t.val
      else if n = 3 then causeWord t dfr more
      else if n = 2 then tpc
      else getCw x n := by
  rw [enterTrap_eq, getCw_inHandler, getCw_setCw, getCw_setCw, getCw_setCw, getCw_setCw]

/-- Trap entry takes the level pl to 0, ppl to the level given, and tact to 1 (R99). -/
theorem status_enterTrap (x : CoreSt) (t : TrapInfo) (tpc : Word) (dfr more level : Bool) :
    (getCw (enterTrap x t tpc dfr more level) 0).getLsbD 0 = false ∧
    (getCw (enterTrap x t tpc dfr more level) 0).getLsbD 1 = level ∧
    (getCw (enterTrap x t tpc dfr more level) 0).getLsbD 2 = true := by
  rw [getCw_enterTrap, if_pos rfl]
  cases level <;> simp

/-- What trap entry leaves in a core, brought up to the present. -/
theorem trapEntered_enterTrap (x : CoreSt) (n : Nat) (k : ClusterSt) (t : TrapInfo) (tpc : Word)
    (dfr more level : Bool) :
    TrapEntered x (enterTrap (syncCoreSt n k x) t tpc dfr more level) t tpc dfr more level := by
  obtain ⟨hpl, hppl, htact⟩ := status_enterTrap (syncCoreSt n k x) t tpc dfr more level
  exact {
    tpcWord := getCw_enterTrap _ _ _ _ _ _ 2
    cause := getCw_enterTrap _ _ _ _ _ _ 3
    value := getCw_enterTrap _ _ _ _ _ _ 4
    pl := hpl
    ppl := hppl
    tact := htact
    otherCws := fun n h0 h2 h3 h4 => by
      rw [getCw_enterTrap, if_neg h0, if_neg h4, if_neg h3, if_neg h2, getCw_syncCoreSt]
    handler := by rw [enterTrap_eq, inHandler_pc]; rfl
    prefetch := by rw [enterTrap_eq, inHandler_pref]
    gprs := by rw [enterTrap_eq, inHandler_g, setCw_g, setCw_g, setCw_g, setCw_g]; rfl
    vectors := by rw [enterTrap_eq, inHandler_v, setCw_v, setCw_v, setCw_v, setCw_v]; rfl
    preds := by rw [enterTrap_eq, inHandler_p, setCw_p, setCw_p, setCw_p, setCw_p]; rfl
    descs := by rw [enterTrap_eq, inHandler_d, setCw_d, setCw_d, setCw_d, setCw_d]; rfl
    stores := by rw [enterTrap_eq, inHandler_buf, setCw_buf, setCw_buf, setCw_buf, setCw_buf]; rfl }

section Taken

variable {s : State} {c : Nat} (t : TrapInfo) (tpc : Word) (dfr more level : Bool)

/-- The state before a trap's record is traced: the trap is counted, CO_TRAP_PC and CO_TRAP_VAL are written, the core
has entered its handler. -/
def trapping (s : State) (c : Nat) (t : TrapInfo) (tpc : Word) (dfr more level : Bool) : State :=
  setCore (setReg (setReg (bump (syncCore s c) 0x03 8 1 (.core c)) (oTrapPc c) tpc) (oTrapVal c) (BitVec.ofNat 64 t.val))
    c (enterTrap (syncCoreSt (elapsed s) (getCl s (c / 16)) (getCore s c)) t tpc dfr more level)

/-- A trap of a core that is neither in run-ahead nor in a handler. -/
theorem trapAt_eq (hra : (getCore s c).ra = none) (htact : (getCw (getCore s c) 0).getLsbD 2 = false) :
    trapAt s c t tpc dfr more level =
      trace (trapping s c t tpc dfr more level) (c / 16) 2 c ([t.code, t.sub] ++ twoWords tpc.toNat) := by
  have hx : leaveRunAhead (syncCoreSt (elapsed s) (getCl s (c / 16)) (getCore s c)) =
      syncCoreSt (elapsed s) (getCl s (c / 16)) (getCore s c) := leaveRunAhead_of_none hra
  simp only [trapAt, getCore_setReg, getCore_bump, getCore_syncCore_self, hx, getCw_syncCoreSt, htact,
    Bool.false_eq_true, if_false, trapping]

theorem takeTrap_eq (hra : (getCore s c).ra = none) (htact : (getCw (getCore s c) 0).getLsbD 2 = false) :
    takeTrap s c t tpc dfr more =
      trace (trapping s c t tpc dfr more (atTask (getCore s c))) (c / 16) 2 c ([t.code, t.sub] ++ twoWords tpc.toNat) := by
  rw [takeTrap, leaveRunAhead_of_none hra, trapAt_eq _ _ _ _ _ hra htact]

/-- The core after such a trap. -/
theorem getCore_takeTrap (hra : (getCore s c).ra = none) (htact : (getCw (getCore s c) 0).getLsbD 2 = false) :
    getCore (takeTrap s c t tpc dfr more) c =
      enterTrap (syncCoreSt (elapsed s) (getCl s (c / 16)) (getCore s c)) t tpc dfr more (atTask (getCore s c)) := by
  rw [takeTrap_eq _ _ _ _ hra htact, getCore_trace, trapping, getCore_setCore_self]

end Taken

/-- Settles O9: a trap outside a handler is trap entry, counted and traced. -/
theorem trapEntry : Obligations.TrapEntry := by
  unfold Obligations.TrapEntry
  intro s c t tpc dfr more hra htact
  refine ⟨?_, fun a => ?_, fun d hd => ?_⟩
  · rw [getCore_takeTrap _ _ _ _ hra htact]
    exact trapEntered_enterTrap _ _ _ _ _ _ _ _
  · rw [takeTrap_eq _ _ _ _ hra htact, rdByte_trace, trapping, rdByte_setCore, rdByte_setReg, rdByte_setReg, rdByte_bump]
    rfl
  · rw [takeTrap_eq _ _ _ _ hra htact, getCore_trace, trapping, getCore_setCore_ne _ _ _ _ hd, getCore_setReg,
      getCore_setReg, getCore_bump, getCore_syncCore_ne _ hd]

end Sys2Proof.Machine

/-! Scalar loads and stores (O10, O12): what a load holds, what a store enters, the reply of a load. -/

namespace Sys2Proof.Machine

/-! ### What may follow an event of a core -/

theorem settleDouble_of_none {s : State} {c : Nat} (h : (getCore s c).dbl = none) : settleDouble s c = s := by
  simp only [settleDouble, h]

theorem settleHalt_of_running {s : State} {c : Nat} (h : (getCore s c).halting = false) : settleHalt s c = s := by
  simp [settleHalt, h]

theorem settleJobs_of_none {s : State} (h : s.jobs = []) : settleJobs s = s := by
  rw [settleJobs, h]; rfl

/-- Nothing follows where no double trap, halt or job's end is on its way. -/
theorem settle_of_still {s : State} {c : Nat} (hd : (getCore s c).dbl = none) (hh : (getCore s c).halting = false)
    (hj : s.jobs = []) : settle s c = s := by
  rw [settle, settleDouble_of_none hd, settleHalt_of_running hh, settleJobs_of_none hj]

theorem settle_setCore {s : State} {c : Nat} {y : CoreSt} (hd : y.dbl = none) (hh : y.halting = false)
    (hj : s.jobs = []) : settle (setCore s c y) c = setCore s c y :=
  settle_of_still (by rw [getCore_setCore_self, hd]) (by rw [getCore_setCore_self, hh]) hj

/-! ### Loads -/

/-- A load of memory that nothing holds back takes the bytes its unit gives (R63, R65, R79). -/
theorem loadMemory_read {s s2 : State} {c rd a n : Nat} {bs : List Byte} (ha : a % n = 0)
    (hpart : inOwnPartition s c a = true) (hmoves : movesMeet (getCore s c).moves a n = false)
    (hmiss : forward (getCore s c) a n = .miss) (hpref : prefHit (getCore s c) a n = none)
    (hfull : ownFull s c a = false) (hread : coreRead s c a n 2 = (s2, .ok s2 bs)) :
    loadMemory s c rd a n = holdLoad s2 c rd a (.inl (signedWord bs)) := by
  simp [loadMemory, ha, hpart, hmoves, hmiss, hpref, hfull, hread]

/-- A scalar load obeys the law of loads. -/
theorem loadLaw_of_load {i : Instr} {c : CoreId} {rd ra : GReg} {off : BitVec 14} {size n : Nat}
    (hexec : ∀ s, exec i s = .next (load s c.toNat rd.toNat ra.toNat off size)) (hn : 2 ^ size = n) :
    LoadLaw i c rd ra off n := by
  subst hn
  intro s s1 s2 bs h x a hplace ha hpart hmoves hmiss hpref hfull hread
  exact (hexec s).trans (congrArg _ (issue_go h
    ((placeOf_not_ctl _ _ hplace).trans (loadMemory_read ha hpart hmoves hmiss hpref hfull hread))))

/-- What a register reads as after a late write. -/
theorem gpr_lateGpr (x : CoreSt) (r q : Nat) (w : Word) :
    gpr (lateGpr x r w) q = if q = r ∧ r ≠ 0 then w else gpr x q := by
  rw [← gpr_setGpr]
  unfold lateGpr
  split
  · next h => rw [h, setGpr_zero]
  · rfl

/-- The core once its only outstanding load has returned. -/
theorem loadWrites_only {x : CoreSt} {l : OutLoad} (hl : x.loads = [l]) (hra : x.ra = none) (c : Nat) (w : Word) :
    loadWrites x c 0 l w = { lateGpr { x with loads := [] } l.rd w with loads := [] } := by
  have hloads (y : CoreSt) (h : y.loads = []) : (lateGpr y l.rd w).loads = [] := by
    unfold lateGpr
    split
    · exact h
    · simp [h]
  simp only [loadWrites, leaveRunAhead_of_none hra, ite_self, hl, List.drop_succ_cons, List.drop_nil, List.take_zero,
    List.nil_append]
  rw [hloads _ rfl]

/-- A late write changes general registers, and what a trap or the end of run-ahead restores, alone. -/
theorem lateGpr_frame (x : CoreSt) (r : Nat) (w : Word) :
    (lateGpr x r w).pc = x.pc ∧ (lateGpr x r w).v = x.v ∧ (lateGpr x r w).dbl = x.dbl ∧
      (lateGpr x r w).halting = x.halting := by
  unfold lateGpr setGpr
  split <;> simp

/-- The reply of a core's only outstanding load arrives (R65). -/
theorem does_loadReturn {c : CoreId} {rd : GReg} {s : State} {w : Word} {a n : Nat} {k : Snapshot}
    (hl : (getCore s c.toNat).loads = [⟨rd.toNat, .inl w, a, k, n⟩]) (hra : (getCore s c.toNat).ra = none)
    (hh : (getCore s c.toNat).halting = false) (hd : (getCore s c.toNat).dbl = none) (hj : s.jobs = []) :
    Does (.loadReturn c rd) s
      (setCore s c.toNat { lateGpr { getCore s c.toNat with loads := [] } rd.toNat w with loads := [] }) := by
  obtain ⟨-, -, hdbl, hhalt⟩ := lateGpr_frame { getCore s c.toNat with loads := [] } rd.toNat w
  have hfind : (getCore s c.toNat).loads.zipIdx.find? (fun e => e.1.rd == rd.toNat) =
      some (⟨rd.toNat, .inl w, a, k, n⟩, 0) := by
    rw [hl]
    simp
  refine congrArg Host.Outcome.next (Eq.trans ?_ (settle_setCore (hdbl.trans hd) (hhalt.trans hh) hj))
  simp only [hfind, loadWrites_only hl hra]

/-- Settles O10: the loads by their law, the reply by what a late write changes. -/
theorem loads : Obligations.Loads := by
  unfold Obligations.Loads
  refine ⟨fun c rd ra off => ⟨?_, ?_, ?_, ?_⟩, fun c rd s w a at_ k hl hra hh hd hj => ?reply⟩
  case reply =>
    obtain ⟨hpc, hv, -, -⟩ := lateGpr_frame { getCore s c.toNat with loads := [] } rd.toNat w
    refine ⟨_, does_loadReturn hl hra hh hd hj, fun r => ?_, ?_, ?_, ?_, OnlyCore.setCore _ _ _⟩
    all_goals rw [getCore_setCore_self]
    · exact gpr_lateGpr { getCore s c.toNat with loads := [] } rd.toNat r w
    · exact hpc
    · exact hv
  all_goals exact loadLaw_of_load (fun _ => rfl) rfl

/-! ### Stores -/

/-- A store into memory that nothing refuses enters the store buffer (R63, R65, R79). -/
theorem storeMemory_enters {s : State} {c a n : Nat} {bs : List Byte} {y : CoreSt} (ha : a % n = 0)
    (hpart : inOwnPartition s c a = true) (hgate : gate s (coreReq s c) a true ≠ some .unmapped)
    (hbuf : bufferStore (getCore s c) a bs true false = some y) : storeMemory s c a n bs = .go (setCore s c y) := by
  have hg : (gate s (coreReq s c) a true == some .unmapped) = false := by simp [hgate]
  simp [storeMemory, ha, hpart, hg, hbuf]

/-- A scalar store obeys the law of stores. -/
theorem storeLaw_of_store {i : Instr} {c : CoreId} {rs ra : GReg} {off : BitVec 14} {size n : Nat}
    (hexec : ∀ s, exec i s = .next (store s c.toNat rs.toNat ra.toNat off size)) (hn : 2 ^ size = n) :
    StoreLaw i c rs ra off n := by
  subst hn
  intro s s1 y h x a hplace ha hpart hgate hbuf
  refine ⟨(hexec s).trans (congrArg _ (issue_go h ?_)), ((OnlyCore.setCore _ _ _).commit _ _).sameMemory⟩
  exact (placeOf_not_ctl _ _ hplace).trans (storeMemory_enters ha hpart hgate hbuf)

section Buffer

variable {x : CoreSt} {a : Nat} {bs : List Byte} {e : StoreEnt} {r : List StoreEnt}

/-- A store in the line of the youngest entry, which is no store into the control space, merges into it (R79). -/
theorem bufferStore_merged (hbuf : x.buf = r ++ [e]) (hctl : e.control = false) (hline : e.line = a / 128) :
    bufferStore x a bs true false = some { x with
      pref := updatePref x.pref a bs
      buf := r ++ [{ e with bytes := setLineBytes e.bytes (a % 128) bs, stores := e.stores ++ [(a, bs.length)] }] } := by
  simp [bufferStore, hbuf, hctl, hline]

/-- A store in another line takes a new entry, unless all 16 are busy (R79). -/
theorem bufferStore_entered (hbuf : x.buf = r ++ [e]) (hline : e.line ≠ a / 128) :
    bufferStore x a bs true false = if 16 ≤ x.buf.length then none else some { x with
      pref := updatePref x.pref a bs
      buf := x.buf ++ [⟨a / 128, setLineBytes [] (a % 128) bs, false, [(a, bs.length)]⟩] } := by
  simp [bufferStore, hbuf, hline]

end Buffer

/-- Settles O12: the stores by their law, and the three ways of a store into a buffer that is not empty. -/
theorem stores : Obligations.Stores := by
  unfold Obligations.Stores
  refine ⟨fun c rs ra off => ⟨?_, ?_, ?_, ?_⟩, fun x a bs => ⟨?merged, ?entered, ?full⟩⟩
  case merged =>
    intro e r hbuf hctl hline
    exact ⟨_, bufferStore_merged hbuf hctl hline, by rw [hctl]⟩
  case entered =>
    intro e r hbuf hline hroom
    exact ⟨_, (bufferStore_entered hbuf hline).trans (if_neg (by omega)), rfl⟩
  case full =>
    intro e r hbuf hline hfull
    exact (bufferStore_entered hbuf hline).trans (if_pos hfull)
  all_goals exact storeLaw_of_store (fun _ => rfl) rfl

end Sys2Proof.Machine

/-! Store drains (O13): a store within one good word of a local store, the way it takes, and what the press does when
nothing is queued for it. -/

namespace Sys2Proof.Machine

/-! ### The way between two dies -/

/-- Counting what crosses the seams changes counters only. -/
theorem countCross_onlyRegs (s : State) (bulk : Bool) (a b m n : Nat) : OnlyRegs s (countCross s bulk a b m n) := by
  have path (s : State) (p : List Nat) (m n : Nat) : OnlyRegs s (countPath s p m n) :=
    (OnlyRegs.foldl _ (fun s _ => bump_onlyRegs s _ _ _ _) _ s).trans
      (OnlyRegs.foldl _ (fun s _ => bump_onlyRegs s _ _ _ _) _ _)
  have way (s : State) (a b n : Nat) : OnlyRegs s (match routeOf s a b false with
      | some p => countPath s p n 1
      | none => s) := by
    split
    · exact path _ _ _ _
    · exact .rfl' s
  have there : OnlyRegs s (if (bulk && decide (m = 0)) = true then s else match routeOf s a b false with
      | some p => countPath s p ((if bulk = true then 0 else 16) + m) 1
      | none => s) := by
    split
    · exact .rfl' s
    · exact way _ _ _ _
  unfold countCross
  split
  · exact .rfl' s
  · dsimp only
    split
    · exact there
    · exact there.trans (way _ _ _ _)

/-- What one core's loads take of the slots of a direction of a seam. -/
def plainOutOf (s : State) (i : Nat) (up : Bool) (e : Nat × CoreSt) : Nat :=
  (e.2.loads.filter fun l => decide (e.1 / 1024 ≠ dieOfAddr l.addr) &&
    (routeOf s (e.1 / 1024) (dieOfAddr l.addr) false).any fun p => (pathLegs p).contains (i, up)).length

theorem plainOut_eq_sum (s : State) (i : Nat) (up : Bool) : plainOut s i up = (s.cores.map (plainOutOf s i up)).sum := by
  rw [List.sum_eq_foldl, List.foldl_map]
  rfl

/-- A sum over a table's entries, with one entry inserted. -/
theorem sum_map_insertAt {α : Type} (g : Nat × α → Nat) (i : Nat) (x : α) (m : Map α) :
    ((insertAt i x m).map g).sum = g (i, x) + (m.map g).sum := by
  induction m with
  | nil => rfl
  | cons e r ih =>
    obtain ⟨k, v⟩ := e
    by_cases h : i < k
    · simp [insertAt, h]
    · simp [insertAt, h, ih]; omega

/-- The entry a key reads as and the entries of the other keys are part of all entries. -/
theorem sum_map_filter_look_le {α : Type} (g : Nat × α → Nat) (d : Nat → α) (i : Nat) (hd : g (i, d i) = 0) (m : Map α) :
    ((m.filter fun e => e.1 != i).map g).sum + g (i, look d m i) ≤ (m.map g).sum := by
  induction m with
  | nil => simp [hd]
  | cons e r ih =>
    obtain ⟨k, v⟩ := e
    by_cases h : k = i
    · subst h
      have : ((r.filter fun e => e.1 != k).map g).sum ≤ (r.map g).sum := le_trans (Nat.le_add_right _ _) ih
      simp [look]
      omega
    · have h' : i ≠ k := Ne.symm h
      simp [look, h, h']
      omega

/-- A change to a core that keeps its loads takes no slot of a seam (R307). -/
theorem plainOut_modCore_le {s : State} {c : Nat} {f : CoreSt → CoreSt}
    (hf : (f (getCore s c)).loads = (getCore s c).loads) (i : Nat) (up : Bool) :
    plainOut (modCore s c f) i up ≤ plainOut s i up := by
  have hsame : plainOutOf (modCore s c f) i up = plainOutOf s i up := rfl
  have hf' : plainOutOf s i up (c, f (getCore s c)) = plainOutOf s i up (c, getCore s c) := by
    unfold plainOutOf; rw [hf]
  have hsum := sum_map_filter_look_le (plainOutOf s i up) (fun _ => CoreSt.idle) c rfl s.cores
  rw [plainOut_eq_sum, plainOut_eq_sum, hsame]
  change ((put (fun _ => CoreSt.idle) s.cores c (f (getCore s c))).map (plainOutOf s i up)).sum ≤ _
  unfold put
  dsimp only
  split
  · omega
  · rw [sum_map_insertAt, hf']
    unfold getCore
    omega

/-- A way that is free stays free when a core changes but keeps its loads. -/
theorem crossing_modCore {s : State} {c : Nat} {f : CoreSt → CoreSt}
    (hf : (f (getCore s c)).loads = (getCore s c).loads) {bulk : Bool} {a b : Nat}
    (h : crossing s bulk a b = .free) : crossing (modCore s c f) bulk a b = .free := by
  have hleg (l : Nat × Bool) (hl : legHeld s bulk l = false) : legHeld (modCore s c f) bulk l = false := by
    have hle := plainOut_modCore_le hf l.1 l.2
    cases bulk with
    | true => exact hl
    | false =>
      simp only [legHeld, Bool.false_eq_true, if_false, Bool.or_eq_false_iff, decide_eq_false_iff_not] at hl ⊢
      exact ⟨hl.1, by omega⟩
  have hroute : routeOf (modCore s c f) a b false = routeOf s a b false := rfl
  unfold crossing at h ⊢
  rw [hroute]
  split
  · rfl
  · next hab =>
    rw [if_neg hab] at h
    cases hr : routeOf s a b false with
    | none => simp [hr] at h
    | some p =>
      have hany : (pathLegs p).any (legHeld s bulk) = false := by simpa [hr] using h
      have : (pathLegs p).any (legHeld (modCore s c f) bulk) = false := by
        rw [List.any_eq_false] at hany ⊢
        exact fun l hl => by simpa using hleg l (by simpa using hany l hl)
      simp [this]

/-! ### A store within one word of a local store (R429) -/

section Word8

variable {s : State} {a d off n : Nat}

theorem unitAt_ls (hp : placeOf a = .ls d off) : unitAt s a = ⟨a / 8 * 8, 1, 8⟩ := by
  rw [unitAt, hp]

/-- Bytes within an 8-byte word of a local store touch one unit. -/
theorem unitsOf_word (hp : placeOf a = .ls d off) (hn : 0 < n) (hw : a % 8 + n ≤ 8) :
    unitsOf s a n = [⟨a / 8 * 8, 1, 8⟩] := by
  have h1 : ¬ a + n ≤ a := by omega
  have h2 : a + n ≤ a / 8 * 8 + 8 := by omega
  rw [unitsOf, unitsFrom, if_neg h1]
  dsimp only
  rw [unitAt_ls hp, unitsFrom, if_pos h2]

/-- Bytes within an 8-byte word lie in one line. -/
theorem piecesOf_word (hn : 0 < n) (hw : a % 8 + n ≤ 8) : piecesOf a n = [(a, n)] := by
  have h1 : n ≠ 0 := by omega
  have h2 : min n (64 - a % 64) = n := by omega
  rw [piecesOf, pieces, if_neg h1]
  dsimp only
  rw [h2, Nat.sub_self, pieces, if_pos rfl]

/-- The verdict on a word of a local store hangs on its check bits alone. -/
theorem verdictOf_ls (u : MemUnit) (hu : u.code = 1) :
    verdictOf s u = hsiaoVerdict ((look (fun _ => 0) s.chk u.addr).toNat % 256) := by
  rw [verdictOf, hu]
  cases placeOf u.addr <;> rfl

/-- Bytes written into a good word of a local store stand there, and its check bits are made afresh (R429). -/
theorem writeUnit_good {u : MemUnit} (hu : u.code = 1) (hv : verdictOf s u = .good) (b : Nat) (bs : List Byte)
    (who : Nat) (core : Option Nat) : writeUnit s u b bs who core = (freshCode (wrBytes s b bs) u, []) := by
  have hl : lineFailed s u = false := by rw [lineFailed, hu]; cases placeOf u.addr <;> rfl
  have hc : lostCode s u = 0 := by rw [lostCode, hv]
  simp [writeUnit, hl, hc, noteRead_good s u who core hv]

/-- The same of whole bytes of a range. -/
theorem writeMixed_word {bs : List Byte} (hp : placeOf a = .ls d off) (hn : 0 < bs.length) (hw : a % 8 + bs.length ≤ 8)
    (hv : verdictOf s ⟨a / 8 * 8, 1, 8⟩ = .good) (who : Nat) (core : Option Nat) :
    writeMixed s a (clean bs) who core = (freshCode (wrBytes s a bs) ⟨a / 8 * 8, 1, 8⟩, []) := by
  have hlen : (clean bs).length = bs.length := List.length_map _
  have hlo : max a (a / 8 * 8) = a := by omega
  have hhi : min (a + bs.length) (a / 8 * 8 + 8) - a = bs.length := by omega
  have hall : (clean bs).take bs.length = clean bs := List.take_of_length_le (by omega)
  have hlost : (clean bs).any (·.2) = false := by simp [clean]
  have hbytes : (clean bs).map (·.1) = bs := by simp [clean, Function.comp_def]
  have hunit := writeUnit_good (u := ⟨a / 8 * 8, 1, 8⟩) rfl hv a bs who core
  rw [writeMixed, writeHalves, hlen, unitsOf_word hp hn hw]
  simp only [List.foldl_cons, List.foldl_nil, hlo, hhi, Nat.sub_self, List.drop_zero, hall, hlost, Bool.false_eq_true,
    if_false, hbytes, writeHalf, List.any_nil, Bool.false_and, hunit, List.append_nil]

end Word8

/-- A local store of a core that is up takes the accesses of every requester to which the way is free (R305, R437). -/
theorem gate_ls {s : State} {q : Requester} {a d off : Nat} {w : Bool} (hp : placeOf a = .ls d off)
    (hpop : populated s d = true) (hup : dieUp s (d / 1024) = true) (hon : (getCl s (d / 16)).power = .on)
    (hfree : crossing s q.bulk q.die (d / 1024) = .free) : gate s q a w = none := by
  have hdie : dieOfAddr a = d / 1024 := by rw [dieOfAddr, hp]
  have hunit : unitGate s q a w = none := by simp [unitGate, hp, hpop, hup, hon]
  rw [gate, hunit, hdie, hfree]

/-- The state after bytes were stored in a word of a local store. -/
def wordStored (s : State) (a : Nat) (bs : List Byte) : State := freshCode (wrBytes s a bs) ⟨a / 8 * 8, 1, 8⟩

/-- A write within one good word of a local store that the way is free to. -/
theorem writeRange_word {s : State} {q : Requester} {a d off : Nat} {bs : List Byte} (who : Nat)
    (hp : placeOf a = .ls d off) (hn : 0 < bs.length) (hw : a % 8 + bs.length ≤ 8) (hgate : gate s q a true = none)
    (hv : verdictOf s ⟨a / 8 * 8, 1, 8⟩ = .good) :
    writeRange s q a (clean bs) who = (wordStored (crossed s q a bs.length true) a bs, [], none) := by
  have hlen : (clean bs).length = bs.length := List.length_map _
  have hv' : verdictOf (crossed s q a bs.length true) ⟨a / 8 * 8, 1, 8⟩ = .good := by
    obtain ⟨r, hr⟩ := countCross_onlyRegs s q.bulk q.die (dieOfAddr a) bs.length 0
    rw [verdictOf_ls _ rfl] at hv ⊢
    rw [crossed, if_pos rfl, if_pos rfl, hr]
    exact hv
  have hserve (t : State) : portServe t a bs.length = t := by rw [portServe, hp]
  have hline : writeLine s q a (clean bs) who = (wordStored (crossed s q a bs.length true) a bs, .ok [] []) := by
    simp only [writeLine, hgate, hp, hlen, hserve, writeMixed_word hp hn hw hv', wordStored]
  have hall : (clean bs).take bs.length = clean bs := List.take_of_length_le (by omega)
  rw [writeRange, hlen, piecesOf_word hn hw]
  simp only [List.foldl_cons, List.foldl_nil, Nat.sub_self, List.drop_zero, hall, hline, List.append_nil]

/-- What such a write changes: counters, bytes of memory and check bits. -/
theorem wordStored_eq (s : State) (a : Nat) (bs : List Byte) :
    ∃ k, wordStored s a bs = { wrBytes s a bs with chk := k } := ⟨_, rfl⟩

/-! ### A press for which nothing is queued (R117) -/

section Idle

variable {x : ClusterSt}

theorem pressQueue_idle (h : x.queues = []) (i : Nat) : pressQueue x i = [] := by
  rw [pressQueue, h, look_nil]

theorem fixDepths_idle (s : State) (k : Nat) (h : x.queues = []) : fixDepths s k x = x := by
  refine foldl_still _ x _ fun i _ => ?_
  rw [pressQueue_idle h, fixDepth, setQueue, h]
  show { x with queues := [] } = x
  rw [← h]

theorem closeRuns_queues (x : ClusterSt) : (closeRuns x).queues = x.queues := rfl

theorem swapIn_queues (x : ClusterSt) : (swapIn x).queues = x.queues := by
  unfold swapIn
  split
  · split <;> rfl
  · rfl

theorem dropOrphans_idle {s : State} {k : Nat} (h : (getCl s k).queues = []) : dropOrphans s k = s := by
  refine foldl_still _ s _ fun i _ => ?_
  simp [pressQueue_idle h]

theorem grantPass_idle {s : State} {k : Nat} (h : (getCl s k).queues = []) : grantPass s k = s := by
  unfold grantPass
  dsimp only
  split
  · rfl
  · simp [pressQueue_idle h]

/-- With nothing queued a press grants nothing: at most it swaps a run in, within its cluster. -/
theorem pressAdvance_idle (n : Nat) (s : State) (k : Nat) (h : (getCl s k).queues = []) :
    ∃ m, pressAdvance n s k = { s with clusters := m } := by
  induction n generalizing s with
  | zero => exact ⟨_, rfl⟩
  | succ n ih =>
    have hq : (getCl (modCl s k fun x => swapIn (closeRuns (fixDepths s k x))) k).queues = [] := by
      rw [getCl_modCl_self, swapIn_queues, closeRuns_queues, fixDepths_idle s k h, h]
    rw [pressAdvance]
    dsimp only
    split
    · exact ⟨_, rfl⟩
    · rw [dropOrphans_idle hq, grantPass_idle hq]
      split
      · exact ⟨_, rfl⟩
      · obtain ⟨m, hm⟩ := ih _ hq
        exact ⟨m, hm⟩

end Idle

/-! ### The oldest entry leaves the buffer (R79) -/

/-- The first run of an entry lies in its line or beyond. -/
theorem le_of_storeRuns {line a : Nat} {m : Map Byte} {bs : List Byte} {r : List (Nat × List Byte)}
    (h : storeRuns line m = (a, bs) :: r) : line * 128 ≤ a := by
  cases m with
  | nil => simp [storeRuns] at h
  | cons e m =>
    obtain ⟨i, b⟩ := e
    rw [storeRuns] at h
    split at h
    · split at h <;> simp at h <;> omega
    · simp at h; omega

/-- An address below one of a local store lies in a local store. -/
theorem placeOf_le_ls {a b d off : Nat} (h : placeOf a = .ls d off) (hle : b ≤ a) :
    placeOf b = .ls (b / 0x80000) (b % 0x80000) := by
  have ha : a < 0x80000000 := by
    by_contra hge
    unfold placeOf at h
    rw [if_neg hge] at h
    split_ifs at h
  have h48 : ¬ 2 ^ 48 ≤ b := by omega
  have hb : b < 0x80000000 := by omega
  rw [placeOf, if_neg h48, if_pos hb]

section Drain

variable {s : State} {c : CoreId} {e : StoreEnt} {rest : List StoreEnt} {a d off : Nat} {bs : List Byte}

/-- The state with the oldest entry of a core's store buffer gone. -/
def popped (s : State) (c : Nat) : State := modCore s c fun x => { x with buf := x.buf.drop 1 }

/-- A run of bytes of the oldest entry, and no failure, left the buffer: t is s with the bytes in memory, but for
counters and check bits. -/
structure Stored (s t : State) (c a : Nat) (bs : List Byte) : Prop where
  core  : getCore t c = { getCore s c with buf := (getCore s c).buf.drop 1 }
  bytes : ∀ b, rdByte t b = if a ≤ b ∧ b < a + bs.length then bs.getD (b - a) 0 else rdByte s b
  cls   : ∀ k, getCl t k = getCl s k
  jobs  : t.jobs = s.jobs

theorem stored_word (s : State) (q : Requester) (c a n : Nat) (bs : List Byte) :
    Stored s (modCore (wordStored (crossed (popped s c) q a n true) a bs) c id) c a bs := by
  obtain ⟨r, hr⟩ := countCross_onlyRegs (popped s c) q.bulk q.die (dieOfAddr a) n 0
  have hcross : crossed (popped s c) q a n true = { popped s c with regs := r } := hr
  have hcore : getCore (popped s c) c = { getCore s c with buf := (getCore s c).buf.drop 1 } := getCore_modCore_self _ _ _
  obtain ⟨k, hk⟩ := wordStored_eq { popped s c with regs := r } a bs
  have hbytes (b : Nat) : rdByte { wrBytes { popped s c with regs := r } a bs with chk := k } b =
    rdByte (wrBytes { popped s c with regs := r } a bs) b := rfl
  rw [hcross, hk]
  exact {
    core := by rw [getCore_modCore_self, id, ← hcore]; rfl
    bytes := fun b => by rw [rdByte_modCore, hbytes, rdByte_wrBytes]; rfl
    cls := fun k => by rw [getCl_modCore]; rfl
    jobs := by rw [modCore_jobs]; rfl }

/-- An entry of one run, in one good word of a local store to which the way is free, leaves with its bytes stored and
without a failure. -/
theorem drainEntry_word (hctl : e.control = false) (hruns : storeRuns e.line e.bytes = [(a, bs)])
    (hmoves : (getCore s c.toNat).moves = []) (hp : placeOf a = .ls d off) (hn : 0 < bs.length)
    (hw : a % 8 + bs.length ≤ 8)
    (hgate : gate (popped s c.toNat) (coreReq (popped s c.toNat) c.toNat) a true = none)
    (hv : verdictOf s ⟨a / 8 * 8, 1, 8⟩ = .good) :
    ∃ t, drainEntry s c.toNat e = some t ∧ Stored s t c.toNat a bs := by
  refine ⟨_, ?_, stored_word s (coreReq (popped s c.toNat) c.toNat) c.toNat a bs.length bs⟩
  have hv' : verdictOf (popped s c.toNat) ⟨a / 8 * 8, 1, 8⟩ = .good := by
    rw [verdictOf_ls _ rfl] at hv ⊢
    exact hv
  have hdrain : drainRuns (popped s c.toNat) c.toNat [(a, bs)] =
      some (wordStored (crossed (popped s c.toNat) (coreReq (popped s c.toNat) c.toNat) a bs.length true) a bs, []) := by
    rw [drainRuns, writeRange_word 3 hp hn hw hgate hv']
    rfl
  have hfail : storeFailures e.stores [] = [] := by simp [storeFailures]
  simp only [drainEntry, hctl, hruns, hmoves, Bool.false_eq_true, if_false, movesMeet, List.any_cons, List.any_nil,
    Bool.or_self]
  show (drainRuns (popped s c.toNat) c.toNat [(a, bs)]).map _ = _
  rw [hdrain, Option.map_some, hfail]
  rfl

/-- The press goes on when the buffer is empty, which changes at most its cluster. -/
theorem pressAfterDrain (t : State) (k : Nat) (empty : Bool) (h : (getCl t k).queues = []) :
    ∃ m, (if empty then pressAdvance 40 t k else t) = { t with clusters := m } := by
  cases empty with
  | true => exact pressAdvance_idle 40 t k h
  | false => exact ⟨_, rfl⟩

end Drain

/-- The oldest entry of a core's store buffer leaves, when nothing is queued for its press and no job, halt or double trap
waits for it. -/
theorem does_storeBufferDrain {s t : State} {c : CoreId} {e : StoreEnt} {rest : List StoreEnt} {a : Nat}
    {bs : List Byte} (hbuf : (getCore s c.toNat).buf = e :: rest) (hpop : populated s c.toNat = true)
    (hup : dieUp s (c.toNat / 1024) = true) (hon : (getCl s (c.toNat / 16)).power = .on)
    (hfull : ownFull s c.toNat (e.line * 128) = false) (hentry : drainEntry s c.toNat e = some t)
    (ht : Stored s t c.toNat a bs) (hqueues : (getCl s (c.toNat / 16)).queues = [])
    (hhalt : (getCore s c.toNat).halting = false) (hdbl : (getCore s c.toNat).dbl = none) (hjobs : s.jobs = []) :
    ∃ m, Does (.storeBufferDrain c) s { t with clusters := m } := by
  obtain ⟨m, hm⟩ := pressAfterDrain t (c.toNat / 16) (getCore t c.toNat).buf.isEmpty (by rw [ht.cls, hqueues])
  have hcore : getCore { t with clusters := m } c.toNat = getCore t c.toNat := rfl
  refine ⟨m, congrArg Host.Outcome.next ?_⟩
  simp only [hbuf, hpop, hup, hon, hfull, hentry, hm, Bool.not_true, bne_self_eq_false, Bool.or_self,
    Bool.false_eq_true, if_false]
  exact settle_of_still (by rw [hcore, ht.core]; exact hdbl) (by rw [hcore, ht.core]; exact hhalt)
    (ht.jobs.trans hjobs)

/-- A core once its oldest store failure t has reached it, with r left: the first waits to be reported, a later one is
lost and noted (R81). -/
def failureTaken (x : CoreSt) (t : TrapInfo) (r : List TrapInfo) : CoreSt :=
  match x.deferred with
  | none => { x with failed := r, deferred := some t }
  | some _ => { x with failed := r, more := true }

theorem failureTaken_frame (x : CoreSt) (t : TrapInfo) (r : List TrapInfo) :
    (failureTaken x t r).failed = r ∧ (failureTaken x t r).dbl = x.dbl ∧ (failureTaken x t r).halting = x.halting := by
  unfold failureTaken
  split <;> exact ⟨rfl, rfl, rfl⟩

/-- A store failure reaches a core for which no job, halt or double trap waits (R81). -/
theorem does_storeFailure {s : State} {c : CoreId} {t : TrapInfo} {r : List TrapInfo}
    (hfailed : (getCore s c.toNat).failed = t :: r) (hhalt : (getCore s c.toNat).halting = false)
    (hdbl : (getCore s c.toNat).dbl = none) (hjobs : s.jobs = []) :
    Does (.storeFailure c) s (setCore s c.toNat (failureTaken (getCore s c.toNat) t r)) := by
  obtain ⟨-, hd, hh⟩ := failureTaken_frame (getCore s c.toNat) t r
  refine congrArg Host.Outcome.next (Eq.trans ?_ (settle_setCore (hd.trans hdbl) (hh.trans hhalt) hjobs))
  simp only [hfailed]
  rfl

/-- Settles O13: the drain by the write of one word, a store failure by what it leaves in the core. -/
theorem storeDrains : Obligations.StoreDrains := by
  unfold Obligations.StoreDrains
  refine ⟨?drain, ?failure⟩
  case drain =>
    intro c s e rest a d off bs x hbuf hctl hruns hmoves hhalt hdbl hjobs hp hpop hup hon hcpop hcup hcon hn hw hfree
      hqueues hv
    have hplace := placeOf_le_ls hp (le_of_storeRuns hruns)
    have hfull : ownFull s c.toNat (e.line * 128) = false := by rw [ownFull, inOwnVein, hplace]; rfl
    have hgate : gate (popped s c.toNat) (coreReq (popped s c.toNat) c.toNat) a true = none :=
      gate_ls hp hpop hup hon (crossing_modCore rfl hfree)
    obtain ⟨t, hentry, ht⟩ := drainEntry_word hctl hruns hmoves hp hn hw hgate hv
    obtain ⟨m, hdoes⟩ := does_storeBufferDrain hbuf hcpop hcup hcon hfull hentry ht hqueues hhalt hdbl hjobs
    have hcore : getCore { t with clusters := m } c.toNat = { x with buf := x.buf.drop 1 } := ht.core
    refine ⟨_, hdoes, ht.bytes, ?_, ?_, ?_⟩
    · rw [hcore, hbuf]; rfl
    · rw [hcore]
    · rw [hcore]
  case failure =>
    intro c s t r x hfailed hhalt hdbl hjobs
    obtain ⟨hr, -, -⟩ := failureTaken_frame x t r
    refine ⟨_, does_storeFailure hfailed hhalt hdbl hjobs, ?_, fun hdef => ?_, fun f hdef => ?_, OnlyCore.setCore _ _ _⟩
    all_goals rw [getCore_setCore_self]
    · exact hr
    · have hx : failureTaken x t r = { x with failed := r, deferred := some t } := by rw [failureTaken, hdef]
      exact ⟨by rw [hx], by rw [hx]⟩
    · have hx : failureTaken x t r = { x with failed := r, more := true } := by rw [failureTaken, hdef]
      exact ⟨by rw [hx]; exact hdef, by rw [hx]⟩

end Sys2Proof.Machine

/-! Vector instructions: reductions (O15), rotation and conversion (O16), memory (O17). -/

namespace Sys2Proof.Machine

/-! ### A whole register written (R70, R72) -/

/-- A vector instruction that writes the whole of vd and sets flags obeys the law of whole registers. What it writes may
not depend on the instruction cache, which its fetch changes. -/
theorem vectorLaw_of_vecOp {i : Instr} {c : CoreId} {vd : VReg} {fmt w : Nat} {f : CoreSt → Nat → CoreSt}
    {v : CoreSt → Vec} {fl : CoreSt → Nat} (hexec : ∀ s, exec i s = .next (vecOp s c.toNat fmt f))
    (hw : vecWidth fmt = some w) (hf : ∀ x, f x w = setFlags (setVreg x vd.toNat (v x)) (fl x))
    (hv : ∀ x l, v { x with icache := l } = v x) : VectorLaw i c vd v := by
  intro s s1 h
  refine ⟨_, (hexec s).trans (congrArg _ (issue_go h (s2 := modCore s1 c.toNat fun x => f x w) ?_)), ?_,
    VectorFrame.of_commit h _ _ _ _ (hf _), onlyCore_commit_modCore _ _ _ _ _⟩
  · simp only [hw]
  · have hreg : vreg (setFlags (setVreg (getCore s1 c.toNat) vd.toNat (v (getCore s1 c.toNat)))
        (fl (getCore s1 c.toNat))) vd.toNat = v (getCore s1 c.toNat) :=
      (vreg_setVreg (getCore s1 c.toNat) vd.toNat vd.toNat _).trans (if_pos rfl)
    rw [vreg_commit, getCore_modCore_self, hf, hreg, h.getCore_eq, hv]

/-! ### The compare form of VMAX (R69) -/

/-- Bit j of bits packed into a number, the first lowest. -/
theorem testBit_packed (ls : List Bool) (j : Nat) :
    (ls.foldr (fun (b : Bool) a => a * 2 + b.toNat) 0).testBit j = ls.getD j false := by
  induction ls generalizing j with
  | nil => simp
  | cons b ls ih =>
    have hbit (a : Nat) : a * 2 + b.toNat = Nat.bit b a := by
      rw [Nat.bit_val, Nat.mul_comm]
    rw [List.foldr_cons, hbit]
    cases j with
    | zero => rw [Nat.testBit_bit_zero, List.getD_cons_zero]
    | succ j => rw [Nat.testBit_bit_succ, List.getD_cons_succ, ih]

/-- A lane is at least 16 bits wide, and a register's lanes are as many as its width fills. -/
theorem lanes_of_vecWidth {fmt w : Nat} (hw : vecWidth fmt = some w) : w = 16 ∨ w = 32 := by
  unfold vecWidth at hw
  split at hw
  · right; simpa using hw.symm
  · split at hw
    · left; simpa using hw.symm
    · cases hw

/-- Bit j of the predicate that the compare form of VMAX writes (R69). -/
theorem getLsbD_maxPred {fmt w : Nat} (hw : vecWidth fmt = some w) (x : CoreSt) (va vb pk : Nat) {j : Nat}
    (hj : j < 1024 / w) : (maxPred x va vb pk fmt w).getLsbD j =
      ((preg x pk).getLsbD j && (maxLane fmt (laneOf w (vreg x va) j) (laneOf w (vreg x vb) j)).2.1) := by
  have hj' : j < 128 := by rcases lanes_of_vecWidth hw with rfl | rfl <;> omega
  have hpack := testBit_packed ((List.range (1024 / w)).map fun i =>
    (preg x pk).getLsbD i && (maxLane fmt (laneOf w (vreg x va) i) (laneOf w (vreg x vb) i)).2.1) j
  rw [List.foldr_map] at hpack
  rw [maxPred, BitVec.getLsbD_ofNat, decide_eq_true hj', Bool.true_and]
  refine hpack.trans ?_
  rw [List.getD_eq_getElem?_getD, List.getElem?_map, List.getElem?_range hj]
  rfl

theorem preg_mapLanes (x : CoreSt) (vd pk w : Nat) (f : Nat → Nat × Nat) (r : Nat) :
    preg (mapLanes x vd pk w f) r = preg x r := rfl

/-- What the compare form of VMAX leaves in a core, before its commit. -/
def compared (x : CoreSt) (vd va vb pk q fmt w : Nat) : CoreSt :=
  setPreg (mapLanes x vd pk w fun i =>
    let r := maxLane fmt (laneOf w (vreg x va) i) (laneOf w (vreg x vb) i)
    (r.1, r.2.2)) q (maxPred x va vb pk fmt w)

/-- The predicate registers after the compare form of VMAX. -/
theorem preg_compared (x : CoreSt) (vd va vb pk fmt w : Nat) {q : Nat} (hq : q ≠ 0) (r : Nat) :
    preg (compared x vd va vb pk q fmt w) r = if r = q then maxPred x va vb pk fmt w else preg x r := by
  rw [compared, preg_setPreg, preg_mapLanes]
  simp [hq]

/-- The compare form of VMAX on a predicate register other than p0 writes it. -/
theorem does_vmax_compare {c : CoreId} {vd va vb : VReg} {pk q : PReg} {fmt : BitVec 4} {w : Nat} {s s1 : State}
    (hw : vecWidth fmt.toNat = some w) (hq : q ≠ 0) (h : Issues s c.toNat ⟨4, [], false⟩ s1) :
    ∃ t, Does (.vmax c vd va vb pk fmt (some q)) s t ∧ getCore t c.toNat = committed
      (compared (getCore s1 c.toNat) vd.toNat va.toNat vb.toNat pk.toNat q.toNat fmt.toNat w)
      (getCore s c.toNat).pc ((getCore s c.toNat).pc + 4) := by
  have hq' : ¬ (some q = some 0) := by simpa using hq
  obtain ⟨t, hdoes, hcore, -⟩ := does_go (i := .vmax c vd va vb pk fmt (some q)) h rfl
    (by simp only [hw, hq', if_false]; rfl) (OnlyCore.modCore s1 c.toNat fun x =>
      compared x vd.toNat va.toNat vb.toNat pk.toNat q.toNat fmt.toNat w)
  exact ⟨t, hdoes, by rw [hcore, getCore_modCore_self]; rfl⟩

/-- Settles O15: the reductions by the law of whole registers, VMAX by the bits of its predicate. -/
theorem reductions : Obligations.Reductions := by
  unfold Obligations.Reductions
  refine ⟨fun c vd va pk fmt w hw => ⟨?sum, ?max⟩, fun c vd va vb pk q fmt w hw => ⟨?compare, ?p0⟩⟩
  case sum => exact vectorLaw_of_vecOp (fun _ => rfl) hw (fun _ => rfl) fun _ _ => rfl
  case max => exact vectorLaw_of_vecOp (fun _ => rfl) hw (fun _ => rfl) fun _ _ => rfl
  case compare =>
    intro hq s s1 h
    have hq' : q.toNat ≠ 0 := fun h0 => hq (BitVec.eq_of_toNat_eq h0)
    obtain ⟨t, hdoes, hcore⟩ := does_vmax_compare hw hq h
    refine ⟨t, hdoes, fun j hj => ?_, fun r hr => ?_⟩
    · rw [hcore, preg_committed, preg_compared _ _ _ _ _ _ _ hq', if_pos rfl, getLsbD_maxPred hw _ _ _ _ hj,
        h.getCore_eq]
      rfl
    · rw [hcore, preg_committed, preg_compared _ _ _ _ _ _ _ hq', if_neg hr, h.getCore_eq]
      rfl
  case p0 => exact trapLaw_of_trap (fun _ => rfl) fun _ _ => if_pos rfl

/-! ### VROPE (R72) -/

/-- Lane i after VROPE, with its flags: lanes j and k of its pair rotated where the predicate of j is 1. -/
def ropeLane (x : CoreSt) (vd va vb pk fmt w : Nat) (half : Bool) (i : Nat) : Nat × Nat :=
  let n := 1024 / w
  let j := if half then i % (n / 2) else i / 2 * 2
  let k := if half then i % (n / 2) + n / 2 else i / 2 * 2 + 1
  if !(preg x pk).getLsbD j then (laneOf w (vreg x vd) i, 0)
  else if i = j then
    rotLane fmt (rmOf x) true (laneOf w (vreg x va) j) (laneOf w (vreg x vb) j) (laneOf w (vreg x va) k)
      (laneOf w (vreg x vb) k)
  else
    rotLane fmt (rmOf x) false (laneOf w (vreg x va) j) (laneOf w (vreg x vb) k) (laneOf w (vreg x va) k)
      (laneOf w (vreg x vb) j)

/-- What VROPE leaves in a core, before its commit. -/
def roped (x : CoreSt) (vd va vb pk fmt : Nat) (half : Bool) (w : Nat) : CoreSt :=
  let rs := (List.range (1024 / w)).map (ropeLane x vd va vb pk fmt w half)
  setFlags (setVreg x vd (ofLanes w (rs.map (·.1)))) (orFlags (rs.map (·.2)))

theorem execVrope_eq (c : CoreId) (vd va vb : VReg) (pk : PReg) (fmt : BitVec 4) (half : Bool) (s : State) :
    execVrope c vd va vb pk fmt half s = .next (vecOp s c.toNat fmt.toNat fun x w =>
      roped x vd.toNat va.toNat vb.toNat pk.toNat fmt.toNat half w) := rfl

/-- A fetch, which changes the instruction cache alone, does not change what VROPE computes. -/
theorem ropeLane_icache (x : CoreSt) (vd va vb pk fmt w : Nat) (half : Bool) (l : List Nat) :
    ropeLane { x with icache := l } vd va vb pk fmt w half = ropeLane x vd va vb pk fmt w half := rfl

/-- VROPE writes the whole of vd with the lanes of its pairs. -/
theorem vectorLaw_vrope (c : CoreId) (vd va vb : VReg) (pk : PReg) (fmt : BitVec 4) (half : Bool) {w : Nat}
    (hw : vecWidth fmt.toNat = some w) :
    VectorLaw (.vrope c vd va vb pk fmt half) c vd fun x => ofLanes w (((List.range (1024 / w)).map
      (ropeLane x vd.toNat va.toNat vb.toNat pk.toNat fmt.toNat w half)).map (·.1)) :=
  vectorLaw_of_vecOp (f := fun x w => roped x vd.toNat va.toNat vb.toNat pk.toNat fmt.toNat half w)
    (fl := fun x => orFlags (((List.range (1024 / w)).map
      (ropeLane x vd.toNat va.toNat vb.toNat pk.toNat fmt.toNat w half)).map (·.2)))
    (execVrope_eq c vd va vb pk fmt half) hw (fun _ => by rw [roped]) fun _ _ => by rw [ropeLane_icache]

/-- Lane i of a register written lane by lane. -/
theorem laneOf_ofLanes_range (w : Nat) (f : Nat → Nat × Nat) {i : Nat} (hi : i < 1024 / w) :
    laneOf w (ofLanes w (((List.range (1024 / w)).map f).map (·.1))) i = (f i).1 % 2 ^ w := by
  have hlast : w * (i + 1) ≤ 1024 := (Nat.mul_le_mul_left w hi).trans (Nat.mul_div_le 1024 w)
  rw [laneOf_ofLanes w _ i hlast, List.map_map, List.getD_eq_getElem?_getD, List.getElem?_map, List.getElem?_range hi]
  rfl

/-! ### VCVT (R73 to R76) -/

/-- Writing the destination of a VCVT changes vector registers alone. -/
theorem cvtWrite_eq (x : CoreSt) (vd vt dst : Nat) (codes scales : List Nat) :
    ∃ v, cvtWrite x vd vt dst codes scales = { x with v := v } := by
  have group (l : List (List Nat × Nat)) : ∀ y : CoreSt, (∃ v, y = { x with v := v }) →
      ∃ v, l.foldl (fun x (g, i) => setVreg x (vd + i) (BitVec.ofNat 1024 (packElems dst g))) y = { x with v := v } := by
    induction l with
    | nil => exact fun _ h => h
    | cons e l ih =>
      rintro _ ⟨v, rfl⟩
      exact ih _ ⟨_, rfl⟩
  obtain ⟨v, hv⟩ := group (groupsOf (elemsPerReg dst) codes).zipIdx x ⟨x.v, rfl⟩
  unfold cvtWrite
  dsimp only
  rw [hv]
  split
  · exact ⟨v, rfl⟩
  · exact ⟨_, rfl⟩

theorem cvtWrite_g (x : CoreSt) (vd vt dst : Nat) (codes scales : List Nat) :
    (cvtWrite x vd vt dst codes scales).g = x.g := by
  obtain ⟨v, hv⟩ := cvtWrite_eq x vd vt dst codes scales
  rw [hv]

theorem getCw_cvtWrite (x : CoreSt) (vd vt dst : Nat) (codes scales : List Nat) (n : Nat) :
    getCw (cvtWrite x vd vt dst codes scales) n = getCw x n := by
  obtain ⟨v, hv⟩ := cvtWrite_eq x vd vt dst codes scales
  rw [hv]
  rfl

/-- A core after a VCVT that needs no generator, before its commit. -/
def converted (x : CoreSt) (vd va vs vt src dst n : Nat) : CoreSt :=
  let from_ := cvtSource x va vs src n
  let to_ := encodeList dst (e4satOf x) (e5satOf x) (fun _ => rmOf x) from_.1
  setFlags (cvtWrite x vd vt dst to_.1 to_.2.1) (from_.2 ||| to_.2.2 ||| 0)

/-- VCVT with formats and groups that the rules accept, from a format without loss and without stochastic rounding,
goes on (R73 to R76). -/
theorem does_vcvt {c : CoreId} {vd va vs vt : VReg} {src dst : BitVec 4} {n1 : BitVec 9} {s s1 : State}
    (hsrc : cvtFormat src.toNat = true) (hdst : cvtFormat dst.toNat = true) (hn : n1.toNat + 1 ≤ 256)
    (hgroups : cvtGroups vd.toNat va.toNat vs.toNat vt.toNat src.toNat dst.toNat (n1.toNat + 1) = false)
    (hbs : blockLen src.toNat = 0 ∨ (n1.toNat + 1) % blockLen src.toNat = 0)
    (hbd : blockLen dst.toNat = 0 ∨ (n1.toNat + 1) % blockLen dst.toNat = 0) (htq : src.toNat ≠ 0xA)
    (h : Issues s c.toNat ⟨8, [], false⟩ s1) (hrm : rmCode (getCore s1 c.toNat) ≠ 4) :
    ∃ t, Does (.vcvt c vd va vs vt src dst n1) s t ∧
      getCore t c.toNat = committed (converted (getCore s1 c.toNat) vd.toNat va.toNat vs.toNat vt.toNat src.toNat
        dst.toNat (n1.toNat + 1)) (getCore s c.toNat).pc ((getCore s c.toNat).pc + 8) ∧
      OnlyCore c.toNat s1 t := by
  have hlen : ¬ 256 < n1.toNat + 1 := by omega
  have hstoch : (rmCode (getCore s1 c.toNat) == 4) = false := by simpa using hrm
  have hwhole {b : Nat} (hb : b = 0 ∨ (n1.toNat + 1) % b = 0) : (b ≠ 0 && (n1.toNat + 1) % b ≠ 0) = false := by
    rcases hb with hb | hb <;> simp [hb]
  have hbad : (src.toNat == 0xA) = false := by simpa using htq
  obtain ⟨t, hdoes, hcore, honly⟩ := does_go (i := .vcvt c vd va vs vt src dst n1) h rfl
    (by simp only [hsrc, hdst, hlen, hgroups, hwhole hbs, hwhole hbd, hstoch, hbad, Bool.not_true, Bool.false_eq_true,
          if_false, Bool.false_and]
        rfl)
    ((OnlyCore.setCore s1 c.toNat (converted (getCore s1 c.toNat) vd.toNat va.toNat vs.toNat vt.toNat src.toNat
      dst.toNat (n1.toNat + 1))).trans ((bump_onlyRegs _ 0x08 6 0 (.core c.toNat)).onlyCore _))
  exact ⟨t, hdoes, by rw [hcore, getCore_bump, getCore_setCore_self]; rfl, honly⟩

/-- Settles O16: VROPE by the law of whole registers and its lanes, VCVT by the core it leaves. -/
theorem rotationAndConversion : Obligations.RotationAndConversion := by
  unfold Obligations.RotationAndConversion
  intro c vd va vb vs vt pk fmt src dst half n1 w
  refine ⟨fun hw s s1 h => ?rotate, fun hsrc hdst hn hgroups hbs hbd htq s s1 h hrm => ?convert⟩
  case rotate =>
    obtain ⟨t, hdoes, hreg, hframe, -⟩ := vectorLaw_vrope c vd va vb pk fmt half hw s s1 h
    refine ⟨t, hdoes, hframe, fun i hi => ?_⟩
    rw [hreg, laneOf_ofLanes_range w _ hi]
    simp only [ropeLane, apply_ite Prod.fst, apply_ite (· % 2 ^ w), Nat.mod_eq_of_lt (laneOf_lt w _ _)]
  case convert =>
    obtain ⟨t, hdoes, hcore, honly⟩ := does_vcvt hsrc hdst hn hgroups hbs hbd htq h hrm
    refine ⟨t, hdoes, ?_, ?_, ?_, by rw [hcore, committed_pc], honly⟩
    · rw [hcore, committed_v, converted, setFlags_v]
    · rw [hcore, getCw_committed, converted, setFlags, getCw_setCw, if_pos rfl, getCw_cvtWrite, Nat.or_zero]
    · rw [hcore, committed_g, converted, setFlags_g, cvtWrite_g]

end Sys2Proof.Machine

/-! Vector loads and stores (O17). -/

namespace Sys2Proof.Machine

/-! ### VLD and VST (R68) -/

/-- VLD of a vector goes on with the bytes it reads, where no move and no store in the buffer stand in its way. -/
theorem does_vld {c : CoreId} {v : BitVec 5} {ga : GReg} {off : BitVec 12} {s s1 s2 : State} {a : Nat} {bs : List Byte}
    (h : Issues s c.toNat ⟨4, [ga.toNat], false⟩ s1)
    (ha : (vmAddr (getCore s1 c.toNat) ga.toNat off 0).toNat = a) (hfault : vmFault s1 c.toNat a 128 = false)
    (hmoves : movesMeet (getCore s1 c.toNat).moves a 128 = false) (hmiss : forward (getCore s1 c.toNat) a 128 = .miss)
    (hread : coreRead s1 c.toNat a 128 2 = (s2, .ok s2 bs)) :
    Does (.vld c v ga off 0) s (commit (modCore s2 c.toNat fun x => vmWrite x v.toNat 0 bs) c.toNat
      (getCore s c.toNat).pc ((getCore s c.toNat).pc + 4)) := by
  refine congrArg Host.Outcome.next (issue_go h ?_)
  dsimp only
  have legal : vmIllegal v.toNat (0 : BitVec 4).toNat = false := rfl
  have size : vmSize (0 : BitVec 4).toNat = 128 := rfl
  rw [show (0 : BitVec 4).toNat = 0 from rfl] at *
  simp only [legal, size, ha, hfault, hmoves, hmiss, hread, Bool.false_eq_true, if_false]

/-- VST of a vector goes on with what the store buffer takes. -/
theorem does_vst {c : CoreId} {v : BitVec 5} {ga : GReg} {off : BitVec 12} {s s1 : State} {a : Nat} {y : CoreSt}
    (h : Issues s c.toNat ⟨4, [ga.toNat], true⟩ s1)
    (ha : (vmAddr (getCore s1 c.toNat) ga.toNat off 0).toNat = a) (hfault : vmFault s1 c.toNat a 128 = false)
    (hbuf : bufferStore (getCore s1 c.toNat) a (vmRead (getCore s1 c.toNat) v.toNat 0) false false = some y) :
    Does (.vst c v ga off 0) s (commit (setCore s1 c.toNat y) c.toNat (getCore s c.toNat).pc
      ((getCore s c.toNat).pc + 4)) := by
  refine congrArg Host.Outcome.next (issue_go h ?_)
  dsimp only
  have legal : vmIllegal v.toNat (0 : BitVec 4).toNat = false := rfl
  have size : vmSize (0 : BitVec 4).toNat = 128 := rfl
  rw [show (0 : BitVec 4).toNat = 0 from rfl] at *
  simp only [legal, size, ha, hfault, hbuf, Bool.false_eq_true, if_false]

/-- The forms of VLD and VST that no rule names (R60, R68). -/
theorem vmIllegal_iff (r sub : Nat) :
    vmIllegal r sub = true ↔ 2 < sub ∨ (sub = 1 ∧ 15 < r) ∨ (sub = 2 ∧ 7 < r) := by
  simp [vmIllegal, or_assoc]

/-- Settles O17: VLD and VST by the state they commit, their bad forms by the law of traps. -/
theorem vectorMemory : Obligations.VectorMemory := by
  unfold Obligations.VectorMemory
  refine ⟨fun c v ga off s s1 s2 bs h => ?load, fun c v ga off sub => ⟨fun s s1 y h => ?store, fun hbad => ?bad⟩⟩
  case load =>
    intro x a hfault hmoves hmiss hread
    exact does_vld h rfl hfault hmoves hmiss hread
  case store =>
    intro x a hfault hbuf
    exact does_vst h rfl hfault hbuf
  case bad =>
    have hill := (vmIllegal_iff v.toNat sub.toNat).mpr hbad
    exact ⟨trapLaw_of_trap (fun _ => rfl) fun _ _ => if_pos hill, trapLaw_of_trap (fun _ => rfl) fun _ _ => if_pos hill⟩

end Sys2Proof.Machine

/-! Waits and signals (O18): the end of a wait, what sets an event, and release points. -/

namespace Sys2Proof.Machine

/-! ### The beginning and the end of a wait (R87) -/


/-- A core whose wait has ended, before its commit: an acquire point (R78). -/
def unwaited (x : CoreSt) : CoreSt := { acquire x with wait := none, run := .running, waited := 0 }

@[simp] theorem getCw_unwaited (x : CoreSt) (n : Nat) : getCw (unwaited x) n = getCw x n := rfl

/-- The core after the end of its wait. -/
theorem getCore_endWait (s : State) (c : Nat) (f : CoreSt → CoreSt) :
    getCore (endWait s c f) c = committed (unwaited (f (syncCoreSt (elapsed s) (getCl s (c / 16)) (getCore s c))))
      (getCore s c).pc ((getCore s c).pc + 4) := by
  rw [endWait, getCore_commit, getCore_modCore_self, getCore_syncCore_self]
  rfl

theorem onlyCore_endWait (s : State) (c : Nat) (f : CoreSt → CoreSt) : OnlyCore c s (endWait s c f) :=
  ((OnlyCore.modCore s c _).trans (OnlyCore.modCore _ c _)).commit _ _

/-- A core that begins to wait. -/
theorem getCore_beginWait (s : State) (c : Nat) (w : WaitOn) :
    getCore (beginWait s c w) c = { syncCoreSt (elapsed s) (getCl s (c / 16)) (getCore s c) with
      wait := some w, run := .waiting, waitSince := elapsed s, waited := 0 } := by
  rw [beginWait, getCore_modCore_self, getCore_syncCore_self]

theorem onlyCore_beginWait (s : State) (c : Nat) (w : WaitOn) : OnlyCore c s (beginWait s c w) :=
  (OnlyCore.modCore s c _).trans (OnlyCore.modCore _ c _)

/-! ### Release points (R78, R81) -/

section Release

variable {s : State} {c : Nat} {k : State → Eff}

theorem release_of_done (hr : released s c = true) (hd : (getCore s c).deferred = none) : release s c k = k s := by
  simp only [release, hr, hd, Bool.not_true, Bool.false_eq_true, if_false]

theorem release_of_pending (hr : released s c = false) : release s c k = .stall s := by
  simp only [release, hr, Bool.not_false, if_true]

theorem release_of_deferred {t : TrapInfo} (hr : released s c = true) (hd : (getCore s c).deferred = some t) :
    release s c k =
      .trap (modCore s c fun x => { x with deferred := none, more := false }) t true (getCore s c).more := by
  simp only [release, hr, hd, Bool.not_true, Bool.false_eq_true, if_false]

end Release

/-! ### WAIT (R87) -/

theorem getCw_setGpr (x : CoreSt) (r : Nat) (w : Word) (n : Nat) : getCw (setGpr x r w) n = getCw x n := by
  unfold setGpr
  split <;> rfl

/-- What a WAIT that returns writes: the events it matched, cleared in cw_event (R87). -/
def matched (x : CoreSt) (mask : Word) (rd : Nat) (w : Word) : CoreSt :=
  setGpr (setCw x 0xA (getCw x 0xA &&& ~~~mask)) rd w

theorem gpr_matched (x : CoreSt) (mask : Word) (rd : Nat) (w : Word) (r : Nat) :
    gpr (matched x mask rd w) r = if r = rd ∧ rd ≠ 0 then w else gpr x r :=
  gpr_setGpr _ _ _ _

theorem getCw_matched (x : CoreSt) (mask : Word) (rd : Nat) (w : Word) :
    getCw (matched x mask rd w) 0xA = getCw x 0xA &&& ~~~mask := by
  rw [matched, getCw_setGpr, getCw_setCw, if_pos rfl]

/-- WAIT without an event of its mask set waits (R87). -/
theorem does_wait_waits {c : CoreId} {rd ra rb : GReg} {s s1 : State}
    (h : Issues s c.toNat ⟨4, [rd.toNat, ra.toNat, rb.toNat], true⟩ s1)
    (hmet : getCw (getCore s1 c.toNat) 0xA &&& gpr (getCore s1 c.toNat) ra.toNat = 0)
    (hends : gpr (getCore s1 c.toNat) ra.toNat ≠ 0 ∨ gpr (getCore s1 c.toNat) rb.toNat ≠ 0) :
    Does (.wait c rd ra rb) s (beginWait s1 c.toNat (.event (gpr (getCore s1 c.toNat) ra.toNat) rd.toNat
      (if gpr (getCore s1 c.toNat) rb.toNat = 0 then none else some (gpr (getCore s1 c.toNat) rb.toNat).toNat))) := by
  refine congrArg Host.Outcome.next (issue_stall h ?_)
  have hends' : (decide (gpr (getCore s1 c.toNat) ra.toNat = 0) && decide (gpr (getCore s1 c.toNat) rb.toNat = 0)) =
      false := by
    rcases hends with hne | hne
    · rw [decide_eq_false hne, Bool.false_and]
    · rw [decide_eq_false hne, Bool.and_false]
  simp only [hends', hmet, Bool.false_eq_true, if_false, ne_eq, not_true_eq_false]

/-- The time a core has waited, brought up to the present outside a pause (R386). -/
theorem waited_syncCoreSt {x : CoreSt} {k : ClusterSt} {w : WaitOn} (t : Nat) (hwait : x.wait = some w)
    (hpause : k.paused = false) : (syncCoreSt t k x).waited = x.waited + (t - x.seen) := by
  simp [syncCoreSt, hwait, hpause]

/-- The time of a WAIT passes: rd = 0, at the moment that its limit gives (R87). -/
theorem does_waitTimeout {c : CoreId} {s : State} {mask : Word} {rd limit : Nat}
    (hwait : (getCore s c.toNat).wait = some (.event mask rd (some limit)))
    (hpause : (getCl s (c.toNat / 16)).paused = false) :
    ∃ t, Does (.waitTimeout c) s t ∧
      t.hallmark = s.hallmark + (limit - ((getCore s c.toNat).waited + (elapsed s - (getCore s c.toNat).seen))) ∧
      (∃ n m k l, getCore t c.toNat = committed (unwaited (setGpr (syncCoreSt n k (syncCoreSt m l (getCore s c.toNat))) rd
        0)) (getCore s c.toNat).pc ((getCore s c.toNat).pc + 4)) ∧ SameMemory s t := by
  have hwait' : (syncCoreSt (elapsed s) (getCl s (c.toNat / 16)) (getCore s c.toNat)).wait =
      some (.event mask rd (some limit)) := hwait
  refine ⟨endWait (advanceTo (syncCore s c.toNat) (elapsed (syncCore s c.toNat) +
      (limit - ((getCore s c.toNat).waited + (elapsed s - (getCore s c.toNat).seen))))) c.toNat fun x => setGpr x rd 0,
    congrArg Host.Outcome.next ?_, ?_, ?_, ?_⟩
  · simp only [getCore_syncCore_self, hwait', waited_syncCoreSt _ hwait hpause, hpause, Bool.and_false,
      Bool.false_eq_true, if_false]
  · rw [(onlyCore_endWait _ _ _).1]
    exact congrArg (s.hallmark + ·) (Nat.add_sub_cancel_left _ _)
  · have hend := getCore_endWait (advanceTo (syncCore s c.toNat) (elapsed (syncCore s c.toNat) +
      (limit - ((getCore s c.toNat).waited + (elapsed s - (getCore s c.toNat).seen))))) c.toNat fun x => setGpr x rd 0
    rw [getCore_advanceTo, getCore_syncCore_self] at hend
    exact ⟨_, _, _, _, hend⟩
  · exact fun a => (onlyCore_endWait _ _ _).sameMemory a

/-! ### Events (R86, R88) -/

/-- An event of a core that does not wait sets its bit. -/
theorem signalEvent_of_awake {s : State} {c : Nat} (n : Nat) (h : (getCore s c).wait = none) :
    signalEvent s c n = setEvent s c n := by
  have h' : (getCore (setEvent s c n) c).wait = none := by rw [setEvent, getCore_modCore_self]; exact h
  simp only [signalEvent, wake, h']

/-- An event that a core waits for, outside a pause of its cluster, ends its WAIT (R87). -/
theorem signalEvent_of_met {s : State} {c : Nat} {mask : Word} {rd : Nat} {limit : Option Nat} {n : Nat}
    (h : (getCore s c).wait = some (.event mask rd limit)) (hpause : (getCl s (c / 16)).paused = false)
    (hmet : (getCw (getCore s c) 0xA ||| (1 <<< n)) &&& mask ≠ 0) :
    signalEvent s c n = endWait (setEvent s c n) c fun x => matched x mask rd
      ((getCw (getCore s c) 0xA ||| (1 <<< n)) &&& mask) := by
  have hcore : getCore (setEvent s c n) c = setEventBits (getCore s c) (1 <<< n) := getCore_modCore_self _ _ _
  have hset : getCw (getCore (setEvent s c n) c) 0xA = getCw (getCore s c) 0xA ||| (1 <<< n) := by
    rw [hcore, setEventBits, getCw_setCw, if_pos rfl]
  have hwait : (getCore (setEvent s c n) c).wait = some (.event mask rd limit) := by
    rw [hcore, setEventBits_wait, h]
  have hpause' : (getCl (setEvent s c n) (c / 16)).paused = false := hpause
  simp only [signalEvent, wake, hwait, hset, hpause', decide_eq_false hmet, Bool.or_self, Bool.false_eq_true, if_false]
  rfl

/-- The state in which a signal reaches its core: its crossing is counted, and it is on its way no more. -/
def arrived (s : State) (c : Nat) (g : Signal) (rest : List Signal) : State :=
  { countCross s false (signalDie g) (c / 1024) 0 0 with signals := rest }

/-- Nothing but the counters and the signals on their way change as a signal reaches its core. -/
theorem arrived_eq (s : State) (c : Nat) (g : Signal) (rest : List Signal) :
    ∃ r, arrived s c g rest = { s with regs := r, signals := rest } := by
  obtain ⟨r, hr⟩ := countCross_onlyRegs s false (signalDie g) (c / 1024) 0 0
  exact ⟨r, by rw [arrived, hr]⟩

theorem getCore_arrived (s : State) (c : Nat) (g : Signal) (rest : List Signal) (d : Nat) :
    getCore (arrived s c g rest) d = getCore s d := by
  obtain ⟨r, hr⟩ := arrived_eq s c g rest
  rw [hr]
  rfl

theorem getCl_arrived (s : State) (c : Nat) (g : Signal) (rest : List Signal) (k : Nat) :
    getCl (arrived s c g rest) k = getCl s k := by
  obtain ⟨r, hr⟩ := arrived_eq s c g rest
  rw [hr]
  rfl

theorem sameMemory_arrived (s : State) (c : Nat) (g : Signal) (rest : List Signal) :
    SameMemory s (arrived s c g rest) := by
  obtain ⟨r, hr⟩ := arrived_eq s c g rest
  rw [hr]
  exact fun _ => rfl

/-- A signal that its core waits for ends the core's WAIT as it arrives (R87, R88). -/
theorem signalEvent_arrived {s : State} {c : Nat} {g : Signal} {rest : List Signal} {mask : Word} {rd : Nat}
    {limit : Option Nat} (h : (getCore s c).wait = some (.event mask rd limit))
    (hpause : (getCl s (c / 16)).paused = false)
    (hmet : (getCw (getCore s c) 0xA ||| (1 <<< g.event)) &&& mask ≠ 0) :
    ∃ t, signalEvent (arrived s c g rest) c g.event = t ∧
      (∃ n k, getCore t c = committed (unwaited (matched (syncCoreSt n k (setEventBits (getCore s c) (1 <<< g.event))) mask
        rd ((getCw (getCore s c) 0xA ||| (1 <<< g.event)) &&& mask))) (getCore s c).pc ((getCore s c).pc + 4)) ∧
      SameMemory s t := by
  have hcore := getCore_arrived s c g rest c
  have hend := getCore_endWait (setEvent (arrived s c g rest) c g.event) c fun x => matched x mask rd
    ((getCw (getCore s c) 0xA ||| (1 <<< g.event)) &&& mask)
  refine ⟨_, signalEvent_of_met (by rw [hcore, h]) (by rw [getCl_arrived, hpause]) (by rw [hcore]; exact hmet), ?_,
    fun a => ?_⟩
  · rw [hcore]
    rw [setEvent, getCore_modCore_self, hcore] at hend
    exact ⟨_, _, hend⟩
  · exact ((onlyCore_endWait _ _ _).sameMemory a).trans
      (((OnlyCore.modCore _ c _).sameMemory a).trans (sameMemory_arrived s c g rest a))

section Arrival

variable {c : CoreId} {s : State} {g : Signal} {rest : List Signal}

/-- The oldest signal reaches its core (R88). -/
theorem does_signalArrival (hs : s.signals = g :: rest) (hg : g.target = c.toNat)
    (htakes : takesEvents s c.toNat = true) (hcross : crossing s false (signalDie g) (c.toNat / 1024) ≠ .held) :
    Does (.signalArrival c) s (signalEvent (arrived s c.toNat g rest) c.toNat g.event) := by
  have hfind : s.signals.find? (·.target == c.toNat) = some g := by rw [hs]; simp [hg]
  have hrest : s.signals.eraseP (·.target == c.toNat) = rest := by rw [hs]; simp [hg]
  unfold signalDie at hcross
  refine congrArg Host.Outcome.next ?_
  simp only [hfind, hrest, htakes, hcross, if_true, if_false]
  rfl

end Arrival

/-! ### SIGNAL (R88) -/

/-- A core that a SIGNAL may not name takes trap 0x04 (R88). -/
theorem signal_refused {s : State} {c t : Nat} (h : ¬ (populated s t = true ∧ partOf s t = partOf s c)) :
    (!populated s t || decide (partOf s t ≠ partOf s c)) = true := by
  rw [Bool.or_eq_true, Bool.not_eq_true', decide_eq_true_iff, ← Bool.not_eq_true]
  exact not_and_or.mp h

/-- A core that a SIGNAL may name. -/
theorem signal_taken {s : State} {c t : Nat} (h : populated s t = true ∧ partOf s t = partOf s c) :
    ¬ (!populated s t || decide (partOf s t ≠ partOf s c)) = true := by
  simp [h.1, h.2]

/-- Settles O18: WAIT and SIGNAL by the laws of commits and traps, the ends of a WAIT by what they leave in the core. -/
theorem waitsAndSignals : Obligations.WaitsAndSignals := by
  unfold Obligations.WaitsAndSignals
  refine ⟨fun c rd ra rb => ⟨?returns, fun s s1 h hmet hends => ?waits, ?mask⟩, fun c s mask rd limit => ?timeout,
    fun c ra imm => ⟨fun himm => ?signal, fun himm => ?number, fun himm => ?target,
      fun s g rest hs hg htakes hwait hcross => ?arrival⟩, fun c s g rest mask rd limit => ?wakes⟩
  case returns =>
    refine commitLaw_of_go (fun _ => rfl) fun s hmet => ?_
    have hmask : gpr (getCore s c.toNat) ra.toNat ≠ 0 := fun h0 => hmet (by simp [h0])
    simp only [hmask, hmet, decide_false, Bool.false_and, Bool.false_eq_true, if_false, ne_eq, not_false_eq_true, if_true]
    rfl
  case waits =>
    refine ⟨_, does_wait_waits h hmet hends, ?_, ?_, ?_, onlyCore_beginWait _ _ _⟩
    all_goals rw [getCore_beginWait]
    exact h.pc_eq
  case mask =>
    exact trapLaw_of_trap (fun _ => rfl) fun s hzero => if_pos (by simp [hzero.1, hzero.2])
  case timeout =>
    intro x hwait hpause
    obtain ⟨t, hdoes, hhall, ⟨n, m, k, l, hcore⟩, hmem⟩ := does_waitTimeout hwait hpause
    refine ⟨t, hdoes, hhall, ?_, ?_, ?_, fun r => ?_, hmem, ?_⟩
    all_goals rw [hcore]
    · rfl
    · rfl
    · rfl
    · exact gpr_setGpr _ _ _ _
    · exact getCw_setGpr _ _ _ _
  case signal =>
    refine commitLaw_of_go (fun _ => rfl) fun s hok => ?_
    obtain ⟨hmine, hrel, hdef⟩ := hok
    exact (if_neg (by omega)).trans ((if_neg (signal_taken hmine)).trans (release_of_done hrel hdef))
  case number => exact trapLaw_of_trap (fun _ => rfl) fun _ _ => if_pos himm
  case target =>
    exact trapLaw_of_trap (fun _ => rfl) fun _ hmine =>
      (if_neg (by omega)).trans (if_pos (signal_refused hmine))
  case arrival =>
    have hcore : getCore (arrived s c.toNat g rest) c.toNat = getCore s c.toNat := getCore_arrived _ _ _ _ _
    refine ⟨_, does_signalArrival hs hg htakes hcross, ?_, ?_⟩
    all_goals rw [signalEvent_of_awake _ ((congrArg CoreSt.wait hcore).trans hwait), setEvent]
    · rfl
    · rw [getCore_modCore_self, setEventBits, getCw_setCw, if_pos rfl, hcore]
  case wakes =>
    intro x set hs hg htakes hcross hwait hpause hmet
    obtain ⟨t, ht, ⟨n, k, hcore⟩, hmem⟩ := signalEvent_arrived hwait hpause hmet
    refine ⟨t, (does_signalArrival hs hg htakes hcross).trans (congrArg _ ht), ?_, ?_, ?_, ?_, fun r => ?_, hmem⟩
    all_goals rw [hcore]
    · rfl
    · rfl
    · rfl
    · rw [getCw_committed, getCw_unwaited, getCw_matched, getCw_syncCoreSt, setEventBits, getCw_setCw, if_pos rfl]
    · exact gpr_matched _ _ _ _ _

end Sys2Proof.Machine

/-! Release points (O19): FENCE, HMARK, TRAPRET and HALT. -/

namespace Sys2Proof.Machine

/-! ### TRAPRET (R62, R100) -/

/-- The status word that TRAPRET leaves: pl takes ppl, tact is 0. -/
def statusBack (st : Word) : Word := (st &&& ~~~(5 : Word)) ||| (if st.getLsbD 1 then 1 else 0)

theorem getLsbD_statusBack (st : Word) : (statusBack st).getLsbD 0 = st.getLsbD 1 ∧
    (statusBack st).getLsbD 1 = st.getLsbD 1 ∧ (statusBack st).getLsbD 2 = false := by
  unfold statusBack
  cases h : st.getLsbD 1 <;> simpa using h

/-- What TRAPRET leaves in a core, before its commit. -/
def returned (x : CoreSt) : CoreSt := { setCw x 0 (statusBack (getCw x 0)) with deferred := none, more := false }

theorem getCw_returned (x : CoreSt) (n : Nat) :
    getCw (returned x) n = if n = 0 then statusBack (getCw x 0) else getCw x n :=
  getCw_setCw _ _ _ _

theorem returned_g (x : CoreSt) : (returned x).g = x.g := rfl

section Trapret

variable {c : CoreId} {s s1 : State}

/-- TRAPRET at supervisor level with no failure to report goes on at cw_tpc (R100). -/
theorem does_trapret (h : Issues s c.toNat ⟨4, [], true⟩ s1) (hlevel : (getCw (getCore s1 c.toNat) 0).getLsbD 0 = false)
    (hdef : (getCore s1 c.toNat).deferred = none) :
    ∃ t, Does (.trapret c) s t ∧ getCore t c.toNat = committed (returned (getCore s1 c.toNat)) (getCore s c.toNat).pc
      (getCw (getCore s1 c.toNat) 2 &&& ~~~(3 : Word)) ∧ OnlyCore c.toNat s1 t := by
  obtain ⟨t, hdoes, hcore, honly⟩ := does_jump (i := .trapret c) h rfl
    (a := getCw (getCore s1 c.toNat) 2 &&& ~~~(3 : Word))
    (by simp only [atTask, hlevel, hdef, Bool.false_eq_true, if_false]; rfl)
    (OnlyCore.setCore s1 c.toNat (returned (getCore s1 c.toNat)))
  exact ⟨t, hdoes, by rw [hcore, getCore_setCore_self], honly⟩

/-- TRAPRET at supervisor level takes a deferred failure as a trap where it goes on (R81, R100). -/
theorem does_trapret_deferred {d : TrapInfo} (h : Issues s c.toNat ⟨4, [], true⟩ s1)
    (hlevel : (getCw (getCore s1 c.toNat) 0).getLsbD 0 = false) (hdef : (getCore s1 c.toNat).deferred = some d) :
    Does (.trapret c) s (takeTrap
      (commit (setCore s1 c.toNat (returned (getCore s1 c.toNat))) c.toNat (getCore s c.toNat).pc
        (getCw (getCore s1 c.toNat) 2 &&& ~~~(3 : Word)))
      c.toNat d (getCw (getCore s1 c.toNat) 2 &&& ~~~(3 : Word)) true (getCore s1 c.toNat).more) := by
  refine congrArg Host.Outcome.next ((issue_eq h _ _).trans ?_)
  simp only [atTask, hlevel, hdef, Bool.false_eq_true, if_false]
  rfl

/-- The core after such a trap. -/
theorem getCore_trapret_deferred (d : TrapInfo) (p a : Word) (more : Bool) (hra : (getCore s1 c.toNat).ra = none) :
    ∃ n k, getCore (takeTrap (commit (setCore s1 c.toNat (returned (getCore s1 c.toNat))) c.toNat p a) c.toNat d a true
      more) c.toNat = enterTrap (syncCoreSt n k (committed (returned (getCore s1 c.toNat)) p a)) d a true more
        ((getCw (getCore s1 c.toNat) 0).getLsbD 1) := by
  obtain ⟨hpl, -, htact⟩ := getLsbD_statusBack (getCw (getCore s1 c.toNat) 0)
  have hcore : getCore (commit (setCore s1 c.toNat (returned (getCore s1 c.toNat))) c.toNat p a) c.toNat =
      committed (returned (getCore s1 c.toNat)) p a := by
    rw [getCore_commit, getCore_setCore_self]
  have hstatus : getCw (committed (returned (getCore s1 c.toNat)) p a) 0 = statusBack (getCw (getCore s1 c.toNat) 0) := by
    rw [getCw_committed, getCw_returned, if_pos rfl]
  have htrap := getCore_takeTrap d a true more (by rw [hcore]; exact hra) (by rw [hcore, hstatus, htact])
  rw [hcore, atTask, hstatus, hpl] at htrap
  exact ⟨_, _, htrap⟩

end Trapret

/-! ### HALT (R96) -/

/-- A core that halts, with nothing of its own left to complete, no generator bound and no fault of its units pending. -/
structure Halts (x : CoreSt) : Prop where
  halting : x.halting = true
  double  : x.dbl = none
  stores  : x.buf = []
  moves   : x.moves = []
  loads   : x.loads = []
  wait    : x.wait = none
  bind    : x.bind = none
  press   : x.pFaults = []
  bank    : x.nbFaults = []

/-- Whether the units of a core are quiet depends on no other part of it than its appends. -/
theorem coreQuiet_of_onlyCore {s t : State} {c : Nat} (h : OnlyCore c s t)
    (ha : (getCore t c).appends = (getCore s c).appends) : coreQuiet t c = coreQuiet s c := by
  unfold coreQuiet
  rw [ha, h.1]
  rfl

theorem haltFaults_of_none {s : State} {c : Nat} (hp : (getCore s c).pFaults = []) (hb : (getCore s c).nbFaults = []) :
    haltFaults s c = modCore s c fun x => { x with pFaults := [], nbFaults := [] } := by
  simp only [haltFaults, hp, hb, List.foldl_nil]

theorem jobDone_of_none {s : State} {c : Nat} (h : s.jobs = []) : jobDone s c = s := by
  simp [jobDone, jobOf, h]

/-- The state in which a core has halted, before the trace of it. -/
def haltedState (s : State) (c : Nat) : State :=
  modCore (syncCore (modCore s c fun x => { x with pFaults := [], nbFaults := [] }) c) c fun x =>
    { x with run := .halted, halting := false, streams := [], wait := none, blk := 0, blkobj := 0 }

theorem onlyCore_haltedState (s : State) (c : Nat) : OnlyCore c s (haltedState s c) :=
  ((OnlyCore.modCore s c _).trans (OnlyCore.modCore _ c _)).trans (OnlyCore.modCore _ c _)

/-- A core that halts with nothing left to complete, in no job, halts and is traced (R96). -/
theorem settle_of_halts {s : State} {c : Nat} (h : Halts (getCore s c)) (hq : coreQuiet s c = true) (hj : s.jobs = []) :
    settle s c = trace (haltedState s c) (c / 16) 8 c [0, 0] := by
  obtain ⟨hhalt, hdbl, hbuf, hmoves, hloads, hwait, hbind, hpress, hbank⟩ := h
  have hrelease : releaseBinding s c = s := by simp only [releaseBinding, hbind]
  have hready : (!(getCore s c).halting || (getCore s c).dbl.isSome || !(getCore s c).buf.isEmpty ||
      !(getCore s c).moves.isEmpty || !(getCore s c).loads.isEmpty || (getCore s c).wait.isSome || !coreQuiet s c) =
      false := by
    simp [hhalt, hdbl, hbuf, hmoves, hloads, hwait, hq]
  have hjob : ((jobOf s c).map (·.job)).getD 0 = 0 := by rw [jobOf, hj]; rfl
  have hjobs : (trace (haltedState s c) (c / 16) 8 c [0, 0]).jobs = [] :=
    (trace_jobs _ _ _ _ _).trans ((congrArg State.jobs (onlyCore_haltedState s c).1).trans hj)
  have hhalted : settleHalt s c = trace (haltedState s c) (c / 16) 8 c [0, 0] := by
    simp only [settleHalt, hready, hrelease, haltFaults_of_none hpress hbank, hjob, Bool.false_eq_true, if_false]
    exact jobDone_of_none hjobs
  rw [settle, settleDouble_of_none hdbl, hhalted, settleJobs_of_none hjobs]

/-- A core that begins to halt. -/
def beginHalt (x : CoreSt) : CoreSt := { x with halting := true }

/-- A core that issues HALT, at a release point with nothing to wait for, halts once it has committed. -/
theorem halts_beginHalt {s s1 : State} {c : Nat} {i : Inst} (h : Issues s c i s1) (hw : i.waits = true)
    (hrel : released s1 c = true) (hbind : (getCore s1 c).bind = none) (hpress : (getCore s1 c).pFaults = [])
    (hbank : (getCore s1 c).nbFaults = []) (a b : Word) : Halts (committed (beginHalt (getCore s1 c)) a b) := by
  obtain ⟨hwait, hdbl, -⟩ := h.awake
  have hdrained : drained (getCore s1 c) = true := (Bool.and_eq_true_iff.mp hrel).1
  simp only [drained, Bool.and_eq_true, List.isEmpty_iff] at hdrained
  obtain ⟨⟨⟨hbuf, -⟩, hmoves⟩, -⟩ := hdrained
  exact ⟨rfl, hdbl, hbuf, hmoves, h.loads_eq.trans (h.older hw), hwait, hbind, hpress, hbank⟩

/-- HALT with nothing of its core left to complete (R96). -/
theorem does_halt {c : CoreId} {s s1 : State} (h : Issues s c.toNat ⟨4, [], true⟩ s1)
    (hrel : released s1 c.toNat = true) (hdef : (getCore s1 c.toNat).deferred = none)
    (hbind : (getCore s1 c.toNat).bind = none) (hpress : (getCore s1 c.toNat).pFaults = [])
    (hbank : (getCore s1 c.toNat).nbFaults = []) (hq : coreQuiet s1 c.toNat = true) (hj : s1.jobs = []) :
    ∃ u, Does (.halt c) s (trace (haltedState u c.toNat) (c.toNat / 16) 8 c.toNat [0, 0]) ∧ OnlyCore c.toNat s1 u ∧
      (getCore u c.toNat).g = (getCore s1 c.toNat).g := by
  have hissue : issue s c.toNat ⟨4, [], true⟩ (raSkip 4)
      (fun s => release s c.toNat fun s => .go (modCore s c.toNat beginHalt)) = commit (modCore s1 c.toNat beginHalt)
        c.toNat (getCore s c.toNat).pc ((getCore s c.toNat).pc + 4) :=
    issue_go h (release_of_done hrel hdef)
  have hcore : getCore (commit (modCore s1 c.toNat beginHalt) c.toNat (getCore s c.toNat).pc
      ((getCore s c.toNat).pc + 4)) c.toNat = committed (beginHalt (getCore s1 c.toNat)) (getCore s c.toNat).pc
        ((getCore s c.toNat).pc + 4) := by
    rw [getCore_commit, getCore_modCore_self]
  have honly := (OnlyCore.modCore s1 c.toNat beginHalt).commit (getCore s c.toNat).pc ((getCore s c.toNat).pc + 4)
  have hsettle := settle_of_halts (hcore ▸ halts_beginHalt h rfl hrel hbind hpress hbank _ _)
    ((coreQuiet_of_onlyCore honly (by rw [hcore]; rfl)).trans hq) ((congrArg State.jobs honly.1).trans hj)
  exact ⟨_, congrArg Host.Outcome.next ((congrArg (settle · c.toNat) hissue).trans hsettle), honly,
    by rw [hcore, committed_g]; rfl⟩

/-- Settles O19: FENCE and HMARK by the laws, TRAPRET and HALT by the core they leave. -/
theorem releasePoints : Obligations.ReleasePoints := by
  unfold Obligations.ReleasePoints
  refine ⟨fun c rd => ⟨?prefetch, ?icache, ?both, fun imm himm => ?neither, fun s s1 h hrel => ?stalls, ?hmark⟩,
    fun c s s1 t h hrel hdef => ?deferred, fun c s s1 => ?status⟩
  case prefetch => exact commitLaw_of_go (fun _ => rfl) fun _ hdone => release_of_done hdone.1 hdone.2
  case icache => exact commitLaw_of_go (fun _ => rfl) fun _ _ => rfl
  case both => exact commitLaw_of_go (fun _ => rfl) fun _ hdone => release_of_done hdone.1 hdone.2
  case neither =>
    refine trapLaw_of_trap (fun _ => rfl) fun s _ => ?_
    dsimp only
    split
    · omega
    · omega
    · omega
    · rfl
  case stalls => exact congrArg Host.Outcome.next (issue_stall h (release_of_pending hrel))
  case hmark => exact commitLaw_of_go (fun _ => rfl) fun _ _ => rfl
  case deferred =>
    exact congrArg Host.Outcome.next (issue_trap h (h.older rfl) (release_of_deferred hrel hdef))
  case status =>
    intro x st h
    obtain ⟨hpl, -, htact⟩ := getLsbD_statusBack st
    refine ⟨fun hlevel hdef => ?returns, fun d hlevel hdef hra => ?reported, fun hlevel => ?task, ?halt⟩
    case returns =>
      obtain ⟨t, hdoes, hcore, honly⟩ := does_trapret h hlevel hdef
      have hcw (n : Nat) : getCw (getCore t c.toNat) n = if n = 0 then statusBack st else getCw x n := by
        rw [hcore, getCw_committed, getCw_returned]
      refine ⟨t, hdoes, by rw [hcore, committed_pc], ?_, ?_, fun n hn => (hcw n).trans (if_neg hn), ?_, honly⟩
      · rw [hcw, if_pos rfl, hpl]
      · rw [hcw, if_pos rfl, htact]
      · rw [hcore, committed_g, returned_g]
    case reported =>
      obtain ⟨n, k, hcore⟩ := getCore_trapret_deferred d (getCore s c.toNat).pc (getCw x 2 &&& ~~~(3 : Word)) x.more hra
      obtain ⟨hpl', hppl, htact'⟩ := status_enterTrap (syncCoreSt n k (committed (returned x) (getCore s c.toNat).pc
        (getCw x 2 &&& ~~~(3 : Word)))) d (getCw x 2 &&& ~~~(3 : Word)) true x.more (st.getLsbD 1)
      refine ⟨_, does_trapret_deferred h hlevel hdef, ?_, ?_, ?_, ?_, ?_, ?_, ?_, ?_⟩
      all_goals rw [hcore]
      · rw [getCw_enterTrap]; rfl
      · rw [getCw_enterTrap]; rfl
      · rw [getCw_enterTrap]; rfl
      · exact hpl'
      · exact hppl
      · exact htact'
      · rw [enterTrap_eq, inHandler_pc, getCw_syncCoreSt, getCw_committed, getCw_returned, if_neg (by decide)]
      · rw [enterTrap_eq, inHandler_deferred, setCw_deferred, setCw_deferred, setCw_deferred, setCw_deferred]
        rfl
    case task => exact congrArg Host.Outcome.next (issue_trap h (h.older rfl) (if_pos hlevel))
    case halt =>
      intro hrel hdef hbind hpress hbank hq hj hdbl
      obtain ⟨u, hdoes, honly, hg⟩ := does_halt h hrel hdef hbind hpress hbank hq hj
      have hcore : getCore (haltedState u c.toNat) c.toNat = _ := getCore_modCore_self _ _ _
      refine ⟨_, hdoes, ?_, ?_, fun a => ?_, fun d hd => ?_⟩
      · rw [getCore_trace, hcore]
      · rw [getCore_trace, hcore, getCore_syncCore_self, getCore_modCore_self]
        exact hg
      · rw [rdByte_trace]
        exact (honly.trans (onlyCore_haltedState u c.toNat)).sameMemory a
      · rw [getCore_trace]
        exact (honly.trans (onlyCore_haltedState u c.toNat)).2 d hd

end Sys2Proof.Machine

/-! Barriers (O20): what an arrival changes, the waits and the inits. -/

namespace Sys2Proof.Machine

/-! ### The cores that a completed generation releases (R92) -/

/-- A table changed value by value, where what an unlisted key reads as stays. -/
theorem look_map {α : Type} (d : Nat → α) (f : α → α) (hf : ∀ i, f (d i) = d i) (m : Map α) (i : Nat) :
    look d (m.map fun e => (e.1, f e.2)) i = f (look d m i) := by
  induction m with
  | nil => exact (hf i).symm
  | cons e m ih =>
    rw [List.map_cons, look, look, ih]
    split <;> rfl

/-- A core whose release is on its way, if it waits on that generation of that barrier. -/
def freed (key gen : Nat) (x : CoreSt) : CoreSt :=
  match x.wait with
  | some (.barrier k id g rd _) => if k = key && g = gen then { x with wait := some (.barrier k id g rd true) } else x
  | _ => x

theorem freed_of_awake {x : CoreSt} (h : x.wait = none) (key gen : Nat) : freed key gen x = x := by
  rw [freed, h]

theorem freeWaiters_eq (s : State) (key gen : Nat) :
    freeWaiters s key gen = { s with cores := s.cores.map fun e => (e.1, freed key gen e.2) } := rfl

theorem getCore_freeWaiters (s : State) (key gen d : Nat) :
    getCore (freeWaiters s key gen) d = freed key gen (getCore s d) := by
  rw [freeWaiters_eq]
  exact look_map _ _ (fun _ => freed_of_awake rfl _ _) _ _

/-! ### An arrival (R91, R92) -/

/-- The lags of a generation change clusters alone. -/
theorem noteLags_eq (s : State) (key : Nat) (l : List (Nat × Nat)) :
    ∃ k, noteLags s key l = { s with clusters := k } := by
  have fold (ls : List (Nat × Nat)) : ∀ t : State, (∃ k, t = { s with clusters := k }) →
      ∃ k, ls.foldl (fun s l => modCl s l.1 fun k => { k with lagSum := k.lagSum + l.2, lagCnt := k.lagCnt + 1 }) t =
        { s with clusters := k } := by
    induction ls with
    | nil => exact fun _ h => h
    | cons e ls ih =>
      rintro _ ⟨k, rfl⟩
      exact ih _ ⟨_, rfl⟩
  unfold noteLags
  split
  · exact ⟨_, rfl⟩
  · exact fold _ s ⟨_, rfl⟩

/-- A barrier after one more arrival. -/
def afterArrival (b : Barrier) (at_ : Nat × Nat) : Barrier :=
  if b.count ≤ b.arrived + 1 then { b with arrived := 0, gen := (b.gen + 1) % 2 ^ 32, arrivals := [] }
  else { b with arrived := b.arrived + 1, arrivals := b.arrivals ++ [at_] }

theorem afterArrival_count (b : Barrier) (e : Nat × Nat) : (afterArrival b e).count = b.count := by
  unfold afterArrival
  split <;> rfl

/-- The state after an arrival has been counted and traced. -/
def arrivalTraced (s : State) (c key id : Nat) : State :=
  trace (bumpCore s 0x03 11 c) (c / 16) 3 c [id, (getBar s key).gen]

theorem getCore_arrivalTraced (s : State) (c key id d : Nat) : getCore (arrivalTraced s c key id) d = getCore s d := by
  rw [arrivalTraced, getCore_trace, bumpCore, getCore_bump]

theorem sameMemory_arrivalTraced (s : State) (c key id : Nat) : SameMemory s (arrivalTraced s c key id) := fun a => by
  rw [arrivalTraced, rdByte_trace, bumpCore, rdByte_bump]

/-- What an arrival does: its barrier counts it, and a generation it completes releases the cores that wait. -/
theorem barArrive_eq (s : State) (c key id : Nat) :
    ∃ k, barArrive s c key id = setBar { (if (getBar s key).count ≤ (getBar s key).arrived + 1 then
        freeWaiters (arrivalTraced s c key id) key (getBar s key).gen else arrivalTraced s c key id) with clusters := k } key
      (afterArrival (getBar s key) (c, s.hallmark)) := by
  unfold barArrive afterArrival
  dsimp only
  split
  · obtain ⟨k, hk⟩ := noteLags_eq (setBar (freeWaiters (arrivalTraced s c key id) key (getBar s key).gen) key
      { getBar s key with arrived := 0, gen := ((getBar s key).gen + 1) % 2 ^ 32, arrivals := [] }) key
      ((getBar s key).arrivals ++ [(c, s.hallmark)])
    exact ⟨k, hk⟩
  · exact ⟨_, rfl⟩

theorem getBar_barArrive (s : State) (c key id : Nat) :
    getBar (barArrive s c key id) key = afterArrival (getBar s key) (c, s.hallmark) := by
  obtain ⟨k, hk⟩ := barArrive_eq s c key id
  rw [hk, getBar_setBar_self]

/-- A core that does not wait is as it was after an arrival. -/
theorem getCore_barArrive {s : State} {d : Nat} (h : (getCore s d).wait = none) (c key id : Nat) :
    getCore (barArrive s c key id) d = getCore s d := by
  obtain ⟨k, hk⟩ := barArrive_eq s c key id
  have hcore (t : State) (b : Barrier) : getCore (setBar { t with clusters := k } key b) d = getCore t d := rfl
  rw [hk, hcore]
  split
  · rw [getCore_freeWaiters, getCore_arrivalTraced, freed_of_awake h]
  · rw [getCore_arrivalTraced]

theorem sameMemory_barArrive (s : State) (c key id : Nat) : SameMemory s (barArrive s c key id) := fun a => by
  obtain ⟨k, hk⟩ := barArrive_eq s c key id
  have hbyte (t : State) (b : Barrier) : rdByte (setBar { t with clusters := k } key b) a = rdByte t a := rfl
  have hfree (t : State) (g : Nat) : rdByte (freeWaiters t key g) a = rdByte t a := rfl
  rw [hk, hbyte]
  split
  · rw [hfree, sameMemory_arrivalTraced s c key id a]
  · rw [sameMemory_arrivalTraced s c key id a]

/-- A generation has completed after the arrival that completes its count, and not after another. -/
theorem genDone_afterArrival (b : Barrier) (e : Nat × Nat) :
    genDone (afterArrival b e) b.gen = decide (b.count ≤ b.arrived + 1) := by
  unfold genDone afterArrival
  by_cases h : b.count ≤ b.arrived + 1
  · have hd : ((b.gen + 1) % 2 ^ 32 + 2 ^ 32 - b.gen % 2 ^ 32) % 2 ^ 32 = 1 := by omega
    simp only [h, if_true, hd, decide_true]
    rfl
  · have hd : (b.gen + 2 ^ 32 - b.gen % 2 ^ 32) % 2 ^ 32 = 0 := by omega
    simp only [h, if_false, hd, decide_false]
    rfl

/-- What an arrival leaves of its barrier's generation and count (R92). -/
theorem afterArrival_cases (b : Barrier) (e : Nat × Nat) :
    (b.count ≤ b.arrived + 1 → (afterArrival b e).gen = (b.gen + 1) % 2 ^ 32 ∧ (afterArrival b e).arrived = 0) ∧
    (b.arrived + 1 < b.count → (afterArrival b e).gen = b.gen ∧ (afterArrival b e).arrived = b.arrived + 1) := by
  unfold afterArrival
  refine ⟨fun h => ?_, fun h => ?_⟩
  · rw [if_pos h]
    exact ⟨rfl, rfl⟩
  · rw [if_neg (Nat.not_le.mpr h)]
    exact ⟨rfl, rfl⟩

/-! ### The forms of BARRIER (Table 3.14) -/

theorem withBarrier_of_key {s : State} {c ra key : Nat} {k : Nat → Nat → Eff}
    (h : barKey s c ((gpr (getCore s c) ra).toNat % 4096) = some key) :
    withBarrier s c ra k = k key ((gpr (getCore s c) ra).toNat % 4096) := by
  simp only [withBarrier, h]

theorem getBar_commit (s : State) (c : Nat) (a b : Word) (key : Nat) : getBar (commit s c a b) key = getBar s key := by
  rw [((OnlyCore.refl c s).commit a b).1]
  rfl

theorem getBar_beginWait (s : State) (c : Nat) (w : WaitOn) (key : Nat) : getBar (beginWait s c w) key = getBar s key := by
  rw [beginWait, getBar_modCore, syncCore, getBar_modCore]

/-- The state after an arrival of a core, with the generation it belongs to in rd. -/
def arrivedIn (s : State) (c key id rd : Nat) : State :=
  modCore (barArrive s c key id) c fun x => setGpr x rd (BitVec.ofNat 64 (getBar s key).gen)

theorem getBar_arrivedIn (s : State) (c key id rd : Nat) :
    getBar (arrivedIn s c key id rd) key = afterArrival (getBar s key) (c, s.hallmark) :=
  getBar_barArrive s c key id

theorem getCore_arrivedIn {s : State} {c : Nat} (h : (getCore s c).wait = none) (key id rd : Nat) :
    getCore (arrivedIn s c key id rd) c = setGpr (getCore s c) rd (BitVec.ofNat 64 (getBar s key).gen) := by
  rw [arrivedIn, getCore_modCore_self, getCore_barArrive h]

theorem sameMemory_arrivedIn (s : State) (c key id rd : Nat) : SameMemory s (arrivedIn s c key id rd) := fun a =>
  ((OnlyCore.modCore _ c _).sameMemory a).trans (sameMemory_barArrive s c key id a)

section Forms

variable {c : CoreId} {rd ra rb : GReg} {s s1 : State} {key : Nat}

/-- BARRIER, arrive, at a release point with nothing to wait for. -/
theorem does_barrierArrive (h : Issues s c.toNat ⟨4, [rd.toNat, ra.toNat], true⟩ s1)
    (hkey : barKey s1 c.toNat ((gpr (getCore s1 c.toNat) ra.toNat).toNat % 4096) = some key)
    (hrel : released s1 c.toNat = true) (hdef : (getCore s1 c.toNat).deferred = none) :
    Does (.barrierArrive c rd ra) s (commit
      (arrivedIn s1 c.toNat key ((gpr (getCore s1 c.toNat) ra.toNat).toNat % 4096) rd.toNat) c.toNat
      (getCore s c.toNat).pc ((getCore s c.toNat).pc + 4)) :=
  congrArg Host.Outcome.next (issue_go h ((withBarrier_of_key hkey).trans (release_of_done hrel hdef)))

/-- BARRIER, arrive and wait, at a release point with nothing to wait for. -/
theorem does_barrierArriveAndWait (h : Issues s c.toNat ⟨4, [rd.toNat, ra.toNat], true⟩ s1)
    (hkey : barKey s1 c.toNat ((gpr (getCore s1 c.toNat) ra.toNat).toNat % 4096) = some key)
    (hrel : released s1 c.toNat = true) (hdef : (getCore s1 c.toNat).deferred = none) :
    Does (.barrierArriveAndWait c rd ra) s (beginWait
      (arrivedIn s1 c.toNat key ((gpr (getCore s1 c.toNat) ra.toNat).toNat % 4096) rd.toNat) c.toNat
      (.barrier key ((gpr (getCore s1 c.toNat) ra.toNat).toNat % 4096) (getBar s1 key).gen rd.toNat
        (decide ((getBar s1 key).count ≤ (getBar s1 key).arrived + 1)))) := by
  rw [← genDone_afterArrival (getBar s1 key) (c.toNat, s1.hallmark),
    ← getBar_arrivedIn s1 c.toNat key ((gpr (getCore s1 c.toNat) ra.toNat).toNat % 4096) rd.toNat]
  exact congrArg Host.Outcome.next (issue_stall h ((withBarrier_of_key hkey).trans (release_of_done hrel hdef)))

/-- BARRIER, wait, for a generation that has completed is an acquire point. -/
theorem does_barrierWait_done (h : Issues s c.toNat ⟨4, [rd.toNat, ra.toNat, rb.toNat], true⟩ s1)
    (hkey : barKey s1 c.toNat ((gpr (getCore s1 c.toNat) ra.toNat).toNat % 4096) = some key)
    (hdone : genDone (getBar s1 key) ((gpr (getCore s1 c.toNat) rb.toNat).toNat % 2 ^ 32) = true) :
    Does (.barrierWait c rd ra rb) s (commit (modCore s1 c.toNat acquire) c.toNat (getCore s c.toNat).pc
      ((getCore s c.toNat).pc + 4)) :=
  congrArg Host.Outcome.next (issue_go h ((withBarrier_of_key hkey).trans (if_pos hdone)))

/-- BARRIER, wait, for a generation that has not completed waits. -/
theorem does_barrierWait_waits (h : Issues s c.toNat ⟨4, [rd.toNat, ra.toNat, rb.toNat], true⟩ s1)
    (hkey : barKey s1 c.toNat ((gpr (getCore s1 c.toNat) ra.toNat).toNat % 4096) = some key)
    (hdone : genDone (getBar s1 key) ((gpr (getCore s1 c.toNat) rb.toNat).toNat % 2 ^ 32) = false) :
    Does (.barrierWait c rd ra rb) s (beginWait s1 c.toNat (.barrier key
      ((gpr (getCore s1 c.toNat) ra.toNat).toNat % 4096) ((gpr (getCore s1 c.toNat) rb.toNat).toNat % 2 ^ 32) rd.toNat
      false)) :=
  congrArg Host.Outcome.next (issue_stall h
    ((withBarrier_of_key hkey).trans (if_neg (by rw [hdone]; exact Bool.false_ne_true))))

/-- BARRIER, init, at supervisor level, of a barrier that no core has arrived at. -/
theorem does_barrierInit (h : Issues s c.toNat ⟨4, [ra.toNat, rb.toNat], true⟩ s1)
    (hkey : barKey s1 c.toNat ((gpr (getCore s1 c.toNat) ra.toNat).toNat % 4096) = some key)
    (hlevel : atTask (getCore s1 c.toNat) = false) (hlo : 1 ≤ (gpr (getCore s1 c.toNat) rb.toNat).toNat)
    (hhi : (gpr (getCore s1 c.toNat) rb.toNat).toNat ≤ 16) (hnone : (getBar s1 key).arrived = 0) :
    Does (.barrierInit c ra rb) s (commit (setBar s1 key ⟨(gpr (getCore s1 c.toNat) rb.toNat).toNat, 0, 0, []⟩) c.toNat
      (getCore s c.toNat).pc ((getCore s c.toNat).pc + 4)) := by
  refine congrArg Host.Outcome.next (issue_go h ?_)
  have hcount : (decide ((gpr (getCore s1 c.toNat) rb.toNat).toNat = 0) ||
      decide ((if key < 0x10000 then 16 else 4096) < (gpr (getCore s1 c.toNat) rb.toNat).toNat)) = false := by
    rw [Bool.or_eq_false_iff, decide_eq_false_iff_not, decide_eq_false_iff_not]
    split <;> omega
  simp only [hlevel, withBarrier_of_key hkey, hcount, hnone, Nat.lt_irrefl, decide_false, Bool.false_eq_true, if_false]

/-- BARRIER, init, of a cluster barrier with a count that it may not have takes trap 0x04 (R93). -/
theorem does_barrierInit_count (h : Issues s c.toNat ⟨4, [ra.toNat, rb.toNat], true⟩ s1)
    (hkey : barKey s1 c.toNat ((gpr (getCore s1 c.toNat) ra.toNat).toNat % 4096) = some key)
    (hlevel : atTask (getCore s1 c.toNat) = false) (hcluster : key < 0x10000)
    (hcount : (gpr (getCore s1 c.toNat) rb.toNat).toNat = 0 ∨ 16 < (gpr (getCore s1 c.toNat) rb.toNat).toNat) :
    Does (.barrierInit c ra rb) s (takeTrap s1 c.toNat ⟨4, 0, (gpr (getCore s1 c.toNat) rb.toNat).toNat⟩
      (getCore s c.toNat).pc false false) := by
  refine congrArg Host.Outcome.next (issue_trap h (h.older rfl) ?_)
  have hbad : (decide ((gpr (getCore s1 c.toNat) rb.toNat).toNat = 0) ||
      decide (16 < (gpr (getCore s1 c.toNat) rb.toNat).toNat)) = true := by
    simpa using hcount
  simp only [hlevel, withBarrier_of_key hkey, hcluster, hbad, Bool.false_eq_true, if_false, if_true]
  rfl

end Forms

/-- Settles O20: each form of BARRIER by the state it leaves, the barrier by what an arrival makes of it. -/
theorem barriers : Obligations.Barriers := by
  unfold Obligations.Barriers
  refine ⟨fun c rd ra s s1 key => ?arrivals, fun c rd ra rb s s1 key => ?others⟩
  case arrivals =>
    intro id b h hkey hrel hdef
    have hawake := h.awake.1
    have hbar := getBar_arrivedIn s1 c.toNat key id rd.toNat
    obtain ⟨hlast, hmore⟩ := afterArrival_cases b (c.toNat, s1.hallmark)
    refine ⟨⟨_, does_barrierArrive h hkey hrel hdef, ?_, fun hrd => ?_, ?_, ?_, ?_,
      (sameMemory_arrivedIn _ _ _ _ _).commit _ _ _⟩, ⟨_, does_barrierArriveAndWait h hkey hrel hdef, ?_, ?_, ?_, ?_⟩⟩
    · rw [getCore_commit, committed_pc]
    · have hrd' : rd.toNat ≠ 0 := fun h0 => hrd (BitVec.eq_of_toNat_eq h0)
      rw [getCore_commit, gpr_committed, getCore_arrivedIn hawake, gpr_setGpr, if_pos ⟨rfl, hrd'⟩]
    · rw [getBar_commit, hbar]; exact hlast
    · rw [getBar_commit, hbar]; exact hmore
    · rw [getBar_commit, hbar, afterArrival_count]
    · rw [getCore_beginWait]
    · rw [getCore_beginWait]
    · rw [getBar_beginWait, hbar]; exact hlast
    · rw [getBar_beginWait, hbar]; exact hmore
  case others =>
    intro x id n hkey
    refine ⟨fun h hdone => ?done, fun h hdone => ?waits, fun h hlevel hlo hhi hnone => ?init,
      fun h _ hlevel hcluster hcount => ?count⟩
    case done =>
      have honly := (OnlyCore.modCore s1 c.toNat acquire).commit (getCore s c.toNat).pc ((getCore s c.toNat).pc + 4)
      refine ⟨_, does_barrierWait_done h hkey hdone, ?_, ?_, ?_, honly⟩
      all_goals rw [getCore_commit, getCore_modCore_self]
      · rfl
      · rfl
      · rfl
    case waits =>
      refine ⟨_, does_barrierWait_waits h hkey hdone, ?_, ?_, onlyCore_beginWait _ _ _⟩
      all_goals rw [getCore_beginWait]
    case init => exact does_barrierInit h hkey hlevel hlo hhi hnone
    case count => exact does_barrierInit_count h hkey hlevel hcluster hcount

end Sys2Proof.Machine

/-! Press commands (O24): how a command enters its queue, and what PSYNC finds. -/

namespace Sys2Proof.Machine

/-! ### A unit changed twice -/

theorem filter_ne_insertAt {α : Type} (i : Nat) (x : α) (m : Map α) :
    (insertAt i x m).filter (fun e => e.1 != i) = m.filter fun e => e.1 != i := by
  induction m with
  | nil => simp [insertAt]
  | cons e m ih =>
    obtain ⟨k, v⟩ := e
    rw [insertAt]
    split
    · simp
    · rw [List.filter_cons, List.filter_cons, ih]

/-- The last value put at a key stands. -/
theorem put_put {α : Type} [DecidableEq α] (d : Nat → α) (m : Map α) (i : Nat) (x y : α) :
    put d (put d m i x) i y = put d m i y := by
  have hrest : (put d m i x).filter (fun e => e.1 != i) = m.filter fun e => e.1 != i := by
    unfold put
    dsimp only
    split
    · rw [List.filter_filter]; simp
    · rw [filter_ne_insertAt, List.filter_filter]; simp
  rw [put, hrest]
  rfl

theorem setCore_setCore (s : State) (c : Nat) (x y : CoreSt) : setCore (setCore s c x) c y = setCore s c y := by
  unfold setCore
  rw [put_put]

/-- A core replaced and then changed is replaced once. -/
theorem modCore_setCore (s : State) (c : Nat) (x : CoreSt) (f : CoreSt → CoreSt) :
    modCore (setCore s c x) c f = setCore s c (f x) := by
  rw [modCore, getCore_setCore_self, setCore_setCore]

/-! ### The queue of a press (R117) -/

/-- A press that takes a core's command queues it. -/
theorem pressIssue_of_takes {s : State} {c : Nat} (h : PressTakes s c) (p : PressCmd) (f : CoreSt → CoreSt) :
    pressIssue s c p f = .go (pressQueued s c p f) := by
  obtain ⟨hfailed, habsent, hroom⟩ := h
  have hcore (k : Nat) : getCl (modCore s c f) k = getCl s k := getCl_modCore s c f k
  simp only [pressIssue, pressQueued, hfailed, habsent, Bool.or_self, Bool.false_eq_true, if_false,
    Nat.not_le.mpr hroom]

/-- What the issue of a press command checks of a descriptor that the rules accept (R108, R109). -/
theorem PressTensor.accepted {s : State} {c d : Nat} (h : PressTensor s c d) :
    (decide ((pressDesc (dreg (getCore s c) d).toNat).kind ≠ 1) || (pressDesc (dreg (getCore s c) d).toNat).rsv) = false ∧
      pressFault (c / 16) (pressDesc (dreg (getCore s c) d).toNat) = none := by
  obtain ⟨hkind, hrsv, hfault⟩ := h
  exact ⟨by rw [hkind, hrsv]; rfl, hfault⟩

/-! ### PSYNC (R114, R131) -/

/-- A core whose press flags and faults have been taken by a PSYNC. -/
def pressSynced (x : CoreSt) : CoreSt :=
  { setFlags x x.pFlags with pFlags := 0, pFaults := [], waitPload := false }

section Psync

variable {c : CoreId} {rd : GReg} {nw : Bool}

/-- PSYNC with nothing outstanding and no fault pending applies the flags and writes 0 (R114). -/
theorem commitLaw_psync_done : CommitLaw (.psync c rd nw) c 4 [rd.toNat] true
    (fun s1 => pressOutstanding s1 c.toNat = 0 ∧ (getCore s1 c.toNat).pFaults = [])
    (fun s1 => modCore s1 c.toNat fun x => setGpr (pressSynced x) rd.toNat 0) := by
  refine commitLaw_of_go (fun _ => rfl) fun s ⟨hnone, hfaults⟩ => ?_
  simp only [hnone, hfaults, ne_eq, not_true_eq_false, if_false, modCore_setCore]
  rfl

/-- PSYNC with nw = 1 writes the number outstanding (R114). -/
theorem commitLaw_psync_counts : CommitLaw (.psync c rd true) c 4 [rd.toNat] true
    (fun s1 => pressOutstanding s1 c.toNat ≠ 0)
    (fun s1 => modCore s1 c.toNat fun x => setGpr x rd.toNat (BitVec.ofNat 64 (pressOutstanding s1 c.toNat))) :=
  commitLaw_of_go (fun _ => rfl) fun _ hsome => if_pos hsome

variable {s s1 : State}

/-- PSYNC with nw = 0 waits for what is outstanding (R110, R114). -/
theorem does_psync_waits (h : Issues s c.toNat ⟨4, [rd.toNat], true⟩ s1) (hsome : pressOutstanding s1 c.toNat ≠ 0) :
    Does (.psync c rd false) s
      (pressAdvance 40 (modCore s1 c.toNat fun x => { x with waitPload := true }) (c.toNat / 16)) :=
  congrArg Host.Outcome.next (issue_stall h (if_pos hsome))

/-- PSYNC with nothing outstanding takes the oldest pending fault as a trap (R131). -/
theorem does_psync_fault {t : TrapInfo} {r : List TrapInfo} (h : Issues s c.toNat ⟨4, [rd.toNat], true⟩ s1)
    (hnone : pressOutstanding s1 c.toNat = 0) (hfaults : (getCore s1 c.toNat).pFaults = t :: r) :
    Does (.psync c rd nw) s
      (takeTrap (modCore s1 c.toNat pressSynced) c.toNat t (getCore s c.toNat).pc true (!r.isEmpty)) := by
  refine congrArg Host.Outcome.next (issue_trap h (h.older rfl) ?_)
  simp only [hnone, hfaults, ne_eq, not_true_eq_false, if_false]
  rfl

end Psync

/-- Settles O24: PLOAD, PFEED and PDRAIN pass their checks in turn and are queued; PSYNC by what it finds. -/
theorem pressCommands : Obligations.PressCommands := by
  unfold Obligations.PressCommands
  refine ⟨fun c d ga gb f1 last => ?queued, fun c rd nw => ?psync⟩
  case queued =>
    dsimp only
    refine ⟨?load, fun rows => ?feed, fun rows => ?drain⟩
    case load =>
      refine commitLaw_of_go (fun _ => rfl) fun s ⟨⟨htakes, htensor⟩, hfmt, halign, hinner, houter⟩ => ?_
      obtain ⟨hdesc, hfault⟩ := htensor.accepted
      simp only [hdesc, hfmt, hfault, Bool.not_true, Bool.false_eq_true, if_false]
      refine (if_neg ?_).trans (pressIssue_of_takes htakes _ _)
      simp only [Bool.or_eq_true, decide_eq_true_eq]; omega
    case feed =>
      refine commitLaw_of_go (fun _ => rfl)
        fun s ⟨⟨htakes, htensor⟩, hfmt, hlo, hhi, hin, halign, hinner, hrows⟩ => ?_
      obtain ⟨hdesc, hfault⟩ := htensor.accepted
      simp only [hdesc, hfmt, hfault, hrows, Bool.not_true, Bool.false_eq_true, if_false]
      refine (if_neg ?_).trans (pressIssue_of_takes htakes _ _)
      simp only [Bool.or_eq_true, decide_eq_true_eq]; omega
    case drain =>
      refine commitLaw_of_go (fun _ => rfl)
        fun s ⟨⟨htakes, htensor⟩, hfmtA, hfmtC, hfmtF, hlo, hhi, hin, hinner, hblock, hrows⟩ => ?_
      obtain ⟨hdesc, hfault⟩ := htensor.accepted
      simp only [hdesc, hfmtA, hfmtC, hfmtF, hfault, hrows, decide_false, Bool.or_self, Bool.false_eq_true, if_false]
      refine (if_neg ?_).trans (pressIssue_of_takes htakes _ _)
      simp only [Bool.or_eq_true, Bool.and_eq_true, decide_eq_true_eq]; omega
  case psync =>
    exact ⟨commitLaw_psync_done, commitLaw_psync_counts, fun s s1 => does_psync_waits,
      fun s s1 t r => does_psync_fault⟩

end Sys2Proof.Machine

/-! The press at work (O25): grants, tile loads, the ends of passes, drains. -/

namespace Sys2Proof.Machine

/-! ### What a trace record leaves of a cluster (R492, R494) -/

/-- A cluster that differs from another at most in its trace buffer and the count of records it lost. -/
def SameButTrace (x y : ClusterSt) : Prop := ∃ l n, y = { x with trace := l, traceLost := n }

theorem SameButTrace.refl (x : ClusterSt) : SameButTrace x x := ⟨x.trace, x.traceLost, rfl⟩

theorem SameButTrace.trans {x y z : ClusterSt} (h : SameButTrace x y) (h' : SameButTrace y z) : SameButTrace x z := by
  obtain ⟨l, n, rfl⟩ := h
  obtain ⟨l', n', rfl⟩ := h'
  exact ⟨l', n', rfl⟩

theorem SameButTrace.queues {x y : ClusterSt} (h : SameButTrace x y) : y.queues = x.queues := by
  obtain ⟨_, _, rfl⟩ := h; rfl

theorem SameButTrace.shadow {x y : ClusterSt} (h : SameButTrace x y) : y.shadow = x.shadow := by
  obtain ⟨_, _, rfl⟩ := h; rfl

theorem SameButTrace.susp {x y : ClusterSt} (h : SameButTrace x y) : y.susp = x.susp := by
  obtain ⟨_, _, rfl⟩ := h; rfl

theorem SameButTrace.lastRun {x y : ClusterSt} (h : SameButTrace x y) : y.lastRun = x.lastRun := by
  obtain ⟨_, _, rfl⟩ := h; rfl

/-- A cluster changed in its trace buffer alone, seen beside every other cluster. -/
theorem sameButTrace_modCl {s : State} {k : Nat} {f : ClusterSt → ClusterSt}
    (h : SameButTrace (getCl s k) (f (getCl s k))) (j : Nat) :
    SameButTrace (getCl s j) (getCl (modCl s k f) j) := by
  by_cases hj : j = k
  · rw [hj, getCl_modCl_self]
    exact h
  · rw [getCl_modCl_ne _ _ _ _ hj]
    exact .refl _

theorem sameButTrace_trace (s : State) (k kind source : Nat) (payload : List Nat) (j : Nat) :
    SameButTrace (getCl s j) (getCl (trace s k kind source payload) j) := by
  have hbuffer (l : List TraceRec) : SameButTrace (getCl s j) (getCl (setCl s k { getCl s k with trace := l }) j) :=
    sameButTrace_modCl (f := fun x => { x with trace := l }) ⟨l, _, rfl⟩ j
  have hdrop (t : State) (m : Nat) : SameButTrace (getCl t j)
      (getCl (addRegField (modCl t k fun x => { x with traceLost := min m (x.traceLost + 1) }) (oTrStat k) 32 32 1) j) := by
    rw [getCl_addRegField]
    exact sameButTrace_modCl (f := fun x => { x with traceLost := min m (x.traceLost + 1) }) ⟨_, _, rfl⟩ j
  unfold trace
  dsimp only
  split
  · exact .refl _
  split
  · exact hdrop s _
  split
  · exact hbuffer _
  split
  · exact (hbuffer _).trans (hdrop _ _)
  · exact hdrop s _

/-! ### The arbiter (R118, R119, R126) -/

/-- Whether the press ramps up as its arbiter chooses a run (R126). -/
def rampsUp (s : State) (k : Nat) : Bool :=
  regField s (oPrCtl k) 24 1 == 1 && !(getCl s k).paused &&
    ((getCl s k).activity == .idle || (getCl s k).activity == .rampDown)

theorem rampsUp_iff (s : State) (k : Nat) : rampsUp s k = true ↔ regField s (oPrCtl k) 24 1 = 1 ∧
    (getCl s k).paused = false ∧ ((getCl s k).activity = .idle ∨ (getCl s k).activity = .rampDown) := by
  simp [rampsUp, and_assoc]

/-- The activity of a press whose arbiter has chosen a run (R126). -/
def grantedActivity (s : State) (k : Nat) : Activity := if rampsUp s k then .rampUp else (getCl s k).activity

/-- A cluster whose arbiter has chosen a suspended run of core i again, which is to be reloaded at a depth (R119). -/
def chosenAgain (x : ClusterSt) (i : Nat) (r : PressRun) (kt : Nat) (a : Activity) : ClusterSt :=
  { x with
    shadow := some { r with kt := kt, loaded := false, again := true }, susp := x.susp.filter (·.core != i)
    lastRun := i, activity := a }

/-- The state in which a suspended run has been chosen again, before the trace of it: the reload is counted. -/
def reloading (s : State) (k i : Nat) (r : PressRun) (kt : Nat) : State :=
  bump (modCl s k fun x => chosenAgain x i r kt (grantedActivity s k)) 0x04 7 1 (.core (k * 16 + i))

theorem getCl_reloading (s : State) (k i : Nat) (r : PressRun) (kt : Nat) :
    getCl (reloading s k i r kt) k = chosenAgain (getCl s k) i r kt (grantedActivity s k) := by
  rw [reloading, getCl_bump, getCl_modCl_self]

theorem sameMemory_reloading (s : State) (k i : Nat) (r : PressRun) (kt : Nat) : SameMemory s (reloading s k i r kt) :=
  fun a => by rw [reloading, rdByte_bump, rdByte_modCl]

section Work

variable {k : ClusterId} {s : State} {i : Nat} {h : PressCmd} {q : List PressCmd} {r : PressRun}

/-- A press that works and whose shadow weights are free may be granted a run. -/
theorem grant_open (hruns : PressRuns s k.toNat) (hshadow : (getCl s k.toNat).shadow = none)
    (hup : dieUp s (k.toNat / 64) = true) :
    ((getCl s k.toNat).failed || (getCl s k.toNat).absent || decide ((getCl s k.toNat).power ≠ .on) ||
      (getCl s k.toNat).shadow.isSome || !dieUp s (k.toNat / 64)) = false := by
  obtain ⟨hfailed, habsent, hon⟩ := hruns
  simp [hfailed, habsent, hon, hshadow, hup]

/-- The arbiter's choice of a PLOAD begins to load into the shadow weights (R110, R118). -/
theorem does_pressGrant_load (hruns : PressRuns s k.toNat) (hchoice : pressChoice s k.toNat = some i)
    (hqueue : pressQueue (getCl s k.toNat) i = h :: q) (hop : h.op = 0) (hshadow : (getCl s k.toNat).shadow = none)
    (hup : dieUp s (k.toNat / 64) = true) :
    Does (.pressGrant k) s (trace (pressAdvance 40 (popPress (modCl s k.toNat fun y => { y with
      shadow := some ⟨i, h, h.kt, false, false, [], none, elapsed s⟩, lastRun := i
      activity := grantedActivity s k.toNat }) k.toNat i) k.toNat) k.toNat 5 k.toNat [i, h.f1.toNat]) := by
  refine congrArg Host.Outcome.next ?_
  simp only [hchoice, grant_open hruns hshadow hup, hqueue, hop, List.head?_cons, Bool.false_eq_true, if_false, if_true]
  rfl

/-- The arbiter's choice of a suspended run begins to reload it (R119). -/
theorem does_pressGrant_reload (hruns : PressRuns s k.toNat) (hchoice : pressChoice s k.toNat = some i)
    (hqueue : pressQueue (getCl s k.toNat) i = h :: q) (hop : h.op = 1)
    (hsusp : (getCl s k.toNat).susp.find? (·.core == i) = some r) (hshadow : (getCl s k.toNat).shadow = none)
    (hup : dieUp s (k.toNat / 64) = true) :
    Does (.pressGrant k) s (trace (reloading s k.toNat i r (tileDepth (pressDesc r.load.d).fmt (pressDesc h.d).fmt))
      k.toNat 5 k.toNat [i, r.load.f1.toNat]) := by
  have hop' : ¬ h.op = 0 := by omega
  refine congrArg Host.Outcome.next ?_
  simp only [hchoice, grant_open hruns hshadow hup, hqueue, hop', hsusp, List.head?_cons, Bool.false_eq_true, if_false]
  rfl

/-- The tile's end puts it into the shadow weights and lets the press go on (R115, R118). -/
theorem does_tileLoadComplete (hruns : PressRuns s k.toNat) (hshadow : (getCl s k.toNat).shadow = some r)
    (hloaded : r.loaded = false) (hbuf : (getCore s (k.toNat * 16 + r.core)).buf = []) :
    Does (.tileLoadComplete k) s (settle (pressAdvance 40 (modCl (loadTile s k.toNat r r.kt).1 k.toNat fun y =>
      { y with shadow := some (loadTile s k.toNat r r.kt).2 }) k.toNat) (k.toNat * 16 + r.core)) := by
  obtain ⟨hfailed, -, hon⟩ := hruns
  have hopen : (r.loaded || (getCl s k.toNat).failed || decide ((getCl s k.toNat).power ≠ .on) ||
      !(getCore s (k.toNat * 16 + r.core)).buf.isEmpty) = false := by
    simp [hloaded, hfailed, hon, hbuf]
  refine congrArg Host.Outcome.next ?_
  simp only [hshadow, hopen, Bool.false_eq_true, if_false]

/-! ### The end of a pass (R111, R121, R127) -/

/-- A cluster whose pass has ended: the feed is free, and its run closes if the pass was the last. -/
def passEnded (y : ClusterSt) (last : Bool) (time : Nat) (a : Activity) : ClusterSt :=
  { y with feed := none, fed := false, current := if last then none else y.current, passEnd := time, activity := a }

/-- The state with the results of every vector of a pass in the accumulators (R111). -/
def passResults (s : State) (k : Nat) (r : PressRun) (p : PressCmd) : State :=
  (List.range (cmdRows p).2).foldl (fun s j => passVector s k r p j) s

/-- A pass that has fed ends. -/
theorem does_passComplete {p : PressCmd} (hfeed : (getCl s k.toNat).feed = some (i, p))
    (hcurrent : (getCl s k.toNat).current = some r) (hfed : (getCl s k.toNat).fed = true)
    (hon : (getCl s k.toNat).power = .on) :
    Does (.passComplete k) s (settle (pressAdvance 40 (modCl (passResults s k.toNat r p) k.toNat fun y =>
      passEnded y p.last (elapsed s)
        (if (getCl s k.toNat).activity = .passes then afterPass s k.toNat else y.activity)) k.toNat)
      (k.toNat * 16 + i)) := by
  have hopen : (!(getCl s k.toNat).fed || decide ((getCl s k.toNat).power ≠ .on)) = false := by simp [hfed, hon]
  refine congrArg Host.Outcome.next ?_
  simp only [hfeed, hcurrent, hopen, Bool.false_eq_true, if_false]
  rfl

/-! ### Drains (R113, R120) -/

/-- The drain engine takes the PDRAIN at the head of a queue, in round-robin order (R120). -/
theorem does_drainEngineGrant (hruns : PressRuns s k.toNat)
    (hturn : roundRobin (getCl s k.toNat).lastDrain
      ((List.range 16).filter fun i => (pressQueue (getCl s k.toNat) i).head?.any (·.op == 2)) = some i)
    (hhead : (pressQueue (getCl s k.toNat) i).head? = some h) (hdrain : (getCl s k.toNat).drain = none) :
    Does (.drainEngineGrant k) s (pressAdvance 40 (popPress (modCl s k.toNat fun y =>
      { y with drain := some (i, h), lastDrain := i }) k.toNat i) k.toNat) := by
  obtain ⟨hfailed, habsent, hon⟩ := hruns
  have hopen : ((getCl s k.toNat).failed || (getCl s k.toNat).absent || decide ((getCl s k.toNat).power ≠ .on) ||
      (getCl s k.toNat).drain.isSome) = false := by
    simp [hfailed, habsent, hon, hdrain]
  refine congrArg Host.Outcome.next ?_
  simp only [hturn, hhead, hopen, Bool.false_eq_true, if_false]

/-- A drain that meets no pass writes its rows, reports what failed and frees the engine (R113, R130). -/
theorem does_drainComplete {p : PressCmd} (hruns : PressRuns s k.toNat) (hdrain : (getCl s k.toNat).drain = some (i, p))
    (hmeets : (getCl s k.toNat).feed.any (fun f => rowsMeet f.2 p) = false)
    (hbuf : (getCore s (k.toNat * 16 + i)).buf = []) :
    let u := drainRows s k.toNat i p
    Does (.drainComplete k) s (settle (pressAdvance 40 (modCl (drainFaults u.1 (k.toNat * 16 + i) u.2.1 u.2.2) k.toNat
      fun y => { y with drain := none }) k.toNat) (k.toNat * 16 + i)) := by
  have hopen : (decide ((getCl s k.toNat).power ≠ .on) || (getCl s k.toNat).feed.any (fun f => rowsMeet f.2 p) ||
      !(getCore s (k.toNat * 16 + i)).buf.isEmpty) = false := by
    simp [hruns.2.2, hmeets, hbuf]
  refine congrArg Host.Outcome.next ?_
  simp only [hdrain, hopen, Bool.false_eq_true, if_false]

end Work

/-- Settles O25: grants, tile loads, passes and drains each by the state they leave. (The model's `pressWork` is a
function of a cluster.) -/
theorem Press.pressWork : Obligations.PressWork := by
  unfold Obligations.PressWork
  refine ⟨fun k s hruns => ⟨?load, ?reload, fun r => does_tileLoadComplete hruns⟩, fun k s i p r => ?pass,
    fun k s hruns => ⟨fun i h => does_drainEngineGrant hruns, fun i p => does_drainComplete hruns⟩⟩
  case load =>
    intro i h q hchoice hqueue hop hshadow hup
    refine ⟨grantedActivity s k.toNat, fun hramps => ?_, fun hramps => ?_,
      does_pressGrant_load hruns hchoice hqueue hop hshadow hup⟩
    · exact if_pos ((rampsUp_iff _ _).2 hramps)
    · exact if_neg (mt (rampsUp_iff _ _).1 hramps)
  case reload =>
    intro i h q r hchoice hqueue hop hsusp hshadow hup
    have hcl := sameButTrace_trace
      (reloading s k.toNat i r (tileDepth (pressDesc r.load.d).fmt (pressDesc h.d).fmt)) k.toNat 5 k.toNat
      [i, r.load.f1.toNat] k.toNat
    rw [getCl_reloading] at hcl
    refine ⟨_, _, does_pressGrant_reload hruns hchoice hqueue hop hsusp hshadow hup, hcl.shadow, rfl, rfl, rfl, rfl, rfl,
      hcl.susp, hcl.lastRun, ?_, fun a => ?_⟩
    · exact (congrArg (fun m => look (fun _ => []) m i) hcl.queues).trans hqueue
    · exact (rdByte_trace _ _ _ _ _ a).trans (sameMemory_reloading _ _ _ _ _ a)
  case pass =>
    intro x hfeed hcurrent hfed hon s1
    refine ⟨_, does_passComplete hfeed hcurrent hfed hon, ?_⟩
    rw [modCl, getCl_setCl_self]
    refine ⟨rfl, rfl, rfl, rfl, fun hlast => ?_, fun hlast => ?_, fun hpasses => ?_⟩
    · exact if_pos hlast
    · exact if_neg (ne_true_of_eq_false hlast)
    · exact if_pos hpasses

end Sys2Proof.Machine

/-! The activity of a press (O26): suspension, gaps, ramps and failure. -/

namespace Sys2Proof.Machine

/-! ### Suspension (R119) -/

/-- The current run of a core with nothing queued is suspended while another core has a candidate. -/
theorem does_runSuspend {k : ClusterId} {s : State} {r : PressRun} {j : Nat}
    (hcurrent : (getCl s k.toNat).current = some r) (hfeed : (getCl s k.toNat).feed = none)
    (hon : (getCl s k.toNat).power = .on) (hempty : pressQueue (getCl s k.toNat) r.core = []) (hj : j < 16)
    (hother : j ≠ r.core) (hcand : pressCandidate s k.toNat j = true) :
    Does (.runSuspend k) s (pressAdvance 40 (modCl (advanceTo s (look (fun _ => 0) (getCl s k.toNat).emptyAt r.core +
      cyclesNs (getCl s k.toNat) (regField s (oPrCtl k.toNat) 16 8))) k.toNat fun y =>
        { y with current := none, susp := y.susp ++ [r] }) k.toNat) := by
  have hothers : (List.range 16).any (fun i => i != r.core && pressCandidate s k.toNat i) = true :=
    List.any_eq_true.2 ⟨j, List.mem_range.2 hj, by simp [hother, hcand]⟩
  refine congrArg Host.Outcome.next ?_
  simp only [hcurrent, hothers, hfeed, hon, hempty, Option.isSome_none, ne_eq, not_true_eq_false, decide_false,
    List.isEmpty_nil, Bool.true_or, Bool.not_true, Bool.or_self, Bool.false_eq_true, if_false]

/-! ### Failure (R128) -/

/-- t differs from s at most in counters and within the cores, where none begins or ceases to halt or to take a double
trap. -/
structure FaultsOnly (s t : State) : Prop where
  rest    : t = { s with cores := t.cores, regs := t.regs }
  halting : ∀ c, (getCore t c).halting = (getCore s c).halting
  double  : ∀ c, (getCore t c).dbl = (getCore s c).dbl

theorem FaultsOnly.refl (s : State) : FaultsOnly s s := ⟨rfl, fun _ => rfl, fun _ => rfl⟩

theorem FaultsOnly.trans {s t u : State} (h : FaultsOnly s t) (h' : FaultsOnly t u) : FaultsOnly s u :=
  ⟨h'.rest.trans (by rw [h.rest]), fun c => (h'.halting c).trans (h.halting c), fun c => (h'.double c).trans (h.double c)⟩

theorem FaultsOnly.foldl {β : Type} {f : State → β → State} (h : ∀ s x, FaultsOnly s (f s x)) (l : List β) (s : State) :
    FaultsOnly s (l.foldl f s) := by
  induction l generalizing s with
  | nil => exact .refl s
  | cons x l ih => exact (h s x).trans (ih _)

theorem faultsOnly_addPressFault (s : State) (c : Nat) (t : TrapInfo) : FaultsOnly s (addPressFault s c t) := by
  refine ⟨rfl, fun d => ?_, fun d => ?_⟩
  all_goals
    by_cases hd : d = c
    · rw [hd, addPressFault, getCore_modCore_self]
    · rw [addPressFault, getCore_modCore_ne _ _ _ _ hd]

theorem faultsOnly_bump (s : State) (tbl evt n : Nat) (u : CountedIn) : FaultsOnly s (bump s tbl evt n u) := by
  obtain ⟨r, hr⟩ := bump_onlyRegs s tbl evt n u
  rw [hr]
  exact ⟨rfl, fun _ => rfl, fun _ => rfl⟩

/-- The state after every core with commands in a press has the fault of its failure pending (R128). -/
def failureNoted (s : State) (k : Nat) : State :=
  ((List.range 16).filter fun i => pressOutstanding s (k * 16 + i) != 0).foldl (fun s i =>
    bump (addPressFault s (k * 16 + i) ⟨0xB, 1, 0⟩) 0x04 8 (pressOutstanding s (k * 16 + i)) (.core (k * 16 + i))) s

theorem faultsOnly_failureNoted (s : State) (k : Nat) : FaultsOnly s (failureNoted s k) :=
  .foldl (fun _ _ => (faultsOnly_addPressFault _ _ _).trans (faultsOnly_bump _ _ _ _ _)) _ s

/-- A press that has failed: its commands are discarded, its accumulators lost (R128). -/
def failedPress (x : ClusterSt) (row col : Nat) : ClusterSt :=
  { x with
    failed := true, queues := [], current := none, shadow := none, susp := [], feed := none, fed := false, drain := none
    acc := [], activity := .idle, prFault := BitVec.ofNat 64 (2 ^ 24 + row * 256 + col) }

/-- The state in which the failure of a press has been noted and written to the ledger. -/
def pressLost (s : State) (k row col : Nat) : State :=
  ledger (modCl (failureNoted s k) k fun x => failedPress x row col) 0x0202 sevError (partOfCl s k) (srcCluster k)
    [1, row, col]

theorem getCl_pressLost (s : State) (k row col : Nat) :
    getCl (pressLost s k row col) k = failedPress (getCl (failureNoted s k) k) row col := by
  rw [pressLost, getCl_ledger, getCl_modCl_self]

theorem getCore_pressLost (s : State) (k row col c : Nat) :
    getCore (pressLost s k row col) c = getCore (failureNoted s k) c := by
  rw [pressLost, getCore_ledger, getCore_modCl]

theorem jobs_pressLost (s : State) (k row col : Nat) : (pressLost s k row col).jobs = s.jobs := by
  rw [pressLost, ledger_jobs, modCl_jobs, (faultsOnly_failureNoted s k).rest]

theorem sameMemory_pressLost (s : State) (k row col : Nat) : SameMemory s (pressLost s k row col) := fun a => by
  rw [pressLost, rdByte_ledger, rdByte_modCl, (faultsOnly_failureNoted s k).rest]
  rfl

/-- A press that stands fails: then its cores may halt, take a double trap or end a job (R128). -/
theorem pressFail_of_stands {s : State} {k : Nat} (hfailed : (getCl s k).failed = false)
    (habsent : (getCl s k).absent = false) (row col : Nat) :
    pressFail s k row col = (coresOf k).foldl settle (pressLost s k row col) := by
  have hstands : ¬ ((getCl s k).failed || (getCl s k).absent) = true := by simp [hfailed, habsent]
  exact if_neg hstands

/-- Nothing follows in the cores where none halts or takes a double trap and no job runs. -/
theorem settle_pressLost {s : State} (hjobs : s.jobs = [])
    (hstill : ∀ c, (getCore s c).halting = false ∧ (getCore s c).dbl = none) (k row col : Nat) :
    (coresOf k).foldl settle (pressLost s k row col) = pressLost s k row col := by
  have hnoted := faultsOnly_failureNoted s k
  refine foldl_still _ _ _ fun c _ => settle_of_still ?_ ?_ ((jobs_pressLost _ _ _ _).trans hjobs)
  · rw [getCore_pressLost, hnoted.double, (hstill c).2]
  · rw [getCore_pressLost, hnoted.halting, (hstill c).1]

/-- A press failure where no core halts or takes a double trap and no job runs. -/
theorem does_pressFailure {k : ClusterId} {s : State} (hpop : populatedCl s k.toNat = true)
    (hfailed : (getCl s k.toNat).failed = false) (habsent : (getCl s k.toNat).absent = false) (hjobs : s.jobs = [])
    (hstill : ∀ c, (getCore s c).halting = false ∧ (getCore s c).dbl = none) (row col : BitVec 7) :
    Does (.pressFailure k row col) s (pressLost s k.toNat row.toNat col.toNat) :=
  congrArg Host.Outcome.next ((if_pos hpop).trans
    ((pressFail_of_stands hfailed habsent _ _).trans (settle_pressLost hjobs hstill _ _ _)))

/-- Settles O26: suspension, gaps and ramps by the state they leave, a failure by what it leaves of the press. -/
theorem pressActivity : Obligations.PressActivity := by
  unfold Obligations.PressActivity
  refine ⟨fun k s => ⟨fun r j => does_runSuspend, fun hgap => ?gap, fun hdown => ?down, fun hup => ?up⟩,
    fun k row col s hpop hfailed habsent hjobs hstill => ?failure⟩
  case gap =>
    refine ⟨_, if regField s (oPrCtl k.toNat) 24 1 = 1 then .rampDown else .idle,
      congrArg Host.Outcome.next (if_pos hgap), fun hramp => if_pos hramp, fun hramp => if_neg hramp, rfl⟩
  case down => exact congrArg Host.Outcome.next (if_pos hdown)
  case up => exact congrArg Host.Outcome.next (if_pos hup)
  case failure =>
    have hcl := getCl_pressLost s k.toNat row.toNat col.toNat
    refine ⟨_, does_pressFailure hpop hfailed habsent hjobs hstill row col, ?_, ?_, ?_, ?_, ?_, ?_, ?_, ?_,
      sameMemory_pressLost _ _ _ _⟩
    all_goals
      rw [hcl]
      rfl

end Sys2Proof.Machine

/-! Reasoning rules for the vein controller: counters, sparse tables after a range is cleared, guests when none is
queued, and control-space writes that are served. -/

namespace Sys2Proof.Machine

theorem OnlyRegs.getVein {s t : State} (h : OnlyRegs s t) (c : Nat) : getVein t c = getVein s c := by
  obtain ⟨r, rfl⟩ := h
  rfl

/-- What a key reads as after a range was cleared. -/
theorem look_clearIn {α : Type} (d : Nat → α) (m : Map α) (lo n i : Nat) :
    look d (clearIn m lo n) i = if lo ≤ i ∧ i < lo + n then d i else look d m i := by
  rw [clearIn, look_filter d fun k => !(decide (lo ≤ k) && decide (k < lo + n))]
  by_cases hin : lo ≤ i ∧ i < lo + n <;> simp [hin]

/-- With no guest queued there is none to serve. -/
theorem serveGuests_of_none {s : State} {c : Nat} (h : (getVein s c).guests = []) : serveGuests s c = s := by
  simp [serveGuests, serveSome, h]

/-- A control-space write by a requester that may make it, of a register that is being served, takes effect (R510,
R512). -/
theorem regWrite_of_writable {s : State} {q : Req} {off : Nat} (h : Writable s q off) (f : State → State) :
    regWrite s q off f = f s := by
  obtain ⟨hallowed, hserved⟩ := h
  have hnow : (byFirmware off && decide (s.comp.state ≠ .firmware)) = false := by
    simpa using hserved
  simp only [regWrite, hallowed, hnow, Bool.false_eq_true, if_false]

end Sys2Proof.Machine

/-! Moves and prefetches (O27). -/

namespace Sys2Proof.Machine

/-! ### Issue (R167, R168, R171) -/

section MoveIssue

variable {c : CoreId} {ga gb gc : GReg} {mode : BitVec 2}

/-- The move that the operands of an MLD or MST describe in a state. -/
def namedMove (s : State) (c : CoreId) (ga gb gc : GReg) (mode : BitVec 2) (load : Bool) : Move ⊕ Nat :=
  moveOf s c.toNat mode.toNat load (gpr (getCore s c.toNat) ga.toNat).toNat (gpr (getCore s c.toNat) gb.toNat).toNat
    (gpr (getCore s c.toNat) gc.toNat).toNat

/-- A move that the rules accept, with room for it, goes in flight (R167, R168). -/
theorem commitLaw_of_issueMove {i : Instr} {load : Bool}
    (hexec : ∀ s, exec i s = .next (issueMove s c ga gb gc mode load)) (hmode : mode.toNat ≤ 1) (m : Move) :
    CommitLaw i c 4 [ga.toNat, gb.toNat, gc.toNat] true
      (fun s1 => namedMove s1 c ga gb gc mode load = .inl m ∧ (getCore s1 c.toNat).moves.length < 8 ∧
        (getCore s1 c.toNat).buf = [] ∧ ownFull s1 c.toNat m.ga = false)
      (fun s1 => modCore s1 c.toNat fun x => { x with moves := x.moves ++ [m] }) := by
  refine commitLaw_of_go hexec fun s ⟨hmove, hfew, hbuf, hroom⟩ => ?_
  rw [namedMove] at hmove
  have hopen : (decide (8 ≤ (getCore s c.toNat).moves.length) || !(getCore s c.toNat).buf.isEmpty ||
      ownFull s c.toNat m.ga) = false := by
    simp [hfew, hbuf, hroom]
  simp only [Nat.not_lt.2 hmode, if_false, hmove, hopen, Bool.false_eq_true]
  rfl

/-- A move that breaks a rule takes trap 0x04 (R167). -/
theorem trapLaw_of_issueMove {i : Instr} {load : Bool}
    (hexec : ∀ s, exec i s = .next (issueMove s c ga gb gc mode load)) (hmode : mode.toNat ≤ 1) (a : Nat) :
    TrapLaw i c 4 [ga.toNat, gb.toNat, gc.toNat] true (fun s1 => namedMove s1 c ga gb gc mode load = .inr a)
      fun _ => ⟨4, 0, a⟩ := by
  refine trapLaw_of_trap hexec fun s hmove => ?_
  rw [namedMove] at hmove
  simp only [Nat.not_lt.2 hmode, if_false, hmove]
  rfl

/-- MPF asks for the granules that would not fault and that are not asked for yet (R171). -/
theorem commitLaw_mpf : CommitLaw (.mpf c ga gc) c 4 [ga.toNat, gc.toNat] true
    (fun s1 => 1 ≤ (gpr (getCore s1 c.toNat) gc.toNat).toNat % 64 ∧ (gpr (getCore s1 c.toNat) gc.toNat).toNat % 64 ≤ 32)
    (fun s1 => modCore s1 c.toNat fun x => { x with
      asked := x.asked ++ ((List.range ((gpr (getCore s1 c.toNat) gc.toNat).toNat % 64)).map fun i =>
        (gpr (getCore s1 c.toNat) ga.toNat).toNat / 32 * 32 + 32 * i).filter fun q =>
          veinSide s1 c.toNat q 32 && !x.asked.contains q }) := by
  refine commitLaw_of_go (fun _ => rfl) fun s ⟨hsome, hmost⟩ => ?_
  have hcount : ¬ (decide ((gpr (getCore s c.toNat) gc.toNat).toNat % 64 = 0) ||
      decide (32 < (gpr (getCore s c.toNat) gc.toNat).toNat % 64)) = true := by
    simp only [Bool.or_eq_true, decide_eq_true_eq]
    omega
  exact if_neg hcount

end MoveIssue

/-! ### The end of a move (R77, R168, R170) -/

section MoveEnds

variable {c : CoreId} {s s1 : State} {m : Move} {r : List Move}

/-- The oldest move of a core is the first in its list, and no older one stands in its way (R77). -/
theorem oldest_unobstructed (hmoves : (getCore s c.toNat).moves = m :: r) :
    (getCore s c.toNat).moves[(0 : BitVec 3).toNat]? = some m ∧
      ((moveSpans m).any fun p =>
        movesMeet ((getCore s c.toNat).moves.take (0 : BitVec 3).toNat) p.1 (p.2 - p.1)) = false :=
  ⟨by rw [hmoves]; rfl, by simp [movesMeet]⟩

theorem does_moveComplete_ends {e : Option TrapInfo} (hmoves : (getCore s c.toNat).moves = m :: r)
    (hrun : runMove s c.toNat m = (s1, none, e)) : Does (.moveComplete c 0) s (moveEnd s1 c.toNat 0 m e) := by
  obtain ⟨hfirst, hfree⟩ := oldest_unobstructed hmoves
  refine congrArg Host.Outcome.next ?_
  simp only [hfirst, hfree, Bool.false_eq_true, if_false, hrun]
  rfl

theorem does_moveComplete_waits {rest : Move} {e : Option TrapInfo} (hmoves : (getCore s c.toNat).moves = m :: r)
    (hrun : runMove s c.toNat m = (s1, some rest, e)) :
    Does (.moveComplete c 0) s (modCore s1 c.toNat fun x => { x with moves := x.moves.set 0 rest }) := by
  obtain ⟨hfirst, hfree⟩ := oldest_unobstructed hmoves
  refine congrArg Host.Outcome.next ?_
  simp only [hfirst, hfree, Bool.false_eq_true, if_false, hrun]
  rfl

end MoveEnds

/-! ### Prefetches (R83, R171) -/

/-- An inserted pair is found under its key where the table held none. -/
theorem find?_insertAt_self {α : Type} (i : Nat) (x : α) (m : Map α) (h : ∀ e ∈ m, e.1 ≠ i) :
    (insertAt i x m).find? (·.1 == i) = some (i, x) := by
  induction m with
  | nil => simp [insertAt]
  | cons e m ih =>
    obtain ⟨k, v⟩ := e
    have hk : k ≠ i := h (k, v) List.mem_cons_self
    by_cases hlt : i < k
    · simp [insertAt, hlt]
    · simp [insertAt, hlt, hk, ih fun e he => h e (List.mem_cons_of_mem _ he)]

/-- A granule that has been filled holds its bytes (R83). -/
theorem find?_prefFill (x : CoreSt) (g : Nat) (bs : List Byte) :
    (prefFill x g bs).pref.find? (·.1 == g) = some (g, bs) := by
  refine find?_insertAt_self g bs _ fun e he => ?_
  have hkept := (List.mem_filter.1 he).2
  simp only [Bool.and_eq_true, bne_iff_ne] at hkept
  exact hkept.1

/-- An empty store buffer forwards nothing (R79). -/
theorem forward_of_empty {x : CoreSt} (hbuf : x.buf = []) (a n : Nat) : forward x a n = .miss := by
  simp [forward, hbuf]

/-- A granule that arrives fills its entry with the bytes read, where the core has no move in flight and no store in its
buffer. -/
theorem does_prefetchFill {c : CoreId} {s s1 : State} {addr : BitVec 48} {bs : List Byte}
    (hasked : (getCore s c.toNat).asked.contains addr.toNat = true) (hmoves : (getCore s c.toNat).moves = [])
    (hbuf : (getCore s1 c.toNat).buf = []) (hread : coreRead s c.toNat addr.toNat 32 2 = (s1, .ok s1 bs)) :
    Does (.prefetchFill c addr) s (modCore s1 c.toNat fun x =>
      prefFill { x with asked := x.asked.filter (· != addr.toNat) } addr.toNat bs) := by
  have hmeets : movesMeet (getCore s c.toNat).moves addr.toNat 32 = false := by rw [hmoves]; rfl
  have hbytes : (bs.zipIdx.map fun e => match forward (getCore s1 c.toNat) (addr.toNat + e.2) 1 with
      | .hit [b] => b
      | _ => e.1) = bs := by
    simp only [forward_of_empty hbuf]
    exact List.zipIdx_map_fst 0 bs
  refine congrArg Host.Outcome.next ?_
  simp only [hasked, hmeets, Bool.not_true, Bool.or_self, Bool.false_eq_true, if_false, hread]
  exact congrArg (fun l => setCore s1 c.toNat (prefFill { getCore s1 c.toNat with
    asked := (getCore s1 c.toNat).asked.filter (· != addr.toNat) } addr.toNat l)) hbytes

/-- Settles O27: the moves by one law of issue for both, their ends and the prefetches by the state they leave. -/
theorem moves : Obligations.Moves := by
  unfold Obligations.Moves
  refine ⟨fun c ga gb gc mode hmode => ⟨?mld, ?mst, ?mldTraps, ?mstTraps, commitLaw_mpf⟩,
    fun c s s1 addr => ⟨fun m r e => does_moveComplete_ends, fun m r rest e => does_moveComplete_waits, ?fill⟩⟩
  case mld => exact commitLaw_of_issueMove (load := true) (fun _ => rfl) hmode
  case mst => exact commitLaw_of_issueMove (load := false) (fun _ => rfl) hmode
  case mldTraps => exact trapLaw_of_issueMove (load := true) (fun _ => rfl) hmode
  case mstTraps => exact trapLaw_of_issueMove (load := false) (fun _ => rfl) hmode
  case fill =>
    intro bs hasked hmoves hbuf _ hread hcore
    refine ⟨_, does_prefetchFill hasked hmoves (by rw [hcore]; exact hbuf) hread, ?_, ?_⟩
    · rw [getCore_modCore_self]
      exact find?_prefFill _ _ _
    · rw [getCore_modCore_self, hcore]
      rfl

end Sys2Proof.Machine

/-! Upkeep of a vein (O28): refresh and scrubbing. -/

namespace Sys2Proof.Machine

/-! ### Refresh (R144 to R146) -/

/-- A vein in which a refresh of a pair has been done. -/
def refreshed (v : VeinSt) (q : Nat) : VeinSt :=
  { v with
    debt := put (fun _ => 0) v.debt q (debtOf v q - 1)
    refCount := put (fun _ => 0) v.refCount q ((look (fun _ => 0) v.refCount q + 1) % 8192)
    rows := clearIn v.rows (2 * q) 2 }

/-- A refresh changes the vein and counters (R146). -/
theorem refreshPair_onlyRegs (s : State) (c q : Nat) :
    OnlyRegs (setVein s c (refreshed (getVein s c) q)) (refreshPair s c q) := by
  unfold refreshPair
  dsimp only
  split
  · exact bump_onlyRegs _ _ _ _ _
  · exact .rfl' _

theorem getVein_refreshPair (s : State) (c q : Nat) : getVein (refreshPair s c q) c = refreshed (getVein s c) q := by
  rw [(refreshPair_onlyRegs s c q).getVein, getVein_setVein_self]

theorem sameMemory_refreshPair (s : State) (c q : Nat) : SameMemory s (refreshPair s c q) := by
  obtain ⟨r, hr⟩ := refreshPair_onlyRegs s c q
  rw [hr]
  exact fun _ => rfl

theorem debtOf_refreshed (v : VeinSt) (q : Nat) : debtOf (refreshed v q) q = debtOf v q - 1 :=
  look_put_self _ _ _ _

/-- A refresh closes the rows of both banks of its pair. -/
theorem rows_refreshed (v : VeinSt) (q b : Nat) (hb : 2 * q ≤ b ∧ b < 2 * q + 2) :
    look noRow (refreshed v q).rows b = none :=
  (look_clearIn noRow v.rows (2 * q) 2 b).trans (if_pos hb)

section Refresh

variable {c : CoreId} {pair : BitVec 4} {s : State}

/-- The state after a refresh interval of a pair has fallen due. -/
def refreshOwed (s : State) (c q : Nat) : State :=
  modVein (advanceTo s (dueOf s c q)) c fun v => { v with
    due := put (fun q => veinSince s c + q * 3900 / 16) v.due q (dueOf s c q + refreshInterval s c (q / 4))
    debt := put (fun _ => 0) v.debt q (min 8 (debtOf v q + 1)) }

theorem does_refreshDue (hruns : veinRuns s c.toNat = true) :
    Does (.refreshDue c pair) s (refreshOwed s c.toNat pair.toNat) := by
  refine congrArg Host.Outcome.next ?_
  simp only [hruns, Bool.not_true, Bool.false_eq_true, if_false]
  rfl

theorem debtOf_refreshOwed (s : State) (c q j : Nat) :
    debtOf (getVein (refreshOwed s c q) c) j =
      if j = q then min 8 (debtOf (getVein s c) q + 1) else debtOf (getVein s c) j := by
  rw [refreshOwed, getVein_modVein_self]
  exact look_put _ _ _ _ _

theorem dueOf_refreshOwed (s : State) (c q j : Nat) :
    dueOf (refreshOwed s c q) c j = if j = q then dueOf s c q + refreshInterval s c (q / 4) else dueOf s c j := by
  rw [dueOf, refreshOwed, getVein_modVein_self]
  exact look_put _ _ _ _ _

theorem does_refreshCommand (hruns : veinRuns s c.toNat = true) (howed : 1 ≤ debtOf (getVein s c.toNat) pair.toNat)
    (hidle : debtOf (getVein s c.toNat) pair.toNat < 8 → pairWanted s c.toNat pair.toNat = false) :
    Does (.refreshCommand c pair) s (servePair (refreshPair s c.toNat pair.toNat) c.toNat pair.toNat) := by
  refine congrArg Host.Outcome.next (if_neg ?_)
  simp only [hruns, Bool.not_true, Bool.false_or, Bool.or_eq_true, Bool.and_eq_true, decide_eq_true_eq, not_or, not_and,
    Bool.not_eq_true]
  exact ⟨by omega, hidle⟩

theorem does_refreshCommand_waits (hless : debtOf (getVein s c.toNat) pair.toNat < 8)
    (hwanted : pairWanted s c.toNat pair.toNat = true) : Does (.refreshCommand c pair) s s :=
  congrArg Host.Outcome.next (if_pos (by simp [hless, hwanted]))

end Refresh

/-! ### Scrubbing (R148 to R150) -/

section Scrub

variable {c : CoreId} {s : State}

/-- The time at which the next scrub step falls due: CO_VSCRUB.step µs after the last. -/
def scrubTime (s : State) (c : Nat) : Nat :=
  (getVein s c).scrubLast.getD (veinSince s c) + 1000 * max 1 (regField s (oVscrub c) 0 16)

/-- The state at a time at which a scrub step falls due. -/
def scrubOwed (s : State) (c : Nat) : State :=
  setVein s c { getVein s c with scrubLast := some (elapsed s), scrubDue := some (elapsed s), urgent := false }

theorem does_scrubStepDue (hruns : veinRuns s c.toNat = true) (hon : regField s (oVscrub c.toNat) 16 1 ≠ 0)
    (hnone : (getVein s c.toNat).scrubDue = none) (hsealed : sealedRegions s c.toNat ≠ []) :
    Does (.scrubStepDue c) s (scrubOwed (advanceTo s (scrubTime s c.toNat)) c.toNat) := by
  refine congrArg Host.Outcome.next (if_neg ?_)
  simp [hruns, hon, hnone, hsealed]

/-- The state in which the due step of a vein has become urgent, which is counted (R149). -/
def scrubHurried (s : State) (c : Nat) : State :=
  bump (setVein s c { getVein s c with urgent := true }) 0x05 8 1 (.core c)

theorem does_scrubUrgent {t0 : Nat} (hdue : (getVein s c.toNat).scrubDue = some t0)
    (hcalm : (getVein s c.toNat).urgent = false) :
    Does (.scrubUrgent c) s
      (scrubHurried (advanceTo s (t0 + max 1 (regField s (oVscrub c.toNat) 32 16) * 1000)) c.toNat) := by
  refine congrArg Host.Outcome.next ?_
  simp only [hdue, hcalm, Bool.false_eq_true, if_false, scrubHurried, getVein_advanceTo]

theorem getVein_scrubHurried (s : State) (c : Nat) :
    getVein (scrubHurried s c) c = { getVein s c with urgent := true } := by
  rw [scrubHurried, getVein_bump, getVein_setVein_self]

/-- The state after the 64 bursts of a row have been scrubbed (R148). -/
def rowScrubbed (s : State) (c row : Nat) : State :=
  (List.range 64).foldl (fun s i => scrubBurst s c (row + 32 * i)) s

/-- A vein whose due step in a bank has ended: the next begins at an offset, so many passes are complete, and the bank's
row is closed. -/
def scrubEnded (v : VeinSt) (b next pass : Nat) : VeinSt :=
  { v with
    rows := put noRow v.rows b none, scrubDue := none, urgent := false, scrubAt := next
    scrubs := (v.scrubs + pass) % 2 ^ 32 }

/-- The counters after a scrub step: rows opened for it, and passes complete (Table 5.17, Table 14.12). -/
def scrubCounted (s : State) (c opened pass : Nat) : State :=
  let s1 := bump (bump s 0x05 7 1 (.core c)) 0x05 1 opened (.core c)
  if pass = 1 then bump s1 0x0E 8 1 (.core c) else s1

theorem scrubCounted_onlyRegs (s : State) (c opened pass : Nat) : OnlyRegs s (scrubCounted s c opened pass) := by
  have hstep := (bump_onlyRegs s 0x05 7 1 (.core c)).trans (bump_onlyRegs _ 0x05 1 opened (.core c))
  unfold scrubCounted
  dsimp only
  split
  · exact hstep.trans (bump_onlyRegs _ _ _ _ _)
  · exact hstep

/-- In t the scrub step of a vein is neither due nor urgent any more, and memory is as in u. -/
structure ScrubDone (c : Nat) (u t : State) : Prop where
  due    : (getVein t c).scrubDue = none
  calm   : (getVein t c).urgent = false
  memory : t.mem = u.mem

theorem scrubDone_scrubCounted (u : State) (c b next pass opened : Nat) :
    ScrubDone c u (scrubCounted (modVein u c fun v => scrubEnded v b next pass) c opened pass) := by
  obtain ⟨r, hr⟩ := scrubCounted_onlyRegs (modVein u c fun v => scrubEnded v b next pass) c opened pass
  have hvein : getVein (scrubCounted (modVein u c fun v => scrubEnded v b next pass) c opened pass) c =
      scrubEnded (getVein u c) b next pass := by
    rw [OnlyRegs.getVein ⟨r, hr⟩, getVein_modVein_self]
  exact ⟨by rw [hvein]; rfl, by rw [hvein]; rfl, by rw [hr]; rfl⟩

/-- A step that nothing holds up scrubs its row and ends. (The cases follow the model's own tests in turn: a state in
which a row has been scrubbed is too large a term to compute with, and is given a name before the next row is looked
for in it.) -/
theorem does_scrubStep {t0 row : Nat} (hruns : veinRuns s c.toNat = true)
    (hdue : (getVein s c.toNat).scrubDue = some t0)
    (hrow : (sealedRow s c.toNat (getVein s c.toNat).scrubAt).or (sealedRow s c.toNat 0) = some row)
    (hdebt : debtOf (getVein s c.toNat) ((bankRow s c.toNat row).1 / 2) ≠ 8)
    (hready : regionWaits s c.toNat row = false)
    (hyields : (getVein s c.toNat).urgent = false → scrubYields s c.toNat (bankRow s c.toNat row).1 = false) :
    ∃ t, Does (.scrubStep c) s t ∧ ScrubDone c.toNat (rowScrubbed s c.toNat row) t := by
  refine ⟨_, rfl, ?_⟩
  extract_lets n v at_
  split
  case h_2 hnone => exact absurd hrow (hnone t0 row hdue)
  case h_1 row' _ hfound =>
    obtain rfl : row' = row := Option.some.inj (hfound.symm.trans hrow)
    split
    next b r hbank =>
    rw [hbank] at hdebt hyields
    have hopen : ¬ (!veinRuns s n || decide (debtOf v (b / 2) = 8) || regionWaits s n row' ||
        (!v.urgent && scrubYields s n b)) = true := by
      simpa [n, v, hruns, hdebt, hready] using hyields
    rw [if_neg hopen]
    extract_lets s1
    generalize hscrubbed : s1 = u
    rw [show rowScrubbed s c.toNat row' = u from hscrubbed]
    split
    next after pass _ => exact scrubDone_scrubCounted _ n b after pass _

end Scrub

/-- Settles O28: refresh and scrubbing by the state each command leaves. -/
theorem veinUpkeep : Obligations.VeinUpkeep := by
  unfold Obligations.VeinUpkeep
  refine ⟨fun c pair s hruns => ⟨?due, fun howed hidle => ?command, fun hless => does_refreshCommand_waits hless⟩,
    fun c s hruns => ⟨fun hon hnone hsealed => ?step, fun t0 hdue hcalm => ?urgent, ?scrub⟩⟩
  case due =>
    refine ⟨_, does_refreshDue hruns, ?_, ?_, fun q hq => ⟨?_, ?_⟩, ?_, fun _ => rfl⟩
    · rw [debtOf_refreshOwed, if_pos rfl]
    · rw [dueOf_refreshOwed, if_pos rfl]
    · rw [debtOf_refreshOwed, if_neg hq]
    · rw [dueOf_refreshOwed, if_neg hq]
    · rw [refreshOwed, getVein_modVein_self]
      rfl
  case command =>
    refine ⟨does_refreshCommand hruns howed hidle, ?_, ?_, ?_, sameMemory_refreshPair _ _ _⟩
    · rw [getVein_refreshPair, debtOf_refreshed]
    · rw [getVein_refreshPair, rows_refreshed _ _ _ (by omega)]
    · rw [getVein_refreshPair, rows_refreshed _ _ _ (by omega)]
  case step =>
    refine ⟨_, does_scrubStepDue hruns hon hnone hsealed, rfl, ?_, ?_, fun _ => rfl⟩
    · rw [scrubOwed, getVein_setVein_self]
      rfl
    · rw [scrubOwed, getVein_setVein_self]
  case urgent =>
    refine ⟨_, does_scrubUrgent hdue hcalm, ?_, ?_, ?_, fun a => ?_⟩
    · rw [scrubHurried, bump_hallmark]
      rfl
    · rw [getVein_scrubHurried]
    · rw [getVein_scrubHurried]
      exact hdue
    · rw [scrubHurried, rdByte_bump]
      rfl
  case scrub =>
    intro t0 row hdue hrow hdebt hready hyields
    obtain ⟨t, hdoes, hdone⟩ := does_scrubStep hruns hdue hrow hdebt hready hyields
    exact ⟨t, hdoes, hdone.due, hdone.calm, hdone.memory⟩

end Sys2Proof.Machine

/-! Requests to a vein controller (O29): idle precharges, stops of bank units, promotions, guest requests. -/

namespace Sys2Proof.Machine

/-! ### Rows and held banks (R143, R151) -/

section Rows

variable {c : CoreId} {s : State}

/-- The state at a time at which an idle row of a bank is closed (R143). -/
def rowClosed (s : State) (c b : Nat) : State := modVein s c fun v => { v with rows := put noRow v.rows b none }

theorem does_pageIdlePrecharge {bank : BitVec 5} {row t0 : Nat} (hruns : veinRuns s c.toNat = true)
    (hopen : look noRow (getVein s c.toNat).rows bank.toNat = some (row, t0)) :
    Does (.pageIdlePrecharge c bank) s
      (rowClosed (advanceTo s (t0 + regField s (oVctl c.toNat) 8 8)) c.toNat bank.toNat) := by
  refine congrArg Host.Outcome.next ?_
  simp only [hopen, hruns, Bool.not_true, Bool.false_eq_true, if_false]
  rfl

theorem rows_rowClosed (s : State) (c b j : Nat) :
    look noRow (getVein (rowClosed s c b) c).rows j = if j = b then none else look noRow (getVein s c).rows j := by
  rw [rowClosed, getVein_modVein_self]
  exact look_put noRow (getVein s c).rows b j none

/-- A vein whose bank unit has stopped: the rows of its pair are closed (R151). -/
def unitStopped (v : VeinSt) (u : Nat) : VeinSt := { v with rows := clearIn v.rows (2 * u) 2 }

/-- The state after a bank unit has stopped, which is counted for the vein and for its units (R151, R215). -/
def portStopped (s : State) (c u : Nat) : State :=
  bump (bump (modVein s c fun v => unitStopped v u) 0x05 9 1 (.core c)) 0x06 5 1 (.core c)

theorem portStopped_onlyRegs (s : State) (c u : Nat) :
    OnlyRegs (modVein s c fun v => unitStopped v u) (portStopped s c u) :=
  (bump_onlyRegs _ _ _ _ _).trans (bump_onlyRegs _ _ _ _ _)

theorem getVein_portStopped (s : State) (c u : Nat) : getVein (portStopped s c u) c = unitStopped (getVein s c) u := by
  rw [(portStopped_onlyRegs s c u).getVein, getVein_modVein_self]

theorem rows_unitStopped (v : VeinSt) (u b : Nat) (hb : 2 * u ≤ b ∧ b < 2 * u + 2) :
    look noRow (unitStopped v u).rows b = none :=
  (look_clearIn noRow v.rows (2 * u) 2 b).trans (if_pos hb)

theorem does_portWaitStop {unit : BitVec 4} {t0 : Nat} (hruns : veinRuns s c.toNat = true)
    (hwaits : leastNat (pairRequests s c.toNat unit.toNat) = some t0)
    (hheld : heldBank (getVein s c.toNat) (2 * unit.toNat) = true) :
    Does (.portWaitStop c unit) s (servePair (portStopped (advanceTo s
      (t0 + max 16 (regField s (oVctl c.toNat) 16 8))) c.toNat unit.toNat) c.toNat unit.toNat) := by
  refine congrArg Host.Outcome.next ?_
  simp only [hwaits, hruns, hheld, Bool.not_true, Bool.or_self, Bool.false_eq_true, if_false]
  rfl

end Rows

/-! ### Promotion (R150) -/

/-- The state at a time at which the first guest of a vein is promoted. -/
def firstPromoted (s : State) (c : Nat) (g : Guest) (r : List Guest) : State :=
  modVein s c fun v => { v with guests := { g with promoted := true } :: r }

theorem does_guestPromotion {c : CoreId} {s : State} {g : Guest} {r : List Guest}
    (hguests : (getVein s c.toNat).guests = g :: r) (hnew : g.promoted = false)
    (hage : regField s (oVctl c.toNat) 24 8 ≠ 0) :
    Does (.guestPromotion c) s
      (firstPromoted (advanceTo s (g.at_ + 16 * regField s (oVctl c.toNat) 24 8 + 1)) c.toNat g r) := by
  have hfirst : (getVein s c.toNat).guests.findIdx? (fun g => !g.promoted) = some 0 := by
    rw [hguests, List.findIdx?_cons, hnew]
    rfl
  have hget : (getVein s c.toNat).guests[0]? = some g := by rw [hguests]; rfl
  have hset : (getVein s c.toNat).guests.set 0 { g with promoted := true } = { g with promoted := true } :: r := by
    rw [hguests]
    rfl
  refine congrArg Host.Outcome.next ?_
  simp only [hfirst, hget, hage, if_false, modVein, getVein_advanceTo, hset, firstPromoted]

/-! ### Guest requests (R151, R153, R163, R164) -/

/-- A vein with a guest request queued at a time. -/
def guestQueued (v : VeinSt) (g : GuestReq) (time : Nat) : VeinSt :=
  { v with guests := v.guests ++ [⟨g, time, false, none, none⟩] }

section GuestAccess

variable {c : CoreId} {g : GuestReq} {s s1 : State}

/-- What follows an attempt to serve a guest request: nothing if it was served, else it is queued, or delayed with 32
queued (R153). -/
theorem does_guestAccess {served : Bool} (hcomes : guestComes s c.toNat g = true)
    (htry : (if guestHeld s c.toNat g then (s, false) else serveGuest s c.toNat g) = (s1, served)) :
    Does (.guestAccess c g) s (if served then s1 else if 32 ≤ (getVein s1 c.toNat).guests.length then s
      else modVein s1 c.toNat fun v => guestQueued v g (elapsed s)) := by
  refine congrArg Host.Outcome.next ?_
  rw [hcomes, htry]
  cases served <;> rfl

/-- A request that would wait is queued while fewer than 32 are. -/
theorem does_guestAccess_queued (hcomes : guestComes s c.toNat g = true)
    (htry : (if guestHeld s c.toNat g then (s, false) else serveGuest s c.toNat g) = (s1, false))
    (hfew : (getVein s1 c.toNat).guests.length < 32) :
    Does (.guestAccess c g) s (modVein s1 c.toNat fun v => guestQueued v g (elapsed s)) := by
  have hdoes := does_guestAccess hcomes htry
  rwa [if_neg Bool.false_ne_true, if_neg (Nat.not_le.2 hfew)] at hdoes

end GuestAccess

/-! ### A read of an offset that belongs to no region (R164) -/

theorem placeOf_veinAddr {c off : Nat} (hc : c < 4096) (hoff : off < 0x4000000) :
    placeOf (veinAddr c off) = .vein c off := by
  have hhigh : ¬ 2 ^ 48 ≤ veinAddr c off := by unfold veinAddr; omega
  have hls : ¬ veinAddr c off < 0x80000000 := by unfold veinAddr; omega
  have hnone : ¬ veinAddr c off < 0x4000000000 := by unfold veinAddr; omega
  have hvein : veinAddr c off < 0x8000000000 := by unfold veinAddr; omega
  have hcore : (veinAddr c off - 0x4000000000) / 0x4000000 = c := by unfold veinAddr; omega
  have hrest : veinAddr c off % 0x4000000 = off := by unfold veinAddr; omega
  rw [placeOf, if_neg hhigh, if_neg hls, if_neg hnone, if_pos hvein, hcore, hrest]

/-- Bytes within a 64-byte line are one piece. -/
theorem piecesOf_line {a n : Nat} (hn : 0 < n) (hline : a % 64 + n ≤ 64) : piecesOf a n = [(a, n)] := by
  have hsome : n ≠ 0 := by omega
  have hall : min n (64 - a % 64) = n := by omega
  rw [piecesOf, pieces, if_neg hsome]
  dsimp only
  rw [hall, Nat.sub_self, pieces, if_pos rfl]

/-- Recording a refusal changes registers only (Table 5.14). -/
theorem recordRefusal_onlyRegs (s : State) (q : Requester) (c off reason : Nat) :
    OnlyRegs s (recordRefusal s q c off reason) := by
  unfold recordRefusal
  dsimp only
  refine OnlyRegs.trans ?_ (bump_onlyRegs _ _ _ _ _)
  split <;> exact .setReg _ _ _

/-- A read within a line that its gate refuses notes the refusal and reads nothing (R164). -/
theorem readRange_refused {s : State} {q : Requester} {a n who : Nat} (hn : 0 < n) (hline : a % 64 + n ≤ 64)
    (hgate : gate s q a false = some .refused) :
    readRange s q a n who = (noteRefusal s q a false, [], [], some (a, .refused)) := by
  have hread : readLine s q a n who = (noteRefusal s q a false, .refused) := by rw [readLine, hgate]
  rw [readRange, piecesOf_line hn hline]
  simp only [List.foldl_cons, List.foldl_nil, hread]

/-- An offset in no region is refused to every requester but the vein's owner (R162, R164). -/
theorem gate_outside {s : State} {q : Requester} {a c off : Nat} {w : Bool} (hplace : placeOf a = .vein c off)
    (hpop : populated s c = true) (hup : dieUp s (c / 1024) = true) (hready : regionWaits s c off = false)
    (howner : q.owns c = false) (hregion : regionAt s c off = none) : gate s q a w = some .refused := by
  have hreason : guestReason s q c off w = 1 := by simp [guestReason, hregion]
  have hunit : unitGate s q a w = some .refused := by
    simp [unitGate, hplace, hpop, hup, hready, howner, hreason]
  rw [gate, hunit]

/-- A guest's read of an offset that belongs to no region is refused with PARTITION_FAULT (R164). -/
theorem serveGuest_outside {s : State} {c : Nat} {g : GuestReq} (hc : c < 4096) (hread : g.write = false)
    (hsize : 1 ≤ g.size) (hline : g.offset.toNat % 64 + g.size ≤ 64) (hpop : populated s c = true)
    (hup : dieUp s (c / 1024) = true) (hready : regionWaits s c g.offset.toNat = false)
    (howner : (guestOf g (c / 1024)).owns c = false) (hregion : regionAt s c g.offset.toNat = none) :
    serveGuest s c g = (guestTold (recordRefusal s (guestOf g (c / 1024)) c g.offset.toNat
      (guestReason s (guestOf g (c / 1024)) c g.offset.toNat false)) g stPartitionFault [], true) := by
  have hplace : placeOf (veinAddr c g.offset.toNat) = .vein c g.offset.toNat := placeOf_veinAddr hc g.offset.isLt
  have hin : veinAddr c g.offset.toNat % 64 + g.size ≤ 64 := by unfold veinAddr; omega
  have hrange := readRange_refused (who := guestRow g) hsize hin
    (gate_outside (w := false) hplace hpop hup hready howner hregion)
  have hnote : noteRefusal s (guestOf g (c / 1024)) (veinAddr c g.offset.toNat) false =
      recordRefusal s (guestOf g (c / 1024)) c g.offset.toNat
        (guestReason s (guestOf g (c / 1024)) c g.offset.toNat false) := by
    rw [noteRefusal, hplace]
  rw [hnote] at hrange
  simp only [serveGuest, hread, Bool.false_eq_true, if_false, hrange]
  rfl

/-- What a guest request that can reach a controller is: its vein populated, and its requester not the owner. -/
theorem of_guestComes {s : State} {c : Nat} {g : GuestReq} (h : guestComes s c g = true) :
    populated s c = true ∧ (guestOf g (c / 1024)).owns c = false := by
  simp only [guestComes, Bool.and_eq_true, Bool.not_eq_true'] at h
  obtain ⟨⟨⟨⟨hpop, -⟩, -⟩, howner⟩, -⟩ := h
  exact ⟨hpop, howner⟩

/-- Settles O29: each command by the state it leaves, a guest request by what came of the attempt to serve it. -/
theorem veinRequests : Obligations.VeinRequests := by
  unfold Obligations.VeinRequests
  refine ⟨fun c bank unit s hruns => ⟨fun row t0 hopen => ?precharge, fun t0 hwaits hheld => ?stop⟩,
    fun c s g r hguests hnew hage => ?promotion,
    fun c g s hcomes => ⟨fun hheld hfew => ?held, fun hheld hfull => ?delayed,
      fun hfree => ⟨fun hserved => ?served, fun hwaits hfew => ?waits, ?outside⟩⟩⟩
  case precharge =>
    refine ⟨_, does_pageIdlePrecharge hruns hopen, ?_, rfl, fun b hb => ?_, rfl⟩
    · rw [rows_rowClosed, if_pos rfl]
    · rw [rows_rowClosed, if_neg hb]
      rfl
  case stop =>
    have hvein := getVein_portStopped (advanceTo s (t0 + max 16 (regField s (oVctl c.toNat) 16 8))) c.toNat unit.toNat
    obtain ⟨q, hq⟩ := portStopped_onlyRegs (advanceTo s (t0 + max 16 (regField s (oVctl c.toNat) 16 8))) c.toNat
      unit.toNat
    refine ⟨_, does_portWaitStop hruns hwaits hheld, by rw [hq]; rfl, by rw [hq]; rfl, ?_, ?_, ?_, ?_⟩
    · rw [hvein, rows_unitStopped _ _ _ (by omega)]
    · rw [hvein, rows_unitStopped _ _ _ (by omega)]
    · rw [hvein]
      rfl
    · rw [hvein]
      rfl
  case promotion =>
    refine ⟨_, does_guestPromotion hguests hnew hage, ?_, rfl, fun _ => rfl⟩
    rw [firstPromoted, getVein_modVein_self]
  case held => exact does_guestAccess_queued hcomes (if_pos hheld) hfew
  case delayed =>
    have hdoes := does_guestAccess hcomes (if_pos hheld)
    rwa [if_neg Bool.false_ne_true, if_pos hfull] at hdoes
  case served =>
    have hdoes := does_guestAccess hcomes (s1 := (serveGuest s c.toNat g).1) (served := true)
      ((if_neg (ne_true_of_eq_false hfree)).trans (Prod.ext rfl hserved))
    rwa [if_pos rfl] at hdoes
  case waits =>
    exact does_guestAccess_queued hcomes ((if_neg (ne_true_of_eq_false hfree)).trans (Prod.ext rfl hwaits)) hfew
  case outside =>
    intro hread hsize hline hup hready hregion
    obtain ⟨hpop, howner⟩ := of_guestComes hcomes
    have hserve := serveGuest_outside c.isLt hread hsize hline hpop hup hready howner hregion
    have hdoes := does_guestAccess hcomes ((if_neg (ne_true_of_eq_false hfree)).trans hserve)
    rw [if_pos rfl] at hdoes
    obtain ⟨q, hq⟩ := recordRefusal_onlyRegs s (guestOf g (c.toNat / 1024)) c.toNat g.offset.toNat
      (guestReason s (guestOf g (c.toNat / 1024)) c.toNat g.offset.toNat false)
    refine ⟨_, hdoes, ?_, ?_⟩
    · rw [hq]
      rfl
    · rw [hq]
      exact fun _ => rfl

end Sys2Proof.Machine

/-! The region table and the page cache of tiered mode (O30). -/

namespace Sys2Proof.Machine

/-! ### Writes of an entry (R156, R157) -/

/-- A region that is written sealed without keep, and is not being initialised yet, begins its initialisation. -/
def BeginsInit (s : State) (c n : Nat) (w : Word) : Prop :=
  (regionOf w.toNat).kind = kindSealed ∧ w.getLsbD 24 = false ∧ (getVein s c).initing.contains n = false

section Write

variable {s : State} {c n : Nat} {w : Word}

/-- The state with the new value of an entry. -/
def entryWritten (s : State) (c n : Nat) (w : Word) : State := setReg s (oRegion c n) (masked 0x78FF7F 0 w)

theorem regionWrite_refused (hrefused : regionRefused s c n (regionOf w.toNat) = true) :
    regionWrite s c n w = setRegField s (oVstat c) 2 1 1 :=
  if_pos hrefused

theorem regionWrite_plain (htaken : regionRefused s c n (regionOf w.toNat) = false)
    (hused : (regionOf w.toNat).kind ≠ 0) (hstays : ¬ BeginsInit s c n w) : regionWrite s c n w = entryWritten s c n w := by
  have hidle : ¬ (decide ((regionOf w.toNat).kind = kindSealed) && !w.getLsbD 24 &&
      !(getVein s c).initing.contains n) = true := by
    simpa [BeginsInit, and_assoc] using hstays
  simp only [regionWrite, htaken, hused, hidle, Bool.false_eq_true, if_false]
  rfl

theorem regionWrite_begins (htaken : regionRefused s c n (regionOf w.toNat) = false) (hbegins : BeginsInit s c n w) :
    regionWrite s c n w =
      modVein (entryWritten s c n w) c fun v => { v with initing := v.initing ++ [n] } := by
  obtain ⟨hsealed, hkeep, hidle⟩ := hbegins
  simp only [regionWrite, htaken, hsealed, hkeep, hidle, Bool.false_eq_true, if_false, decide_true, Bool.not_false,
    Bool.and_self, if_true]
  rfl

theorem regionWrite_stays_unused (htaken : regionRefused s c n (regionOf w.toNat) = false)
    (hunused : (regionOf w.toNat).kind = 0) (hold : (regionOf (getReg s (oRegion c n)).toNat).kind = 0) :
    regionWrite s c n w = entryWritten s c n w := by
  simp only [regionWrite, htaken, hunused, hold, Bool.false_eq_true, if_false, if_true]
  rfl

/-- An entry written unused waits for what accepted reads its region and for the requests of before (R157). -/
theorem regionWrite_unused (htaken : regionRefused s c n (regionOf w.toNat) = false)
    (hunused : (regionOf w.toNat).kind = 0) (hold : (regionOf (getReg s (oRegion c n)).toNat).kind ≠ 0) :
    regionWrite s c n w = unusedEffect (modVein (markPrior (entryWritten s c n w) c n
      (regionOf (getReg s (oRegion c n)).toNat)) c fun v => { v with
        unused := insertAt n ((getReg s (oRegion c n)).toNat, w.getLsbD 23) v.unused }) c n := by
  simp only [regionWrite, htaken, hunused, hold, Bool.false_eq_true, if_false, if_true]
  rfl

end Write

theorem does_regionWrite {q : Req} {c : CoreId} {n : BitVec 3} {w : Word} {s t : State}
    (hmay : Writable s q (oRegion c.toNat n.toNat)) (ht : regionWrite s c.toNat n.toNat w = t) :
    Does (.regionWrite q c n w) s t :=
  congrArg Host.Outcome.next ((regWrite_of_writable hmay _).trans ht)

/-! ### A region written unused (R157, R225) -/

/-- A value that a filter drops under a key, and that is not the default there, is not read there afterwards. -/
theorem look_filter_ne_of_dropped {α : Type} (d : Nat → α) (p : Nat × α → Bool) (i : Nat) (x : α) (hd : d i ≠ x)
    (hp : p (i, x) = false) (m : Map α) : look d (m.filter p) i ≠ x := by
  induction m with
  | nil => exact hd
  | cons e m ih =>
    obtain ⟨k, y⟩ := e
    by_cases hkept : p (k, y) = true
    · rw [List.filter_cons_of_pos hkept, look]
      split
      case isTrue hkey =>
        rintro rfl
        rw [hkey, hkept] at hp
        exact Bool.noConfusion hp
      case isFalse => exact ih
    · rwa [List.filter_cons_of_neg hkept]

/-- A vein whose pool the free frames of a region have left (R225). -/
def framesDropped (v : VeinSt) (r : Region) : VeinSt :=
  { v with frames := v.frames.filter fun e => !(e.2 == .free && r.covers (e.1 * 16384)) }

theorem getVein_dropFrames (s : State) (c : Nat) (r : Region) :
    getVein (dropFrames s c r) c = framesDropped (getVein s c) r :=
  getVein_modVein_self _ _ _

theorem frameOf_framesDropped_ne (v : VeinSt) (r : Region) (f : Nat) (hin : r.covers (f * 16384) = true) :
    frameOf (framesDropped v r) f ≠ .free :=
  look_filter_ne_of_dropped _ _ _ _ Frame7.noConfusion (by simp [hin]) v.frames

section Unused

variable {s : State} {c n old : Nat} {zf : Bool}

/-- A write of unused waits while a command accepted by a bank unit reads the region (R157). -/
theorem unusedEffect_read (hentry : (getVein s c).unused.find? (·.1 == n) = some (n, old, zf))
    (hread : regionRead s c (regionOf old) = true) : unusedEffect s c n = s := by
  simp only [unusedEffect, hentry, hread, Bool.or_true, Bool.true_or, if_true]

/-- With zf a write of unused that nothing holds up begins its zero-fill. -/
theorem unusedEffect_zeroFill (hentry : (getVein s c).unused.find? (·.1 == n) = some (n, old, true))
    (hidle : (getVein s c).initing.contains n = false) (hread : regionRead s c (regionOf old) = false)
    (hprior : priorWaits s c n = false) :
    unusedEffect s c n =
      modVein (dropFrames s c (regionOf old)) c fun v => { v with initing := v.initing ++ [n] } := by
  simp only [unusedEffect, hentry, hidle, hread, hprior, Bool.or_self, Bool.false_eq_true, if_false, if_true]

/-- Without zf its entry is unused at once. -/
theorem unusedEffect_done (hentry : (getVein s c).unused.find? (·.1 == n) = some (n, old, false))
    (hidle : (getVein s c).initing.contains n = false) (hread : regionRead s c (regionOf old) = false)
    (hprior : priorWaits s c n = false) (hguests : (getVein s c).guests = []) :
    unusedEffect s c n =
      modVein (dropFrames s c (regionOf old)) c fun v => { v with unused := v.unused.filter (·.1 != n) } := by
  simp only [unusedEffect, hentry, hidle, hread, hprior, Bool.or_self, Bool.false_eq_true, if_false]
  refine serveGuests_of_none ?_
  rw [getVein_modVein_self, getVein_dropFrames]
  exact hguests

end Unused

theorem does_regionUnusedEffect {c : CoreId} {n : BitVec 3} {s : State} (hruns : veinRuns s c.toNat = true) :
    Does (.regionUnusedEffect c n) s (unusedEffect s c.toNat n.toNat) :=
  congrArg Host.Outcome.next (if_pos hruns)

/-! ### The end of an initialisation or a zero-fill (R157) -/

section Init

variable {c : CoreId} {n : BitVec 3} {s : State}

/-- A vein in which the initialisation or zero-fill of an entry has ended. -/
def initEnded (v : VeinSt) (n : Nat) : VeinSt := { v with initing := v.initing.erase n }

/-- A vein in which an entry written unused is unused. -/
def unusedEnded (v : VeinSt) (n : Nat) : VeinSt := { v with unused := v.unused.filter (·.1 != n) }

/-- The state after a zero-fill has ended. -/
def zeroFilled (s : State) (c n old : Nat) : State :=
  modVein (modVein (zeroBytes s (veinAddr c (regionOf old).start) (regionOf old).size) c fun v => initEnded v n) c
    fun v => unusedEnded v n

theorem getVein_zeroFilled (s : State) (c n old : Nat) :
    getVein (zeroFilled s c n old) c = unusedEnded (initEnded (getVein s c) n) n := by
  rw [zeroFilled, getVein_modVein_self, getVein_modVein_self, getVein_zeroBytes]

theorem does_regionInitComplete_zeroFill {old : Nat} (hruns : veinRuns s c.toNat = true)
    (hbusy : (getVein s c.toNat).initing.contains n.toNat = true)
    (hentry : (getVein s c.toNat).unused.find? (·.1 == n.toNat) = some (n.toNat, old, true))
    (hguests : (getVein s c.toNat).guests = []) :
    Does (.regionInitComplete c n) s (zeroFilled s c.toNat n.toNat old) := by
  have hnone : (getVein (zeroFilled s c.toNat n.toNat old) c.toNat).guests = [] := by
    rw [getVein_zeroFilled]
    exact hguests
  refine congrArg Host.Outcome.next (Eq.trans ?_ (serveGuests_of_none hnone))
  simp only [hruns, hbusy, hentry, Bool.not_true, Bool.or_self, Bool.false_eq_true, if_false, if_true]
  rfl

/-- The state after an initialisation has ended. -/
def initialised (s : State) (c n : Nat) (r : Region) : State :=
  modVein (initSealed s c r) c fun v => initEnded v n

theorem getVein_initialised (s : State) (c n : Nat) (r : Region) :
    getVein (initialised s c n r) c = initEnded (getVein s c) n := by
  rw [initialised, getVein_modVein_self, (initSealed_memEffect s c r).getVein]

theorem does_regionInitComplete_sealed (hruns : veinRuns s c.toNat = true)
    (hbusy : (getVein s c.toNat).initing.contains n.toNat = true)
    (hentry : (getVein s c.toNat).unused.find? (·.1 == n.toNat) = none) (hguests : (getVein s c.toNat).guests = []) :
    Does (.regionInitComplete c n) s
      (initialised s c.toNat n.toNat (regionOf (getReg s (oRegion c.toNat n.toNat)).toNat)) := by
  have hnone : (getVein (initialised s c.toNat n.toNat (regionOf (getReg s (oRegion c.toNat n.toNat)).toNat))
      c.toNat).guests = [] := by
    rw [getVein_initialised]
    exact hguests
  refine congrArg Host.Outcome.next (Eq.trans ?_ (serveGuests_of_none hnone))
  simp only [hruns, hbusy, hentry, Bool.not_true, Bool.or_self, Bool.false_eq_true, if_false]
  rfl

end Init

/-! ### The page cache of tiered mode (R176, R178, R509) -/

section Tier

variable {q : Req} {c : CoreId} {s : State}

theorem does_tierFlush {t : State} (hmay : Writable s q (coBase c.toNat + 0x130)) (ht : tierFlush s c.toNat = t) :
    Does (.tierFlush q c) s t :=
  congrArg Host.Outcome.next ((regWrite_of_writable hmay _).trans ht)

theorem tierFlush_tiered (hruns : veinRuns s c.toNat = true) (htiered : s.start.tiered = true) :
    tierFlush s c.toNat = if (getVein s c.toNat).flush then
      modVein s c.toNat fun v => { v with flushes := v.flushes + 1 }
    else modVein (flushPages s c.toNat) c.toNat fun v => { v with flush := true } :=
  if_pos (by rw [htiered, hruns]; rfl)

theorem tierFlush_flat (hflat : s.start.tiered = false) : tierFlush s c.toNat = s :=
  if_neg (by simp [hflat])

theorem does_tierFlushComplete (hbusy : (getVein s c.toNat).flush = true) :
    Does (.tierFlushComplete c) s (modVein (flushPages s c.toNat) c.toNat fun v =>
      { v with flush := v.flushes != 0, flushes := v.flushes - 1 }) :=
  congrArg Host.Outcome.next (if_pos hbusy)

theorem does_cacheFillLine {key l : Nat} {p : CachePage}
    (hpage : (getVein s c.toNat).pages.find? (fun e => e.2.filling) = some (key, p)) (hline : nextLine p = some l) :
    Does (.cacheFillLine c) s (serveGuests (fillLine s c.toNat key l) c.toNat) := by
  refine congrArg Host.Outcome.next ?_
  simp only [hpage, hline]

end Tier

/-- Settles O30: writes of an entry by what each of them does, the ends of what they begin and the page cache by the
state they leave. -/
theorem regions : Obligations.Regions := by
  unfold Obligations.Regions
  refine ⟨fun q c n w s hmay => ?write, fun c n s old zf hruns => ?unused, fun c n s hruns => ?sealed,
    fun q c s hruns hmay => ?flush,
    fun c s => ⟨does_tierFlushComplete, fun key p l => does_cacheFillLine⟩⟩
  case write =>
    refine ⟨fun hrefused => does_regionWrite hmay (regionWrite_refused hrefused), fun htaken => ⟨?_, ?_, ?_, ?_⟩⟩
    · exact fun hused hstays => does_regionWrite hmay (regionWrite_plain htaken hused hstays)
    · exact fun hbegins => does_regionWrite hmay (regionWrite_begins htaken hbegins)
    · exact fun hunused hold => does_regionWrite hmay (regionWrite_stays_unused htaken hunused hold)
    · exact fun hunused hold => does_regionWrite hmay (regionWrite_unused htaken hunused hold)
  case unused =>
    intro v hentry
    refine ⟨fun hidle hread hprior hguests => ?_, fun hread => ?_, fun hbusy hzero hguests => ?_⟩
    · cases zf with
      | true =>
        refine ⟨_, does_regionUnusedEffect hruns, ?_⟩
        rw [unusedEffect_zeroFill hentry hidle hread hprior, getVein_modVein_self, getVein_dropFrames]
        exact ⟨fun _ => rfl, fun f hin _ => frameOf_framesDropped_ne v _ f hin, fun _ => ⟨rfl, rfl⟩, nofun⟩
      | false =>
        refine ⟨_, does_regionUnusedEffect hruns, ?_⟩
        rw [unusedEffect_done hentry hidle hread hprior (hguests rfl), getVein_modVein_self, getVein_dropFrames]
        exact ⟨fun _ => rfl, fun f hin _ => frameOf_framesDropped_ne v _ f hin, nofun, fun _ => ⟨rfl, rfl⟩⟩
    · have hdoes := does_regionUnusedEffect (n := n) hruns
      rwa [unusedEffect_read hentry hread] at hdoes
    · subst hzero
      refine ⟨_, does_regionInitComplete_zeroFill hruns hbusy hentry hguests, ?_, ?_, rfl⟩
      · rw [getVein_zeroFilled]
        rfl
      · rw [getVein_zeroFilled]
        rfl
  case sealed =>
    intro v hbusy hentry hguests
    refine ⟨_, does_regionInitComplete_sealed hruns hbusy hentry hguests, ?_, rfl⟩
    rw [getVein_initialised]
    rfl
  case flush =>
    refine ⟨fun htiered hidle => does_tierFlush hmay ?_, fun htiered hbusy => does_tierFlush hmay ?_,
      fun hflat => does_tierFlush hmay (tierFlush_flat hflat)⟩
    · rw [tierFlush_tiered hruns htiered, if_neg (ne_true_of_eq_false hidle)]
    · rw [tierFlush_tiered hruns htiered, if_pos hbusy]

end Sys2Proof.Machine

/-! The bank units at work (O32): NBSYNC, the ends of commands, drains and the combiner. -/

namespace Sys2Proof.Machine

/-! ### NBSYNC (R200) -/

/-- A core whose bank-unit flags and faults have been taken by an NBSYNC. -/
def nbSynced (x : CoreSt) : CoreSt :=
  { setFlags x x.nbFlags with nbFlags := 0, nbFaults := [] }

section Nbsync

variable {c : CoreId} {rd : GReg} {nw : Bool}

/-- NBSYNC with nothing outstanding and no fault pending applies the flags and writes 0. -/
theorem commitLaw_nbsync_done : CommitLaw (.nbsync c rd nw) c 4 [rd.toNat] true
    (fun s1 => (nbOutstanding s1 c.toNat).length = 0 ∧ (getCore s1 c.toNat).nbFaults = [])
    (fun s1 => modCore s1 c.toNat fun x => setGpr (nbSynced x) rd.toNat 0) := by
  refine commitLaw_of_go (fun _ => rfl) fun s ⟨hnone, hfaults⟩ => ?_
  simp only [hnone, hfaults, ne_eq, not_true_eq_false, if_false, modCore_setCore]
  rfl

/-- NBSYNC with nw = 1 writes the number of commands outstanding. -/
theorem commitLaw_nbsync_counts : CommitLaw (.nbsync c rd true) c 4 [rd.toNat] true
    (fun s1 => (nbOutstanding s1 c.toNat).length ≠ 0)
    (fun s1 => modCore s1 c.toNat fun x => setGpr x rd.toNat (BitVec.ofNat 64 (nbOutstanding s1 c.toNat).length)) :=
  commitLaw_of_go (fun _ => rfl) fun _ hsome => if_pos hsome

variable {s s1 : State}

/-- NBSYNC with nw = 0 waits for what is outstanding. -/
theorem does_nbsync_waits (h : Issues s c.toNat ⟨4, [rd.toNat], true⟩ s1)
    (hsome : (nbOutstanding s1 c.toNat).length ≠ 0) : Does (.nbsync c rd false) s s1 :=
  congrArg Host.Outcome.next (issue_stall h (if_pos hsome))

/-- NBSYNC with nothing outstanding takes the oldest pending fault as a trap. -/
theorem does_nbsync_fault {t : TrapInfo} {r : List TrapInfo} (h : Issues s c.toNat ⟨4, [rd.toNat], true⟩ s1)
    (hnone : (nbOutstanding s1 c.toNat).length = 0) (hfaults : (getCore s1 c.toNat).nbFaults = t :: r) :
    Does (.nbsync c rd nw) s
      (takeTrap (modCore s1 c.toNat nbSynced) c.toNat t (getCore s c.toNat).pc true (!r.isEmpty)) := by
  refine congrArg Host.Outcome.next (issue_trap h (h.older rfl) ?_)
  simp only [hnone, hfaults, ne_eq, not_true_eq_false, if_false]
  rfl

end Nbsync

/-! ### The end of a bank unit's command (R182, R184, R231, R386) -/

/-- A command that one unit runs alone: any but a KATT. -/
def RunsAlone (cmd : NbCmd) : Prop := ∀ d a b q w, cmd ≠ .katt d a b q w

/-- Only a product contributes to the combiner, so no KATT waits for its unit's output queue. -/
theorem runsAlone_of_outputFull {v : VeinSt} {u : Nat} {cmd : NbCmd} (hfull : outputFull v u cmd = true) :
    RunsAlone cmd := by
  rintro d a b q w rfl
  exact Bool.noConfusion hfull

/-- The state after a command of one unit has ended: its effect, the next command at the head of the queue, and the
requests that waited for the pair's banks. -/
def commandEnded (s0 : State) (c u n : Nat) (cmd : NbCmd) : State :=
  nbEvent (servePair (popNb (runNb s0 c u n cmd) c n [u]) c u) c

/-- The state in which all sixteen units have opened their own rows. -/
def allOpened (s0 : State) (c : Nat) : State := (List.range 16).foldl (fun s u => openPair s c u) s0

/-- The state after a KATT has ended in all sixteen units. -/
def kattEnded (s1 : State) (c n : Nat) : State :=
  nbEvent ((List.range 16).foldl (fun s u => servePair s c u) (popNb s1 c n (List.range 16))) c

section Completion

variable {c : CoreId} {unit : BitVec 4} {s : State}

/-- In a pause of the governor nothing completes (R386). -/
theorem does_bankUnit_paused (hpaused : (getCl s (c.toNat / 16)).paused = true) :
    Does (.bankUnitCommandComplete c unit) s s :=
  congrArg Host.Outcome.next (if_pos (by rw [hpaused, Bool.true_or]))

variable (hpaused : (getCl s (c.toNat / 16)).paused = false) (hruns : veinRuns s c.toNat = true)
include hpaused hruns

/-- With nothing to complete in the unit, the oldest drain that is ready does (R198, R200). -/
theorem does_bankUnit_idle (hnone : nextNb s c.toNat unit.toNat = none) :
    Does (.bankUnitCommandComplete c unit) s (drainReady s c.toNat) := by
  refine congrArg Host.Outcome.next ?_
  simp only [hpaused, hruns, hnone, Bool.not_true, Bool.or_self, Bool.false_eq_true, if_false]

variable {s0 : State} {n : Nat} {cmd : NbCmd}

/-- A command that its unit runs alone ends, or waits for room in the output queue (R182, R184). -/
theorem does_bankUnit_alone (hnext : nextNb s c.toNat unit.toNat = some (s0, n, cmd)) (halone : RunsAlone cmd) :
    Does (.bankUnitCommandComplete c unit) s
      (if outputFull (getVein s c.toNat) unit.toNat cmd then s else commandEnded s0 c.toNat unit.toNat n cmd) := by
  refine congrArg Host.Outcome.next ?_
  simp only [hpaused, hruns, hnext, Bool.not_true, Bool.or_self, Bool.false_eq_true, if_false]
  cases cmd with
  | katt d a b q w => exact absurd rfl (halone d a b q w)
  | product | load | gather | row | drain => rfl

section Katt

variable {d a b : Nat} {q : Bool} {w : Option Nat}
  (hnext : nextNb s c.toNat unit.toNat = some (s0, n, .katt d a b q w))
include hnext

/-- A KATT waits while a page that it needs is being moved (R241). -/
theorem does_bankUnit_katt_waits (hmoved : runKatt (allOpened s0 c.toNat) c.toNat d a b q w = none) :
    Does (.bankUnitCommandComplete c unit) s s := by
  rw [allOpened] at hmoved
  refine congrArg Host.Outcome.next ?_
  simp only [hpaused, hruns, hnext, hmoved, Bool.not_true, Bool.or_self, Bool.false_eq_true, if_false]

/-- A KATT ends in all sixteen units at once (R231). -/
theorem does_bankUnit_katt_ends {s1 : State}
    (hrun : runKatt (allOpened s0 c.toNat) c.toNat d a b q w = some s1) :
    Does (.bankUnitCommandComplete c unit) s (kattEnded s1 c.toNat n) := by
  rw [allOpened] at hrun
  refine congrArg Host.Outcome.next ?_
  simp only [hpaused, hruns, hnext, hrun, Bool.not_true, Bool.or_self, Bool.false_eq_true, if_false]
  rw [kattEnded]

end Katt

end Completion

/-! ### The combiner (R197, R213) -/

/-- A vein in which a contribution has been added to its combiner slot. -/
def combined (v : VeinSt) (slot : Nat) (w : Contribution) : VeinSt :=
  { v with
    waiting := v.waiting.filter (·.seq != w.seq)
    comb := put (fun _ => Combiner.idle) v.comb slot
      (addContribution (look (fun _ => Combiner.idle) v.comb slot) w).1 }

theorem comb_combined (v : VeinSt) (slot : Nat) (w : Contribution) :
    look (fun _ => Combiner.idle) (combined v slot w).comb slot =
      (addContribution (look (fun _ => Combiner.idle) v.comb slot) w).1 :=
  look_put_self _ _ _ _

/-- The state with a contribution added and its bursts counted. -/
def combinedIn (s : State) (c slot : Nat) (w : Contribution) : State :=
  bump (setVein s c (combined (getVein s c) slot w)) 0x06 7 ((4 * w.vals.length + 31) / 32) (.core c)

/-- Adding the contribution clears a parity error of the slot, as it does just where it meets one (R213). -/
abbrev MeetsParity (k : Combiner) (w : Contribution) : Prop := (addContribution k w).1.parity.length < k.parity.length

/-- The state with a contribution added, and with sub 4 reported if it met a parity error in its slot (R213). -/
def combinerAdded (s : State) (c slot : Nat) (w : Contribution) : State :=
  if MeetsParity (look (fun _ => Combiner.idle) (getVein s c).comb slot) w then
    nbFault (combinedIn s c slot w) c ⟨0xA, slotMask [slot] * 16 + 4, 0⟩
  else combinedIn s c slot w

theorem OnlyCore.getVein {c : Nat} {s t : State} (h : OnlyCore c s t) (d : Nat) : getVein t d = getVein s d := by
  rw [h.1]
  rfl

theorem combinedIn_onlyRegs (s : State) (c slot : Nat) (w : Contribution) :
    OnlyRegs (setVein s c (combined (getVein s c) slot w)) (combinedIn s c slot w) :=
  bump_onlyRegs _ _ _ _ _

/-- Outside its core and the counters, an addition changes the vein alone. -/
theorem combinerAdded_onlyCore (s : State) (c slot : Nat) (w : Contribution) :
    OnlyCore c (setVein s c (combined (getVein s c) slot w)) (combinerAdded s c slot w) := by
  have hcounted := (combinedIn_onlyRegs s c slot w).onlyCore c
  rw [combinerAdded]
  split
  · exact hcounted.trans (OnlyCore.modCore _ _ _)
  · exact hcounted

theorem getVein_combinerAdded (s : State) (c slot : Nat) (w : Contribution) :
    getVein (combinerAdded s c slot w) c = combined (getVein s c) slot w := by
  rw [(combinerAdded_onlyCore s c slot w).getVein, getVein_setVein_self]

theorem getCore_combinedIn (s : State) (c slot : Nat) (w : Contribution) (d : Nat) :
    getCore (combinedIn s c slot w) d = getCore s d := by
  obtain ⟨r, hr⟩ := combinedIn_onlyRegs s c slot w
  rw [hr]
  rfl

/-- A parity error that is met adds a pending fault of sub 4; else the pending faults stay (R213). -/
theorem nbFaults_combinerAdded (s : State) (c slot : Nat) (w : Contribution) :
    (getCore (combinerAdded s c slot w) c).nbFaults =
      if MeetsParity (look (fun _ => Combiner.idle) (getVein s c).comb slot) w then
        (getCore s c).nbFaults ++ [⟨0xA, slotMask [slot] * 16 + 4, 0⟩]
      else (getCore s c).nbFaults := by
  rw [combinerAdded]
  split
  · rw [nbFault, getCore_modCore_self, getCore_combinedIn]
  · rw [getCore_combinedIn]

/-- The oldest contribution waiting for a slot is added once no older command that names the slot is left (R197). -/
theorem does_combinerAdd {c : CoreId} {slot : BitVec 2} {s : State} {w : Contribution}
    (holdest : ((getVein s c.toNat).waiting.filter (·.slot == slot.toNat)).find? (fun x =>
      ((getVein s c.toNat).waiting.filter (·.slot == slot.toNat)).all fun y => decide (x.seq ≤ y.seq)) = some w)
    (hnext : combinerOlder (getVein s c.toNat) slot.toNat w.seq false = false) :
    Does (.combinerAdd c slot) s (nbEvent
      (if (addContribution (look (fun _ => Combiner.idle) (getVein s c.toNat).comb slot.toNat) w).2 then
        nbFlag (combinerAdded s c.toNat slot.toNat w) c.toNat flagSat
      else combinerAdded s c.toNat slot.toNat w) c.toNat) := by
  refine congrArg Host.Outcome.next ?_
  simp only [holdest, hnext, Bool.false_eq_true, if_false]
  rfl

/-- Settles O32: NBSYNC by what it finds, the ends of commands by the state they leave, the combiner by what an
addition makes of its slot. -/
theorem bankUnits : Obligations.BankUnits := by
  unfold Obligations.BankUnits
  refine ⟨fun c rd nw => ?nbsync, fun c unit s s0 n cmd => ?completion, fun c unit s => does_bankUnit_paused,
    fun c slot s w => ?combiner⟩
  case nbsync =>
    exact ⟨commitLaw_nbsync_done, commitLaw_nbsync_counts, fun s s1 => does_nbsync_waits,
      fun s s1 t r => does_nbsync_fault⟩
  case completion =>
    intro all hpaused hruns
    refine ⟨does_bankUnit_idle hpaused hruns, fun hnext => ⟨fun halone hroom => ?_, fun hfull => ?_, ?_⟩⟩
    · have hdoes := does_bankUnit_alone hpaused hruns hnext halone
      rwa [if_neg (ne_true_of_eq_false hroom)] at hdoes
    · have hdoes := does_bankUnit_alone hpaused hruns hnext (runsAlone_of_outputFull hfull)
      rwa [if_pos hfull] at hdoes
    · rintro d a b q w rfl r
      exact ⟨does_bankUnit_katt_waits hpaused hruns hnext, fun s1 => does_bankUnit_katt_ends hpaused hruns hnext⟩
  case combiner =>
    intro v mine holdest hnext k0 k
    refine ⟨_, does_combinerAdd holdest hnext, ?_, ?_, ?_, fun hmet => ?_, fun hclean => ?_⟩
    · rw [getVein_combinerAdded]
      rfl
    · exact (combinerAdded_onlyCore _ _ _ _).sameMemory
    · rw [getVein_combinerAdded, comb_combined]
    · rw [nbFaults_combinerAdded, if_pos hmet]
    · rw [nbFaults_combinerAdded, if_neg hclean]

end Sys2Proof.Machine

/-! The key-value cache: results of operations on its structures, what a read of a structure leaves alone, and the law
of the synchronous instructions (O33). -/

namespace Sys2Proof.Machine

/-! ### Results of operations on the structures -/

namespace KRes

variable {α β : Type} {f : State → α → KRes β}

@[simp] theorem andThen_ok (s : State) (x : α) : (KRes.ok s x).andThen f = f s x := rfl
@[simp] theorem andThen_wait (s : State) : (KRes.wait s).andThen f = .wait s := rfl
@[simp] theorem andThen_trap (s : State) (t : TrapInfo) : (KRes.trap s t).andThen f = .trap s t := rfl
@[simp] theorem andThen_reset (s : State) : (KRes.reset s).andThen f = .reset s := rfl

/-- Two operations in turn are done where the first is, and the second on what it gave. -/
theorem andThen_eq_ok {r : KRes α} {s : State} {y : β} :
    r.andThen f = .ok s y ↔ ∃ s1 x, r = .ok s1 x ∧ f s1 x = .ok s y := by
  cases r with
  | ok s1 x => simp
  | wait | trap | reset => simp

end KRes

/-- An operation on each of some things, step by step. -/
theorem kEach_cons {α : Type} (s : State) (x : α) (xs : List α) (f : State → α → KRes Unit) :
    kEach s (x :: xs) f = (f s x).andThen fun s1 _ => kEach s1 xs f := by
  have hstop (r : KRes Unit) (hr : ∀ g : State → Unit → KRes Unit, r.andThen g = r) :
      xs.foldl (fun r x => r.andThen fun s _ => f s x) r = r := by
    induction xs with
    | nil => rfl
    | cons y ys ih => rw [List.foldl_cons, hr, ih]
  unfold kEach
  rw [List.foldl_cons, KRes.andThen_ok]
  cases f s x with
  | ok s1 u => rfl
  | wait s1 | trap s1 t | reset s1 => exact hstop _ fun _ => rfl

/-- Where each step that f does g does too, and P holds from step to step, all that f does g does too. -/
theorem kEach_ok_mono {α : Type} {P : State → Prop} {f g : State → α → KRes Unit}
    (hstep : ∀ s x s1, P s → f s x = .ok s1 () → g s x = .ok s1 () ∧ P s1) {xs : List α} {s s1 : State}
    (hs : P s) (hok : kEach s xs f = .ok s1 ()) : kEach s xs g = .ok s1 () := by
  induction xs generalizing s with
  | nil => exact hok
  | cons x xs ih =>
    rw [kEach_cons] at hok ⊢
    obtain ⟨s2, ⟨⟩, hx, hrest⟩ := KRes.andThen_eq_ok.mp hok
    obtain ⟨hg, hs2⟩ := hstep s x s2 hs hx
    rw [hg]
    exact ih hs2 hrest

/-! ### Reads of structures (R220) -/

/-- Reading a structure changes only what a read of memory may change. -/
theorem readStruct_memEffect {s s1 : State} {p a n x : Nat} {core : Option Nat}
    (h : readStruct s p core a n = .ok s1 x) : MemEffect s s1 := by
  have hread := readUnits_memEffect s a n 7 core
  unfold readStruct at h
  split at h
  · cases h
  split at h
  · cases h
  split at h
  · cases h
  split at h
  · next hunits => cases h; rwa [hunits] at hread
  · cases h

theorem readRecord_memEffect {s s1 : State} {p a : Nat} {core : Option Nat} {r : SeqRec}
    (h : readRecord s p core a = .ok s1 r) : MemEffect s s1 := by
  obtain ⟨s2, x, hread, hrec⟩ := KRes.andThen_eq_ok.mp h
  cases hrec
  exact readStruct_memEffect hread

theorem readHead_memEffect {s s1 : State} {p a : Nat} {core : Option Nat} {h : ListHead}
    (hok : readHead s p core a = .ok s1 h) : MemEffect s s1 := by
  obtain ⟨s2, x, hread, hhead⟩ := KRes.andThen_eq_ok.mp hok
  cases hhead
  exact readStruct_memEffect hread

/-- A read of memory leaves the partitions alone. -/
theorem MemEffect.partNum {s t : State} (h : MemEffect s t) (c : Nat) : partNum t c = partNum s c := by
  obtain ⟨⟨r, l, m, k, rfl⟩, -⟩ := h
  rfl

/-! ### The law of synchronous instructions (R229) -/

section CacheOp

variable {i : Instr} {c : CoreId} {rd ga gb : GReg} {func : Nat} {super : Bool}
  {f : State → SeqRec → Nat → Option (State × Nat)} {F : State → Nat → SeqRec → Nat → KRes Nat}

/-- An instruction whose change of a record is done wherever f gives one obeys the law of cache instructions. -/
theorem cacheLaw_of_cacheOp (hexec : ∀ s, exec i s = .next (cacheOp s c rd ga gb func super F))
    (hchange : ∀ s r seq s3 w, f s r seq = some (s3, w) → F s (partNum s c.toNat) r seq = .ok s3 w) :
    CacheLaw i c rd ga gb super f := by
  unfold CacheLaw
  dsimp only
  intro s s1 s2 s3 r w h hlevel hseq hreleased hdeferred hread hf
  have hallowed : (super && atTask (getCore s1 c.toNat)) = false := by
    cases super with
    | false => rfl
    | true => exact hlevel rfl
  have hpart : partNum s1 c.toNat = partNum s2 c.toNat := ((readRecord_memEffect hread).partNum _).symm
  have hdone := hchange s2 r _ s3 w hf
  refine (hexec s).trans (congrArg _ (issue_stall h ?_))
  refine (if_neg (ne_true_of_eq_false hallowed)).trans ((if_neg (Nat.not_le.mpr hseq)).trans
    ((release_of_done hreleased hdeferred).trans ?_))
  dsimp only
  rw [hread, KRes.andThen_ok, hpart, hdone]

end CacheOp

/-- Where the generation may still rise, a change of state writes the word with its generation one higher (R240). -/
theorem changeState_of_nextWord {s s1 : State} {r : SeqRec} {w : SeqState} {x : Nat} (p : Nat) (core : Option Nat)
    (h : nextWord s r w = some (s1, x)) : changeState s p core r w = .ok s1 x := by
  obtain ⟨hgen, hword⟩ := Option.ite_none_right_eq_some.mp h
  cases hword
  exact if_pos hgen

/-! ### The end of a synchronous instruction (R229) -/

/-- The state in which a synchronous instruction has written its register and committed. -/
def cacheDone (s : State) (c r w : Nat) : State :=
  commit (modCore s c fun x => setGpr { x with wait := none } r (BitVec.ofNat 64 w)) c (getCore s c).pc
    ((getCore s c).pc + 4)

/-- A synchronous instruction ends: its register takes the state word (R229). -/
theorem does_cacheInstructionComplete {c : CoreId} {s : State} {r w seq a : Nat}
    (hwait : (getCore s c.toNat).wait = some (.cache r w seq a)) :
    Does (.cacheInstructionComplete c) s (settle (cacheDone s c.toNat r w) c.toNat) := by
  refine congrArg Host.Outcome.next ?_
  simp only [hwait]
  rfl

theorem getCore_cacheDone (s : State) (c r w : Nat) : getCore (cacheDone s c r w) c =
    committed (setGpr { getCore s c with wait := none } r (BitVec.ofNat 64 w)) (getCore s c).pc
      ((getCore s c).pc + 4) := by
  rw [cacheDone, getCore_commit, getCore_modCore_self]

/-- A write of a general register changes the general registers alone. -/
theorem setGpr_frame (x : CoreSt) (r : Nat) (w : Word) : ∃ g, setGpr x r w = { x with g := g } := by
  unfold setGpr
  split
  · exact ⟨x.g, rfl⟩
  · exact ⟨_, rfl⟩

/-- A commit leaves the jobs alone. -/
theorem commit_jobs (s : State) (c : Nat) (a b : Word) : (commit s c a b).jobs = s.jobs := by
  obtain ⟨q, r, hcommit⟩ := commit_eq s c a b
  rw [hcommit]

/-- The end of a synchronous instruction in a core that neither halts nor takes a double trap, with no job running. -/
theorem settle_cacheDone {s : State} {c : Nat} (hhalt : (getCore s c).halting = false) (hdbl : (getCore s c).dbl = none)
    (hjobs : s.jobs = []) (r w : Nat) : settle (cacheDone s c r w) c = cacheDone s c r w := by
  obtain ⟨g, hg⟩ := setGpr_frame { getCore s c with wait := none } r (BitVec.ofNat 64 w)
  have hcore := getCore_cacheDone s c r w
  rw [hg] at hcore
  exact settle_of_still (by rw [hcore]; exact hdbl) (by rw [hcore]; exact hhalt) ((commit_jobs _ _ _ _).trans hjobs)

/-! ### The headers of a sequence that opens (R233) -/

/-- What KMAP open asks of a header: that it can be read and that its entries begin at a multiple of 16; v is the value
that its trap shows. -/
def checkHead (p : Nat) (core : Option Nat) (v : Nat) (s : State) (a : Nat) : KRes Unit :=
  (readHead s p core a).andThen fun s h => if h.tbase % 16 ≠ 0 then .trap s ⟨6, 7, v⟩ else .ok s ()

/-- A header that passes leaves what a read of memory leaves, and passes whatever value its trap would show. -/
theorem checkHead_ok {s s1 : State} {p a v : Nat} {core : Option Nat} (h : checkHead p core v s a = .ok s1 ())
    (v' : Nat) : checkHead p core v' s a = .ok s1 () ∧ MemEffect s s1 := by
  obtain ⟨s2, hd, hread, hcheck⟩ := KRes.andThen_eq_ok.mp h
  rw [checkHead, hread, KRes.andThen_ok]
  split at hcheck
  · cases hcheck
  · next haligned =>
    cases hcheck
    exact ⟨if_neg haligned, readHead_memEffect hread⟩

/-- Headers that pass with the partition read anew each time pass with the partition read at first. -/
theorem checkHeads_ok {s s1 : State} {c v : Nat} {as : List Nat}
    (h : kEach s as (fun s a => checkHead (partNum s c) (some c) v s a) = .ok s1 ()) (v' : Nat) :
    kEach s as (checkHead (partNum s c) (some c) v') = .ok s1 () := by
  refine kEach_ok_mono (P := fun t => partNum t c = partNum s c) (fun t a t1 ht hok => ?_) rfl h
  obtain ⟨hpass, hmem⟩ := checkHead_ok hok v'
  rw [ht] at hpass
  exact ⟨hpass, (hmem.partNum c).trans ht⟩

/-- Settles O33: each synchronous instruction by the law of `cacheOp`, its end by what a commit leaves in the core. -/
theorem sequenceStates : Obligations.SequenceStates := by
  unfold Obligations.SequenceStates
  refine fun c rd ga gb => ⟨?opens, ?closes, ?query, ?escrow, ?commits, ?drops, ?retracts,
    fun s r w seq a => does_cacheInstructionComplete, fun s w seq a hwait hhalt hdbl hjobs => ?ends⟩
  case opens =>
    refine cacheLaw_of_cacheOp (fun _ => rfl) fun s r seq s3 w hf => ?_
    obtain ⟨⟨hfree, hcfg⟩, hmade⟩ := Option.ite_none_right_eq_some.mp hf
    split at hmade
    · next s2 u hchecked =>
      obtain ⟨⟨s4, x⟩, hnext, hwrote⟩ := Option.map_eq_some_iff.mp hmade
      cases hwrote
      have hheads := checkHeads_ok hchecked seq
      have hstate := changeState_of_nextWord (partNum s c.toNat) (some c.toNat) hnext
      unfold checkHead at hheads
      simp only [hfree, hcfg, hheads, hstate, KRes.andThen_ok, ne_eq, not_true_eq_false, decide_false, Bool.not_true,
        Bool.or_self, Bool.false_eq_true, if_false]
    · cases hmade
  case closes =>
    refine cacheLaw_of_cacheOp (fun _ => rfl) fun s r seq s3 w hf => ?_
    obtain ⟨⟨hopen, hesc⟩, hword⟩ := Option.ite_none_right_eq_some.mp hf
    cases hword
    simp [hopen, hesc]
  case query =>
    refine cacheLaw_of_cacheOp (fun _ => rfl) fun s r seq s3 w hf => ?_
    cases hf
    rfl
  case escrow =>
    refine cacheLaw_of_cacheOp (fun _ => rfl) fun s r seq s3 w hf => ?_
    obtain ⟨⟨hopen, hsome, hmost, hesc⟩, hword⟩ := Option.ite_none_right_eq_some.mp hf
    have hcount : ¬ (decide (opGb s c gb = 0) || decide (16 < opGb s c gb)) = true := by
      simp only [Bool.or_eq_true, decide_eq_true_eq]
      unfold opGb
      omega
    exact (if_neg (not_not.mpr hopen)).trans ((if_neg hcount).trans ((if_neg (not_not.mpr hesc)).trans
      (changeState_of_nextWord _ _ hword)))
  case commits =>
    refine cacheLaw_of_cacheOp (fun _ => rfl) fun s r seq s3 w hf => ?_
    obtain ⟨⟨hopen, hesc, hlen⟩, hword⟩ := Option.ite_none_right_eq_some.mp hf
    have hfits : ¬ ((decide (r.word.esc ≠ 0) && decide (r.word.esc < opGb s c gb)) ||
        decide (1048576 < r.word.len + opGb s c gb)) = true := by
      simp only [Bool.or_eq_true, Bool.and_eq_true, decide_eq_true_eq]
      unfold opGb
      omega
    exact (if_neg (not_not.mpr hopen)).trans ((if_neg hfits).trans (changeState_of_nextWord _ _ hword))
  case drops =>
    refine cacheLaw_of_cacheOp (fun _ => rfl) fun s r seq s3 w hf => ?_
    obtain ⟨hopen, hword⟩ := Option.ite_none_right_eq_some.mp hf
    exact (if_neg (not_not.mpr hopen)).trans (changeState_of_nextWord _ _ hword)
  case retracts =>
    refine cacheLaw_of_cacheOp (fun _ => rfl) fun s r seq s3 w hf => ?_
    obtain ⟨⟨hopen, hesc, hlen⟩, hword⟩ := Option.ite_none_right_eq_some.mp hf
    have hfits : ¬ (decide (r.word.esc ≠ 0) || decide (r.word.len < opGb s c gb)) = true := by
      simp only [Bool.or_eq_true, decide_eq_true_eq]
      unfold opGb
      omega
    exact (if_neg (not_not.mpr hopen)).trans ((if_neg hfits).trans (changeState_of_nextWord _ _ hword))
  case ends =>
    obtain ⟨g, hg⟩ := setGpr_frame { getCore s c.toNat with wait := none } rd.toNat (BitVec.ofNat 64 w)
    refine ⟨_, (does_cacheInstructionComplete hwait).trans (congrArg _ (settle_cacheDone hhalt hdbl hjobs _ _)),
      ?_, ?_, ((OnlyCore.modCore s c.toNat _).commit _ _).sameMemory, fun q => ?_⟩
    all_goals rw [getCore_cacheDone]
    · rw [hg]
      rfl
    · rw [committed_pc]
    · exact gpr_setGpr { getCore s c.toNat with wait := none } rd.toNat q (BitVec.ofNat 64 w)

end Sys2Proof.Machine

/-! Appends and frames of the key-value cache (O34): the end of a close, what comes of an append, the frames of a pool,
and the issue of KAPP, KESC and the ragged form. -/

namespace Sys2Proof.Machine

/-! ### The end of a close (R233) -/

/-- The release of a closing sequence's entries ends with its state word free (R233). -/
theorem does_kmapCloseReleaseDone {p : PartId} {seq : BitVec 12} {s s1 s2 : State} {x : Nat × Nat × Nat} {r : SeqRec}
    (hclosing : s.closing.find? (fun e => e.1 == p.toNat && e.2.1 == seq.toNat) = some x)
    (hread : readRecord s x.1 none x.2.2 = .ok s1 r) (hlists : closeLists s1 x.1 r = .ok s2 ()) :
    Does (.kmapCloseReleaseDone p seq) s { writeStruct s2 r.addr 8 { r.word with st := 0 }.word with
      closing := (writeStruct s2 r.addr 8 { r.word with st := 0 }.word).closing.erase x
      seqOps := (writeStruct s2 r.addr 8 { r.word with st := 0 }.word).seqOps + 1 } := by
  refine congrArg Host.Outcome.next ?_
  simp only [hclosing, hread, hlists, KRes.andThen_ok]

/-! ### The end of an append (R218, R230) -/

/-- A core once an append has completed: its flags set, its register written. -/
def appended (x : CoreSt) (a : Append) (rd : Nat) : CoreSt :=
  { lateGpr (setFlags x a.flags) rd (BitVec.ofNat 64 (a.status + a.count * 256)) with
    appends := x.appends.eraseP (·.rd == rd) }

/-- An append reaches its end, and what that brings about for its core follows. -/
theorem does_appendComplete {c : CoreId} {rd : GReg} {s : State} {a : Append}
    (hfind : (getCore s c.toNat).appends.find? (·.rd == rd.toNat) = some a) :
    Does (.appendComplete c rd) s
      (settle (modCore s c.toNat fun x => noteFailure (appended x a rd.toNat) a.trap) c.toNat) := by
  refine congrArg Host.Outcome.next ?_
  simp only [hfind]
  rfl

theorem gpr_appended (x : CoreSt) (a : Append) (rd q : Nat) : gpr (appended x a rd) q =
    if q = rd ∧ rd ≠ 0 then BitVec.ofNat 64 (a.status + a.count * 256) else gpr x q :=
  gpr_lateGpr (setFlags x a.flags) rd q _

/-- A late write leaves the control words alone. -/
theorem getCw_lateGpr (x : CoreSt) (r : Nat) (w : Word) (n : Nat) : getCw (lateGpr x r w) n = getCw x n := by
  unfold lateGpr
  split
  · rfl
  · exact getCw_setGpr x r w n

/-- An append sets flags and clears none (R42). -/
theorem getCw_appended_sticky (x : CoreSt) (a : Append) (rd b : Nat) (h : (getCw x 7).getLsbD b = true) :
    (getCw (appended x a rd) 7).getLsbD b = true := by
  have hcw : getCw (appended x a rd) 7 = getCw (setFlags x a.flags) 7 := getCw_lateGpr (setFlags x a.flags) rd _ 7
  rw [hcw]
  exact getCw_setFlags_sticky x a.flags b h

/-- An append that completes lets no core halt or take a double trap that was not about to. -/
theorem appended_still (x : CoreSt) (a : Append) (rd : Nat) :
    (appended x a rd).dbl = x.dbl ∧ (appended x a rd).halting = x.halting := by
  obtain ⟨-, -, hdbl, hhalt⟩ :=
    lateGpr_frame (setFlags x a.flags) rd (BitVec.ofNat 64 (a.status + a.count * 256))
  exact ⟨hdbl, hhalt⟩

/-- The oldest append of a core completes without a fault. -/
theorem does_appendComplete_oldest {c : CoreId} {rd : GReg} {s : State} {a : Append} {r : List Append}
    (happends : (getCore s c.toNat).appends = a :: r) (hrd : a.rd = rd.toNat) (htrap : a.trap = none)
    (hhalt : (getCore s c.toNat).halting = false) (hdbl : (getCore s c.toNat).dbl = none) (hjobs : s.jobs = []) :
    Does (.appendComplete c rd) s (setCore s c.toNat (appended (getCore s c.toNat) a rd.toNat)) := by
  obtain ⟨hdbl', hhalt'⟩ := appended_still (getCore s c.toNat) a rd.toNat
  have hdoes := does_appendComplete (c := c) (rd := rd) (s := s) (a := a) (by simp [happends, hrd])
  rw [htrap] at hdoes
  exact hdoes.trans (congrArg _ (settle_setCore (hdbl'.trans hdbl) (hhalt'.trans hhalt) hjobs))

/-! ### Frames of a pool (R225, R228) -/

/-- A pending frame returns to its pool, or leaves it where it may not stand there (R228). -/
theorem does_frameRelease {c : CoreId} {s : State} {f : Nat} {x : Frame7}
    (hpending : (getVein s c.toNat).frames.find? (fun e => e.2 == .pending false) = some (f, x)) :
    Does (.frameRelease c) s (modVein s c.toNat fun v =>
      setFrame v f (if frameFits s c.toNat f then .free else .absent)) := by
  refine congrArg Host.Outcome.next ?_
  simp only [hpending]
  rfl

@[simp] theorem frameOf_setFrame_self (v : VeinSt) (f : Nat) (x : Frame7) : frameOf (setFrame v f x) f = x :=
  look_put_self _ _ _ _

/-- A word that holds a frame's number alone names that frame and no further one (Table 7.14). -/
theorem kframe_one (s : State) (c : Nat) (add : Bool) (f : BitVec 12) :
    kframe s c add (f.setWidth 64) =
      if add then
        if frameOf (getVein s c) f.toNat == .absent && frameFits s c f.toNat then
          modVein s c fun v => setFrame v f.toNat .free
        else bump s 0x07 8 1 (.core c)
      else if frameOf (getVein s c) f.toNat == .free then modVein s c fun v => setFrame v f.toNat .absent
      else bump s 0x07 8 1 (.core c) := by
  have hf := f.isLt
  have hfirst : (f.setWidth 64).toNat % 4096 = f.toNat := by rw [BitVec.toNat_setWidth]; omega
  have hmore : fieldNat (f.setWidth 64).toNat 16 12 = 0 := by
    rw [fieldNat, BitVec.toNat_setWidth]; omega
  simp only [kframe, hfirst, hmore, Nat.zero_add, List.range_one, List.foldl_cons, List.foldl_nil, Nat.add_zero]

/-- A frame that is not in its pool and may stand there becomes free (R225). -/
theorem kframe_add {s : State} {c : Nat} {f : BitVec 12} (habsent : frameOf (getVein s c) f.toNat = .absent)
    (hfits : frameFits s c f.toNat = true) :
    kframe s c true (f.setWidth 64) = modVein s c fun v => setFrame v f.toNat .free := by
  simp [kframe_one, habsent, hfits]

/-- A free frame leaves its pool (R225). -/
theorem kframe_remove {s : State} {c : Nat} {f : BitVec 12} (hfree : frameOf (getVein s c) f.toNat = .free) :
    kframe s c false (f.setWidth 64) = modVein s c fun v => setFrame v f.toNat .absent := by
  simp [kframe_one, hfree]

section Writes

variable {q : Req} {c : CoreId} {s : State} (hwritable : Writable s q (coBase c.toNat + 0x210)) (w : Word)
include hwritable

/-- A write of CO_KFRAME that is served adds the frames it names (R225). -/
theorem does_kframeAdd : Does (.kframeAdd q c w) s (kframe s c.toNat true w) :=
  congrArg Host.Outcome.next (regWrite_of_writable hwritable _)

/-- A write of CO_KFRAME that is served removes the frames it names (R225). -/
theorem does_kframeRemove : Does (.kframeRemove q c w) s (kframe s c.toNat false w) :=
  congrArg Host.Outcome.next (regWrite_of_writable hwritable _)

end Writes

/-! ### What every append asks (R230, R232) -/

/-- A state in which core c may append from a source at address a by list descriptor t, whatever its further operands:
the descriptor's kind, reserved fields and format, the source's place, room for the append and older stores drained. -/
structure AppendOpen (s : State) (c : Nat) (t : ListDesc) (a : Nat) : Prop where
  kind    : t.kind = 3
  clean   : t.rsv = false
  format  : t.sfmt ≤ 1
  aligned : a % 32 = 0
  placed  : lsSide (c / 16) a 1 = true
  room    : (getCore s c).appends.length < 8
  drained : (getCore s c).buf = []

namespace AppendOpen

variable {s : State} {c : Nat} {t : ListDesc} {a : Nat} (h : AppendOpen s c t a)
include h

theorem legal : ¬ (decide (t.kind ≠ 3) || t.rsv) = true := by simp [h.kind, h.clean]

theorem formatted : ¬ 1 < t.sfmt := Nat.not_lt.mpr h.format

theorem sourced : ¬ (decide (a % 32 ≠ 0) || !lsSide (c / 16) a 1) = true := by simp [h.aligned, h.placed]

theorem ready {moving : Bool} (hmoves : moving = false) :
    ¬ (decide (8 ≤ (getCore s c).appends.length) || !(getCore s c).buf.isEmpty || moving) = true := by
  simp [h.room, h.drained, hmoves]

end AppendOpen

/-- A length table of 1 to 1,024 entries, aligned and within one local store, is accepted (R235, R249). -/
theorem tableOpen {k a n : Nat} (hlo : 1 ≤ n) (hhi : n ≤ 1024) (haligned : a % 8 = 0)
    (hplaced : lsSide k a (8 * n) = true) :
    ¬ (decide (n = 0) || decide (1024 < n) || decide (a % 8 ≠ 0) || !lsSide k a (8 * n)) = true := by
  simp only [hplaced, haligned, ne_eq, not_true_eq_false, decide_false, Bool.not_true, Bool.or_false, Bool.or_eq_true,
    decide_eq_true_eq]
  omega

/-- An append that is on its way (R230). -/
def inFlight (s : State) (c : Nat) (e : Append) : State :=
  modCore s c fun x => { x with appends := x.appends ++ [e] }

/-! ### KAPP and the append form of KESC (R234, R237) -/

section Append

variable {c : CoreId} {d : DReg} {ga gb rd : GReg} {s s1 s2 s4 : State} {t : ListDesc} {a b : Nat} {r : SeqRec}
  (h : Issues s c.toNat ⟨4, [ga.toNat, gb.toNat, rd.toNat], true⟩ s1)
  (ht : listDesc (dreg (getCore s1 c.toNat) d.toNat).toNat = t)
  (ha : (gpr (getCore s1 c.toNat) ga.toNat).toNat % 2 ^ 48 = a) (hb : (gpr (getCore s1 c.toNat) gb.toNat).toNat = b)
  (hopen : AppendOpen s1 c.toNat t a)
include h ht ha hb hopen

/-- An append of one list that is accepted, and whose record is read, commits with what comes of it on its way. -/
theorem appendOp_launches {esc : Bool} (hlo : 1 ≤ fieldNat b 20 16) (hhi : fieldNat b 20 16 ≤ 4096)
    (hseq : t.seq < seqSize s1 c.toNat) (hmoves : movesMeet (getCore s1 c.toNat).moves a 0x80000 = false)
    (hread : readRecord s1 (partNum s1 c.toNat) (some c.toNat) (seqAddr s1 c.toNat t.seq) = .ok s2 r)
    (hlaunch : launchAppend c.toNat rd.toNat (appendDies s1 c.toNat t.layer t.head [t.seq])
      (appendList s2 ⟨c.toNat, partNum s1 c.toNat, esc, t.seq, t.layer, t.head, t.sfmt, b % 2 ^ 20, fieldNat b 20 16,
          a, a + fieldNat b 20 16 * r.hd * (if t.sfmt = 0 then 4 else 2)⟩
        fun hd => lsSide (c.toNat / 16) a (2 * fieldNat b 20 16 * hd * (if t.sfmt = 0 then 4 else 2))) = .go s4) :
    appendOp s c d ga gb rd esc = commit s4 c.toNat (getCore s c.toNat).pc ((getCore s c.toNat).pc + 4) := by
  have hcount : ¬ (decide (fieldNat b 20 16 = 0) || decide (4096 < fieldNat b 20 16)) = true := by
    simp only [Bool.or_eq_true, decide_eq_true_eq]
    omega
  refine issue_go h ?_
  dsimp only
  rw [ht, ha, hb, if_neg hopen.legal, if_neg hopen.formatted, if_neg hopen.sourced, if_neg hcount,
    if_neg (Nat.not_le.mpr hseq), if_neg (hopen.ready hmoves), hread]
  exact hlaunch

/-! ### The ragged form (R235) -/

variable {bs : List Byte} {seq0 p0 c0 : Nat} {rest : List (Nat × Nat × Nat)}
  (hlo : 1 ≤ fieldNat b 48 11) (hhi : fieldNat b 48 11 ≤ 1024) (haligned : b % 2 ^ 48 % 8 = 0)
  (hplaced : lsSide (c.toNat / 16) (b % 2 ^ 48) (8 * fieldNat b 48 11) = true)
  (hmoves : (getCore s1 c.toNat).moves = [])
  (hread : coreRead s1 c.toNat (b % 2 ^ 48) (8 * fieldNat b 48 11) 2 = (s2, .ok s2 bs))
  (htable : lengthTable s2 (b % 2 ^ 48) (fieldNat b 48 11) = .inl ((seq0, p0, c0) :: rest))
include hlo hhi haligned hplaced hmoves hread htable

/-- A ragged append whose table is accepted is on its way: with a fault where its first sequence is none of the table's,
else with what comes of its entries in turn. -/
theorem does_kappRagged :
    let es := (seq0, p0, c0) :: rest
    let dies := appendDies s2 c.toNat t.layer t.head (seq0 :: rest.map (·.1))
    let flies := fun (s3 : State) (e : Append) => Does (.kappRagged c d ga gb rd) s
      (commit (inFlight s3 c.toNat e) c.toNat (getCore s c.toNat).pc ((getCore s c.toNat).pc + 4))
    (seqSize s2 c.toNat ≤ seq0 → flies s2 ⟨rd.toNat, stAborted, 0, some ⟨4, 0, seq0⟩, 0, dies⟩) ∧
    ∀ (s3 s4 : State) (r : SeqRec), seq0 < seqSize s2 c.toNat →
      readRecord s2 (partNum s1 c.toNat) (some c.toNat) (seqAddr s2 c.toNat seq0) = .ok s3 r →
      let result := raggedLoop ⟨c.toNat, partNum s1 c.toNat, false, 0, t.layer, t.head, t.sfmt, 0, 0, a, 0⟩ r.hd
        (if t.sfmt = 0 then 4 else 2) ((es.map (·.2.2)).sum) (c.toNat / 16) es s3 0 0
      (∀ st cnt f, result = .inl (.ok s4 (st, cnt, f)) → flies s4 ⟨rd.toNat, st, cnt, none, f, dies⟩) ∧
        ∀ e cnt f, result = .inr (s4, e, cnt, f) → flies s4 ⟨rd.toNat, stAborted, cnt, some e, f, dies⟩ := by
  have hready := hopen.ready (moving := !(getCore s1 c.toNat).moves.isEmpty) (by rw [hmoves]; rfl)
  refine ⟨fun hseq => congrArg _ (issue_go h ?outside), fun s3 s4 r hseq hrec =>
    ⟨fun st cnt f hloop => congrArg _ (issue_go h ?done), fun e cnt f hloop => congrArg _ (issue_go h ?faulty)⟩⟩
  all_goals
    dsimp only
    rw [ht, ha, hb, if_neg hopen.legal, if_neg hopen.formatted, if_neg hopen.sourced,
      if_neg (tableOpen hlo hhi haligned hplaced), if_neg hready, hread]
    dsimp only
    rw [htable]
    dsimp only
  case outside =>
    rw [if_pos hseq]
    rfl
  all_goals
    rw [if_neg (Nat.not_le.mpr hseq), hrec]
    dsimp only
    rw [hloop]
    rfl

end Append

/-- Settles O34: the events by the state they leave, frames one at a time, the appends by what their launch answers. -/
theorem cacheAppends : Obligations.CacheAppends := by
  unfold Obligations.CacheAppends
  refine ⟨fun c rd p seq s => ⟨fun x s1 r s2 hclosing hread => does_kmapCloseReleaseDone hclosing hread,
    fun a => does_appendComplete, ?oldest, fun f x => does_frameRelease⟩,
    fun q c s hwritable =>
      ⟨fun w => ⟨does_kframeAdd hwritable w, does_kframeRemove hwritable w⟩, fun f => ?frames⟩,
    fun c d ga gb rd s s1 => ?appends⟩
  case oldest =>
    intro a r happends hrd htrap hhalt hdbl hjobs _ _
    refine ⟨_, does_appendComplete_oldest happends hrd htrap hhalt hdbl hjobs, ?_, SameMemory.setCore _ _ _,
      fun b hb => ?_, fun q => ?_⟩
    all_goals rw [getCore_setCore_self]
    · simp [appended, happends, hrd]
    · exact getCw_appended_sticky _ _ _ _ hb
    · exact gpr_appended _ _ _ _
  case frames =>
    refine ⟨fun habsent hfits => ⟨_, (does_kframeAdd hwritable _).trans (congrArg _ (kframe_add habsent hfits)), ?_,
      fun _ => rfl⟩, fun hfree => ⟨_, (does_kframeRemove hwritable _).trans (congrArg _ (kframe_remove hfree)), ?_,
      fun _ => rfl⟩⟩
    all_goals rw [getVein_modVein_self, frameOf_setFrame_self]
  case appends =>
    intro x t a b w flies h hkind hclean hformat haligned hplaced hroom hdrained
    have hopen : AppendOpen s1 c.toNat t a := ⟨hkind, hclean, hformat, haligned, hplaced, hroom, hdrained⟩
    refine ⟨?list, ?ragged⟩
    case list =>
      intro esc s2 s3 r i count dies result hlo hhi hseq hmoves hread
      have hdoes : ∀ s4 e, launchAppend c.toNat rd.toNat dies result = .go (inFlight s4 c.toNat e) →
          Does i s (flies s4 e) := fun s4 e hlaunch => by
        have happend := appendOp_launches h rfl rfl rfl hopen hlo hhi hseq hmoves hread hlaunch
        cases esc with
        | false => exact congrArg Host.Outcome.next happend
        | true => exact congrArg Host.Outcome.next happend
      refine ⟨fun st n f hresult => hdoes _ _ ?_, fun e hresult => hdoes _ _ ?_, fun hresult => hdoes _ _ ?_⟩
      all_goals
        rw [hresult]
        rfl
    case ragged =>
      intro s2 bs seq0 p0 c0 rest tbl n es dies hlo hhi htbl hside hmoves hread htable
      exact does_kappRagged h rfl rfl rfl hopen hlo hhi htbl hside hmoves hread htable

end Sys2Proof.Machine

/-! Attention (O35): KMERGE over records that agree and over records that differ, KMASK with and without a length table,
and the issue of KATT. -/

namespace Sys2Proof.Machine

/-! ### Attention descriptors (Table 7.8) -/

/-- An attention descriptor of its kind, with its reserved fields zero and a mask kind that is assigned, is accepted. -/
theorem attnDesc_legal {t : AttnDesc} (hkind : t.kind = 4) (hclean : t.rsv = false) (hmasked : t.mkind ≠ 3) :
    ¬ (decide (t.kind ≠ 4) || t.rsv || decide (t.mkind = 3)) = true := by
  simp [hkind, hclean, hmasked]

/-- Queries in BF16 or E4M3 are accepted. -/
theorem attnDesc_formatted {t : AttnDesc} (hfmt : t.qfmt = 1 ∨ t.qfmt = 3) :
    ¬ (decide (t.qfmt ≠ 1) && decide (t.qfmt ≠ 3)) = true := by
  rcases hfmt with hfmt | hfmt
  · simp [hfmt]
  · simp [hfmt]

/-! ### KMERGE (R250, R251) -/

/-- A state in which core c may merge n records that begin at address a, a stride apart, by attention descriptor t: the
descriptor's kind, reserved fields and mask kind, the count and the stride, each record wholly in a local store of the
core's partition, older stores and moves done. -/
structure MergeOpen (s : State) (c : Nat) (t : AttnDesc) (a n stride : Nat) : Prop where
  kind    : t.kind = 4
  clean   : t.rsv = false
  masked  : t.mkind ≠ 3
  some    : 1 ≤ n
  most    : n ≤ 4096
  spaced  : stride % 32 = 0
  placed  : ∀ i, i < n → (∃ q o, placeOf (a + i * stride) = .ls q o ∧ o + recordSize t.nq t.hd ≤ 0x80000) ∧
    inOwnPartition s c (a + i * stride) = true
  drained : (getCore s c).buf = []
  still   : (getCore s c).moves = []

namespace MergeOpen

variable {s : State} {c : Nat} {t : AttnDesc} {a n stride : Nat} (h : MergeOpen s c t a n stride)
include h

theorem legal : ¬ (decide (t.kind ≠ 4) || t.rsv || decide (t.mkind = 3)) = true :=
  attnDesc_legal h.kind h.clean h.masked

theorem counted : ¬ (decide (n = 0) || decide (4096 < n) || decide (stride % 32 ≠ 0)) = true := by
  have hsome := h.some
  have hmost := h.most
  simp only [h.spaced, Bool.or_eq_true, decide_eq_true_eq]
  omega

theorem ready : ¬ (!(getCore s c).buf.isEmpty || !(getCore s c).moves.isEmpty) = true := by simp [h.drained, h.still]

/-- A search for a record that does not lie wholly in a local store of the partition finds none. -/
theorem find_misplaced {p : Nat → Bool} (hp : ∀ i q o, placeOf (a + i * stride) = .ls q o →
    o + recordSize t.nq t.hd ≤ 0x80000 → inOwnPartition s c (a + i * stride) = true → p i = false) :
    (List.range n).find? p = none := by
  refine List.find?_range_eq_none.mpr fun i hi => ?_
  obtain ⟨⟨q, o, hls, hfits⟩, hmine⟩ := h.placed i hi
  rw [hp i q o hls hfits hmine]
  rfl

end MergeOpen

/-- Record i has the generation and the bound of record 0 (R245, R251). -/
abbrev TrailerAgrees (s : State) (t : AttnDesc) (a stride i : Nat) : Prop :=
  trailerOf s a stride (recordSize t.nq t.hd) i 0 8 = trailerOf s a stride (recordSize t.nq t.hd) 0 0 8

/-- The state after the result of a KMERGE has been written: the merged record, or the elements o / l with their flags
set in the core, x being that core as it issued (R250). -/
def mergeWritten (s : State) (x : CoreSt) (c : Nat) (t : AttnDesc) (a n stride out ofmt : Nat) (rec : Bool) : State :=
  let es := mergedElems x ofmt (mergedRows s a stride n t.nq t.hd)
  if rec then (writeUnits s out (mergedRecord s a stride (recordSize t.nq t.hd) n t.nq t.hd) 3 (some c)).1
  else modCore (writeUnits s out (es.flatMap fun e => natLe (if ofmt = 0 then 4 else 2) e.1) 3 (some c)).1 c fun y =>
    setFlags y (orFlags (es.map (·.2)))

section Merge

variable {c : CoreId} {d : DReg} {ga gb gc : GReg} {ofmt : BitVec 4} {s s1 s2 : State} {bs : List Byte} {t : AttnDesc}
  {a n stride out : Nat} (h : Issues s c.toNat ⟨4, [ga.toNat, gb.toNat, gc.toNat], true⟩ s1)
  (ht : attnDesc (dreg (getCore s1 c.toNat) d.toNat).toNat = t)
  (ha : (gpr (getCore s1 c.toNat) ga.toNat).toNat % 2 ^ 48 = a)
  (hn : (gpr (getCore s1 c.toNat) gb.toNat).toNat % 65536 = n)
  (hstride : (gpr (getCore s1 c.toNat) gb.toNat).toNat / 65536 = stride)
  (hout : (gpr (getCore s1 c.toNat) gc.toNat).toNat % 2 ^ 48 = out)
  (hopen : MergeOpen s1 c.toNat t a n stride) (haligned : out % 32 = 0)
  (hread : mergeReads s1 c.toNat a stride (recordSize t.nq t.hd) n = (s2, .ok s2 bs))
include h ht ha hn hstride hout hopen haligned hread

/-- KMERGE that the rules accept: with trailers that agree it writes its result whole, else it takes trap 0x06 sub 8
with the address of the first record that differs. -/
theorem does_kmerge {rec : Bool} (hfmt : rec = true ∨ ofmt.toNat ≤ 1)
    (hside : lsSide (c.toNat / 16) out
      (if rec then recordSize t.nq t.hd else t.nq * t.hd * (if ofmt.toNat = 0 then 4 else 2)) = true) :
    ((∀ i, i < n → TrailerAgrees s2 t a stride i) → Does (.kmerge c d ga gb gc ofmt rec) s
      (commit (mergeWritten s2 (getCore s1 c.toNat) c.toNat t a n stride out ofmt.toNat rec) c.toNat
        (getCore s c.toNat).pc ((getCore s c.toNat).pc + 4))) ∧
    ∀ i, i < n → (∀ j, j < i → TrailerAgrees s2 t a stride j) → ¬ TrailerAgrees s2 t a stride i →
      (getCore s c.toNat).loads = [] → Does (.kmerge c d ga gb gc ofmt rec) s
        (takeTrap s2 c.toNat ⟨6, 8, a + i * stride⟩ (getCore s c.toNat).pc false false) := by
  have hformat : ¬ (!rec && decide (1 < ofmt.toNat)) = true := by
    rcases hfmt with hrec | hfmt
    · simp [hrec]
    · simp [hfmt]
  have hroom {len : Nat} (hside : lsSide (c.toNat / 16) out len = true) :
      ¬ (decide (out % 32 ≠ 0) || !lsSide (c.toNat / 16) out len) = true := by simp [haligned, hside]
  refine ⟨fun hsame => congrArg _ (issue_go h ?agree),
    fun i hi hfirst hdiffers hloads => congrArg _ (issue_trap h hloads ?differ)⟩
  all_goals
    dsimp only
    rw [ht, ha, hn, hstride, hout, if_neg hopen.legal, if_neg hformat, if_neg hopen.counted,
      if_neg (hroom hside), hopen.find_misplaced fun i q o hls hfits hmine => by simp [hls, hfits, hmine]]
    dsimp only
    rw [if_neg hopen.ready, hread]
    dsimp only
  case agree =>
    rw [List.find?_range_eq_none.mpr fun i hi => by simpa using hsame i hi]
    exact (apply_ite Eff.go _ _ _).symm
  case differ =>
    rw [List.find?_range_eq_some.mpr
      ⟨by simpa using hdiffers, List.mem_range.mpr hi, fun j hj => by simpa using hfirst j hj⟩]
    rfl

end Merge

/-! ### KMASK (R249) -/

/-- A state in which core c may write the mask of descriptor t with n entries of a length table: the descriptor's kind,
reserved fields and form, the places of the map and of the bitmaps, older stores and moves done. -/
structure MaskOpen (s : State) (c : Nat) (t : MaskDesc) (n : Nat) : Prop where
  kind    : t.kind = 5
  clean   : t.rsv = false
  form    : t.form ≤ 1
  placed  : badSide c [(t.map, 32 + 2 * ((t.rows + 63) / 64) * ((t.cols + 63) / 64)),
    (t.tiles, 512 * ((t.rows + 63) / 64 * (2 + (if t.win = 0 then 0 else 2)) + (if t.lt then 2 * n else 0)))] = none
  drained : (getCore s c).buf = []
  still   : (getCore s c).moves = []

namespace MaskOpen

variable {s : State} {c : Nat} {t : MaskDesc} {n : Nat} (h : MaskOpen s c t n)
include h

theorem legal : ¬ (decide (t.kind ≠ 5) || t.rsv || decide (1 < t.form)) = true := by
  simp [h.kind, h.clean, h.form]

theorem ready : ¬ (!(getCore s c).buf.isEmpty || !(getCore s c).moves.isEmpty) = true := by simp [h.drained, h.still]

end MaskOpen

/-- The state after the map and then the bitmaps of a mask have been written (R248, R249). -/
def maskWritten (s : State) (c : Nat) (t : MaskDesc) (es : List (Nat × Nat × Nat)) : State :=
  (writeUnits (writeUnits s t.map (maskBytes t es).1 3 (some c)).1 t.tiles (maskBytes t es).2 3 (some c)).1

section Mask

variable {c : CoreId} {d : DReg} {ga : GReg} {s s1 s2 : State} {bs : List Byte} {es : List (Nat × Nat × Nat)}
  {t : MaskDesc} {g : Nat} (h : Issues s c.toNat ⟨4, [ga.toNat], true⟩ s1)
  (ht : maskDesc (dreg (getCore s1 c.toNat) d.toNat).toNat = t) (hg : (gpr (getCore s1 c.toNat) ga.toNat).toNat = g)
  (hopen : MaskOpen s1 c.toNat t (fieldNat g 48 11))
include h ht hg hopen

/-- KMASK without a length table writes its map and its bitmaps. -/
theorem does_kmask (hlt : t.lt = false) : Does (.kmask c d ga) s
    (commit (maskWritten s1 c.toNat t []) c.toNat (getCore s c.toNat).pc ((getCore s c.toNat).pc + 4)) := by
  refine congrArg _ (issue_go h ?_)
  dsimp only
  rw [ht, hg, if_neg hopen.legal, hopen.placed]
  dsimp only
  rw [hlt]
  simp only [Bool.false_and, Bool.false_eq_true, if_false, if_neg hopen.ready]
  rfl

/-- KMASK with a length table whose positions are the mask's rows and columns writes its map and its bitmaps. -/
theorem does_kmask_ragged (hlt : t.lt = true) (hlo : 1 ≤ fieldNat g 48 11) (hhi : fieldNat g 48 11 ≤ 1024)
    (haligned : g % 2 ^ 48 % 8 = 0) (hplaced : lsSide (c.toNat / 16) (g % 2 ^ 48) (8 * fieldNat g 48 11) = true)
    (hread : coreRead s1 c.toNat (g % 2 ^ 48) (8 * fieldNat g 48 11) 2 = (s2, .ok s2 bs))
    (htable : lengthTable s2 (g % 2 ^ 48) (fieldNat g 48 11) = .inl es) (hrows : t.rows = (es.map (·.2.2)).sum)
    (hcols : t.cols = (es.map (·.2.2)).sum) : Does (.kmask c d ga) s
    (commit (maskWritten s2 c.toNat t es) c.toNat (getCore s c.toNat).pc ((getCore s c.toNat).pc + 4)) := by
  refine congrArg _ (issue_go h ?_)
  dsimp only
  rw [ht, hg, if_neg hopen.legal, hopen.placed]
  dsimp only
  rw [hlt]
  simp only [Bool.true_and, if_true]
  rw [if_neg (tableOpen hlo hhi haligned hplaced), if_neg hopen.ready, hread]
  dsimp only
  rw [htable]
  dsimp only
  rw [if_neg (by simp [hrows, hcols])]
  rfl

end Mask

/-- Settles O35: KATT passes its checks in turn and is queued; KMERGE and KMASK by the state they commit. -/
theorem attention : Obligations.Attention := by
  unfold Obligations.Attention
  refine ⟨fun c d ga gb rec => ?katt, fun c d ga gb gc ofmt s s1 s2 bs => ?kmerge,
    fun c d ga s s1 s2 bs es => ?kmask⟩
  case katt =>
    have hexec : ∀ s, exec (if rec then .kattRecompute c d ga gb else .kattForward c d ga gb) s =
        .next (issueKatt s c d ga gb rec) := fun s => by cases rec <;> rfl
    refine commitLaw_of_go hexec fun s1 hok => ?_
    dsimp only at hok ⊢
    obtain ⟨hkind, hclean, hmasked, hfmt, hseq, hstep, hcount, hplaced, hroom, hbuf, hmoves⟩ := hok
    rw [if_neg (attnDesc_legal hkind hclean hmasked), if_neg (attnDesc_formatted hfmt), if_neg (Nat.not_le.mpr hseq),
      if_neg (by simp [hstep, hcount]), hplaced]
    exact if_neg (by simp [hroom, hbuf, hmoves])
  case kmerge =>
    intro x a n stride out t size olen same done h hkind hclean hmasked hsome hmost hspaced haligned hplaced hbuf hmoves
      hread
    have hopen : MergeOpen s1 c.toNat t a n stride :=
      ⟨hkind, hclean, hmasked, hsome, hmost, hspaced, hplaced, hbuf, hmoves⟩
    refine ⟨fun hsame => ⟨fun hside => ?record, fun hfmt hside => ?ratio⟩,
      fun i hi hfirst hdiffers hloads hside => ?differ⟩
    case record => exact (does_kmerge (rec := true) h rfl rfl rfl rfl rfl hopen haligned hread (.inl rfl) hside).1 hsame
    case ratio =>
      have hdone := (does_kmerge (rec := false) h rfl rfl rfl rfl rfl hopen haligned hread (.inr hfmt) hside).1 hsame
      simp only [mergeWritten, Bool.false_eq_true, if_false] at hdone
      exact hdone
    case differ =>
      exact (does_kmerge (rec := true) h rfl rfl rfl rfl rfl hopen haligned hread (.inl rfl) hside).2 i hi hfirst
        hdiffers hloads
  case kmask =>
    intro x g tbl n m rts cts total wrote done h hkind hclean hform hplaced hbuf hmoves
    have hopen : MaskOpen s1 c.toNat m n := ⟨hkind, hclean, hform, hplaced, hbuf, hmoves⟩
    refine ⟨does_kmask h rfl rfl hopen, fun hlt hlo hhi haligned hside hread htable hrows hcols => ?_⟩
    exact does_kmask_ragged h rfl rfl hopen hlt hlo hhi haligned hside hread htable hrows hcols

end Sys2Proof.Machine

/-! Generators (O37): instructions that work on a sequence's record, the words of Philox, SEED and RAND. -/

namespace Sys2Proof.Machine

/-- An instruction whose meaning goes on to every state that R relates obeys the law of effects. -/
theorem effectLaw_of_go {i : Instr} {c : CoreId} {n : Nat} {regs : List Nat} {ra : CoreSt → CoreSt}
    {body : State → Eff} {R : State → State → Prop}
    (hexec : ∀ s, exec i s = .next (issue s c.toNat ⟨n, regs, true⟩ ra body))
    (hbody : ∀ s t, R s t → body s = .go t) : EffectLaw i c n regs R :=
  fun s s1 t h hR => (hexec s).trans (congrArg _ (issue_go h (hbody s1 t hR)))

/-! ### Instructions on a sequence's record (R274) -/

/-- With its older stores and moves done a core is not held up. -/
theorem still_of_nil {x : CoreSt} (hbuf : x.buf = []) (hmoves : x.moves = []) :
    ¬ (!x.buf.isEmpty || !x.moves.isEmpty) = true := by simp [hbuf, hmoves]

section OnRecord

variable {s s1 : State} {c seq rd w : Nat} {k : State → Nat → KRes Nat}

/-- A form of SEED on a record of the table goes on where its work is done, with the answer in rd. -/
theorem onRecord_ok (hseq : seq < seqSize s c) (hbuf : (getCore s c).buf = []) (hmoves : (getCore s c).moves = [])
    (hk : k s (seqAddr s c seq) = .ok s1 w) :
    onRecord s c seq k rd = .go (modCore s1 c fun x => setGpr x rd (BitVec.ofNat 64 w)) := by
  unfold onRecord
  dsimp only
  rw [if_neg (Nat.not_le.mpr hseq), if_neg (still_of_nil hbuf hmoves), hk]

/-- A form of SEED on a sequence outside the table takes trap 0x04. -/
theorem onRecord_outside (hseq : seqSize s c ≤ seq) : onRecord s c seq k rd = .at s 4 0 seq := if_pos hseq

end OnRecord

/-! ### SEED (R274) -/

section Seed

variable {s s2 : State} {c : Nat}

/-- A core with no generator bound has none to release. -/
theorem seedDrop_none (h : (getCore s c).bind = none) : seedDrop s c = .ok s () := by simp [seedDrop, h]

/-- A generator bound is released with its counter written back. -/
theorem seedDrop_some {b : Binding} (h : (getCore s c).bind = some b)
    (hwrite : writeGenerator s c (b.record + 48) (natLe 8 b.counter) = .ok s2 ()) :
    seedDrop s c = .ok (modCore s2 c fun x => { x with bind := none }) () := by
  simp [seedDrop, h, hwrite]

end Seed

/-! ### The words of Philox (R273) -/

/-- Four words of 32 bits. -/
def IsBlock (x : List Nat) : Prop := x.length = 4 ∧ ∀ w ∈ x, w < 2 ^ 32

theorem isBlock_philoxRound {x : List Nat} (h : IsBlock x) (k0 k1 : Nat) : IsBlock (philoxRound x k0 k1) := by
  obtain ⟨hlen, -⟩ := h
  match x, hlen with
  | [a, b, c, d], _ =>
    refine ⟨rfl, ?_⟩
    simp only [philoxRound, List.forall_mem_cons, List.not_mem_nil, false_imp_iff, implies_true, and_true]
    exact ⟨Nat.mod_lt _ (by decide), Nat.mod_lt _ (by decide), Nat.mod_lt _ (by decide), Nat.mod_lt _ (by decide)⟩

/-- One round more is a round, then the others with the next key words. (Both sides are unfolded to the recursor first:
on the definition's own name the kernel compares the increased key words one unit at a time.) -/
theorem philoxRounds_succ (n k0 k1 : Nat) (x : List Nat) : philoxRounds (n + 1) x k0 k1 =
    philoxRounds n (philoxRound x k0 k1) ((k0 + 0x9E3779B9) % 2 ^ 32) ((k1 + 0xBB67AE85) % 2 ^ 32) := by
  delta philoxRounds
  rfl

theorem isBlock_philoxRounds {x : List Nat} (h : IsBlock x) (n k0 k1 : Nat) : IsBlock (philoxRounds n x k0 k1) := by
  induction n generalizing x k0 k1 with
  | zero => exact h
  | succ n ih =>
    rw [philoxRounds_succ]
    exact ih (isBlock_philoxRound h k0 k1) _ _

theorem isBlock_philox (key counter : Nat) : IsBlock (philox key counter) := by
  unfold philox
  refine isBlock_philoxRounds ⟨rfl, ?_⟩ _ _ _
  simp only [List.forall_mem_cons, List.not_mem_nil, false_imp_iff, implies_true, and_true]
  exact ⟨Nat.mod_lt _ (by decide), Nat.mod_lt _ (by decide), Nat.mod_lt _ (by decide), Nat.mod_lt _ (by decide)⟩

theorem philoxBlocks_flatten_length (key counter n : Nat) : (philoxBlocks key counter n).flatten.length = 4 * n := by
  have hlen (x : List Nat) (hx : x ∈ philoxBlocks key counter n) : x.length = 4 := by
    obtain ⟨i, -, rfl⟩ := List.mem_map.mp hx
    exact (isBlock_philox _ _).1
  rw [List.length_flatten, List.map_congr_left hlen, List.map_const', List.sum_replicate, philoxBlocks, List.length_map,
    List.length_range, smul_eq_mul, Nat.mul_comm]

theorem philoxBlocks_flatten_lt {key counter n w : Nat} (h : w ∈ (philoxBlocks key counter n).flatten) :
    w < 2 ^ 32 := by
  obtain ⟨l, hl, hw⟩ := List.mem_flatten.mp h
  obtain ⟨i, -, rfl⟩ := List.mem_map.mp hl
  exact (isBlock_philox _ _).2 w hw

/-- A word of n blocks has 32 bits. -/
theorem philoxBlocks_getD_lt {key counter n j : Nat} (h : j < 4 * n) :
    (philoxBlocks key counter n).flatten.getD j 0 < 2 ^ 32 := by
  rw [← philoxBlocks_flatten_length key counter n] at h
  rw [List.getD_eq_getElem _ _ h]
  exact philoxBlocks_flatten_lt (List.getElem_mem h)

/-! ### RAND (R275) -/

@[simp] theorem committed_bind (x : CoreSt) (a b : Word) : (committed x a b).bind = x.bind := rfl
@[simp] theorem vreg_committed (x : CoreSt) (a b : Word) (r : Nat) : vreg (committed x a b) r = vreg x r := rfl
@[simp] theorem committed_cw (x : CoreSt) (a b : Word) : (committed x a b).cw = x.cw := rfl

/-- A generator that has given n more blocks. -/
def Binding.later (b : Binding) (n : Nat) : Binding := { b with counter := (b.counter + n) % 2 ^ 64 }

/-- A core whose bound generator is b. -/
def boundTo (x : CoreSt) (b : Binding) : CoreSt := { x with bind := some b }

@[simp] theorem boundTo_bind (x : CoreSt) (b : Binding) : (boundTo x b).bind = some b := rfl
@[simp] theorem boundTo_g (x : CoreSt) (b : Binding) : (boundTo x b).g = x.g := rfl
@[simp] theorem boundTo_v (x : CoreSt) (b : Binding) : (boundTo x b).v = x.v := rfl
@[simp] theorem boundTo_cw (x : CoreSt) (b : Binding) : (boundTo x b).cw = x.cw := rfl
@[simp] theorem gpr_boundTo (x : CoreSt) (b : Binding) (r : Nat) : gpr (boundTo x b) r = gpr x r := rfl
@[simp] theorem vreg_boundTo (x : CoreSt) (b : Binding) (r : Nat) : vreg (boundTo x b) r = vreg x r := rfl

section Blocks

variable (s : State) (c : Nat) (b : Binding) (n : Nat)

/-- Taking blocks advances the bound generator's counter by their number. -/
theorem getCore_takeBlocks : getCore (takeBlocks s c b n).1 c = boundTo (getCore s c) (b.later n) :=
  (getCore_bump _ 0x08 6 n (.core c) c).trans (getCore_modCore_self s c fun x => boundTo x (b.later n))

theorem takeBlocks_onlyCore : OnlyCore c s (takeBlocks s c b n).1 :=
  (OnlyCore.modCore s c _).trans ((bump_onlyRegs _ 0x08 6 n (.core c)).onlyCore c)

end Blocks

section Rand

variable {i : Instr} {c : CoreId} {rd : GReg} {vd : VReg} {regs : List Nat} {s s1 : State} {b : Binding}

theorem Issues.vreg_eq (h : Issues s c.toNat ⟨4, regs, true⟩ s1) (r : Nat) :
    vreg (getCore s1 c.toNat) r = vreg (getCore s c.toNat) r := by rw [h.getCore_eq]; rfl

/-- An instruction that takes n blocks of the bound generator and then changes its core by f leaves the core so changed
and committed. -/
theorem does_takeBlocks {ra : CoreSt → CoreSt} {body : State → Eff} {f : CoreSt → CoreSt} {n : Nat}
    (h : Issues s c.toNat ⟨4, regs, true⟩ s1)
    (hexec : exec i s = .next (issue s c.toNat ⟨4, regs, true⟩ ra body))
    (hbody : body s1 = .go (modCore (takeBlocks s1 c.toNat b n).1 c.toNat f)) :
    ∃ t, Does i s t ∧
      getCore t c.toNat = committed (f (boundTo (getCore s1 c.toNat) (b.later n))) (getCore s c.toNat).pc
        ((getCore s c.toNat).pc + 4) ∧
      OnlyCore c.toNat s1 t := by
  obtain ⟨t, hdoes, hcore, honly⟩ := does_go h hexec hbody
    ((takeBlocks_onlyCore s1 c.toNat b n).trans (OnlyCore.modCore _ _ f))
  rw [getCore_modCore_self, getCore_takeBlocks] at hcore
  exact ⟨t, hdoes, hcore, honly⟩

/-- A vector form of RAND fills vd with what it makes of the 32 words of eight blocks. -/
theorem does_randVector {lane : Nat → Nat} (hexec : exec i s = .next (randVector c vd lane s))
    (h : Issues s c.toNat ⟨4, [], true⟩ s1) (hbind : (getCore s1 c.toNat).bind = some b) :
    ∃ t, Does i s t ∧ (getCore t c.toNat).bind = some (b.later 8) ∧ (getCore t c.toNat).g = (getCore s c.toNat).g ∧
      (∀ j, j < 32 → LaneIs (getCore t c.toNat) vd.toNat 32 j
        (lane ((philoxBlocks b.key b.counter 8).flatten.getD j 0) % 2 ^ 32)) ∧
      (∀ r, r ≠ vd.toNat → vreg (getCore t c.toNat) r = vreg (getCore s c.toNat) r) ∧ OnlyCore c.toNat s1 t := by
  obtain ⟨t, hdoes, hcore, honly⟩ := does_takeBlocks (b := b) (n := 8)
    (f := fun x => setVreg x vd.toNat (ofLanes 32 ((philoxBlocks b.key b.counter 8).flatten.map lane)))
    h hexec (by simp only [hbind, takeBlocks])
  have hvreg (r : Nat) : vreg (getCore t c.toNat) r =
      if r = vd.toNat then ofLanes 32 ((philoxBlocks b.key b.counter 8).flatten.map lane)
      else vreg (getCore s c.toNat) r := by
    rw [hcore, vreg_committed, vreg_setVreg, vreg_boundTo, h.vreg_eq]
  refine ⟨t, hdoes, by rw [hcore, committed_bind, setVreg_bind, boundTo_bind],
    by rw [hcore, committed_g, setVreg_g, boundTo_g, h.getCore_eq], fun j hj => ?_,
    fun r hr => (hvreg r).trans (if_neg hr), honly⟩
  have hlen : j < (philoxBlocks b.key b.counter 8).flatten.length := by rwa [philoxBlocks_flatten_length]
  rw [LaneIs, hvreg, if_pos rfl, laneOf_ofLanes _ _ _ (by omega), List.getD_eq_getElem _ _ (by rwa [List.length_map]),
    List.getD_eq_getElem _ _ hlen, List.getElem_map]

/-- The scalar form of RAND fills rd with the first two words of one block. -/
theorem does_randScalar (h : Issues s c.toNat ⟨4, [rd.toNat], true⟩ s1) (hbind : (getCore s1 c.toNat).bind = some b) :
    ∃ t, Does (.randScalar c rd) s t ∧
      getCore t c.toNat = committed
        (setGpr (boundTo (getCore s1 c.toNat) (b.later 1)) rd.toNat
          (BitVec.ofNat 64 ((philoxBlocks b.key b.counter 1).flatten.getD 0 0 +
            (philoxBlocks b.key b.counter 1).flatten.getD 1 0 * 2 ^ 32)))
        (getCore s c.toNat).pc ((getCore s c.toNat).pc + 4) ∧ OnlyCore c.toNat s1 t := by
  refine does_takeBlocks (f := fun x => setGpr x rd.toNat _) h rfl ?_
  simp only [hbind, takeBlocks]

end Rand

/-- Settles O37: the forms of SEED by the law of effects, those of RAND by the core that taking blocks leaves. -/
theorem generators : Obligations.Generators := by
  unfold Obligations.Generators
  refine ⟨fun c rd ga gb gc => ⟨?bind, ?release, ?setKey, ?setCounter, ?counterTrap, ?bindTrap⟩,
    fun c rd vd => ⟨?scalar, fun s s1 b h hbind => ⟨?bits, does_randVector rfl h hbind⟩, ?scalarTrap, ?bitsTrap,
      ?uniformTrap⟩⟩
  case bind =>
    refine effectLaw_of_go (fun _ => rfl) fun s t ⟨⟨hseq, hbuf, hmoves⟩, s0, s2, w, hdrop, hread, ht⟩ => ?_
    subst ht
    dsimp only
    split
    · next hbound =>
      refine onRecord_ok hseq hbuf hmoves ?_
      simp only [hdrop, hread, KRes.andThen_ok, hbound]
    · next hunbound =>
      refine onRecord_ok hseq hbuf hmoves ?_
      simp only [hdrop, hread, KRes.andThen_ok]
      split
      · next hbound => exact absurd hbound hunbound
      · next hfailed => rw [if_pos hfailed]
      · next _ hother => rw [if_neg hother]
  case release =>
    refine effectLaw_of_go (fun _ => rfl) fun s t ⟨hbuf, hmoves, hcases⟩ => (if_neg (still_of_nil hbuf hmoves)).trans ?_
    rcases hcases with ⟨hbind, rfl⟩ | ⟨b, s2, hbind, hwrite, rfl⟩
    · rw [seedDrop_none hbind]
      rfl
    · rw [seedDrop_some hbind hwrite]
      rfl
  case setKey =>
    refine effectLaw_of_go (fun _ => rfl) fun s t ⟨⟨hseq, hbuf, hmoves⟩, s2, hwrite, ht⟩ => ?_
    subst ht
    refine onRecord_ok hseq hbuf hmoves ?_
    rw [hwrite]
    rfl
  case setCounter =>
    refine commitLaw_of_go (fun _ => rfl) fun s hbound => ?_
    obtain ⟨b, hbind⟩ := Option.ne_none_iff_exists'.mp hbound
    simp only [modCore, hbind, Option.map_some]
  case bindTrap => exact trapLaw_of_trap (fun _ => rfl) fun s hseq => onRecord_outside hseq
  case scalar =>
    intro s s1 b h hbind
    obtain ⟨t, hdoes, hcore, honly⟩ := does_randScalar h hbind
    refine ⟨t, hdoes, ?_, by rw [hcore, committed_pc], fun r => ?_, ?_, ?_, honly⟩
    all_goals rw [hcore]
    · rw [committed_bind, setGpr_bind, boundTo_bind]
      rfl
    · rw [gpr_committed, gpr_setGpr, gpr_boundTo, h.gpr_eq]
    · rw [committed_v, setGpr_v, boundTo_v, h.getCore_eq]
    · rw [committed_cw, setGpr_cw, boundTo_cw, h.getCore_eq]
  case bits =>
    obtain ⟨t, hdoes, hbound, hg, hlanes, hrest⟩ :=
      does_randVector (i := .randBits c vd) (lane := fun w => w) rfl h hbind
    refine ⟨t, hdoes, hbound, hg, fun j hj => ?_, hrest⟩
    rw [← Nat.mod_eq_of_lt (philoxBlocks_getD_lt (key := b.key) (counter := b.counter) (n := 8) (j := j) (by omega))]
    exact hlanes j hj
  case counterTrap | scalarTrap | bitsTrap | uniformTrap =>
    refine trapLaw_of_trap (fun _ => rfl) fun s hunbound => ?_
    simp only [hunbound]
    rfl

end Sys2Proof.Machine

/-! Sampling (O38): a draw as the statement has it is the model's, SMPLK and SMPLP pass their checks in turn. -/

namespace Sys2Proof.Machine

theorem philoxBlocks_one (key counter : Nat) :
    (philoxBlocks key counter 1).flatten = philox key (counter % 2 ^ 64) := by
  simp [philoxBlocks]

/-- A draw, once its source is read, goes on to the state that the rule of draws gives (R279). -/
theorem finishDraw_of_drawn {s t : State} {c rd tau : Nat} {xs : List (Nat × Nat)} {ws : List Nat}
    {keep : List Nat → List Nat} (h : Drawn s c rd tau xs ws keep t) :
    finishDraw s c rd tau xs ws keep = .go t := by
  unfold finishDraw
  rcases h with ⟨hcold, rfl⟩ | ⟨hwarm, hbad, rfl⟩ | ⟨hwarm, hgood, b, hbind, rfl⟩
  · exact if_pos hcold
  · exact (if_neg hwarm).trans (if_pos hbad)
  · refine (if_neg hwarm).trans ((if_neg (ne_true_of_eq_false hgood)).trans ?_)
    simp only [hbind, takeBlocks, philoxBlocks_one]

/-- A draw may take place: its temperature is one, and at any but 0 a generator is bound (R279). -/
theorem drawOpen {x : CoreSt} {tau : Nat} (htau : badTau tau = false) (hbind : abs32 tau = 0 ∨ x.bind.isSome = true) :
    (badTau tau || (abs32 tau != 0 && x.bind.isNone)) = false := by
  rcases hbind with hcold | hbound
  · simp [htau, hcold]
  · obtain ⟨b, hb⟩ := Option.isSome_iff_exists.mp hbound
    simp [htau, hb]

/-- A source or an output that lies where it may is accepted (R276). -/
theorem sampleSide_legal {c a n : Nat} (h : sampleSide c a n = true) : ¬ (!sampleSide c a n) = true := by simp [h]

/-- 1 to 64 candidates in an assigned mode are accepted (R278). -/
theorem sampleCount_legal {b : Nat} (hlo : 1 ≤ b % 128) (hhi : b % 128 ≤ 64) (hmode : bitNat b 7 = true) :
    ¬ (decide (b % 128 = 0) || decide (64 < b % 128) || !bitNat b 7) = true := by
  simp only [hmode, Bool.not_true, Bool.or_false, Bool.or_eq_true, decide_eq_true_eq]
  omega

/-- Settles O38: both instructions by the law of effects, their checks in turn, then the draw by the rule of draws. -/
theorem sampling : Obligations.Sampling := by
  unfold Obligations.Sampling
  refine fun c rd ga gb gc => ⟨?smplk, ?smplp, ?trap⟩
  case smplk =>
    refine effectLaw_of_go (fun _ => rfl) fun s t ⟨hsource, hout, ⟨hbuf, hmoves⟩, s2, bs, s3, hread, hs3, hend⟩ => ?_
    dsimp only
    subst hs3
    rcases hend with ⟨hplain, rfl⟩ | ⟨hdraw, htau, hbind, hdrawn⟩
    · rw [hplain, Bool.false_and, if_neg Bool.false_ne_true, if_neg (sampleSide_legal hsource),
        if_neg (sampleSide_legal hout), if_neg (still_of_nil hbuf hmoves), hread]
      rfl
    · rw [hdraw, Bool.true_and, drawOpen htau hbind, if_neg Bool.false_ne_true, if_neg (sampleSide_legal hsource),
        if_neg (sampleSide_legal hout), if_neg (still_of_nil hbuf hmoves), hread]
      exact finishDraw_of_drawn hdrawn
  case smplp =>
    refine effectLaw_of_go (fun _ => rfl)
      fun s t ⟨hlo, hhi, hmode, hsource, ⟨hbuf, hmoves⟩, htau, hbind, s2, bs, hread, hdrawn⟩ => ?_
    dsimp only
    rw [drawOpen htau hbind, if_neg Bool.false_ne_true, if_neg (sampleCount_legal hlo hhi hmode),
      if_neg (sampleSide_legal hsource), if_neg (still_of_nil hbuf hmoves), hread]
    exact finishDraw_of_drawn hdrawn
  case trap => exact trapLaw_of_trap (fun _ => rfl) fun s htau => if_pos (by rw [htau, Bool.true_or])

end Sys2Proof.Machine

/-! The entropy source (O39): SEED requests, the keys that complete them, tests, restarts and the enable bit. -/

namespace Sys2Proof.Machine

/-- With no request queued none completes without a key. -/
theorem failKeys_of_none {s : State} (h : s.keys = []) (gs : Nat) : failKeys s gs = s := by
  obtain ⟨_⟩ := s
  cases h
  rfl

/-- A key completes the oldest request (R281). -/
theorem does_entropyKeyReady {s : State} {k : KeyReq} {rest : List KeyReq} (hready : s.ent = .ready)
    (hkeys : s.keys = k :: rest) : Does .entropyKeyReady s
      (finishKey (addRegField (takeFree { s with keys := rest }) oEntCnt 0 32 1) k 32
        (natLe 16 (Config.entropyKey s.freeN % 2 ^ 128) ++ natLe 8 0 ++ natLe 8 5)) := by
  refine congrArg Host.Outcome.next ?_
  rw [hready, hkeys]

/-- The state after a health test has failed, before its requests complete (R281). -/
def testFailed (s : State) (apt : Bool) : State :=
  addRegField (setRegField { s with ent := .failed } oEntStat (if apt then 4 else 3) 1 1) oEntCnt 32 32 1

/-- A failed test changes the source's state and registers alone. -/
theorem testFailed_eq (s : State) (apt : Bool) : ∃ r, testFailed s apt = { s with regs := r, ent := .failed } :=
  ⟨_, rfl⟩

/-- A health test that fails in start-up or ready completes every request and makes a record (R281). -/
theorem does_entropyTestFailure {s : State} (h : s.ent = .startUp ∨ s.ent = .ready) (apt : Bool) :
    Does (.entropyTestFailure apt) s (ledger (failKeys (testFailed s apt) 3) 0x0901 sevError none 0 []) :=
  congrArg Host.Outcome.next (if_pos (by simpa using h))

/-- The state after the source has been switched off, before its requests complete (Table 8.14). -/
def switchedOff (s : State) : State := { setRegField s oEntCtl 0 1 0 with ent := .off }

/-- Switching the source off changes its state and registers alone. -/
theorem switchedOff_eq (s : State) : ∃ r, switchedOff s = { s with regs := r, ent := .off } := ⟨_, rfl⟩

section Control

variable {r : Req} {s : State} (hwritable : Writable s r oEntCtl)
include hwritable

/-- A write of the restart bit that is served (Table 8.14). -/
theorem does_entropyRestart : Does (.entropyRestart r) s (entRestart s) :=
  congrArg Host.Outcome.next (regWrite_of_writable hwritable _)

/-- A write that sets the enable bit, and is served (Table 8.14). -/
theorem does_entropyEnable : Does (.entropyEnableWrite r true) s (entEnable s true) :=
  congrArg Host.Outcome.next (regWrite_of_writable hwritable _)

/-- A write that clears the enable bit, and is served, completes every request (Table 8.14). -/
theorem does_entropyDisable : Does (.entropyEnableWrite r false) s (failKeys (switchedOff s) 0) :=
  congrArg Host.Outcome.next (regWrite_of_writable hwritable _)

end Control

/-- Settles O39: a request by the law of effects, the events by the state they leave, the writes by their effect. -/
theorem entropySource : Obligations.EntropySource := by
  unfold Obligations.EntropySource
  refine fun c rd ga gb r apt s => ⟨?request, fun k rest => does_entropyKeyReady,
    fun hstart => congrArg Host.Outcome.next (if_pos hstart),
    fun hworks => ⟨does_entropyTestFailure hworks apt, fun hkeys => ⟨_, does_entropyTestFailure hworks apt, ?failed⟩⟩,
    fun hwritable => ⟨fun hfailed => ?restarts, fun hfailed => ?stays, fun hoff => ?starts, fun hoff => ?enabled,
      does_entropyDisable hwritable, fun hkeys => ⟨_, does_entropyDisable hwritable, ?off⟩⟩⟩
  case request =>
    refine effectLaw_of_go (fun _ => rfl) fun s t ⟨hevent, hseq, hbuf, hmoves, hcases⟩ => ?_
    refine (if_neg (Nat.not_lt.mpr hevent)).trans ?_
    rcases hcases with ⟨hready, hroom, s2, w, s3, hread, hwrite, rfl⟩ | ⟨hrefused, rfl⟩
    · refine onRecord_ok hseq hbuf hmoves ?_
      simp only [hready, hroom, decide_true, Bool.and_self, if_true, hread, hwrite, KRes.andThen_ok]
    · refine onRecord_ok hseq hbuf hmoves (if_neg ?_)
      simpa [or_iff_not_imp_left] using hrefused
  case failed =>
    obtain ⟨q, hq⟩ := testFailed_eq s apt
    have hnone : (testFailed s apt).keys = [] := by rw [hq]; exact hkeys
    rw [failKeys_of_none hnone, hq]
    exact ⟨ledger_ent _ _ _ _ _ _, (ledger_keys _ _ _ _ _ _).trans hkeys, fun a => rdByte_ledger _ _ _ _ _ _ a,
      ledger_cores _ _ _ _ _ _⟩
  case restarts => exact (does_entropyRestart hwritable).trans (congrArg _ (if_pos hfailed))
  case stays => exact (does_entropyRestart hwritable).trans (congrArg _ (if_neg hfailed))
  case starts => exact (does_entropyEnable hwritable).trans (congrArg _ (if_pos hoff))
  case enabled => exact (does_entropyEnable hwritable).trans (congrArg _ (if_neg hoff))
  case off =>
    obtain ⟨q, hq⟩ := switchedOff_eq s
    have hnone : (switchedOff s).keys = [] := by rw [hq]; exact hkeys
    rw [failKeys_of_none hnone, hq]
    exact ⟨rfl, hkeys, fun _ => rfl, rfl⟩

end Sys2Proof.Machine

/-! Remint (O36): the ring's registers, the descriptor that an engine takes, the pages that it moves, and the end of a
descriptor. -/

namespace Sys2Proof.Machine

/-! ### Descriptors in progress on a ring (R266) -/

theorem getRem_setRem_self (s : State) (d p : Nat) (l : List RemintJob) : getRem (setRem s d p l) d p = l :=
  look_put_self _ _ _ _

theorem getRem_eq {s t : State} (h : t.remints = s.remints) (d p : Nat) : getRem t d p = getRem s d p := by
  rw [getRem, h, getRem]

/-- A descriptor replaced among those in progress is the one at its place. -/
theorem getRem_setRemJob_self {s : State} {d p n : Nat} (h : n < (getRem s d p).length) (j : RemintJob) :
    (getRem (setRemJob s d p n j) d p)[n]? = some j := by
  rw [setRemJob, getRem_setRem_self, List.getElem?_set_self h]

/-! ### What the effects of a page move leave alone -/

theorem MemEffect.remints {s t : State} (h : MemEffect s t) : t.remints = s.remints := by
  obtain ⟨⟨r, l, m, k, rfl⟩, -⟩ := h
  rfl

theorem writeEntry_memEffect (s : State) (tb i : Nat) (e : Entry) : MemEffect s (writeEntry s tb i e) :=
  writeUnits_memEffect _ _ _ _ _

/-- Giving a frame up changes a vein and counters only (R228). -/
theorem releaseFrame_frame (s : State) (c f : Nat) :
    (releaseFrame s c f).remints = s.remints ∧ (releaseFrame s c f).mem = s.mem := by
  unfold releaseFrame freeFrame
  dsimp only
  split
  · split
    · simp
    · simp [modVein]
  · exact ⟨rfl, rfl⟩

/-! ### The descriptor at the head of a ring (R266) -/

/-- The index at which a ring's engine takes its next descriptor. -/
abbrev remAt (s : State) (d p : Nat) : Nat := (getReg s (oRemHead d p)).toNat % remSize s d p

/-- The address of the next descriptor of a ring. -/
abbrev remAddr (s : State) (d p : Nat) : Nat := (getReg s (oRemBase d p)).toNat + 64 * remAt s d p

/-- The state after the head of a ring has passed its descriptor. -/
abbrev remPassed (s : State) (d p : Nat) : State :=
  setReg s (oRemHead d p) (BitVec.ofNat 64 ((remAt s d p + 1) % remSize s d p))

/-- A descriptor as it has been read from an address. -/
abbrev remRaw (desc : List Byte) (a : Nat) : RemintJob := ⟨desc, a, 0, 0, 0, 0, 0, 0, none, 0, []⟩

/-- An address of a partition in which its descriptors may stand: in far memory or in a sealed region (R266). -/
def RemPlace (s : State) (p a : Nat) : Prop :=
  inPartition s p a = true ∧
    ((∃ q off, placeOf a = .far q off) ∨
      ∃ c off g, placeOf a = .vein c off ∧ regionAt s c off = some g ∧ g.kind = kindSealed)

/-- Whether a descriptor may stand at an address, as the engine checks it. -/
def remPlaced (s : State) (p a : Nat) : Bool :=
  inPartition s p a && (match placeOf a with
    | .vein c off => (regionAt s c off).any (·.kind == kindSealed)
    | .far _ _ => true
    | _ => false)

theorem remPlaced_iff (s : State) (p a : Nat) : remPlaced s p a = true ↔ RemPlace s p a := by
  unfold remPlaced RemPlace
  rw [Bool.and_eq_true]
  refine and_congr_right fun _ => ?_
  cases placeOf a with
  | vein c off => simp [Option.any_eq_true]
  | far q off => simp
  | ls | ctl | none => simp

section Take

variable {s s1 s2 : State} {d p : Nat} {clear : Bool} {bs : List (Byte × Bool)}
  (hserves : remServes s d p = true) (hready : remReady (getRem s d p) clear = true)
  (hsome : remAt s d p ≠ (getReg s (oRemTail d p)).toNat)
include hserves hready hsome

/-- A ring that is served, may take a descriptor and holds one takes it. -/
theorem remTake_open : ¬ (!remServes s d p || !remReady (getRem s d p) clear ||
    decide (remAt s d p = (getReg s (oRemTail d p)).toNat)) = true := by
  simp [hserves, hready, hsome]

/-- A descriptor that stands outside sealed and far memory is taken with PARTITION_FAULT (R266). -/
theorem remTake_outside (hclear : clear = false) (hplace : ¬ RemPlace s p (remAddr s d p)) :
    remTake s d p clear =
      some (remPassed s d p, { remRaw [] (remAddr s d p) with status := some stPartitionFault }) := by
  subst hclear
  have hmisplaced : (!remPlaced s p (remAddr s d p)) = true := by
    rw [Bool.not_eq_true', Bool.eq_false_iff]
    exact fun hplaced => hplace ((remPlaced_iff _ _ _).mp hplaced)
  exact (if_neg (remTake_open hserves hready hsome)).trans (if_pos hmisplaced)

/-- A descriptor that is read, and is of the kind asked for, is taken with its list or with what is wrong with it
(R266, R267). -/
theorem remTake_read (hplace : RemPlace s p (remAddr s d p))
    (hread : readLine (remPassed s d p) (remintReq d p) (remAddr s d p) 64 9 = (s1, .ok bs []))
    (hop : ((remRaw (bs.map (·.1)) (remAddr s d p)).op == 2) = clear) :
    (∀ h, remPlan s1 p (remRaw (bs.map (·.1)) (remAddr s d p)) = .ok s2 (.inr h) →
      remTake s d p clear = some (takeFree s2, { remRaw (bs.map (·.1)) (remAddr s d p) with list := h })) ∧
    ∀ st, remPlan s1 p (remRaw (bs.map (·.1)) (remAddr s d p)) = .ok s2 (.inl st) →
      remTake s d p clear = some (takeFree s2, { remRaw (bs.map (·.1)) (remAddr s d p) with status := some st }) := by
  have hplaced : ¬ (!remPlaced s p (remAddr s d p)) = true := by simp [(remPlaced_iff _ _ _).mpr hplace]
  have hkind : ¬ (((remRaw (bs.map (·.1)) (remAddr s d p)).op == 2) != clear) = true := by simp [hop]
  unfold remTake
  refine ⟨fun h hplan => (if_neg (remTake_open hserves hready hsome)).trans ((if_neg hplaced).trans ?_),
    fun st hplan => (if_neg (remTake_open hserves hready hsome)).trans ((if_neg hplaced).trans ?_)⟩
  all_goals
    rw [hread]
    refine (if_neg hkind).trans ?_
    rw [hplan]

end Take

section Begin

variable {die : DieId} {q : PartId} {s s1 s2 : State} {j j2 : RemintJob}

/-- A restripe that is taken joins the descriptors in progress on its ring (R266). -/
theorem does_restripe (htake : remTake s die.toNat q.toNat false = some (s1, j)) :
    Does (.restripe die q) s (remBegin s1 die.toNat q.toNat j) := by
  refine congrArg Host.Outcome.next ?_
  rw [htake]

/-- A clear that is taken joins the descriptors in progress with the marks of its range cleared (R269). -/
theorem does_clear (htake : remTake s die.toNat q.toNat true = some (s1, j)) (hstatus : j.status = none)
    (hclears : clearMarks q.toNat j.list j.count s1 j = .ok s2 j2) :
    Does (.clear die q) s (remBegin s2 die.toNat q.toNat j2) := by
  refine congrArg Host.Outcome.next ?_
  rw [htake]
  refine (if_neg (by simp [hstatus])).trans ?_
  rw [hclears]

/-- A clear that is taken with something wrong with it clears no mark (R269). -/
theorem does_clear_refused (htake : remTake s die.toNat q.toNat true = some (s1, j))
    (hstatus : j.status.isSome = true) :
    Does (.clear die q) s (remBegin s1 die.toNat q.toNat j) := by
  refine congrArg Host.Outcome.next ?_
  rw [htake]
  exact if_pos hstatus

end Begin

/-! ### Page moves (R267, R268) -/

/-- The turn of an engine passes to the ring behind p. -/
abbrev turnPassed (s : State) (d p : Nat) : State :=
  { s with remNext := put (fun _ => 0) s.remNext d ((p + 1) % 16) }

/-- A page whose frame is written is in flight, the youngest of its descriptor (R268). -/
theorem copyPage_writes {s s1 : State} {d p n : Nat} {j : RemintJob} {g : RemintPage}
    (hhome : dieUp s (g.home / 1024) = true)
    (hwrite : writeFrameBytes s (remintReq d p) g.home g.dest g.buf = some (s1, none)) :
    copyPage s d p n j g = some (setRemJob s1 d p n { j with
      flight := j.flight.filter (fun z => z.index != g.index) ++ [g] }) := by
  refine (if_neg (by simp [hhome])).trans ?_
  rw [hwrite]
  rfl

/-- Whether an entry needs no move to a home and a stratum, as the engine checks it (R267). -/
def pageStays (e : Entry) (home stratum : Nat) : Bool :=
  !e.v || e.esc || e.mov || (decide (e.core = home) && decide (e.frame % 4 = stratum))

theorem pageStays_iff (e : Entry) (home stratum : Nat) : pageStays e home stratum = true ↔
    e.v = false ∨ e.esc = true ∨ e.mov = true ∨ e.core = home ∧ e.frame % 4 = stratum := by
  simp [pageStays, or_assoc]

/-! In the next two proofs the functions that read an entry and a frame go under names of their own. Where a match on
what they read is reduced, the kernel, comparing two forms of the match, then finds a variable and does not carry the
read out. -/

section Start

variable {s s1 s2 s3 : State} {d p n i home stratum tb f : Nat} {j : RemintJob} {e : Entry} {bs : List Byte}
  (hindex : j.first + j.next = i) (htarget : j.target j.next = (home, stratum))
  (hentry : remEntry s p j.list i = .ok s1 (tb, e))
include hindex htarget hentry

/-- A page whose entry needs no move is skipped (R267). -/
theorem startPage_skips (hstays : e.v = false ∨ e.esc = true ∨ e.mov = true ∨ e.core = home ∧ e.frame % 4 = stratum) :
    startPage s d p n j = some (skipPage s1 d p n j) := by
  obtain ⟨entryOf, hentryOf⟩ := exists_eq (a' := remEntry)
  obtain ⟨frameRead, hframeRead⟩ := exists_eq (a' := readFrame)
  unfold startPage
  rw [htarget, hindex, ← hframeRead]
  rw [← hentryOf] at hentry ⊢
  dsimp only
  rw [hentry]
  exact if_pos ((pageStays_iff _ _ _).mpr hstays)

/-- Another page is marked and copied into a frame of its new home, and is in flight (R267, R268). -/
theorem startPage_copies (hvalid : e.v = true) (hplain : e.esc = false) (hunmarked : e.mov = false)
    (haway : ¬ (e.core = home ∧ e.frame % 4 = stratum)) (hhome : dieUp s1 (home / 1024) = true)
    (hfrom : dieUp s1 (e.core / 1024) = true) (hfree : regField s1 (oKres home) 0 13 < freeFrames (getVein s1 home))
    (hframe : chooseFrame (getVein s1 home) stratum = some f)
    (hread : readFrame (bump (modVein (writeEntry s1 tb i { e with mov := true }) home fun v =>
      setFrame v f (.used false)) 0x07 3 1 (.core home)) (remintReq d p) e.core e.frame = some (s2, .inl bs))
    (hstill : dieUp s2 (home / 1024) = true)
    (hwrite : writeFrameBytes s2 (remintReq d p) home f bs = some (s3, none)) :
    startPage s d p n j = some (setRemJob s3 d p n { j with
      next := j.next + 1
      flight := j.flight.filter (fun z => z.index != i) ++ [⟨i, e.core, e.frame, home, f, bs, false⟩] }) := by
  have hmoves : ¬ pageStays e home stratum = true := by
    rw [pageStays_iff]
    simp [hvalid, hplain, hunmarked, haway]
  have hdies : ¬ (!dieUp s1 (home / 1024) || !dieUp s1 (e.core / 1024)) = true := by simp [hhome, hfrom]
  have hcopy := copyPage_writes (n := n) (j := { j with next := j.next + 1 })
    (g := ⟨i, e.core, e.frame, home, f, bs, false⟩) hstill hwrite
  obtain ⟨entryOf, hentryOf⟩ := exists_eq (a' := remEntry)
  obtain ⟨frameRead, hframeRead⟩ := exists_eq (a' := readFrame)
  unfold startPage
  rw [htarget, hindex]
  rw [← hframeRead] at hread ⊢
  rw [← hentryOf] at hentry ⊢
  dsimp only
  rw [hentry]
  refine (if_neg hmoves).trans ((if_neg hdies).trans ((if_neg (Nat.not_le.mpr hfree)).trans ?_))
  rw [hframe]
  dsimp only
  rw [hread]
  exact hcopy

end Start

/-- A page that matched has its entry swapped and its source frame given up, and is counted as moved (R268). -/
theorem swapPage_moves {s s1 : State} {d p n tb : Nat} {j : RemintJob} {g : RemintPage} {e : Entry}
    (hentry : remEntry s p j.list g.index = .ok s1 (tb, e)) :
    ∃ t, swapPage s d p n j g = some t ∧
      (n < (getRem s1 d p).length → (getRem t d p)[n]? = some { j with
        moved := j.moved + 1, flight := j.flight.filter fun z => z.index != g.index }) ∧
      t.mem = (writeEntry s1 tb g.index { e with core := g.home, frame := g.dest, mov := false }).mem := by
  obtain ⟨hremints, hmem⟩ := releaseFrame_frame
    (writeEntry s1 tb g.index { e with core := g.home, frame := g.dest, mov := false }) g.core g.frame
  unfold swapPage
  rw [hentry]
  refine ⟨_, rfl, fun hn => getRem_setRemJob_self ?_ _, ?_⟩
  · refine hn.trans_eq (congrArg List.length (getRem_eq ?_ d p)).symm
    exact ((bump_remints _ _ _ _ _).trans hremints).trans (writeEntry_memEffect _ _ _ _).remints
  · exact (bump_mem _ _ _ _ _).trans hmem

/-- A page whose copy reads back equal is swapped (R268). -/
theorem checkPage_swaps {s s1 : State} {d p n : Nat} {j : RemintJob} {g : RemintPage}
    (hhome : dieUp s (g.home / 1024) = true) (hfrom : dieUp s (g.core / 1024) = true)
    (hread : readFrame s (remintReq d p) g.home g.dest = some (s1, .inl g.buf)) :
    checkPage s d p n j g = swapPage s1 d p n j g := by
  have hdies : ¬ (!dieUp s (g.home / 1024) || !dieUp s (g.core / 1024)) = true := by simp [hhome, hfrom]
  refine (if_neg hdies).trans ?_
  rw [hread]
  exact if_pos rfl

section PageMove

variable {die : DieId} {q : PartId} {s t : State} {n : Nat} {j : RemintJob} {g : RemintPage}
  (hup : dieUp s die.toNat = true) (hpowered : s.pwr.regsOff = false)
include hup hpowered

/-- An engine that is up and powered moves pages. -/
theorem engineRuns : ¬ (!dieUp s die.toNat || s.pwr.regsOff) = true := by simp [hup, hpowered]

/-- With no page in flight the ring whose turn it is starts its next page (R265, R268). -/
theorem does_pageMove_start (hturn : remTurn s die.toNat q.toNat = true)
    (hnone : remFlying (getRem s die.toNat q.toNat) = none)
    (hstarter : remStarter (getRem s die.toNat q.toNat) = some n) (hj : (getRem s die.toNat q.toNat)[n]? = some j)
    (hpage : startPage s die.toNat q.toNat n j = some t) :
    Does (.remintPageMove die q) s (turnPassed t die.toNat q.toNat) := by
  have hstart : remStart s die.toNat q.toNat = some (turnPassed t die.toNat q.toNat) := by
    simp only [remStart, hstarter, hj, hpage, Option.bind_some, Option.map_some]
  refine congrArg Host.Outcome.next ((if_neg (engineRuns hup hpowered)).trans ?_)
  rw [hturn, hnone, hstart]
  rfl

/-- A ring that may not start a page reads back and compares the oldest it has in flight (R268). -/
theorem does_pageMove_check (hturn : remTurn s die.toNat q.toNat = false)
    (hflying : remFlying (getRem s die.toNat q.toNat) = some (n, g)) (hj : (getRem s die.toNat q.toNat)[n]? = some j)
    (hpage : checkPage s die.toNat q.toNat n j g = some t) : Does (.remintPageMove die q) s t := by
  have hcheck : remCheck s die.toNat q.toNat = some t := by
    simp only [remCheck, hflying, hj, hpage, Option.bind_some]
  refine congrArg Host.Outcome.next ((if_neg (engineRuns hup hpowered)).trans ?_)
  rw [hturn, hcheck]
  rfl

/-- A ring that may start a page and has one in flight does either, by a free value (R268). -/
theorem does_pageMove_free (hturn : remTurn s die.toNat q.toNat = true)
    (hflying : remFlying (getRem s die.toNat q.toNat) = some (n, g)) :
    Does (.remintPageMove die q) s
      (if freeValue s 7 % 2 = 0 then (remStart (takeFree s) die.toNat q.toNat).getD s
        else (remCheck (takeFree s) die.toNat q.toNat).getD s) := by
  refine congrArg Host.Outcome.next ((if_neg (engineRuns hup hpowered)).trans ?_)
  rw [hturn, hflying]
  rfl

end PageMove

/-! ### The end of a descriptor (R270) -/

section DescriptorEnd

variable {die : DieId} {q : PartId} {s s1 : State} {j : RemintJob} {r : List RemintJob}
  (hjobs : getRem s die.toNat q.toNat = j :: r) (hup : dieUp s die.toNat = true) (hflight : j.flight = [])
  (hdone : j.status.isSome = true ∨ j.count ≤ j.next)
  (hgate : ∀ a, rangeGate s (remintReq die.toNat q.toNat) (j.addr + 48) 16 true ≠ some (a, .wait))
include hjobs hup hflight hdone hgate

/-- The oldest descriptor of a ring, its pages done, ends; after its header where hdr asks for one (R270). -/
theorem does_descriptorEnd :
    let st := j.status.getD (if j.failed = 0 then stOk else stChecksum)
    (j.header = false → Does (.remintDescriptorEnd die q) s (remEnd s die.toNat q.toNat j st)) ∧
    (j.header = true → remWriteHeader s q.toNat j = .ok s1 () →
      Does (.remintDescriptorEnd die q) s (remEnd s1 die.toNat q.toNat j st)) := by
  have hends : ¬ (!dieUp s die.toNat || !j.flight.isEmpty ||
      (j.status.isNone && decide (j.next < j.count))) = true := by
    rcases hdone with hstatus | hpages
    · obtain ⟨st, hst⟩ := Option.isSome_iff_exists.mp hstatus
      simp [hup, hflight, hst]
    · simp [hup, hflight, hpages]
  refine ⟨fun hheader => congrArg Host.Outcome.next ?_, fun hheader hwrite => congrArg Host.Outcome.next ?_⟩
  all_goals
    dsimp only
    rw [hjobs]
    refine (if_neg hends).trans ?_
    split
    · next a hwait => exact absurd hwait (hgate a)
  · exact if_pos (by rw [hheader]; rfl)
  · refine (if_neg (by rw [hheader]; decide)).trans ?_
    rw [hwrite]

end DescriptorEnd

/-- Settles O36: what is taken from a ring by the state it leaves, page moves by what starts or checks a page, the end
of a descriptor by its status. -/
theorem remint : Obligations.Remint := by
  unfold Obligations.Remint
  refine ⟨fun r die p w s s1 s2 bs => ⟨fun hwritable => congrArg _ (regWrite_of_writable hwritable _),
    fun hwritable => congrArg _ (regWrite_of_writable hwritable _), fun hserves hsome => ⟨?outside, ?taken⟩⟩,
    fun die p s s1 s2 s3 n j g tb e hj hup hpowered => ⟨?starts, ?swaps, ?either⟩,
    fun die p s s1 j r hjobs hup hflight hdone hgate => does_descriptorEnd hjobs hup hflight hdone hgate⟩
  case outside =>
    exact fun hready hplace => does_restripe (remTake_outside hserves hready hsome rfl hplace)
  case taken =>
    refine fun hplace hread => ⟨fun hready hop => ?restripe, fun hready hop => ?clear⟩
    case restripe =>
      obtain ⟨hplanned, hrefused⟩ := remTake_read (s2 := s2) hserves hready hsome hplace hread (by simpa using hop)
      exact ⟨fun h hplan => does_restripe (hplanned h hplan), fun st hplan => does_restripe (hrefused st hplan)⟩
    case clear =>
      obtain ⟨hplanned, hrefused⟩ := remTake_read (s2 := s2) hserves hready hsome hplace hread (by simpa using hop)
      exact ⟨fun h s3 j hplan hclears => does_clear (hplanned h hplan) rfl hclears,
        fun st hplan => does_clear_refused (hrefused st hplan) rfl⟩
  case starts =>
    refine fun hturn hnone hstarter hentry => ⟨fun hstays => ?skips, ?copies⟩
    case skips =>
      exact does_pageMove_start hup hpowered hturn hnone hstarter hj (startPage_skips rfl rfl hentry hstays)
    case copies =>
      intro f bs hvalid hplain hunmarked haway hhome hfrom hfree hframe hread hstill hwrite
      exact does_pageMove_start hup hpowered hturn hnone hstarter hj
        (startPage_copies rfl rfl hentry hvalid hplain hunmarked haway hhome hfrom hfree hframe hread hstill hwrite)
  case swaps =>
    intro hturn hflying hhome hfrom hread hentry
    obtain ⟨t, hswap, hjob, hmem⟩ := swapPage_moves (d := die.toNat) (n := n) hentry
    exact ⟨t, does_pageMove_check hup hpowered hturn hflying hj ((checkPage_swaps hhome hfrom hread).trans hswap), hjob,
      hmem⟩
  case either =>
    refine fun hturn hflying => ⟨_, does_pageMove_free hup hpowered hturn hflying, ?_⟩
    split
    · exact .inl rfl
    · exact .inr rfl

end Sys2Proof.Machine

/-! Transfers (O44): XFER, the end of a transfer and what is left of one that waits, the pieces that bulk engines carry. -/

namespace Sys2Proof.Machine

/-! ### The law of a transfer descriptor (R318) -/

/-- A transfer descriptor w of the kind that XFER asks, its reserved fields zero (R312, R318). -/
def XferLegal (w : Nat) : Prop := fieldNat w 252 4 = 7 ∧ fieldNat w 240 12 = 0 ∧ w % 2 ^ 32 = 0

/-- The row length and the addresses of a transfer descriptor w keep to granules of 32 bytes (R318). -/
def XferAligned (w : Nat) : Prop :=
  0 < fieldNat w 112 32 ∧ fieldNat w 112 32 ≤ 2 ^ 31 ∧ fieldNat w 112 32 % 32 = 0 ∧ fieldNat w 192 48 % 32 = 0 ∧
    fieldNat w 144 48 % 32 = 0 ∧ fieldNat w 64 32 % 32 = 0 ∧ fieldNat w 32 32 % 32 = 0

theorem not_xferLegal_iff (w : Nat) : (decide (fieldNat w 252 4 ≠ 7) || decide (fieldNat w 240 12 ≠ 0) ||
    decide (w % 2 ^ 32 ≠ 0)) = true ↔ ¬ XferLegal w := by
  simp only [XferLegal, Bool.or_eq_true, decide_eq_true_eq]
  tauto

theorem XferAligned.row {w : Nat} (h : XferAligned w) : ¬ (decide (fieldNat w 112 32 = 0) ||
    decide (2 ^ 31 < fieldNat w 112 32) || decide (fieldNat w 112 32 % 32 ≠ 0)) = true := by
  obtain ⟨hpos, hmax, hrow, -⟩ := h
  simp only [Bool.or_eq_true, decide_eq_true_eq]
  omega

theorem XferAligned.addresses {w : Nat} (h : XferAligned w) :
    [fieldNat w 192 48, fieldNat w 144 48, fieldNat w 64 32, fieldNat w 32 32].find? (· % 32 ≠ 0) = none := by
  obtain ⟨-, -, -, hsrc, hdst, hsstr, hdstr⟩ := h
  simp [hsrc, hdst, hsstr, hdstr]

/-- The transfer that core c queues by descriptor w, its status to go to register rd. -/
def xferOf (c rd w : Nat) : Transfer :=
  ⟨c, rd, fieldNat w 192 48, fieldNat w 144 48, fieldNat w 112 32, fieldNat w 96 16 + 1, fieldNat w 64 32,
    fieldNat w 32 32, false, 0, none⟩

/-- The state with a transfer of core c at the end of its cluster's queue. -/
def xferQueued (s : State) (c : Nat) (t : Transfer) : State :=
  modCl s (c / 16) fun x => { x with xfers := x.xfers ++ [t] }

section Xfer

variable {c : CoreId} {d : DReg} {rd : GReg}

theorem commitLaw_xfer : CommitLaw (.xfer c d rd) c 4 [rd.toNat] true
    (fun s => XferLegal (dreg (getCore s c.toNat) d.toNat).toNat ∧ XferAligned (dreg (getCore s c.toNat) d.toNat).toNat ∧
      ((getCl s (c.toNat / 16)).xfers.filter (·.core == c.toNat)).length < 4 ∧
      (getCl s (c.toNat / 16)).xfers.length < 32 ∧ (getCore s c.toNat).buf = [])
    (fun s => xferQueued s c.toNat (xferOf c.toNat rd.toNat (dreg (getCore s c.toNat) d.toNat).toNat)) := by
  refine commitLaw_of_go (fun _ => rfl) fun s ⟨hlegal, haligned, hown, hall, hbuf⟩ => ?_
  refine (if_neg fun h => (not_xferLegal_iff _).mp h hlegal).trans ((if_neg haligned.row).trans ?_)
  rw [haligned.addresses]
  have hroom : ¬ (decide (4 ≤ ((getCl s (c.toNat / 16)).xfers.filter (·.core == c.toNat)).length) ||
      decide (32 ≤ (getCl s (c.toNat / 16)).xfers.length) || !(getCore s c.toNat).buf.isEmpty) = true := by
    simp [hbuf, hown, hall]
  exact if_neg hroom

theorem trapLaw_xfer : TrapLaw (.xfer c d rd) c 4 [rd.toNat] true
    (fun s => ¬ XferLegal (dreg (getCore s c.toNat) d.toNat).toNat) (fun _ => ⟨1, 0, encXfer d.toNat rd.toNat⟩) :=
  trapLaw_of_trap (fun _ => rfl) fun _ h => if_pos ((not_xferLegal_iff _).mpr h)

end Xfer

/-! ### XFER_COMPLETE (R319, R386) -/

section XferComplete

variable {k : ClusterId} {s s1 : State} {t t1 : Transfer} {r : List Transfer} (hrun : (getCl s k.toNat).paused = false)
  (hpowered : s.pwr.regsOff = false) (hqueue : (getCl s k.toNat).xfers = t :: r)

include hrun hpowered hqueue

theorem does_xferComplete_ends (hend : xferPieces k.toNat (t.total / 32 + 1) s t = (s1, t1, true)) :
    Does (.xferComplete k) s (xferEnd s1 k.toNat t1 (t1.fail.getD stOk)) := by
  refine congrArg Host.Outcome.next ?_
  dsimp only
  rw [hqueue, hrun, hpowered]
  exact (if_neg (by decide)).trans (by rw [hend])

theorem does_xferComplete_waits (hwait : xferPieces k.toNat (t.total / 32 + 1) s t = (s1, t1, false)) :
    Does (.xferComplete k) s (modCl s1 k.toNat fun x => { x with xfers := t1 :: r }) := by
  refine congrArg Host.Outcome.next ?_
  dsimp only
  rw [hqueue, hrun, hpowered]
  exact (if_neg (by decide)).trans (by rw [hwait])

end XferComplete

/-! ### BULK_PIECE (R304) -/

theorem does_bulkPiece {i : SeamId} {up : Bool} {s s1 : State} {a : Nat} (hengine : bulkEngines s i.toNat ≠ [])
    (hfree : legHeld s true (i.toNat, up) = false) (hpowered : s.pwr.regsOff = false)
    (hturn : ((List.range 130).map fun j => ((getSeamDir s i.toNat up).turn + j) % 130).findSome? (fun a =>
      (bulkStep s (i.toNat, up) (seamEnd i.toNat !up) (bulkAgent (seamEnd i.toNat !up) a)).map fun t => (a, t)) =
        some (a, s1)) :
    Does (.bulkPiece i up) s (setSeamDir s1 i.toNat up { getSeamDir s1 i.toNat up with turn := (a + 1) % 130 }) := by
  refine congrArg Host.Outcome.next ((if_neg ?_).trans ?_)
  · simp [hengine, hfree, hpowered]
  · rw [hturn]

/-- A bulk engine that serves the agents of a die in order carries a step of the agent that it has found. -/
theorem bulkStep_of_findSome? {s s1 : State} {leg : Nat × Bool} {die a : Nat} {order : List Nat}
    (h : order.findSome? (fun a => (bulkStep s leg die (bulkAgent die a)).map fun t => (a, t)) = some (a, s1)) :
    bulkStep s leg die (bulkAgent die a) = some s1 := by
  obtain ⟨b, -, hb⟩ := List.exists_of_findSome?_eq_some h
  obtain ⟨t, ht, heq⟩ := Option.map_eq_some_iff.mp hb
  obtain ⟨rfl, rfl⟩ := Prod.mk.inj heq
  exact ht

/-- The step of a transfer engine is a piece of the transfer at the head of its queue. -/
theorem bulkStep_transfers {s s1 s2 : State} {leg : Nat × Bool} {die j : Nat} {t t1 : Transfer} {r : List Transfer}
    (hstep : bulkStep s leg die (.transfers j) = some s1) (hqueue : (getCl s j).xfers = t :: r)
    (hpiece : xferPiece s j t = some (s2, t1)) : s1 = modCl s2 j fun y => { y with xfers := t1 :: r } := by
  unfold bulkStep at hstep
  dsimp only at hstep
  split at hstep
  · cases hstep
  · rw [hqueue] at hstep
    dsimp only at hstep
    rw [hpiece] at hstep
    exact (Option.some.inj hstep).symm

/-- Settles O44: XFER by the rules of its descriptor, the end of a transfer by the pieces it has run, a bulk piece by the
step of the agent whose turn has come. -/
theorem transfers : Obligations.Transfers := by
  unfold Obligations.Transfers
  intro c d rd k i up
  refine ⟨?queued, ?illegal, ?ends, ?waits, ?carries⟩
  case queued =>
    rintro s s1 h ⟨hkind, hrsv, hlow, hpos, hmax, hrow, hsrc, hdst, hsstr, hdstr, hroom⟩
    exact commitLaw_xfer s s1 h ⟨⟨hkind, hrsv, hlow⟩, ⟨hpos, hmax, hrow, hsrc, hdst, hsstr, hdstr⟩, hroom⟩
  case illegal =>
    exact fun s s1 h hloads hbad => trapLaw_xfer s s1 h hloads (by simpa only [XferLegal, not_and_or] using hbad)
  case ends =>
    intro s s1 t t1 r hrun hpowered hqueue hend
    have hdoes := does_xferComplete_ends hrun hpowered hqueue hend
    split
    · exact hdoes
    · next hkept => simpa only [xferEnd, hkept, if_false, Bool.false_eq_true] using hdoes
  case waits =>
    exact fun s s1 t r hrun hpowered hqueue t1 hwait => does_xferComplete_waits hrun hpowered hqueue hwait
  case carries =>
    intro s s1 s2 a m die hengine hfree hpowered hturn
    refine ⟨does_bulkPiece hengine hfree hpowered hturn, fun t t1 r j hagent hqueue hpiece => ?_⟩
    have hstep := bulkStep_of_findSome? hturn
    rw [hagent] at hstep
    exact bulkStep_transfers hstep hqueue hpiece

end Sys2Proof.Machine

/-! Stream data (O43): TSEND, bytes that arrive in a receiver's ring, TRECV, credit, TCLOSE. -/

namespace Sys2Proof.Machine

/-! ### Entries of a core, rings, counted ways -/

@[simp] theorem getStream_setStream_self (x : CoreSt) (e : Nat) (t : Stream) : getStream (setStream x e t) e = t :=
  look_put_self _ _ _ _

/-- Bytes that go into a ring change what a write of a range may change. -/
theorem ringPut_memEffect (s : State) (base size at_ : Nat) (bs : List (Byte × Bool)) :
    MemEffect s (ringPut s base size at_ bs) := by
  unfold ringPut
  dsimp only
  split
  · exact (writeMixed_memEffect _ _ _ _ _).trans (writeMixed_memEffect _ _ _ _ _)
  · exact writeMixed_memEffect _ _ _ _ _

theorem countPath_onlyRegs (s : State) (p : List Nat) (n relayed : Nat) : OnlyRegs s (countPath s p n relayed) :=
  (OnlyRegs.foldl _ (fun s _ => bump_onlyRegs s _ _ _ _) _ s).trans
    (OnlyRegs.foldl _ (fun s _ => bump_onlyRegs s _ _ _ _) _ _)

/-- The state with n bytes counted on the route from die a to die b, where one is open. -/
def routeCounted (s : State) (a b : Nat) (other : Bool) (n : Nat) : State :=
  match routeOf s a b other with
  | some p => countPath s p n n
  | none => s

theorem routeCounted_onlyRegs (s : State) (a b : Nat) (other : Bool) (n : Nat) :
    OnlyRegs s (routeCounted s a b other n) := by
  unfold routeCounted
  split
  · exact countPath_onlyRegs _ _ _ _
  · exact .rfl' s

theorem OnlyRegs.getCore {s t : State} (h : OnlyRegs s t) (c : Nat) : getCore t c = getCore s c := by
  obtain ⟨r, rfl⟩ := h
  rfl

theorem OnlyRegs.mem {s t : State} (h : OnlyRegs s t) : t.mem = s.mem := by
  obtain ⟨r, rfl⟩ := h
  rfl

/-- An event that names a sender by its own end is that sender's. -/
theorem senderEnd_of_send {s : State} {c e : Nat} (h : (getStream (getCore s c) e).kind = .send) :
    senderEnd s c e = (c, e) :=
  if_neg (by rw [h]; decide)

/-! ### TSEND (R314) -/

/-- The length of a TSEND's bytes (R314). -/
def SendSized (b : Nat) : Prop := b % 32 = 0 ∧ 32 ≤ b ∧ b ≤ 65536

theorem not_sendSized_iff (b : Nat) :
    (decide (b % 32 ≠ 0) || decide (b < 32) || decide (65536 < b)) = true ↔ ¬ SendSized b := by
  simp only [SendSized, Bool.or_eq_true, decide_eq_true_eq]
  omega

/-- The length and the place of a TSEND's bytes are as R314 asks. -/
def SendPlaced (s : State) (c ga gb : Nat) : Prop :=
  SendSized (gpr (getCore s c) gb).toNat ∧ (gpr (getCore s c) ga).toNat % 32 = 0 ∧
    lsSide (c / 16) (gpr (getCore s c) ga).toNat (gpr (getCore s c) gb).toNat = true

theorem SendPlaced.sized {s : State} {c ga gb : Nat} (h : SendPlaced s c ga gb) :
    ¬ (decide ((gpr (getCore s c) gb).toNat % 32 ≠ 0) || decide ((gpr (getCore s c) gb).toNat < 32) ||
      decide (65536 < (gpr (getCore s c) gb).toNat)) = true :=
  fun hbad => (not_sendSized_iff _).mp hbad h.1

theorem SendPlaced.placed {s : State} {c ga gb : Nat} (h : SendPlaced s c ga gb) :
    ¬ (decide ((gpr (getCore s c) ga).toNat % 32 ≠ 0) ||
      !lsSide (c / 16) (gpr (getCore s c) ga).toNat (gpr (getCore s c) gb).toNat) = true := by
  obtain ⟨-, haligned, hside⟩ := h
  simp [haligned, hside]

section Tsend

variable {c : CoreId} {ga gb : GReg} {e : BitVec 3}

theorem effectLaw_tsend : EffectLaw (.tsend c ga gb e) c 4 [ga.toNat, gb.toNat] (fun s t =>
    SendPlaced s c.toNat ga.toNat gb.toNat ∧ (getStream (getCore s c.toNat) e.toNat).kind = .send ∧
      (getStream (getCore s c.toNat) e.toNat).queue.length < 8 ∧ (getCore s c.toNat).buf = [] ∧
      ∃ s2 bs lost, readRange s (coreReq s c.toNat) (gpr (getCore s c.toNat) ga.toNat).toNat
          (gpr (getCore s c.toNat) gb.toNat).toNat 8 = (s2, bs, lost, none) ∧
        t = modCore s2 c.toNat fun x => setStream x e.toNat { getStream (getCore s c.toNat) e.toNat with
          queue := if (getStream (getCore s c.toNat) e.toNat).closed = true then []
            else (getStream (getCore s c.toNat) e.toNat).queue ++ [bs]
          faults := if lost = [] then (getStream (getCore s c.toNat) e.toNat).faults
            else (getStream (getCore s c.toNat) e.toNat).faults ++ [4] }) := by
  refine effectLaw_of_go (fun _ => rfl) fun s t ⟨hplaced, hsend, hroom, hbuf, s2, bs, lost, hread, ht⟩ => ?_
  have hready : ¬ (decide (8 ≤ (getStream (getCore s c.toNat) e.toNat).queue.length) ||
      !(getCore s c.toNat).buf.isEmpty) = true := by simp [hbuf, hroom]
  refine (if_neg hplaced.sized).trans ((if_neg hplaced.placed).trans ((if_neg (not_not_intro hsend)).trans
    ((if_neg hready).trans ?_)))
  rw [hread, ht]
  simp only [List.isEmpty_iff]

theorem trapLaw_tsend_kind : TrapLaw (.tsend c ga gb e) c 4 [ga.toNat, gb.toNat] true
    (fun s => SendPlaced s c.toNat ga.toNat gb.toNat ∧ (getStream (getCore s c.toNat) e.toNat).kind ≠ .send)
    (fun _ => ⟨8, 5, e.toNat⟩) :=
  trapLaw_of_trap (fun _ => rfl) fun _ ⟨hplaced, hother⟩ =>
    (if_neg hplaced.sized).trans ((if_neg hplaced.placed).trans (if_pos hother))

theorem trapLaw_tsend_size : TrapLaw (.tsend c ga gb e) c 4 [ga.toNat, gb.toNat] true
    (fun s => ¬ SendSized (gpr (getCore s c.toNat) gb.toNat).toNat)
    (fun s => ⟨4, 0, (gpr (getCore s c.toNat) gb.toNat).toNat⟩) :=
  trapLaw_of_trap (fun _ => rfl) fun _ hbad => if_pos ((not_sendSized_iff _).mpr hbad)

end Tsend

/-! ### STREAM_DATA_ARRIVAL (R314) -/

/-- The state in which m of the bytes bs at the head of the queue of entry e of core k, rest behind them, stand in the
ring of its receiver r. -/
def dataArrived (s : State) (k e : Nat) (r : Stream) (m : Nat) (bs : List (Byte × Bool))
    (rest : List (List (Byte × Bool))) : State :=
  let o := getStream (getCore s k) e
  let s1 := ringPut s r.base r.size r.wptr (bs.take m)
  let s2 := routeCounted s1 (k / 1024) (o.peer / 1024) o.way m
  modCore (modCore s2 k fun x => setStream x e
      { o with credit := o.credit - m, queue := if m < bs.length then bs.drop m :: rest else rest }) o.peer fun x =>
    setStream x o.pstream { r with wptr := (r.wptr + m) % r.size, unread := r.unread + m }

/-- No bundle of an entry's engines retrains. -/
theorem not_stuck {s : State} {o : Stream} (h : ∀ x ∈ o.engines, x.2 ∉ (getSeam s x.1).retraining) :
    ((o.engines.map (·.1)).any fun g => o.engines.any fun x => x.1 == g && (getSeam s g).retraining.contains x.2) =
      false := by
  refine List.any_eq_false.mpr fun g _ hany => ?_
  obtain ⟨x, hx, hretrains⟩ := List.any_eq_true.mp hany
  obtain ⟨hg, hin⟩ := Bool.and_eq_true_iff.mp hretrains
  rw [← eq_of_beq hg] at hin
  exact h x hx (List.contains_iff_mem.mp hin)

section Arrival

variable {s : State} {c : CoreId} {e : BitVec 3} {r : Stream} {bs : List (Byte × Bool)}
  {rest : List (List (Byte × Bool))}

theorem does_streamDataArrival (hsend : (getStream (getCore s c.toNat) e.toNat).kind = .send)
    (hqueue : (getStream (getCore s c.toNat) e.toNat).queue = bs :: rest) (hjoined : receiverOf s c.toNat e.toNat = some r)
    (hsome : 0 < min bs.length (getStream (getCore s c.toNat) e.toNat).credit)
    (hsteady : ∀ x ∈ (getStream (getCore s c.toNat) e.toNat).engines, x.2 ∉ (getSeam s x.1).retraining)
    (hring : (getCl s (r.base / 0x800000)).power = .on)
    (hpeer : (getCl s ((getStream (getCore s c.toNat) e.toNat).peer / 16)).power = .on) :
    Does (.streamDataArrival c e) s (signalEvent (dataArrived s c.toNat e.toNat r
      (min bs.length (getStream (getCore s c.toNat) e.toNat).credit) bs rest)
        (getStream (getCore s c.toNat) e.toNat).peer 51) := by
  refine congrArg Host.Outcome.next ?_
  dsimp only
  rw [senderEnd_of_send hsend]
  dsimp only
  rw [hqueue, hjoined]
  refine if_neg ?_
  rw [not_stuck hsteady, decide_eq_false (Nat.ne_of_gt hsome), hring, hpeer]
  decide

/-- What stands in the ring of a receiver after an arrival, and what is left with the sender of another core. -/
theorem dataArrived_spec (k i m : Nat) (hother : (getStream (getCore s k) i).peer ≠ k) :
    let o := getStream (getCore s k) i
    let t := dataArrived s k i r m bs rest
    t.mem = (ringPut s r.base r.size r.wptr (bs.take m)).mem ∧
      getStream (getCore t o.peer) o.pstream =
        { r with wptr := (r.wptr + m) % r.size, unread := r.unread + m } ∧
      getStream (getCore t k) i =
        { o with credit := o.credit - m, queue := if m < bs.length then bs.drop m :: rest else rest } := by
  refine ⟨(routeCounted_onlyRegs _ _ _ _ _).mem, ?_, ?_⟩
  · rw [dataArrived, getCore_modCore_self, getStream_setStream_self]
  · rw [dataArrived, getCore_modCore_ne _ _ _ _ (Ne.symm hother), getCore_modCore_self, getStream_setStream_self]

end Arrival

/-! ### TRECV (R315) -/

section Trecv

variable {c : CoreId} {gb rd : GReg} {e : BitVec 3}

theorem commitLaw_trecvQuery : CommitLaw (.trecvQuery c rd e) c 4 [rd.toNat] true
    (fun s => (getStream (getCore s c.toNat) e.toNat).kind = .recv)
    (fun s => modCore s c.toNat fun x => setGpr (acquire x) rd.toNat (BitVec.ofNat 64
      ((getStream (getCore s c.toNat) e.toNat).unread + (getStream (getCore s c.toNat) e.toNat).rptr * 2 ^ 32))) :=
  commitLaw_of_go (fun _ => rfl) fun _ hrecv => if_neg (not_not_intro hrecv)

/-- A register written at an acquire point: the prefetch buffer is empty (R78). -/
theorem setGpr_acquire (x : CoreSt) (r : Nat) (w : Word) :
    setGpr (acquire x) r w = { setGpr x r w with pref := [], prefOrder := [] } := by
  unfold setGpr
  split <;> rfl

theorem commitLaw_trecvConsume : CommitLaw (.trecvConsume c gb e) c 4 [gb.toNat] true
    (fun s => (getStream (getCore s c.toNat) e.toNat).kind = .recv ∧ (gpr (getCore s c.toNat) gb.toNat).toNat % 32 = 0 ∧
      (gpr (getCore s c.toNat) gb.toNat).toNat ≤ (getStream (getCore s c.toNat) e.toNat).unread)
    (fun s =>
      let o := getStream (getCore s c.toNat) e.toNat
      let b := (gpr (getCore s c.toNat) gb.toNat).toNat
      modCore s c.toNat fun x => setStream x e.toNat { o with
        rptr := (o.rptr + b) % o.size, unread := o.unread - b }) := by
  refine commitLaw_of_go (fun _ => rfl) fun s ⟨hrecv, haligned, hmost⟩ => ?_
  refine (if_neg (not_not_intro hrecv)).trans (if_neg ?_)
  simp [haligned, hmost]

theorem trapLaw_trecvConsume : TrapLaw (.trecvConsume c gb e) c 4 [gb.toNat] true
    (fun s => (getStream (getCore s c.toNat) e.toNat).kind = .recv ∧
      ((gpr (getCore s c.toNat) gb.toNat).toNat % 32 ≠ 0 ∨
        (getStream (getCore s c.toNat) e.toNat).unread < (gpr (getCore s c.toNat) gb.toNat).toNat))
    (fun s => ⟨4, 0, (gpr (getCore s c.toNat) gb.toNat).toNat⟩) := by
  refine trapLaw_of_trap (fun _ => rfl) fun s ⟨hrecv, hbad⟩ => ?_
  refine (if_neg (not_not_intro hrecv)).trans (if_pos ?_)
  simpa only [Bool.or_eq_true, decide_eq_true_eq] using hbad

end Trecv

/-! ### STREAM_CREDIT (R315) -/

/-- The state in which the credit for what r has consumed is back with its sender, entry e of core c. -/
def credited (s : State) (c e : Nat) (r : Stream) : State :=
  let o := getStream (getCore s c) e
  modCore (routeCounted s (o.peer / 1024) (c / 1024) o.way 8) c fun x =>
    setStream x e { getStream x e with credit := r.size - r.unread }

theorem does_streamCredit {s : State} {c : CoreId} {e : BitVec 3} {r : Stream}
    (hsend : (getStream (getCore s c.toNat) e.toNat).kind = .send) (hjoined : receiverOf s c.toNat e.toNat = some r) :
    Does (.streamCredit c e) s (credited s c.toNat e.toNat r) := by
  refine congrArg Host.Outcome.next ?_
  dsimp only
  rw [senderEnd_of_send hsend]
  dsimp only
  rw [hjoined]
  rfl

theorem getStream_credited (s : State) (c e : Nat) (r : Stream) :
    getStream (getCore (credited s c e r) c) e =
      { getStream (getCore s c) e with credit := r.size - r.unread } := by
  rw [credited, getCore_modCore_self, getStream_setStream_self, (routeCounted_onlyRegs _ _ _ _ _).getCore]

theorem sameMemory_credited (s : State) (c e : Nat) (r : Stream) : SameMemory s (credited s c e r) :=
  (((routeCounted_onlyRegs _ _ _ _ _).onlyCore c).trans (OnlyCore.modCore _ _ _)).sameMemory

/-! ### TCLOSE (R316) -/

section Tclose

variable {s : State} {c e : Nat} {k : State → Eff}

theorem tcloseSync_free (hfree : (getStream (getCore s c) e).kind = .free) : tcloseSync s c e k = .go s := if_pos hfree

/-- An entry with nothing queued, where it sends, does not hold up TCLOSE. -/
theorem tclose_ready (hsent : (getStream (getCore s c) e).kind = .send → (getStream (getCore s c) e).queue = []) :
    ¬ (decide ((getStream (getCore s c) e).kind = .send) && !(getStream (getCore s c) e).queue.isEmpty) = true := by
  simpa using hsent

theorem tcloseSync_clean (hopen : (getStream (getCore s c) e).kind ≠ .free)
    (hsent : (getStream (getCore s c) e).kind = .send → (getStream (getCore s c) e).queue = [])
    (hclean : (getStream (getCore s c) e).faults = []) : tcloseSync s c e k = k s := by
  refine (if_neg hopen).trans ((if_neg (tclose_ready hsent)).trans ?_)
  rw [hclean]

theorem tcloseSync_fault {f : Nat} {r : List Nat} (hopen : (getStream (getCore s c) e).kind ≠ .free)
    (hsent : (getStream (getCore s c) e).kind = .send → (getStream (getCore s c) e).queue = [])
    (hfault : (getStream (getCore s c) e).faults = f :: r) :
    tcloseSync s c e k = .trap (modCore s c fun x => setStream x e { getStream (getCore s c) e with faults := [] })
      ⟨8, f, e⟩ true (!r.isEmpty) := by
  refine (if_neg hopen).trans ((if_neg (tclose_ready hsent)).trans ?_)
  rw [hfault]

end Tclose

/-- Settles O43: TSEND, TRECV and TCLOSE by the law of each of their branches, an arrival and the credit's return by the
state they leave. -/
theorem streamData : Obligations.StreamData := by
  unfold Obligations.StreamData
  intro c ga gb rd e
  refine ⟨?sends, ?noSender, ?badSize, ?arrives, ?query, ?consume, ?badConsume, ?credit, ?sync, ?close, ?syncReceiver,
    ?fault⟩
  case sends =>
    rintro s s1 t h ⟨haligned, hmin, hmax, haddr, hside, hrest⟩
    exact effectLaw_tsend s s1 t h ⟨⟨⟨haligned, hmin, hmax⟩, haddr, hside⟩, hrest⟩
  case noSender =>
    rintro s s1 h hloads ⟨haligned, hmin, hmax, haddr, hside, hother⟩
    exact trapLaw_tsend_kind s s1 h hloads ⟨⟨⟨haligned, hmin, hmax⟩, haddr, hside⟩, hother⟩
  case badSize =>
    intro s s1 h hloads hbad
    refine trapLaw_tsend_size s s1 h hloads fun ⟨haligned, hmin, hmax⟩ => ?_
    rcases hbad with hbad | hbad | hbad
    · exact hbad haligned
    · exact Nat.not_lt.mpr hmin hbad
    · exact Nat.not_lt.mpr hmax hbad
  case arrives =>
    intro s r bs rest o m hsend hqueue hjoined hsome hsteady hring hpeer hother
    obtain ⟨hmem, hreceiver, hsender⟩ := dataArrived_spec (r := r) (bs := bs) (rest := rest) _ _ m hother
    refine ⟨_, does_streamDataArrival hsend hqueue hjoined hsome hsteady hring hpeer, hmem, ?_, ?_, ?_, ?_⟩
    · exact congrArg Stream.wptr hreceiver
    · exact congrArg Stream.unread hreceiver
    · exact congrArg Stream.credit hsender
    · exact congrArg Stream.queue hsender
  case query =>
    intro s s1 h hrecv
    simpa only [setGpr_acquire] using commitLaw_trecvQuery s s1 h hrecv
  case consume => exact commitLaw_trecvConsume
  case badConsume => exact trapLaw_trecvConsume
  case credit =>
    exact fun s r hsend hjoined =>
      ⟨_, does_streamCredit hsend hjoined, getStream_credited _ _ _ _, sameMemory_credited _ _ _ _⟩
  case sync =>
    refine commitLaw_of_go (fun _ => rfl) fun s hdone => ?_
    by_cases hfree : (getStream (getCore s c.toNat) e.toNat).kind = .free
    · exact tcloseSync_free hfree
    · obtain ⟨hqueue, hclean⟩ := hdone.resolve_left hfree
      exact tcloseSync_clean hfree (fun _ => hqueue) hclean
  case close =>
    refine commitLaw_of_go (fun _ => rfl) fun s hdone => ?_
    split
    · next hfree => exact tcloseSync_free hfree
    · next hopen =>
      obtain ⟨hqueue, hclean⟩ := hdone.resolve_left hopen
      exact tcloseSync_clean hopen (fun _ => hqueue) hclean
  case syncReceiver =>
    exact commitLaw_of_go (fun _ => rfl) fun s ⟨hother, hopen, hclean⟩ =>
      tcloseSync_clean hopen (fun hsend => absurd hsend hother) hclean
  case fault =>
    intro s s1 f r h hopen hsent hfault
    exact ⟨congrArg Host.Outcome.next (issue_trap h (h.older rfl) (tcloseSync_fault hopen hsent hfault)),
      congrArg Host.Outcome.next (issue_trap h (h.older rfl) (tcloseSync_fault hopen hsent hfault))⟩

end Sys2Proof.Machine

/-! Streams that open (O42): TOPEN from both sides, the open record, the answer and the timeout, a peer that has gone. -/

namespace Sys2Proof.Machine

/-! ### Stream descriptors (Table 9.11) -/

/-- A stream descriptor that issues (Table 9.11). -/
def StreamDesc.Legal (t : StreamDesc) : Prop := t.kind = 6 ∧ t.rsv = false

theorem StreamDesc.not_legal_iff (t : StreamDesc) : (decide (t.kind ≠ 6) || t.rsv) = true ↔ ¬ t.Legal := by
  simp only [StreamDesc.Legal, Bool.or_eq_true, decide_eq_true_eq]
  rw [not_and_or, Bool.not_eq_false]

theorem StreamDesc.Legal.issues {t : StreamDesc} (h : t.Legal) : ¬ (decide (t.kind ≠ 6) || t.rsv) = true :=
  fun hbad => t.not_legal_iff.mp hbad h

/-- The ring of a stream descriptor lies as R313 asks, in a local store of cluster k. -/
def StreamDesc.RingPlaced (t : StreamDesc) (k : Nat) : Prop :=
  t.rbase % t.rsize = 0 ∧ lsSide k t.rbase t.rsize = true

theorem StreamDesc.not_ringPlaced_iff (t : StreamDesc) (k : Nat) :
    (decide (t.rbase % t.rsize ≠ 0) || !lsSide k t.rbase t.rsize) = true ↔ ¬ t.RingPlaced k := by
  simp only [StreamDesc.RingPlaced, Bool.or_eq_true, decide_eq_true_eq, Bool.not_eq_true']
  rw [not_and_or, Bool.not_eq_true]

theorem StreamDesc.RingPlaced.issues {t : StreamDesc} {k : Nat} (h : t.RingPlaced k) :
    ¬ (decide (t.rbase % t.rsize ≠ 0) || !lsSide k t.rbase t.rsize) = true :=
  fun hbad => (t.not_ringPlaced_iff k).mp hbad h

/-- An instruction whose meaning stalls in every state that R relates obeys the law of those that begin to wait. -/
theorem beginLaw_of_stall {i : Instr} {c : CoreId} {n : Nat} {regs : List Nat} {ra : CoreSt → CoreSt}
    {body : State → Eff} {R : State → State → Prop}
    (hexec : ∀ s, exec i s = .next (issue s c.toNat ⟨n, regs, true⟩ ra body))
    (hbody : ∀ s t, R s t → body s = .stall t) : BeginLaw i c n regs R :=
  fun s s1 t h hR => (hexec s).trans (congrArg _ (issue_stall h (hbody s1 t hR)))

/-! ### TOPEN (R311, R313) -/

/-- The state in which entry e of core c is open to receive by descriptor t (R313). -/
def receiveOpened (s : State) (c e : Nat) (t : StreamDesc) : State :=
  modCore s c fun x => setStream x e { Stream.idle with
    kind := .recv, peer := t.peer, pstream := t.pstream, way := t.way, base := t.rbase, size := t.rsize }

/-- The state in which a record that the peer's entry holds for entry e of core c is answered (R313). -/
def heldAnswered (s : State) (c e : Nat) (t : StreamDesc) : State :=
  let o := getStream (getCore s t.peer) t.pstream
  if o.kind = .opening ∧ o.setup = 1 ∧ o.peer = c ∧ o.pstream = e then joinStream s t.peer t.pstream else s

theorem heldAnswered_eq (s : State) (c e : Nat) (t : StreamDesc) :
    (if (decide ((getStream (getCore s t.peer) t.pstream).kind = .opening) &&
        decide ((getStream (getCore s t.peer) t.pstream).setup = 1) &&
        decide ((getStream (getCore s t.peer) t.pstream).peer = c) &&
        decide ((getStream (getCore s t.peer) t.pstream).pstream = e)) = true then joinStream s t.peer t.pstream else s) =
      heldAnswered s c e t := by
  simp only [Bool.and_eq_true, decide_eq_true_eq, and_assoc]
  rfl

section Topen

variable {c : CoreId} {d : DReg} {rd : GReg} {e : BitVec 3}

/-- The descriptor that a TOPEN of core c names. -/
def openDesc (s : State) (c : CoreId) (d : DReg) : StreamDesc := streamDesc (dreg (getCore s c.toNat) d.toNat).toNat

theorem trapLaw_topenSend : TrapLaw (.topenSend c d rd e) c 4 [rd.toNat] true (fun s => ¬ (openDesc s c d).Legal)
    (fun _ => ⟨1, 0, encStream d.toNat 0 0 rd.toNat e.toNat 0⟩) :=
  trapLaw_of_trap (fun _ => rfl) fun _ hbad => if_pos ((StreamDesc.not_legal_iff _).mpr hbad)

theorem trapLaw_topenReceive : TrapLaw (.topenReceive c d rd e) c 4 [rd.toNat] true
    (fun s => (openDesc s c d).Legal ∧ ¬ (openDesc s c d).RingPlaced (c.toNat / 16))
    (fun s => ⟨4, 0, (openDesc s c d).rbase⟩) :=
  trapLaw_of_trap (fun _ => rfl) fun _ ⟨hlegal, hbad⟩ =>
    (if_neg (StreamDesc.Legal.issues hlegal)).trans
      (if_pos ((StreamDesc.not_ringPlaced_iff _ _).mpr hbad))

theorem effectLaw_topenReceive : EffectLaw (.topenReceive c d rd e) c 4 [rd.toNat] (fun s t =>
    (openDesc s c d).Legal ∧ (openDesc s c d).RingPlaced (c.toNat / 16) ∧
      (getStream (getCore s c.toNat) e.toNat).kind = .free ∧ badPeer s c.toNat (openDesc s c d).peer = false ∧
      t = modCore (heldAnswered (receiveOpened s c.toNat e.toNat (openDesc s c d)) c.toNat e.toNat (openDesc s c d)) c.toNat
        fun x => setGpr x rd.toNat (BitVec.ofNat 64 stOk)) := by
  refine effectLaw_of_go (fun _ => rfl) fun s t ⟨hlegal, hplaced, hfree, hpeer, ht⟩ => ?_
  refine (if_neg (StreamDesc.Legal.issues hlegal)).trans
    ((if_neg hplaced.issues).trans
      ((if_neg (not_not_intro hfree)).trans ((if_neg (Bool.eq_false_iff.mp hpeer)).trans ?_)))
  rw [ht, ← heldAnswered_eq]
  rfl

end Topen

/-! ### The answer and the timeout (R313) -/

/-- The state in which TOPEN send has ended with a status in register rd, its entry being t. -/
def openEnded (s : State) (c e rd st : Nat) (t : Stream) : State :=
  commit (modCore s c fun x => { setGpr (setStream x e t) rd (BitVec.ofNat 64 st) with wait := none }) c (getCore s c).pc
    ((getCore s c).pc + 4)

theorem getCore_openEnded (s : State) (c e rd st : Nat) (t : Stream) : getCore (openEnded s c e rd st t) c =
    committed { setGpr (setStream (getCore s c) e t) rd (BitVec.ofNat 64 st) with wait := none } (getCore s c).pc
      ((getCore s c).pc + 4) := by
  rw [openEnded, getCore_commit, getCore_modCore_self]

theorem openEnded_onlyCore (s : State) (c e rd st : Nat) (t : Stream) : OnlyCore c s (openEnded s c e rd st t) :=
  (OnlyCore.modCore _ _ _).commit _ _

/-- TOPEN send ends in a core that neither halts nor takes a double trap, with no job running. -/
theorem topenAnswer_of_wait {s : State} {c e rd : Nat} (hwait : (getCore s c).wait = some (.topen rd e))
    (hhalt : (getCore s c).halting = false) (hdbl : (getCore s c).dbl = none) (hjobs : s.jobs = []) (st : Nat)
    (t : Stream) : topenAnswer s c e st t = openEnded s c e rd st t := by
  have hcore := getCore_openEnded s c e rd st t
  obtain ⟨g, hg⟩ := setGpr_frame (setStream (getCore s c) e t) rd (BitVec.ofNat 64 st)
  rw [hg] at hcore
  unfold topenAnswer
  rw [hwait]
  exact (if_neg (not_not_intro rfl)).trans (settle_of_still (c := c) (s := openEnded s c e rd st t)
    (by rw [hcore]; exact hdbl) (by rw [hcore]; exact hhalt) ((commit_jobs _ _ _ _).trans hjobs))

/-- What the end of TOPEN send leaves in its core: the wait over, the status in rd, the entry as it is given. -/
theorem openEnded_spec (s : State) (c e rd st : Nat) (t : Stream) :
    let u := openEnded s c e rd st t
    ((getCore u c).wait = none ∧ (getCore u c).pc = (getCore s c).pc + 4 ∧ SameMemory s u ∧
      ∀ r, gpr (getCore u c) r = if r = rd ∧ rd ≠ 0 then BitVec.ofNat 64 st else gpr (getCore s c) r) ∧
    getStream (getCore u c) e = t := by
  have hcore := getCore_openEnded s c e rd st t
  refine ⟨⟨?_, ?_, (openEnded_onlyCore s c e rd st t).sameMemory, fun r => ?_⟩, ?_⟩ <;> rw [hcore]
  · rfl
  · rfl
  · exact gpr_setGpr _ _ _ _
  · obtain ⟨g, hg⟩ := setGpr_frame (setStream (getCore s c) e t) rd (BitVec.ofNat 64 st)
    rw [hg]
    exact getStream_setStream_self (getCore s c) e t

section Answer

variable {s : State} {c : CoreId} {e : BitVec 3}

theorem does_streamOpenRecord (hopening : (getStream (getCore s c.toNat) e.toNat).kind = .opening)
    (hout : (getStream (getCore s c.toNat) e.toNat).setup = 0) :
    let o := getStream (getCore s c.toNat) e.toNat
    Does (.streamOpenRecord c e) s
      (if acceptsFrom (getStream (getCore s o.peer) o.pstream) c.toNat e.toNat then joinStream s c.toNat e.toNat
       else modCore s c.toNat fun x => setStream x e.toNat { o with setup := 1, since := elapsed s }) :=
  congrArg Host.Outcome.next (if_neg (by rw [hopening, hout]; decide))

/-- The entry of a sender whose record entry e of core c has answered: its credit is the receiver's ring. -/
def joined (s : State) (c e : Nat) : Stream :=
  let o := getStream (getCore s c) e
  let size := (getStream (getCore s o.peer) o.pstream).size
  { o with kind := .send, setup := 0, credit := size, size := size }

theorem does_streamSetupAnswer (hopening : (getStream (getCore s c.toNat) e.toNat).kind = .opening)
    (hanswered : (getStream (getCore s c.toNat) e.toNat).setup = 2) :
    Does (.streamSetupAnswer c e) s (topenAnswer s c.toNat e.toNat stOk (joined s c.toNat e.toNat)) :=
  congrArg Host.Outcome.next (if_neg (by rw [hopening, hanswered]; decide))

theorem does_streamOpenTimeout (hopening : (getStream (getCore s c.toNat) e.toNat).kind = .opening)
    (hheld : (getStream (getCore s c.toNat) e.toNat).setup = 1) :
    Does (.streamOpenTimeout c e) s (topenAnswer
      (advanceTo s ((getStream (getCore s c.toNat) e.toNat).since + 100000)) c.toNat e.toNat stNotReady Stream.idle) :=
  congrArg Host.Outcome.next (if_neg (by rw [hopening, hheld]; decide))

/-! ### A peer that has gone (R316) -/

/-- A peer entry p is no longer joined to entry e of core c, a sender or a receiver (R316). -/
def PeerGone (o p : Stream) (c e : Nat) : Prop :=
  p.peer ≠ c ∨ p.pstream ≠ e ∨ p.engines = [] ∨
    (if o.kind = .send then p.kind ≠ .recv else p.kind ≠ .send ∧ p.kind ≠ .opening)

theorem PeerGone.not_joined {o p : Stream} {c e : Nat} (h : PeerGone o p c e) :
    (p.peer == c && p.pstream == e && !p.engines.isEmpty &&
      (if (o.kind == .send) = true then p.kind == .recv else p.kind == .send || p.kind == .opening)) = false := by
  rcases h with hpeer | hentry | hengines | hkind
  · rw [beq_false_of_ne hpeer]
    rfl
  · rw [beq_false_of_ne hentry, Bool.and_false]
    rfl
  · simp [hengines]
  · by_cases hsend : o.kind = .send
    · simp [hsend, show p.kind ≠ .recv by simpa [hsend] using hkind]
    · obtain ⟨hother, hopening⟩ : p.kind ≠ .send ∧ p.kind ≠ .opening := by simpa [hsend] using hkind
      simp [hsend, hother, hopening]

theorem does_streamCloseRecord (hkind : (getStream (getCore s c.toNat) e.toNat).kind = .send ∨
      (getStream (getCore s c.toNat) e.toNat).kind = .recv)
    (hengines : (getStream (getCore s c.toNat) e.toNat).engines ≠ [])
    (hopen : (getStream (getCore s c.toNat) e.toNat).closed = false)
    (hgone : let o := getStream (getCore s c.toNat) e.toNat
      PeerGone o (getStream (getCore s o.peer) o.pstream) c.toNat e.toNat) :
    Does (.streamCloseRecord c e) s (modCore s c.toNat fun x =>
      setStream x e.toNat ((getStream (getCore s c.toNat) e.toNat).ended 3)) := by
  refine congrArg Host.Outcome.next (if_neg ?_)
  rw [hgone.not_joined, hopen]
  rcases hkind with hkind | hkind <;> simp [hkind, hengines]

end Answer

/-- Settles O42: TOPEN by the law of each of its branches, records and answers by the state they leave. -/
theorem streams : Obligations.Streams := by
  unfold Obligations.Streams
  refine ⟨fun c d rd e => ⟨?sendBegins, ?sendEnds, ?sendIllegal, ?receiveEnds, ?receiveOpens, ?receiveMisplaced⟩,
    fun c e s rd => ⟨?record, ?answers, ?ends, ?gone⟩⟩
  case sendBegins =>
    refine beginLaw_of_stall (fun _ => rfl) fun s t ⟨hlegal, hfree, hpeer, p, es, hroute, hengines, ht⟩ => ?_
    refine (if_neg (StreamDesc.Legal.issues hlegal)).trans
      ((if_neg (not_not_intro hfree)).trans ((if_neg (Bool.eq_false_iff.mp hpeer)).trans ?_))
    dsimp only at hroute hengines
    rw [hroute]
    dsimp only
    rw [hengines, ht]
  case sendEnds =>
    refine effectLaw_of_go (fun _ => rfl) fun s t ⟨hlegal, hends⟩ => ?_
    refine (if_neg (StreamDesc.Legal.issues hlegal)).trans ?_
    rcases hends with ⟨hused, rfl⟩ | ⟨hfree, hbad, rfl⟩ | ⟨hfree, hpeer, hnone, rfl⟩ | ⟨hfree, hpeer, p, hroute, hnone, rfl⟩
    · exact if_pos hused
    · exact (if_neg (not_not_intro hfree)).trans (if_pos hbad)
    · refine (if_neg (not_not_intro hfree)).trans ((if_neg (Bool.eq_false_iff.mp hpeer)).trans ?_)
      dsimp only at hnone
      rw [hnone]
      rfl
    · refine (if_neg (not_not_intro hfree)).trans ((if_neg (Bool.eq_false_iff.mp hpeer)).trans ?_)
      dsimp only at hroute hnone
      rw [hroute]
      dsimp only
      rw [hnone]
      rfl
  case sendIllegal =>
    exact trapLaw_topenSend
  case receiveEnds =>
    refine effectLaw_of_go (fun _ => rfl) fun s t ⟨hlegal, haligned, hside, hends⟩ => ?_
    refine (if_neg (StreamDesc.Legal.issues hlegal)).trans
      ((if_neg (StreamDesc.RingPlaced.issues ⟨haligned, hside⟩)).trans ?_)
    rcases hends with ⟨hused, rfl⟩ | ⟨hfree, hbad, rfl⟩
    · exact if_pos hused
    · exact (if_neg (not_not_intro hfree)).trans (if_pos hbad)
  case receiveOpens =>
    rintro s s1 t h ⟨hlegal, hfree, haligned, hside, hpeer, ht⟩
    exact effectLaw_topenReceive s s1 t h ⟨hlegal, ⟨haligned, hside⟩, hfree, hpeer, ht⟩
  case receiveMisplaced =>
    rintro s s1 h hloads ⟨hlegal, hbad⟩
    refine trapLaw_topenReceive s s1 h hloads ⟨hlegal, fun ⟨haligned, hside⟩ => ?_⟩
    rcases hbad with hbad | hbad
    · exact hbad haligned
    · exact Bool.eq_false_iff.mp hbad hside
  case record => exact does_streamOpenRecord
  case answers =>
    exact fun hopening => ⟨does_streamSetupAnswer hopening, does_streamOpenTimeout hopening⟩
  case ends =>
    intro hopening hwait hhalt hdbl hjobs
    refine ⟨fun hanswered => ?_, fun hheld => ?_⟩
    · have hdoes := does_streamSetupAnswer hopening hanswered
      rw [topenAnswer_of_wait hwait hhalt hdbl hjobs] at hdoes
      obtain ⟨hended, hentry⟩ := openEnded_spec s c.toNat e.toNat rd stOk (joined s c.toNat e.toNat)
      exact ⟨_, hdoes, hended, congrArg Stream.kind hentry, congrArg Stream.credit hentry⟩
    · have hdoes := does_streamOpenTimeout hopening hheld
      rw [topenAnswer_of_wait (s := advanceTo s _) hwait hhalt hdbl hjobs] at hdoes
      obtain ⟨hended, hentry⟩ := openEnded_spec
        (advanceTo s ((getStream (getCore s c.toNat) e.toNat).since + 100000)) c.toNat e.toNat rd stNotReady Stream.idle
      refine ⟨_, hdoes, hended, hentry, ?_⟩
      exact congrArg State.hallmark (openEnded_onlyCore _ _ _ _ _ _).1
  case gone =>
    exact fun hkind hengines hopen hgone => does_streamCloseRecord hkind hengines hopen hgone

end Sys2Proof.Machine

/-! Seams (O41): records of the plain engine, replays and retrains of a bundle, a bundle that fails, roles that move. -/

namespace Sys2Proof.Machine

/-! ### Fields of a register that is changed in part -/

theorem bitNat_eq_testBit (x i : Nat) : bitNat x i = x.testBit i := by
  rw [bitNat, Nat.testBit_eq_decide_div_mod_eq]
  rfl

theorem testBit_fieldNat (x lo n i : Nat) : (fieldNat x lo n).testBit i = (decide (i < n) && x.testBit (lo + i)) := by
  rw [fieldNat, Nat.testBit_mod_two_pow, Nat.testBit_div_two_pow, Nat.add_comm]

/-- Bit k of a register one of whose fields was replaced. -/
theorem bit_setRegField (s : State) (o lo n v : Nat) {k : Nat} (hk : k < 64) :
    bitNat (getReg (setRegField s o lo n v) o).toNat k =
      if lo ≤ k ∧ k < lo + n then v.testBit (k - lo) else bitNat (getReg s o).toNat k := by
  rw [setRegField, getReg_setReg_self, bitNat_eq_testBit, bitNat_eq_testBit, BitVec.toNat_ofNat, Nat.testBit_mod_two_pow,
    decide_eq_true hk, Bool.true_and, testBit_setFieldNat]

theorem bit_setRegField_apart (s : State) (o lo n v : Nat) {k : Nat} (hk : k < 64) (hapart : k < lo ∨ lo + n ≤ k) :
    bitNat (getReg (setRegField s o lo n v) o).toNat k = bitNat (getReg s o).toNat k := by
  rw [bit_setRegField _ _ _ _ _ hk, if_neg (by omega)]

theorem regField_setRegField_self (s : State) (o lo n v : Nat) (hfits : lo + n ≤ 64) :
    regField (setRegField s o lo n v) o lo n = v % 2 ^ n := by
  refine Nat.eq_of_testBit_eq fun j => ?_
  rw [regField, testBit_fieldNat, Nat.testBit_mod_two_pow]
  by_cases hj : j < n
  · rw [← bitNat_eq_testBit, bit_setRegField _ _ _ _ _ (by omega), if_pos (by omega), Nat.add_sub_cancel_left]
  · rw [decide_eq_false hj, Bool.false_and, Bool.false_and]

theorem regField_setRegField_apart (s : State) (o lo n v : Nat) {lo' n' : Nat} (hfits : lo' + n' ≤ 64)
    (hapart : lo' + n' ≤ lo ∨ lo + n ≤ lo') :
    regField (setRegField s o lo n v) o lo' n' = regField s o lo' n' := by
  refine Nat.eq_of_testBit_eq fun j => ?_
  rw [regField, regField, testBit_fieldNat, testBit_fieldNat]
  by_cases hj : j < n'
  · rw [← bitNat_eq_testBit, ← bitNat_eq_testBit, bit_setRegField_apart _ _ _ _ _ (by omega) (by omega)]
  · rw [decide_eq_false hj, Bool.false_and, Bool.false_and]

theorem getReg_setRegField_ne (s : State) {o p : Nat} (lo n v : Nat) (h : p ≠ o) :
    getReg (setRegField s o lo n v) p = getReg s p := getReg_setReg_ne _ _ _ _ h

/-! ### A ledger record leaves every register but LDG_STAT (R450 to R459) -/

section LedgerRegs

variable {o : Nat} (h : o ≠ oLdgStat)

include h

theorem getReg_ringWrite (s : State) (r : LedgerRec) : getReg (ringWrite s r).1 o = getReg s o := by
  unfold ringWrite
  dsimp only
  split
  · exact getReg_setRegField_ne _ _ _ _ h
  · dsimp only
    split
    · exact getReg_setRegField_ne _ _ _ _ h
    · rfl

theorem getReg_flashCopy (s : State) (r : LedgerRec) : getReg (flashCopy s r) o = getReg s o := by
  unfold flashCopy
  dsimp only
  split
  · rfl
  · split
    · rfl
    · split
      · rfl
      · split
        · exact getReg_setRegField_ne _ _ _ _ h
        · exact (getReg_ringWrite h _ _).trans (getReg_setRegField_ne _ _ _ _ h)

theorem getReg_writeRecord (s : State) (r : LedgerRec) : getReg (writeRecord s r) o = getReg s o := by
  have hring := getReg_ringWrite h s r
  unfold writeRecord
  split
  · next hw => rw [hw] at hring; exact (getReg_flashCopy h _ _).trans hring
  · next hw => rw [hw] at hring; exact hring

theorem getReg_ledger (s : State) (code sev : Nat) (part : Option Nat) (source : Nat) (payload : List Nat) :
    getReg (ledger s code sev part source payload) o = getReg s o := by
  have suppressed : getReg (suppress s code) o = getReg s o := getReg_setRegField_ne _ _ _ _ h
  unfold ledger
  dsimp only
  split
  · rfl
  · split
    · exact suppressed
    · split
      · exact suppressed
      · split
        · rfl
        · exact getReg_writeRecord h _ _

end LedgerRegs

theorem oSeamStat_ne_oLdgStat (i : Nat) : oSeamStat i ≠ oLdgStat := by
  unfold oSeamStat oLdgStat
  omega

theorem oSeamStat_ne {i j : Nat} (h : j ≠ i) : oSeamStat j ≠ oSeamStat i := by
  unfold oSeamStat
  omega

/-! ### What depends on parts of the state alone -/

theorem getSeam_congr {s t : State} (h : t.seams = s.seams) (i : Nat) : getSeam t i = getSeam s i := by
  rw [getSeam, getSeam, h]

theorem sameMemory_of_mem {s t : State} (h : t.mem = s.mem) : SameMemory s t := fun a => by
  rw [rdByte, rdByte, h]

/-- The engines of a seam's bundles are numbered below 16. -/
theorem lt_of_mem_workingBundles {s : State} {i e : Nat} (h : e ∈ workingBundles s i) : e < 16 :=
  List.mem_range.mp (List.mem_filter.mp h).1

/-! ### Records of the plain engine (R304, R305, R307) -/

/-- A record that reaches die d belongs to another: a read or write of another die's address, or a signal on its way. -/
def GoesOn (s : State) (r : PlainRec) (d : Nat) : Prop :=
  ((r.kind.toNat = 1 ∨ r.kind.toNat = 2) ∧ dieOfAddr r.addr.toNat ≠ d) ∨ (r.kind.toNat = 3 ∧ passesOn s r d = true)

theorem goesOn_iff (s : State) (r : PlainRec) (d : Nat) :
    ((decide (r.kind.toNat = 1) || decide (r.kind.toNat = 2)) && decide (dieOfAddr r.addr.toNat ≠ d) ||
      decide (r.kind.toNat = 3) && passesOn s r d) = true ↔ GoesOn s r d := by
  simp only [GoesOn, Bool.or_eq_true, Bool.and_eq_true, decide_eq_true_eq]

/-- The state with the bytes of a record counted on its direction of a seam. -/
def recordCounted (s : State) (i : Nat) (up : Bool) (r : PlainRec) : State :=
  bump s 0x09 3 (16 + r.data.length) (.seamDir i up)

/-- The state in which a response to a record has been sent. -/
def responded (s : State) (i : Nat) (up : Bool) (r : PlainRec) (st : Nat) (bs : List Byte) : State :=
  emit (recordCounted s i up r) (.seamResponse i up r.seq.toNat st bs)

section Record

variable {i : SeamId} {up : Bool} {r : PlainRec} {s s1 : State} {st : Nat} {bs : List Byte}
  (hup : seamUp s i.toNat = true) (hdie : dieUp s (seamEnd i.toNat up) = true)
  (hsteady : (getSeam s i.toNat).retraining.contains (plainEngine s i.toNat) = false)
  (hstays : (getSeam s i.toNat).movePlain = false)

include hup hdie hsteady hstays

theorem plainEngine_takes : ¬ (!seamUp s i.toNat || !dieUp s (seamEnd i.toNat up) ||
    (getSeam s i.toNat).retraining.contains (plainEngine s i.toNat) || (getSeam s i.toNat).movePlain) = true := by
  rw [hup, hdie, hsteady, hstays]
  decide

theorem does_plainRecord_passed (hgoes : GoesOn s r (seamEnd i.toNat up)) :
    Does (.plainRecord i up r) s (bump (recordCounted s i.toNat up r) 0x09 4 1 (.die (seamEnd i.toNat up))) :=
  congrArg Host.Outcome.next ((if_neg (plainEngine_takes hup hdie hsteady hstays)).trans
    (if_pos ((goesOn_iff _ _ _).mpr hgoes)))

theorem does_plainRecord_control (hkind : r.kind.toNat = 8 ∨ r.kind.toNat = 9) :
    Does (.plainRecord i up r) s (recordCounted s i.toNat up r) := by
  have hhere : ¬ GoesOn s r (seamEnd i.toNat up) := by unfold GoesOn; omega
  refine congrArg Host.Outcome.next ((if_neg (plainEngine_takes hup hdie hsteady hstays)).trans
    ((if_neg fun h => hhere ((goesOn_iff _ _ _).mp h)).trans (if_pos ?_)))
  simpa only [Bool.or_eq_true, decide_eq_true_eq] using hkind

/-- A record for this die that is executed or has been (R307). -/
theorem does_plainRecord_here (hhere : ¬ GoesOn s r (seamEnd i.toNat up)) (h8 : r.kind.toNat ≠ 8)
    (h9 : r.kind.toNat ≠ 9) :
    ((getSeamDir s i.toNat up).done.find? (·.1 == r.seq.toNat) = none →
      runRecord s (seamEnd i.toNat up) r = some (s1, st, bs) →
      Does (.plainRecord i up r) s (responded (setSeamDir s1 i.toNat up { getSeamDir s1 i.toNat up with
        done := ((r.seq.toNat, (st, bs)) :: (getSeamDir s1 i.toNat up).done).take 1024 }) i.toNat up r st bs)) ∧
    (∀ a, (getSeamDir s i.toNat up).done.find? (·.1 == r.seq.toNat) = some (a, st, bs) →
      Does (.plainRecord i up r) s (responded s i.toNat up r st bs)) := by
  have hcontrol : ¬ (decide (r.kind.toNat = 8) || decide (r.kind.toNat = 9)) = true := by simp [h8, h9]
  refine ⟨fun hnew hrun => ?_, fun a hold => ?_⟩ <;>
    refine congrArg Host.Outcome.next ((if_neg (plainEngine_takes hup hdie hsteady hstays)).trans
      ((if_neg fun h => hhere ((goesOn_iff _ _ _).mp h)).trans ((if_neg hcontrol).trans ?_)))
  · rw [hnew]
    dsimp only
    rw [hrun]
    rfl
  · rw [hold]
    rfl

end Record

/-! ### Replays and retrains of a bundle (R308) -/

/-- The times of a bundle's replays of the last millisecond, with one now. -/
def replayTimes (s : State) (i b : Nat) : List Nat :=
  (look (fun _ => []) (getSeam s i).replays b).filter (fun t => decide (elapsed s < t + 1000000)) ++ [elapsed s]

/-- The state with a replay counted. -/
def replayCounted (s : State) (i : Nat) : State := bump (addRegField s (oSeamLink i) 0 32 1) 0x09 6 1 (.seam i)

section Replay

variable {i : SeamId} {b : BundleId} {s : State} (hworks : bundleWorks s i.toNat b.toNat = true)
  (hsteady : (getSeam s i.toNat).retraining.contains b.toNat = false)

include hworks hsteady

theorem bundle_replays : ¬ (!bundleWorks s i.toNat b.toNat || (getSeam s i.toNat).retraining.contains b.toNat) = true := by
  rw [hworks, hsteady]
  decide

theorem does_bundleCrcFailure_replays (hfew : (replayTimes s i.toNat b.toNat).length ≤ 16) :
    Does (.bundleCrcFailure i b) s (setSeam (replayCounted s i.toNat) i.toNat { getSeam s i.toNat with
      replays := put (fun _ => []) (getSeam s i.toNat).replays b.toNat (replayTimes s i.toNat b.toNat) }) :=
  congrArg Host.Outcome.next ((if_neg (bundle_replays hworks hsteady)).trans (if_neg (Nat.not_lt.mpr hfew)))

theorem does_bundleCrcFailure_retrains (hmany : 16 < (replayTimes s i.toNat b.toNat).length) :
    Does (.bundleCrcFailure i b) s (setSeam (replayCounted s i.toNat) i.toNat { getSeam s i.toNat with
      retraining := (getSeam s i.toNat).retraining ++ [b.toNat]
      retrainAt := put (fun _ => 0) (getSeam s i.toNat).retrainAt b.toNat (elapsed s)
      replays := put (fun _ => []) (getSeam s i.toNat).replays b.toNat [] }) :=
  congrArg Host.Outcome.next ((if_neg (bundle_replays hworks hsteady)).trans (if_pos hmany))

end Replay

theorem sameMemory_replayCounted (s : State) (i : Nat) (x : SeamSt) :
    SameMemory s (setSeam (replayCounted s i) i x) :=
  sameMemory_of_mem (by rw [setSeam_mem, replayCounted, bump_mem, addRegField_mem])

theorem does_bundleRetrainEnd {i : SeamId} {b : BundleId} {s : State} (ok : Bool)
    (hretrains : (getSeam s i.toNat).retraining.contains b.toNat = true) :
    let x := getSeam s i.toNat
    let s0 := advanceTo s (look (fun _ => 0) x.retrainAt b.toNat + 20000)
    let s2 := bump (addRegField (setSeam s0 i.toNat { x with retraining := x.retraining.filter (· != b.toNat) })
      (oSeamLink i.toNat) 32 16 1) 0x09 7 1 (.seam i.toNat)
    Does (.bundleRetrainEnd i b ok) s (if ok = true then s2 else bundleLost s2 i.toNat b.toNat) :=
  congrArg Host.Outcome.next (if_neg (by rw [hretrains]; decide))

/-! ### Streams that end with a fault -/

/-- Streams that end change cores alone. -/
theorem endStreams_eq (s : State) (hit : Stream → Bool) (sub : Nat) :
    ∃ q, endStreams s hit sub = { s with cores := q } := by
  have fold {α : Type} (l : List α) (f : State → α → State) (hf : ∀ s x, ∃ q, f s x = { s with cores := q }) (s : State) :
      ∃ q, l.foldl f s = { s with cores := q } := by
    induction l generalizing s with
    | nil => exact ⟨_, rfl⟩
    | cons x l ih =>
      obtain ⟨q, hq⟩ := hf s x
      obtain ⟨q', hq'⟩ := ih (f s x)
      exact ⟨q', by rw [List.foldl_cons, hq', hq]⟩
  exact fold _ _ (fun _ _ => ⟨_, rfl⟩) s

/-! ### A bulk engine that fails (R309, Table 9.10) -/

/-- The state in which bundle b of seam i is disabled and recorded, its role not yet looked at. -/
def bundleDisabled (s : State) (i b : Nat) : State :=
  let s1 := setRegField (setRegField s (oSeamStat i) (48 + b) 1 1) (oSeamStat i) 0 2 1
  let s2 := ledger s1 0x0502 sevError none (srcSeam i) []
  setSeam s2 i { getSeam s2 i with
    retraining := (getSeam s2 i).retraining.filter (· != b), replays := clearIn (getSeam s2 i).replays b 1 }

theorem getReg_bundleDisabled (s : State) (i b : Nat) : getReg (bundleDisabled s i b) (oSeamStat i) =
    getReg (setRegField (setRegField s (oSeamStat i) (48 + b) 1 1) (oSeamStat i) 0 2 1) (oSeamStat i) := by
  rw [bundleDisabled, getReg_setSeam, getReg_ledger (oSeamStat_ne_oLdgStat i)]

theorem getReg_bundleDisabled_ne (s : State) {i b o : Nat} (hled : o ≠ oLdgStat) (hseam : o ≠ oSeamStat i) :
    getReg (bundleDisabled s i b) o = getReg s o := by
  rw [bundleDisabled, getReg_setSeam, getReg_ledger hled, getReg_setRegField_ne _ _ _ _ hseam,
    getReg_setRegField_ne _ _ _ _ hseam]

/-- Of the bits that show a seam's bundles and roles, a disabled bundle changes its own alone. -/
theorem bit_bundleDisabled (s : State) (i : Nat) {b k : Nat} (hlow : 2 ≤ k) (hhigh : k < 64) :
    bitNat (getReg (bundleDisabled s i b) (oSeamStat i)).toNat k =
      (decide (k = 48 + b) || bitNat (getReg s (oSeamStat i)).toNat k) := by
  rw [getReg_bundleDisabled, bit_setRegField_apart _ _ _ _ _ hhigh (by omega), bit_setRegField _ _ _ _ _ hhigh]
  by_cases hk : k = 48 + b
  · rw [if_pos (by omega), hk, Nat.sub_self, decide_eq_true rfl]
    rfl
  · rw [if_neg (by omega), decide_eq_false hk, Bool.false_or]

theorem seamUp_bundleDisabled (s : State) (i b : Nat) : seamUp (bundleDisabled s i b) i = true := by
  have hfield : regField (bundleDisabled s i b) (oSeamStat i) 0 2 = 1 := by
    rw [regField, getReg_bundleDisabled]
    exact regField_setRegField_self _ _ _ _ _ (by decide)
  rw [seamUp, hfield]
  decide

theorem plainEngine_bundleDisabled (s : State) (i b : Nat) : plainEngine (bundleDisabled s i b) i = plainEngine s i := by
  rw [plainEngine, regField, getReg_bundleDisabled]
  exact (regField_setRegField_apart _ _ _ _ _ (by decide) (by omega)).trans
    (regField_setRegField_apart _ _ _ _ _ (by decide) (by omega))

theorem bundleWorks_bundleDisabled {s : State} {i b e : Nat} (hup : seamUp s i = true) (he : e < 16) :
    bundleWorks (bundleDisabled s i b) i e = (bundleWorks s i e && e != b) := by
  rw [bundleWorks, bundleWorks, seamUp_bundleDisabled, hup, bit_bundleDisabled _ _ (by omega) (by omega),
    bit_bundleDisabled _ _ (by omega) (by omega), decide_eq_false (p := 32 + e = 48 + b) (by omega), Bool.false_or]
  by_cases he : e = b
  · simp [he]
  · simp [he]

theorem workingBundles_bundleDisabled {s : State} {i b : Nat} (hup : seamUp s i = true) :
    workingBundles (bundleDisabled s i b) i = (workingBundles s i).filter (· != b) := by
  rw [workingBundles, workingBundles, List.filter_filter]
  exact List.filter_congr fun e he => by
    rw [bundleWorks_bundleDisabled hup (List.mem_range.mp he), Bool.and_comm]

theorem bulkEngines_bundleDisabled {s : State} {i b : Nat} (hup : seamUp s i = true) :
    bulkEngines (bundleDisabled s i b) i = (bulkEngines s i).filter (· != b) := by
  rw [bulkEngines, bulkEngines, workingBundles_bundleDisabled hup, plainEngine_bundleDisabled, List.filter_filter,
    List.filter_filter]
  refine List.filter_congr fun e he => ?_
  have hlt := lt_of_mem_workingBundles he
  rw [bit_bundleDisabled _ _ (by omega) (by omega), decide_eq_false (by omega), Bool.false_or, Bool.and_comm]

/-- One bundle less leaves at most one engine less. -/
theorem length_le_filter_ne {l : List Nat} (h : l.Nodup) (b : Nat) : l.length ≤ (l.filter (· != b)).length + 1 := by
  rw [← h.erase_eq_filter b, List.length_erase]
  split <;> omega

theorem nodup_workingBundles (s : State) (i : Nat) : (workingBundles s i).Nodup := List.nodup_range.filter _

theorem nodup_bulkEngines (s : State) (i : Nat) : (bulkEngines s i).Nodup := (nodup_workingBundles s i).filter _

/-- The state in which bulk engine b of seam i has failed, another being left (Table 9.10). -/
def bulkEngineLost (s : State) (i b : Nat) : State :=
  setRegField (bundleDisabled s i b) (oSeamStat i) 12 4 (bulkEngines (bundleDisabled s i b) i).length

section BulkEngine

variable {s : State} {i b : Nat}

theorem bundleFails_bulk (hworks : bundleWorks s i b = true) (henough : 3 ≤ (workingBundles s i).length)
    (hplain : plainEngine s i ≠ b) (hstream : (streamEngines s i).contains b = false)
    (hbulk : 2 ≤ (bulkEngines s i).length) : bundleFails s i b = bulkEngineLost s i b := by
  have hup : seamUp s i = true := by
    unfold bundleWorks at hworks
    exact (Bool.and_eq_true_iff.mp (Bool.and_eq_true_iff.mp hworks).1).1
  have hleft := length_le_filter_ne (nodup_workingBundles s i) b
  have hmore := length_le_filter_ne (nodup_bulkEngines s i) b
  rw [← workingBundles_bundleDisabled hup] at hleft
  rw [← bulkEngines_bundleDisabled hup] at hmore
  refine (if_neg (by rw [hworks]; decide)).trans ?_
  refine (if_neg (c := (workingBundles (bundleDisabled s i b) i).length < 2) (by omega)).trans ?_
  refine (if_neg (by rw [beq_false_of_ne hplain]; decide)).trans ?_
  refine (if_neg (by rw [hstream]; decide)).trans ?_
  exact if_neg (c := (bulkEngines (bundleDisabled s i b) i).length = 0) (by omega)

theorem seamUp_bulkEngineLost : seamUp (bulkEngineLost s i b) i = true := by
  rw [seamUp, bulkEngineLost, regField_setRegField_apart _ _ _ _ _ (by decide) (by omega)]
  exact seamUp_bundleDisabled s i b

theorem bundleWorks_bulkEngineLost (hb : b < 16) : bundleWorks (bulkEngineLost s i b) i b = false := by
  rw [bundleWorks, bulkEngineLost, bit_setRegField_apart _ _ _ _ _ (k := 48 + b) (by omega) (by omega),
    bit_bundleDisabled _ _ (by omega) (by omega), decide_eq_true rfl, Bool.true_or, Bool.not_true, Bool.and_false]

/-- The other seams stand as they did. -/
theorem seamUp_bulkEngineLost_of_up {j : Nat} (h : seamUp s j = true) : seamUp (bulkEngineLost s i b) j = true := by
  by_cases hj : j = i
  · rw [hj]
    exact seamUp_bulkEngineLost
  · rw [seamUp, regField, bulkEngineLost, getReg_setRegField_ne _ _ _ _ (oSeamStat_ne hj),
      getReg_bundleDisabled_ne _ (oSeamStat_ne_oLdgStat j) (oSeamStat_ne hj)]
    exact h

theorem dieUp_bulkEngineLost (d : Nat) : dieUp (bulkEngineLost s i b) d = dieUp s d := by
  rw [dieUp, dieUp, bulkEngineLost, setRegField_start, bundleDisabled, setSeam_start, ledger_start, setRegField_start,
    setRegField_start]

theorem sameMemory_bulkEngineLost : SameMemory s (bulkEngineLost s i b) :=
  sameMemory_of_mem (by rw [bulkEngineLost, setRegField_mem, bundleDisabled, setSeam_mem, ledger_mem, setRegField_mem,
    setRegField_mem])

end BulkEngine

/-- Every die but the comptroller's that is up reaches it over seams that are up (R309). -/
def AllReached (s : State) : Prop :=
  ∀ e, dieUp s e = true → e = 1 ∨ e = 2 ∨ e = 3 →
    (diePaths 0 e).any (fun p => (pathLegs p).all fun l => seamUp s l.1) = true

theorem AllReached.mono {s t : State} (h : AllReached s) (hdies : ∀ d, dieUp t d = dieUp s d)
    (hseams : ∀ j, seamUp s j = true → seamUp t j = true) : AllReached t := by
  intro e hup he
  obtain ⟨p, hp, hlegs⟩ := List.any_eq_true.mp (h e (hdies e ▸ hup) he)
  exact List.any_eq_true.mpr ⟨p, hp, List.all_eq_true.mpr fun l hl => hseams _ (List.all_eq_true.mp hlegs l hl)⟩

/-- No die is reset where every one is reached. -/
theorem cutOffDies_of_reached {s : State} (h : AllReached s) : cutOffDies s = s := by
  have stays {d : Nat} (hd : d = 1 ∨ d = 2 ∨ d = 3) :
      ¬ (dieUp s d && !((diePaths 0 d).any fun p => (pathLegs p).all fun l => seamUp s l.1)) = true := by
    cases hup : dieUp s d
    · exact Bool.false_ne_true
    · rw [h d hup hd]
      decide
  unfold cutOffDies
  rw [List.foldl_cons, if_neg (stays (.inl rfl)), List.foldl_cons, if_neg (stays (.inr (.inl rfl))), List.foldl_cons,
    if_neg (stays (.inr (.inr rfl))), List.foldl_nil]

theorem seamLoads_of_up {old s : State} {i : Nat} (h : seamUp s i = true) : seamLoads old s i = s :=
  if_pos (by rw [h, Bool.or_true])

theorem bundleLost_bulk {s : State} {i b : Nat} (hworks : bundleWorks s i b = true)
    (henough : 3 ≤ (workingBundles s i).length) (hplain : plainEngine s i ≠ b)
    (hstream : (streamEngines s i).contains b = false) (hbulk : 2 ≤ (bulkEngines s i).length) (hreached : AllReached s) :
    bundleLost s i b = bulkEngineLost s i b := by
  rw [bundleLost, bundleFails_bulk hworks henough hplain hstream hbulk, seamLoads_of_up seamUp_bulkEngineLost]
  exact cutOffDies_of_reached (hreached.mono dieUp_bulkEngineLost fun _ => seamUp_bulkEngineLost_of_up)

/-! ### Roles that move (Table 9.10) -/

/-- An engine taken out of the stream role: its bit is clear, and streams may have ended. -/
theorem takeEngine_eq (s : State) (i e : Nat) :
    ∃ q, takeEngine s i e = { setRegField s (oSeamStat i) (16 + e) 1 0 with cores := q } := endStreams_eq _ _ _

theorem getReg_takeEngine (s : State) (i e o : Nat) :
    getReg (takeEngine s i e) o = getReg (setRegField s (oSeamStat i) (16 + e) 1 0) o := by
  obtain ⟨q, hq⟩ := takeEngine_eq s i e
  rw [hq]
  rfl

theorem takeEngine_seams (s : State) (i e : Nat) : (takeEngine s i e).seams = s.seams := by
  obtain ⟨q, hq⟩ := takeEngine_eq s i e
  rw [hq]
  rfl

theorem takeEngine_mem (s : State) (i e : Nat) : (takeEngine s i e).mem = s.mem := by
  obtain ⟨q, hq⟩ := takeEngine_eq s i e
  rw [hq]
  rfl

/-- The state in which seam i has moved its plain role. -/
def plainSettled (s : State) (i : Nat) : State := setSeam s i { getSeam s i with movePlain := false }

/-- Engine e of seam i holds the plain role in t, to which s has come by a move of that role alone. -/
structure PlainMoved (s t : State) (i e : Nat) : Prop where
  engine : plainEngine t i = e
  done   : (getSeam t i).movePlain = false
  bulk   : (getSeam t i).moveBulk = (getSeam s i).moveBulk
  memory : SameMemory s t

theorem plainMoved_plainSettled {s t : State} {i e : Nat} (hengine : plainEngine t i = e) (hseams : t.seams = s.seams)
    (hmem : t.mem = s.mem) : PlainMoved s (plainSettled t i) i e where
  engine := hengine
  done := by rw [plainSettled, getSeam_setSeam_self]
  bulk := by rw [plainSettled, getSeam_setSeam_self, getSeam_congr hseams]
  memory := sameMemory_of_mem hmem

/-- The stream engine that the plain role moves to: the lowest without a stream, or else the lowest (Table 9.10). -/
def plainHeir (s : State) (i : Nat) : Option Nat :=
  ((streamEngines s i).find? (!carries s i ·)).or (streamEngines s i).head?

theorem movePlainRole_stream {s : State} {i e : Nat} (h : plainHeir s i = some e) :
    PlainMoved s (movePlainRole s i) i e := by
  have hmem : e ∈ streamEngines s i := by
    rcases Option.or_eq_some_iff.mp h with hfind | ⟨-, hhead⟩
    · exact List.mem_of_find?_eq_some hfind
    · exact List.mem_of_head? hhead
  have hlt : e < 16 := lt_of_mem_workingBundles (List.mem_filter.mp hmem).1
  have hmoved : movePlainRole s i = plainSettled (setRegField (takeEngine s i e) (oSeamStat i) 8 4 e) i := by
    unfold plainHeir at h
    unfold movePlainRole
    dsimp only
    rw [h]
    rfl
  rw [hmoved]
  exact plainMoved_plainSettled ((regField_setRegField_self _ _ _ _ _ (by decide)).trans (Nat.mod_eq_of_lt hlt))
    (takeEngine_seams _ _ _) (takeEngine_mem _ _ _)

theorem movePlainRole_bulk {s : State} {i e : Nat} (hnone : streamEngines s i = [])
    (hhead : (bulkEngines s i).head? = some e) : PlainMoved s (movePlainRole s i) i e := by
  have hlt : e < 16 := lt_of_mem_workingBundles (List.mem_filter.mp (List.mem_of_head? hhead)).1
  have hmoved : movePlainRole s i = plainSettled (setRegField (setRegField s (oSeamStat i) 8 4 e) (oSeamStat i) 12 4
      (bulkEngines (setRegField s (oSeamStat i) 8 4 e) i).length) i := by
    unfold movePlainRole
    dsimp only
    rw [hnone, hhead]
    rfl
  rw [hmoved]
  refine plainMoved_plainSettled ?_ rfl rfl
  exact ((regField_setRegField_apart _ _ _ _ _ (by decide) (by omega)).trans
    (regField_setRegField_self _ _ _ _ _ (by decide))).trans (Nat.mod_eq_of_lt hlt)

theorem movePlainRole_none {s : State} {i : Nat} (hstream : streamEngines s i = []) (hbulk : bulkEngines s i = []) :
    movePlainRole s i = s := by
  unfold movePlainRole
  dsimp only
  rw [hstream, hbulk]
  rfl

/-- What a move of the plain role leaves: it is done where an engine is left for it, and that engine holds it. -/
theorem movePlainRole_spec (s : State) (i : Nat) :
    let t := movePlainRole s i
    (getSeam t i).moveBulk = (getSeam s i).moveBulk ∧ SameMemory s t ∧
      (streamEngines s i ≠ [] ∨ bulkEngines s i ≠ [] → (getSeam t i).movePlain = false) ∧
      (∀ e, plainHeir s i = some e → plainEngine t i = e) ∧
      (∀ e, streamEngines s i = [] → (bulkEngines s i).head? = some e → plainEngine t i = e) := by
  cases hheir : plainHeir s i with
  | some e =>
    obtain ⟨hengine, hdone, hbulk, hmem⟩ := movePlainRole_stream hheir
    refine ⟨hbulk, hmem, fun _ => hdone, fun e' he => hengine.trans (Option.some.inj he), fun e' hnone _ => ?_⟩
    rw [plainHeir, hnone] at hheir
    cases hheir
  | none =>
    have hstream : streamEngines s i = [] := List.head?_eq_none_iff.mp (Option.or_eq_none_iff.mp hheir).2
    cases hhead : (bulkEngines s i).head? with
    | some e =>
      obtain ⟨hengine, hdone, hbulk, hmem⟩ := movePlainRole_bulk hstream hhead
      exact ⟨hbulk, hmem, fun _ => hdone, nofun, fun e' _ he => hengine.trans (Option.some.inj he)⟩
    | none =>
      have hnone : bulkEngines s i = [] := List.head?_eq_none_iff.mp hhead
      dsimp only
      rw [movePlainRole_none hstream hnone]
      exact ⟨rfl, fun _ => rfl, fun h => (h.elim (· hstream) (· hnone)).elim, nofun, nofun⟩

/-- The plain role moves, and the bulk role does not. -/
theorem does_roleMove_plain {i : SeamId} {s : State} (hplain : (getSeam s i.toNat).movePlain = true)
    (hbulk : (getSeam (movePlainRole s i.toNat) i.toNat).moveBulk = false) :
    Does (.roleMove i) s (movePlainRole s i.toNat) := by
  refine congrArg Host.Outcome.next ?_
  dsimp only
  rw [if_pos hplain, hbulk]
  rfl

theorem does_roleMove_bulk {i : SeamId} {s : State} (hplain : (getSeam s i.toNat).movePlain = false)
    (hbulk : (getSeam s i.toNat).moveBulk = true) : Does (.roleMove i) s (moveBulkRole s i.toNat) := by
  refine congrArg Host.Outcome.next ?_
  dsimp only
  rw [hplain, if_neg Bool.false_ne_true, if_pos hbulk]

theorem moveBulkRole_spec {s : State} {i e : Nat} (hlast : (streamEngines s i).getLast? = some e) :
    (getSeam (moveBulkRole s i) i).moveBulk = false ∧ SameMemory s (moveBulkRole s i) ∧
      bitNat (getReg (moveBulkRole s i) (oSeamStat i)).toNat (16 + e) = false := by
  have hlt : e < 16 := lt_of_mem_workingBundles (List.mem_filter.mp (List.mem_of_getLast? hlast)).1
  have hmoved : moveBulkRole s i = setSeam (setRegField (takeEngine s i e) (oSeamStat i) 12 4 1) i
      { getSeam (setRegField (takeEngine s i e) (oSeamStat i) 12 4 1) i with moveBulk := false } := by
    unfold moveBulkRole
    rw [hlast]
  rw [hmoved]
  refine ⟨by rw [getSeam_setSeam_self], sameMemory_of_mem (takeEngine_mem s i e), ?_⟩
  rw [getReg_setSeam, bit_setRegField_apart _ _ _ _ _ (by omega) (by omega), getReg_takeEngine,
    bit_setRegField _ _ _ _ _ (by omega), if_pos (by omega), Nat.zero_testBit]

/-- Settles O41: a record by what it is, a bundle by its replays and its role, a role by the engine that Table 9.10 gives
it. -/
theorem seams : Obligations.Seams := by
  unfold Obligations.Seams
  intro i up b r s s1 st bs n d x counted told times elsewhere
  refine ⟨?record, ?replay, ?retrain, rfl, ?bulkEngine, ?plainRole, ?bulkRole⟩
  case record =>
    intro hup hdie hsteady hstays
    exact ⟨does_plainRecord_passed hup hdie hsteady hstays, does_plainRecord_control hup hdie hsteady hstays,
      does_plainRecord_here hup hdie hsteady hstays⟩
  case replay =>
    intro hworks hsteady
    by_cases hfew : times.length ≤ 16
    · refine ⟨_, does_bundleCrcFailure_replays hworks hsteady hfew, sameMemory_replayCounted _ _ _, fun _ => ?_,
        fun hmany => absurd hfew (Nat.not_le.mpr hmany)⟩
      rw [getSeam_setSeam_self]
      exact ⟨rfl, look_put_self _ _ _ _⟩
    · refine ⟨_, does_bundleCrcFailure_retrains hworks hsteady (Nat.not_le.mp hfew), sameMemory_replayCounted _ _ _,
        fun h => absurd h hfew, fun _ => ?_⟩
      rw [getSeam_setSeam_self]
      exact ⟨rfl, look_put_self (fun _ => []) x.replays b.toNat []⟩
  case retrain =>
    exact fun hretrains => ⟨does_bundleRetrainEnd true hretrains, does_bundleRetrainEnd false hretrains⟩
  case bulkEngine =>
    intro hworks henough hplain hstream hbulk hreached
    refine ⟨bulkEngineLost s n b.toNat, ?_, bundleWorks_bulkEngineLost b.isLt, seamUp_bulkEngineLost,
      sameMemory_bulkEngineLost⟩
    exact congrArg Host.Outcome.next (bundleLost_bulk hworks henough hplain hstream hbulk hreached)
  case plainRole =>
    intro hplain hbulk
    obtain ⟨hkeeps, hmem, hdone, hheir, hbulkHeir⟩ := movePlainRole_spec s n
    exact ⟨_, does_roleMove_plain hplain (hkeeps.trans hbulk), hmem, hdone,
      fun e hfind => hheir e (Option.or_eq_some_iff.mpr (.inl hfind)),
      fun e hfind hhead => hheir e (Option.or_eq_some_iff.mpr (.inr ⟨hfind, hhead⟩)), hbulkHeir⟩
  case bulkRole =>
    intro hplain hbulk e hlast
    obtain ⟨hdone, hmem, hbit⟩ := moveBulkRole_spec hlast
    exact ⟨_, does_roleMove_bulk hplain hbulk, hdone, hmem, hbit⟩

end Sys2Proof.Machine

/-! The state after a start (O3). -/

namespace Sys2Proof.Machine

/-- Settles O3: the tables of the device are empty after a start, so every unit reads as its default. -/
theorem resetState : Obligations.ResetState :=
  ⟨rfl, rfl, rfl, fun _ => rfl, rfl, rfl, fun _ h => if_neg h⟩

end Sys2Proof.Machine

/-! What the work of cores, presses and memories leaves alone: the host's functions with their rings, and the layouts of
the partitions. -/

namespace Sys2Proof.Machine

/-- The functions of the host interface and the layouts in force. -/
def hostTables (s : State) : Map Func × Map Layout := (s.funcs, s.parts)

theorem getRing_of_hostTables {s t : State} (h : hostTables t = hostTables s) (p k : Nat) :
    getRing t p k = getRing s p k := by
  rw [getRing, getRing, getFunc, getFunc, (Prod.mk.inj h).1]

/-! ### Units, registers and bytes -/

@[simp] theorem hostTables_setCore (s : State) (c : Nat) (x : CoreSt) : hostTables (setCore s c x) = hostTables s := by
  simp only [hostTables, setCore_funcs, setCore_parts]
@[simp] theorem hostTables_modCore (s : State) (c : Nat) (f : CoreSt → CoreSt) :
    hostTables (modCore s c f) = hostTables s := by
  simp only [hostTables, modCore_funcs, modCore_parts]
@[simp] theorem hostTables_modCl (s : State) (k : Nat) (f : ClusterSt → ClusterSt) :
    hostTables (modCl s k f) = hostTables s := by
  simp only [hostTables, modCl_funcs, modCl_parts]
@[simp] theorem hostTables_setVein (s : State) (c : Nat) (x : VeinSt) : hostTables (setVein s c x) = hostTables s := by
  simp only [hostTables, setVein_funcs, setVein_parts]
@[simp] theorem hostTables_modVein (s : State) (c : Nat) (f : VeinSt → VeinSt) :
    hostTables (modVein s c f) = hostTables s := by
  simp only [hostTables, modVein_funcs, modVein_parts]
@[simp] theorem hostTables_setPc (s : State) (k pc : Nat) (x : PseudoCh) : hostTables (setPc s k pc x) = hostTables s := by
  simp only [hostTables, setPc_funcs, setPc_parts]
@[simp] theorem hostTables_setWay (s : State) (c key : Nat) (p : CachePage) :
    hostTables (setWay s c key p) = hostTables s := by
  simp only [hostTables, setWay, modVein_funcs, modVein_parts]
@[simp] theorem hostTables_setReg (s : State) (o : Nat) (w : Word) : hostTables (setReg s o w) = hostTables s := by
  simp only [hostTables, setReg_funcs, setReg_parts]
@[simp] theorem hostTables_setRegField (s : State) (o lo n v : Nat) :
    hostTables (setRegField s o lo n v) = hostTables s := by
  simp only [hostTables, setRegField_funcs, setRegField_parts]
@[simp] theorem hostTables_emit (s : State) (o : Output) : hostTables (emit s o) = hostTables s := by
  simp only [hostTables, emit_funcs, emit_parts]
@[simp] theorem hostTables_wrBytes (s : State) (a : Nat) (bs : List Byte) : hostTables (wrBytes s a bs) = hostTables s := by
  simp only [hostTables, wrBytes_funcs, wrBytes_parts]
@[simp] theorem hostTables_zeroBytes (s : State) (a n : Nat) : hostTables (zeroBytes s a n) = hostTables s := by
  simp only [hostTables, zeroBytes_funcs, zeroBytes_parts]

theorem OnlyRegs.hostTables {s t : State} (h : OnlyRegs s t) : hostTables t = hostTables s := by
  obtain ⟨r, rfl⟩ := h
  rfl

theorem MemEffect.hostTables {s t : State} (h : MemEffect s t) : hostTables t = hostTables s := by
  obtain ⟨⟨r, l, m, k, rfl⟩, -⟩ := h
  rfl

@[simp] theorem hostTables_bump (s : State) (tbl evt n : Nat) (u : CountedIn) :
    hostTables (bump s tbl evt n u) = hostTables s := (bump_onlyRegs s tbl evt n u).hostTables

@[simp] theorem hostTables_ledger (s : State) (code sev : Nat) (part : Option Nat) (source : Nat) (payload : List Nat) :
    hostTables (ledger s code sev part source payload) = hostTables s :=
  (ledger_memEffect s code sev part source payload).hostTables

@[simp] theorem hostTables_trace (s : State) (k kind source : Nat) (payload : List Nat) :
    hostTables (trace s k kind source payload) = hostTables s := by
  rw [hostTables, trace_funcs, trace_parts, hostTables]

theorem hostTables_foldl {β : Type} {f : State → β → State} (h : ∀ s x, hostTables (f s x) = hostTables s) (l : List β)
    (s : State) : hostTables (l.foldl f s) = hostTables s := by
  induction l generalizing s with
  | nil => rfl
  | cons x l ih => exact (ih _).trans (h s x)

theorem hostTables_foldl_fst {β γ : Type} {f : State × γ → β → State × γ}
    (h : ∀ p x, hostTables (f p x).1 = hostTables p.1) (l : List β) (p : State × γ) :
    hostTables (l.foldl f p).1 = hostTables p.1 := by
  induction l generalizing p with
  | nil => rfl
  | cons x l ih => exact (ih _).trans (h p x)

/-! ### Far memory (R287, R291) -/

@[simp] theorem hostTables_farTouch (s : State) (k off : Nat) : hostTables (farTouch s k off) = hostTables s := by
  unfold farTouch
  dsimp only
  split <;> simp

theorem hostTables_farTold (s : State) (q : FarReq) (status : Nat) (bs : List Byte) :
    hostTables (farTold s q status bs) = hostTables s := hostTables_emit _ _

@[simp] theorem hostTables_writeUnits (s : State) (a : Nat) (bs : List Byte) (who : Nat) (core : Option Nat) :
    hostTables (writeUnits s a bs who core).1 = hostTables s := (writeUnits_memEffect s a bs who core).hostTables

theorem hostTables_of_writeUnits {s t : State} {a who : Nat} {bs : List Byte} {core : Option Nat}
    {lost : List (Nat × Nat)} (h : writeUnits s a bs who core = (t, lost)) : hostTables t = hostTables s := by
  rw [← hostTables_writeUnits s a bs who core, h]

@[simp] theorem hostTables_readUnits (s : State) (a n who : Nat) (core : Option Nat) :
    hostTables (readUnits s a n who core).1 = hostTables s := (readUnits_memEffect s a n who core).hostTables

theorem hostTables_of_readUnits {s t : State} {a n who : Nat} {core : Option Nat} {lost : List (Nat × Nat)}
    (h : readUnits s a n who core = (t, lost)) : hostTables t = hostTables s := by
  rw [← hostTables_readUnits s a n who core, h]

@[simp] theorem hostTables_writeMixed (s : State) (a : Nat) (bs : List (Byte × Bool)) (who : Nat) (core : Option Nat) :
    hostTables (writeMixed s a bs who core).1 = hostTables s := (writeMixed_memEffect s a bs who core).hostTables

theorem hostTables_of_writeMixed {s t : State} {a who : Nat} {bs : List (Byte × Bool)} {core : Option Nat}
    {lost : List (Nat × Nat)} (h : writeMixed s a bs who core = (t, lost)) : hostTables t = hostTables s := by
  rw [← hostTables_writeMixed s a bs who core, h]

@[simp] theorem hostTables_noteRead (s : State) (u : MemUnit) (who : Nat) (core : Option Nat) :
    hostTables (noteRead s u who core) = hostTables s := (noteRead_memEffect s u who core).hostTables

@[simp] theorem hostTables_freshCode (s : State) (u : MemUnit) : hostTables (freshCode s u) = hostTables s :=
  (freshCode_memEffect s u).hostTables

@[simp] theorem hostTables_poisonUnit (s : State) (u : MemUnit) : hostTables (poisonUnit s u) = hostTables s :=
  (poisonUnit_memEffect s u).hostTables

theorem hostTables_farServe (s : State) (k pc i : Nat) : hostTables (farServe s k pc i) = hostTables s := by
  unfold farServe
  extract_lets x
  split
  · rfl
  extract_lets off a u s1 who olds lost s2 bs covered
  have h1 : hostTables s1 = hostTables s := by rw [hostTables_farTouch, hostTables_setPc]
  split
  · split
    next s3 bad heq =>
    have h3 : hostTables s3 = hostTables s := (hostTables_of_writeUnits heq).trans h1
    extract_lets s4 s5
    have h4 : hostTables s4 = hostTables s := (hostTables_bump _ _ _ _ _).trans h3
    have h5 : hostTables s5 = hostTables s := by
      rw [show s5 = if _ then _ else s4 from rfl]
      split
      · exact (hostTables_bump _ _ _ _ _).trans h4
      · exact h4
    exact (hostTables_farTold _ _ _ _).trans h5
  · have h2 : hostTables s2 = hostTables s := by rw [hostTables_bump, hostTables_noteRead, h1]
    split <;> exact (hostTables_farTold _ _ _ _).trans h2

theorem hostTables_farServeLine (k pc line n : Nat) (s : State) :
    hostTables (farServeLine k pc line n s) = hostTables s := by
  induction n generalizing s with
  | zero => rfl
  | succ n ih =>
    unfold farServeLine
    split
    · rfl
    · exact (ih _).trans (hostTables_farServe _ _ _ _)

@[simp] theorem hostTables_farSettle (s : State) (k off : Nat) : hostTables (farSettle s k off) = hostTables s := by
  rw [farSettle, hostTables_farTouch, hostTables_farServeLine]

/-! ### The port of a vein and the page cache (R143 to R146, R174 to R177) -/

@[simp] theorem hostTables_refreshFirst (s : State) (c q : Nat) : hostTables (refreshFirst s c q) = hostTables s := by
  unfold refreshFirst refreshPair
  dsimp only
  split
  · simp
  · rfl

@[simp] theorem hostTables_portTouch (s : State) (c off n : Nat) : hostTables (portTouch s c off n) = hostTables s := by
  unfold portTouch
  dsimp only
  split <;> split <;> simp

@[simp] theorem hostTables_portServe (s : State) (a n : Nat) : hostTables (portServe s a n) = hostTables s := by
  unfold portServe portAccess
  dsimp only
  split
  · split
    · exact hostTables_portTouch _ _ _ _
    · split
      · exact hostTables_portTouch _ _ _ _
      · split <;> simp
  · rfl

theorem hostTables_writeBackLine (s : State) (c key line : Nat) (p : CachePage) :
    hostTables (writeBackLine s c key line p) = hostTables s := by
  unfold writeBackLine
  dsimp only
  split <;> simp

@[simp] theorem hostTables_writeBack (s : State) (c key : Nat) : hostTables (writeBack s c key) = hostTables s := by
  rw [writeBack, hostTables_bump, hostTables_bump, hostTables_setWay]
  exact hostTables_foldl (fun s l => hostTables_writeBackLine s c key l _) _ _

@[simp] theorem hostTables_fillLine (s : State) (c key line : Nat) : hostTables (fillLine s c key line) = hostTables s := by
  unfold fillLine
  dsimp only
  split <;> simp

@[simp] theorem hostTables_cacheTouch (s : State) (k off : Nat) : hostTables (cacheTouch s k off).1 = hostTables s := by
  have hpassed (c set : Nat) (l : List Nat) (t : State) : hostTables (l.foldl (fun s w =>
      setWay s c (16 * set + w) { getWay s c (16 * set + w) with refd := false }) t) = hostTables t :=
    hostTables_foldl (fun s w => hostTables_setWay s c _ _) l t
  unfold cacheTouch
  dsimp only
  split
  · split <;> simp
  · split
    · rfl
    · split
      · rfl
      · split <;> simp [hpassed]

/-! ### Accesses (R163, R164, R305) -/

@[simp] theorem hostTables_crossed (s : State) (q : Requester) (a n : Nat) (w : Bool) :
    hostTables (crossed s q a n w) = hostTables s := (countCross_onlyRegs s _ _ _ _ _).hostTables

theorem hostTables_recordRefusal (s : State) (q : Requester) (c off reason : Nat) :
    hostTables (recordRefusal s q c off reason) = hostTables s := by
  unfold recordRefusal
  dsimp only
  split <;> simp

@[simp] theorem hostTables_noteRefusal (s : State) (q : Requester) (a : Nat) (w : Bool) :
    hostTables (noteRefusal s q a w) = hostTables s := by
  unfold noteRefusal
  split
  · exact hostTables_recordRefusal _ _ _ _ _
  · exact hostTables_recordRefusal _ _ _ _ _
  · rfl

theorem hostTables_of_cacheTouch {s t : State} {k off : Nat} {x : Option (Nat × Nat)}
    (h : cacheTouch s k off = (t, x)) : hostTables t = hostTables s := by
  rw [← hostTables_cacheTouch s k off, h]

theorem hostTables_readLine (s : State) (q : Requester) (a n who : Nat) :
    hostTables (readLine s q a n who).1 = hostTables s := by
  unfold readLine
  split
  · exact hostTables_noteRefusal _ _ _ _
  · rfl
  extract_lets s1
  have h1 : hostTables s1 = hostTables s := hostTables_crossed _ _ _ _ _
  split
  · split
    · split
      · exact hostTables_modVein _ _ _
      · next heq => exact (hostTables_portServe _ _ _).trans ((hostTables_of_cacheTouch heq).trans h1)
    · exact (hostTables_bump _ _ _ _ _).trans ((hostTables_readUnits _ _ _ _ _).trans ((hostTables_farSettle _ _ _).trans h1))
  · exact (hostTables_readUnits _ _ _ _ _).trans ((hostTables_portServe _ _ _).trans h1)

theorem hostTables_writeLine (s : State) (q : Requester) (a : Nat) (bs : List (Byte × Bool)) (who : Nat) :
    hostTables (writeLine s q a bs who).1 = hostTables s := by
  unfold writeLine
  split
  · exact hostTables_noteRefusal _ _ _ _
  · rfl
  extract_lets s1
  have h1 : hostTables s1 = hostTables s := hostTables_crossed _ _ _ _ _
  split
  · split
    · split
      · exact hostTables_modVein _ _ _
      · next heq =>
        extract_lets line s3 p
        have h3 : hostTables s3 = hostTables s :=
          (hostTables_portServe _ _ _).trans ((hostTables_of_cacheTouch heq).trans h1)
        split
        · exact (hostTables_setWay _ _ _ _).trans h3
        split
        · exact h3
        · exact (hostTables_setWay _ _ _ _).trans ((hostTables_wrBytes _ _ _).trans h3)
    · split
      next s3 lost heq =>
      have h3 : hostTables s3 = hostTables s :=
        (hostTables_of_writeMixed heq).trans ((hostTables_farSettle _ _ _).trans h1)
      extract_lets s4
      have h4 : hostTables s4 = hostTables s := by
        rw [show s4 = if _ then _ else s3 from rfl]
        split
        · exact (hostTables_bump _ _ _ _ _).trans h3
        · exact h3
      exact (hostTables_bump _ _ _ _ _).trans h4
  · exact (hostTables_writeMixed _ _ _ _ _).trans ((hostTables_portServe _ _ _).trans h1)

theorem hostTables_readRange (s : State) (q : Requester) (a n who : Nat) :
    hostTables (readRange s q a n who).1 = hostTables s := by
  refine hostTables_foldl_fst (fun r p => ?_) _ _
  have h := hostTables_readLine r.1 q p.1 p.2 who
  split
  · rfl
  · split <;> next heq => rw [heq] at h; exact h

theorem hostTables_writeRange (s : State) (q : Requester) (a : Nat) (bs : List (Byte × Bool)) (who : Nat) :
    hostTables (writeRange s q a bs who).1 = hostTables s := by
  refine hostTables_foldl_fst (fun r p => ?_) _ _
  have h := hostTables_writeLine r.1 q p.1 ((bs.drop (p.1 - a)).take p.2) who
  split
  · rfl
  · split <;> next heq => rw [heq] at h; exact h

theorem hostTables_of_readRange {s t : State} {q : Requester} {a n who : Nat} {bs : List (Byte × Bool)}
    {lost : List (Nat × Nat)} {e : Option (Nat × AccRes)} (h : readRange s q a n who = (t, bs, lost, e)) :
    hostTables t = hostTables s := by
  rw [← hostTables_readRange s q a n who, h]

theorem hostTables_of_writeRange {s t : State} {q : Requester} {a who : Nat} {bs : List (Byte × Bool)}
    {lost : List (Nat × Nat)} {e : Option (Nat × AccRes)} (h : writeRange s q a bs who = (t, lost, e)) :
    hostTables t = hostTables s := by
  rw [← hostTables_writeRange s q a bs who, h]

/-! ### Moves (R167 to R170) -/

theorem hostTables_loadSeg (s : State) (q : Requester) (m : Move) : hostTables (loadSeg s q m).1 = hostTables s := by
  unfold loadSeg
  split
  · next heq => exact hostTables_of_readRange heq
  · next heq => exact hostTables_of_readRange heq
  · next s1 bs lost hread =>
    have h1 : hostTables s1 = hostTables s := hostTables_of_readRange hread
    split
    next s2 _ bad hwrite =>
    have h2 : hostTables s2 = hostTables s := (hostTables_of_writeRange hwrite).trans h1
    split
    · exact h1
    · exact h2
    · exact h2

theorem hostTables_storeSeg (s : State) (q : Requester) (m : Move) : hostTables (storeSeg s q m).1 = hostTables s := by
  unfold storeSeg
  split
  · rfl
  · exact hostTables_noteRefusal _ _ _ _
  · rfl
  split
  · next hread => exact hostTables_of_readRange hread
  · next hread => exact hostTables_of_readRange hread
  · next s1 bs lost hread =>
    have h1 : hostTables s1 = hostTables s := hostTables_of_readRange hread
    split <;> next hwrite => exact (hostTables_of_writeRange hwrite).trans h1

theorem hostTables_moveSegs (s : State) (q : Requester) (n : Nat) (m : Move) :
    hostTables (moveSegs s q n m).1 = hostTables s := by
  induction n generalizing s m with
  | zero => rfl
  | succ n ih =>
    have hseg : hostTables (if m.load then loadSeg s q m else storeSeg s q m).1 = hostTables s := by
      split
      · exact hostTables_loadSeg s q m
      · exact hostTables_storeSeg s q m
    unfold moveSegs
    split
    · next heq => rw [heq] at hseg; exact hseg
    · next heq =>
      rw [heq] at hseg
      split
      · exact hseg
      · exact (ih _ _).trans hseg

theorem hostTables_movesDrop (s : State) (c : Nat) : hostTables (movesDrop s c) = hostTables s := by
  refine (hostTables_modCore _ _ _).trans (hostTables_foldl (fun s m => ?_) _ _)
  split
  · rfl
  · exact hostTables_moveSegs _ _ _ _

/-! ### The press (R117 to R119, R132) -/

theorem hostTables_signalEvent (s : State) (c n : Nat) : hostTables (signalEvent s c n) = hostTables s := by
  have hset : hostTables (setEvent s c n) = hostTables s := hostTables_modCore _ _ _
  unfold signalEvent wake
  extract_lets x
  split
  · extract_lets m
    split
    · exact hset
    · exact (hostTables_bump _ _ _ _ _).trans ((hostTables_modCore _ _ _).trans ((hostTables_modCore _ _ _).trans
        ((hostTables_modCore _ _ _).trans hset)))
  · exact hset

theorem hostTables_popPress (s : State) (k i : Nat) : hostTables (popPress s k i) = hostTables s :=
  (hostTables_signalEvent _ _ _).trans (hostTables_modCl _ _ _)

theorem hostTables_loadTile (s : State) (k : Nat) (r : PressRun) (kt : Nat) :
    hostTables (loadTile s k r kt).1 = hostTables s := by
  have hspans (c : Nat) (l : List (Nat × Nat)) : hostTables (readSpans s c l).1 = hostTables s :=
    hostTables_foldl_fst (fun p x => by split; next heq => exact hostTables_of_readUnits heq) l _
  unfold loadTile
  extract_lets c spans
  split
  next s1 bad heq =>
  have h1 : hostTables s1 = hostTables s := by rw [← hspans c spans, heq]
  extract_lets cells s2 s3
  have h2 : hostTables s2 = hostTables s := by
    cases bad with
    | some a => exact (hostTables_modCore _ _ _).trans h1
    | none => exact h1
  show hostTables s3 = _
  rw [show s3 = if _ then _ else s2 from rfl]
  split
  · exact (hostTables_modCore _ _ _).trans h2
  · exact h2

theorem hostTables_dropOrphans (s : State) (k : Nat) : hostTables (dropOrphans s k) = hostTables s := by
  refine hostTables_foldl (fun s i => ?_) _ _
  extract_lets x
  split
  · exact (hostTables_modCore _ _ _).trans (hostTables_popPress _ _ _)
  · rfl

theorem hostTables_grantPass (s : State) (k : Nat) : hostTables (grantPass s k) = hostTables s := by
  unfold grantPass
  extract_lets x
  split
  · rfl
  split
  · rfl
  split
  · rfl
  extract_lets kt
  split
  next s1 r1 heq =>
  have h1 : hostTables s1 = hostTables s := by
    split at heq
    · exact congrArg (hostTables ·.1) heq.symm
    · rw [← (Prod.mk.inj heq).1]
      exact (hostTables_bump _ _ _ _ _).trans (hostTables_loadTile _ _ _ _)
  exact (hostTables_popPress _ _ _).trans ((hostTables_modCl _ _ _).trans h1)

theorem hostTables_pressAdvance (n : Nat) (s : State) (k : Nat) : hostTables (pressAdvance n s k) = hostTables s := by
  induction n generalizing s with
  | zero => rfl
  | succ n ih =>
    unfold pressAdvance
    extract_lets x s1 s2
    have h2 : hostTables s2 = hostTables s :=
      (hostTables_grantPass _ _).trans ((hostTables_dropOrphans _ _).trans (hostTables_modCl _ _ _))
    split
    · rfl
    split
    · exact h2
    · exact (ih _).trans h2

/-! ### Core resets and starts (R103, R104, R330) -/

@[simp] theorem hostTables_resetCore (s : State) (c : Nat) (after : Option Bool) :
    hostTables (resetCore s c after) = hostTables s := by
  have hpress (s : State) : hostTables (pressDrop s c) = hostTables s :=
    (hostTables_pressAdvance _ _ _).trans ((hostTables_modCl _ _ _).trans (hostTables_bump _ _ _ _ _))
  calc hostTables (resetCore s c after)
      = hostTables (xferDrop (nbDrop (pressDrop (movesDrop s c) c) c) c) :=
        (hostTables_bump _ _ _ _ _).trans (hostTables_setCore _ _ _)
    _ = hostTables (pressDrop (movesDrop s c) c) := (hostTables_modCl _ _ _).trans (hostTables_modVein _ _ _)
    _ = hostTables s := (hpress _).trans (hostTables_movesDrop s c)

theorem hostTables_startJobCore (s : State) (d : List Byte) (c rank : Nat) :
    hostTables (startJobCore s d c rank) = hostTables s :=
  (hostTables_trace _ _ _ _ _).trans ((hostTables_modCore _ _ _).trans ((hostTables_modCore _ _ _).trans
    ((hostTables_setReg _ _ _).trans (hostTables_resetCore _ _ _))))

end Sys2Proof.Machine

/-! Command rings: what is read of a ring, of its registers and of a descriptor, and how a command at a ring's head ends. -/

namespace Sys2Proof.Machine

/-! ### Rings of a function (R329) -/

theorem getRing_setRing_ne (s : State) (f : Nat) {r q : Nat} (x : Ring) (h : q ≠ r) :
    getRing (setRing s f r x) f q = getRing s f q := by
  rw [getRing, setRing, getFunc_setFunc_self, getRing]
  exact look_put_ne _ _ _ _ _ h

@[simp] theorem getRing_setReg (s : State) (o : Nat) (w : Word) (f r : Nat) : getRing (setReg s o w) f r = getRing s f r :=
  rfl
@[simp] theorem getRing_setRegField (s : State) (o lo n v f r : Nat) :
    getRing (setRegField s o lo n v) f r = getRing s f r := rfl
@[simp] theorem getRing_emit (s : State) (o : Output) (f r : Nat) : getRing (emit s o) f r = getRing s f r := rfl

@[simp] theorem bme_setRing (s : State) (f r : Nat) (x : Ring) : (getFunc (setRing s f r x) f).bme = (getFunc s f).bme := by
  rw [setRing, getFunc_setFunc_self]

/-- What headDesc gives is the head of a ring that is served and has no copy in progress. -/
theorem headDesc_eq_some {s : State} {f r : Nat} {d : List Byte} : headDesc s f r = some d ↔
    ringServed s f r = true ∧ (getRing s f r).copy = none ∧ (getRing s f r).head = some d := by
  rw [show headDesc s f r = if ringServed s f r && (getRing s f r).copy.isNone then (getRing s f r).head else none from rfl,
    Option.ite_none_right_eq_some, Bool.and_eq_true, Option.isNone_iff_eq_none, and_assoc]

theorem headOp_of {s : State} {f r op : Nat} {d : List Byte} (h : headDesc s f r = some d) (hop : descField d 0 1 = op) :
    headOp s f r op = some d := by
  rw [headOp, h, Option.filter_some, if_pos (by rw [hop, BEq.rfl])]

/-- The sizes of rings lie below the range of their indexes. -/
theorem ringSize_le (s : State) (f r : Nat) : ringSize s f r ≤ 4096 :=
  Nat.pow_le_pow_right (n := 2) (by omega) (show min 8 (regField s (oCrCtl f r) 0 4) + 4 ≤ 12 by omega)

theorem ringSize_pos (s : State) (f r : Nat) : 0 < ringSize s f r := Nat.two_pow_pos _

theorem mod_ringSize_lt (s : State) (f r i : Nat) : i % ringSize s f r < 4096 :=
  Nat.lt_of_lt_of_le (Nat.mod_lt _ (ringSize_pos s f r)) (ringSize_le s f r)

/-! ### The end of a command at a ring's head (R329, R333) -/

/-- A ring whose head is done with. -/
def Ring.popped (x : Ring) : Ring :=
  match x.line with
  | [] => { x with head := none, copy := none, aborting := none }
  | (i, d) :: l => { x with head := some d, index := i, line := l, copy := none, aborting := none }

theorem popHead_eq (s : State) (f r : Nat) : popHead s f r = setRing s f r (getRing s f r).popped := rfl

theorem Ring.popped_spec (x : Ring) : x.popped.head = x.line.head?.map (·.2) ∧ x.popped.line = x.line.drop 1 ∧
    x.popped.copy = none ∧ x.popped.recs = x.recs := by
  unfold Ring.popped
  split <;> next hline => rw [hline]; exact ⟨rfl, rfl, rfl, rfl⟩

/-- The command d at ring k's head has ended: t is s with the next descriptor at the head and the command's record behind
those that wait. -/
def HeadEnded (s t : State) (p k : Nat) (d : List Byte) (st detail : Nat) : Prop :=
  (getRing t p k).head = (getRing s p k).line.head?.map (·.2) ∧ (getRing t p k).line = (getRing s p k).line.drop 1 ∧
    (getRing t p k).copy = none ∧
    (getRing t p k).recs = (getRing s p k).recs ++
      [⟨descField d 4 4, st, (getRing s p k).index, detail, descIrq d, s.hallmark, none⟩] ∧
    SameMemory s t ∧ t.cores = s.cores ∧ t.jobs = s.jobs

/-- The record of a command whose descriptor leaves the head of its ring. -/
theorem headEnded_complete (s : State) (p k : Nat) (d : List Byte) (st detail : Nat) :
    HeadEnded s (complete (popHead s p k) p k (descField d 4 4) st (getRing s p k).index detail (descIrq d) none)
      p k d st detail := by
  obtain ⟨hhead, hline, hcopy, hrecs⟩ := (getRing s p k).popped_spec
  have hring : getRing (popHead s p k) p k = (getRing s p k).popped := getRing_setRing s p k _
  refine ⟨?_, ?_, ?_, ?_, fun _ => rfl, rfl, rfl⟩ <;> rw [complete, getRing_setRing, hring]
  · exact hhead
  · exact hline
  · exact hcopy
  · rw [hrecs]
    rfl

theorem headEnded_finishHead {s : State} {p k : Nat} {d : List Byte} (hhead : (getRing s p k).head = some d)
    (st detail : Nat) : HeadEnded s (finishHead s p k st detail none) p k d st detail := by
  rw [finishHead, hhead]
  exact headEnded_complete s p k d st detail

/-! ### Messages (R336) -/

/-- Sending a list of messages changes what has been sent alone. -/
theorem foldl_emit {β : Type} (g : β → Output) (l : List β) (s : State) :
    ∃ o, l.foldl (fun s v => emit s (g v)) s = { s with out := o } := by
  induction l generalizing s with
  | nil => exact ⟨s.out, rfl⟩
  | cons v l ih => exact ih _

/-- Sending the pending messages of a function leaves registers, memory and Bus Master Enable. -/
theorem msixPending_frame (s : State) (f : Nat) : (msixPending s f).regs = s.regs ∧ (msixPending s f).mem = s.mem ∧
    (getFunc (msixPending s f) f).bme = (getFunc s f).bme := by
  unfold msixPending
  extract_lets fn go
  split
  · exact ⟨rfl, rfl, rfl⟩
  · obtain ⟨o, ho⟩ := foldl_emit (Output.msix f) go (setFunc s f { fn with pend := fn.pend.filter fun v => !go.contains v })
    rw [ho]
    refine ⟨rfl, rfl, ?_⟩
    show (getFunc (setFunc s f _) f).bme = _
    rw [getFunc_setFunc_self]

/-! ### Registers of a ring (Table 10.6) -/

theorem getReg_congr {s t : State} (h : t.regs = s.regs) (o : Nat) : getReg t o = getReg s o := by
  rw [getReg, getReg, h]

theorem oCrCtl_ne_oCcTail (f r : Nat) : oCrCtl f r ≠ oCcTail f r := by
  unfold oCrCtl oCcTail
  omega

/-- A bit that a write's mask names is the written one. -/
theorem getLsbD_masked {mask i : Nat} (old w : Word) (hm : mask.testBit i = true) (hi : i < 64) :
    (masked mask old w).getLsbD i = w.getLsbD i := by
  have hmask : (BitVec.ofNat 64 mask).getLsbD i = true := by
    rw [BitVec.getLsbD_ofNat, hm, decide_eq_true hi, Bool.and_self]
  simp only [masked, BitVec.getLsbD_or, BitVec.getLsbD_and, BitVec.getLsbD_not, hmask, Bool.not_true, Bool.and_false,
    Bool.and_true, Bool.false_or]

/-- Clearing a bit that is clear changes nothing. -/
theorem and_not_runBit {w : Word} (h : w.getLsbD 8 = false) : w &&& ~~~(0x100 : Word) = w := by
  refine BitVec.eq_of_getLsbD_eq fun i hi => ?_
  rw [BitVec.getLsbD_and, BitVec.getLsbD_not, show (0x100 : Word) = BitVec.twoPow 64 8 from rfl, BitVec.getLsbD_twoPow]
  by_cases hrun : 8 = i
  · rw [← hrun, h, Bool.false_and]
  · simp [hi, hrun]

theorem runBit_and_not (w : Word) : (w &&& ~~~(0x100 : Word)).getLsbD 8 = false := by
  simp

/-! ### The run bit (R329, R336) -/

section Run

variable {s : State} {f r : Nat} {w : Word}

/-- What a write of the register acts on: run is ignored until the device is ready. -/
def runAsked (s : State) (w : Word) : Word :=
  if s.start.phase = .ready || s.start.phase = .shutdown then w else w &&& ~~~(0x100 : Word)

/-- The register with the fields that a write sets. -/
def ctlWritten (s : State) (f r : Nat) (w : Word) : State :=
  setReg s (oCrCtl f r) (masked 0x1F010F (getReg s (oCrCtl f r)) w)

/-- A host that sets run masters the bus. -/
def busMastered (s : State) (host : Bool) (f : Nat) : State :=
  if host then { setFunc s f { getFunc s f with bme := true } with start := { s.start with vfs := s.start.vfs || f != 0 } }
  else s

/-- The first run of a ring begins with phase 1. -/
def ringStarted (s : State) (f r : Nat) : State :=
  if (getRing s f r).started then s
  else setRegField (setRing s f r { getRing s f r with started := true }) (oCcTail f r) 12 1 1

theorem crCtlWrite_eq (s : State) (host : Bool) (f r : Nat) (w : Word) : crCtlWrite s host f r w =
    if !(runAsked s w).getLsbD 8 then ctlWritten s f r (runAsked s w)
    else msixPending (ringStarted (busMastered (setRegField (ctlWritten s f r (runAsked s w)) (oCrCtl f r) 32 1 0) host f)
      f r) f := rfl

/-- A write that leaves run clear sets the register's fields alone. -/
theorem crCtlWrite_stopped (host : Bool) (hw : w.getLsbD 8 = false) : crCtlWrite s host f r w = ctlWritten s f r w := by
  have hasked : runAsked s w = w := by rw [runAsked, and_not_runBit hw, ite_self]
  rw [crCtlWrite_eq, hasked, hw, Bool.not_false, if_pos rfl]

theorem crCtlWrite_early (host : Bool) (hready : s.start.phase ≠ .ready) (hshut : s.start.phase ≠ .shutdown) :
    crCtlWrite s host f r w = ctlWritten s f r (w &&& ~~~(0x100 : Word)) := by
  have hasked : runAsked s w = w &&& ~~~(0x100 : Word) := if_neg (by simp [hready, hshut])
  rw [crCtlWrite_eq, hasked, runBit_and_not, Bool.not_false, if_pos rfl]

theorem busMastered_frame (s : State) (host : Bool) (f : Nat) : (busMastered s host f).regs = s.regs ∧
    (busMastered s host f).mem = s.mem ∧ (getFunc (busMastered s host f) f).bme = (host || (getFunc s f).bme) := by
  cases host with
  | false => exact ⟨rfl, rfl, rfl⟩
  | true => exact ⟨rfl, rfl, congrArg Func.bme (getFunc_setFunc_self s f { getFunc s f with bme := true })⟩

theorem ringStarted_frame (s : State) (f r : Nat) : getReg (ringStarted s f r) (oCrCtl f r) = getReg s (oCrCtl f r) ∧
    (ringStarted s f r).mem = s.mem ∧ (getFunc (ringStarted s f r) f).bme = (getFunc s f).bme := by
  unfold ringStarted
  split
  · exact ⟨rfl, rfl, rfl⟩
  · exact ⟨getReg_setRegField_ne _ _ _ _ (oCrCtl_ne_oCcTail f r), rfl, bme_setRing _ _ _ _⟩

/-- A ring that run starts: run set, no halt noted, memory as it was, and a host masters the bus. -/
theorem crCtlWrite_spec (host : Bool) (hw : w.getLsbD 8 = true)
    (hphase : s.start.phase = .ready ∨ s.start.phase = .shutdown) :
    let t := crCtlWrite s host f r w
    bitNat (getReg t (oCrCtl f r)).toNat 8 = true ∧ regField t (oCrCtl f r) 32 1 = 0 ∧ SameMemory s t ∧
      (getFunc t f).bme = (host || (getFunc s f).bme) := by
  have hasked : runAsked s w = w := if_pos (by simpa using hphase)
  generalize hwritten : setRegField (ctlWritten s f r w) (oCrCtl f r) 32 1 0 = u
  have hctl : bitNat (getReg u (oCrCtl f r)).toNat 8 = true := by
    rw [← hwritten, bit_setRegField_apart _ _ _ _ _ (by decide) (by decide), ctlWritten, getReg_setReg_self,
      bitNat_eq_testBit, ← BitVec.getLsbD, getLsbD_masked _ _ (by decide) (by decide), hw]
  have hhalt : regField u (oCrCtl f r) 32 1 = 0 := by
    rw [← hwritten, regField_setRegField_self _ _ _ _ _ (by decide), Nat.zero_mod]
  have hmem : u.mem = s.mem := by rw [← hwritten, setRegField_mem, ctlWritten, setReg_mem]
  have hbme : (getFunc u f).bme = (getFunc s f).bme := by rw [← hwritten, getFunc_setRegField, ctlWritten, getFunc_setReg]
  obtain ⟨hregs1, hmem1, hbme1⟩ := busMastered_frame u host f
  obtain ⟨hreg2, hmem2, hbme2⟩ := ringStarted_frame (busMastered u host f) f r
  obtain ⟨hregs3, hmem3, hbme3⟩ := msixPending_frame (ringStarted (busMastered u host f) f r) f
  have hsame : getReg (msixPending (ringStarted (busMastered u host f) f r) f) (oCrCtl f r) = getReg u (oCrCtl f r) :=
    (getReg_congr hregs3 _).trans (hreg2.trans (getReg_congr hregs1 _))
  dsimp only
  rw [crCtlWrite_eq, hasked, hw, Bool.not_true, if_neg Bool.false_ne_true, hwritten, regField, hsame]
  exact ⟨hctl, hhalt, sameMemory_of_mem (hmem3.trans (hmem2.trans (hmem1.trans hmem))),
    hbme3.trans (hbme2.trans (hbme1.trans (congrArg (host || ·) hbme)))⟩

end Run

end Sys2Proof.Machine

/-! Rings and jobs (O45): descriptors that the host returns, commands at the head of a ring, jobs, aborts, completion
records. -/

namespace Sys2Proof.Machine

/-! ### The run bit (R329, R336) -/

/-- Whether a requester is a function of the host. -/
def isHost : Req → Bool
  | .host _ => true
  | _ => false

theorem does_commandRingRun {r : Req} {f : PartId} {ring : BitVec 2} {w : Word} {s : State}
    (hmay : Writable s r (oCrCtl f.toNat ring.toNat)) :
    Does (.commandRingRun r f ring w) s (crCtlWrite s (isHost r) f.toNat ring.toNat w) := by
  cases r <;> exact congrArg Host.Outcome.next (regWrite_of_writable hmay _)

/-! ### Descriptors (R329) -/

section Descriptor

variable {f : PartId} {ring : BitVec 2} {s : State} {bs : List Byte}

/-- The state in which a ring has asked the host for its next descriptor. -/
def descAsked (s : State) (p k : Nat) : State :=
  emit s (.hostRead p ((getReg s (oCrBase p k)).toNat + 64 * regField s (oCrHead p k) 0 12) 64)

/-- A ring that takes a descriptor with its index: at its head, or behind a run that waits there (log entry 173). -/
def Ring.taking (x : Ring) (i : Nat) (d : List Byte) : Ring :=
  if x.head.isNone then { x with head := some d, index := i } else { x with line := x.line ++ [(i, d)] }

/-- The state in which a ring has taken a descriptor. -/
def descTaken (s : State) (p k : Nat) (d : List Byte) : State :=
  setRegField (setRing (descAsked s p k) p k ((getRing s p k).taking (regField s (oCrHead p k) 0 12) d))
    (oCrHead p k) 0 12 ((regField s (oCrHead p k) 0 12 + 1) % ringSize s p k)

theorem does_commandDescriptorRead_data (hreads : readsNext s f.toNat ring.toNat = true) :
    Does (.commandDescriptorRead f ring (.data bs)) s
      (descTaken s f.toNat ring.toNat ((bs ++ List.replicate 64 0).take 64)) :=
  congrArg Host.Outcome.next (if_neg (by rw [hreads]; decide))

theorem does_commandDescriptorRead_failed (hreads : readsNext s f.toNat ring.toNat = true) :
    Does (.commandDescriptorRead f ring (.poisoned bs)) s
      (haltRing (aerNote (descAsked s f.toNat ring.toNat) f.toNat .poisoned) f.toNat ring.toNat stUncorrectable) ∧
    Does (.commandDescriptorRead f ring .unsupported) s
      (haltRing (aerNote (descAsked s f.toNat ring.toNat) f.toNat .unsupported) f.toNat ring.toNat stAborted) ∧
    Does (.commandDescriptorRead f ring .completerAbort) s
      (haltRing (aerNote (descAsked s f.toNat ring.toNat) f.toNat .completerAbort) f.toNat ring.toNat stAborted) := by
  have hnot : ¬ (!readsNext s f.toNat ring.toNat) = true := by rw [hreads]; decide
  exact ⟨congrArg Host.Outcome.next (if_neg hnot), congrArg Host.Outcome.next (if_neg hnot),
    congrArg Host.Outcome.next (if_neg hnot)⟩

theorem Ring.taking_recs (x : Ring) (i : Nat) (d : List Byte) : (x.taking i d).recs = x.recs := by
  unfold Ring.taking
  split <;> rfl

theorem Ring.taking_of_free {x : Ring} (h : x.head = none) (i : Nat) (d : List Byte) :
    x.taking i d = { x with head := some d, index := i } := if_pos (by rw [h]; rfl)

theorem Ring.taking_of_waiting {x : Ring} (h : x.head ≠ none) (i : Nat) (d : List Byte) :
    x.taking i d = { x with line := x.line ++ [(i, d)] } := if_neg (by simpa using h)

theorem getRing_descTaken (s : State) (p k : Nat) (d : List Byte) :
    getRing (descTaken s p k d) p k = (getRing s p k).taking (regField s (oCrHead p k) 0 12) d := by
  rw [descTaken, getRing_setRegField, getRing_setRing]

theorem crHead_descTaken (s : State) (p k : Nat) (d : List Byte) : regField (descTaken s p k d) (oCrHead p k) 0 12 =
    (regField s (oCrHead p k) 0 12 + 1) % ringSize s p k := by
  rw [descTaken, regField_setRegField_self _ _ _ _ _ (by decide)]
  exact Nat.mod_eq_of_lt (mod_ringSize_lt _ _ _ _)

end Descriptor

/-! ### Commands at a ring's head (R330, R335) -/

section Head

variable {f : PartId} {ring : BitVec 2} {s : State} {d : List Byte} (hdesc : headDesc s f.toNat ring.toNat = some d)

include hdesc

theorem does_noOperation (hop : descField d 0 1 = 0) :
    Does (.noOperation f ring) s (finishHead s f.toNat ring.toNat stOk 0 none) := by
  refine congrArg Host.Outcome.next ?_
  rw [hdesc]
  exact if_pos hop

theorem does_noOperation_unassigned (hop : 4 < descField d 0 1) :
    Does (.noOperation f ring) s (finishHead s f.toNat ring.toNat stAborted 0 none) := by
  refine congrArg Host.Outcome.next ?_
  rw [hdesc]
  exact (if_neg (by omega)).trans (if_pos hop)

theorem does_run_refused (hop : descField d 0 1 = 1) {st detail : Nat}
    (href : runRefusal s f.toNat d = some (st, detail)) :
    Does (.run f ring) s (finishHead s f.toNat ring.toNat st detail none) := by
  refine congrArg Host.Outcome.next ?_
  rw [headOp_of hdesc hop]
  dsimp only
  rw [href]

theorem does_run_waits (hop : descField d 0 1 = 1) (href : runRefusal s f.toNat d = none) :
    Does (.run f ring) s s := by
  refine congrArg Host.Outcome.next ?_
  rw [headOp_of hdesc hop]
  dsimp only
  rw [href]

/-- The abort at a ring's head is the one that the ring works on. -/
theorem abortOf_head (hop : descField d 0 1 = 2) :
    abortOf s f.toNat ring.toNat = some ((getRing s f.toNat ring.toNat).index, d) := by
  rw [abortOf, hdesc]
  exact if_pos hop

/-- An abort that finds no target (R335). -/
theorem does_abort_untargeted (hop : descField d 0 1 = 2) (hnew : (getRing s f.toNat ring.toNat).aborting = none)
    (hjob : (s.jobs.find? fun j => j.part == f.toNat && j.job == descField d 8 4) = none)
    (hcopy : ((List.range 4).find? fun i => copyNamed (getRing s f.toNat i) (descField d 8 4)) = none) :
    Does (.abort f ring) s
      (complete (popHead s f.toNat ring.toNat) f.toNat ring.toNat (descField d 4 4) stAlreadyDone
        (getRing s f.toNat ring.toNat).index 1 (descIrq d) none) := by
  obtain ⟨-, -, hhead⟩ := headDesc_eq_some.mp hdesc
  refine congrArg Host.Outcome.next ?_
  dsimp only
  rw [abortOf_head hdesc hop]
  dsimp only
  rw [hnew]
  dsimp only
  rw [hjob]
  dsimp only
  rw [hcopy]
  dsimp only
  have hany : ((getRing s f.toNat ring.toNat).head.any fun h => descField h 0 1 == 2) = true := by
    rw [hhead, Option.any_some, hop, BEq.rfl]
  rw [finishAbort, if_pos hany]

end Head

/-! ### Jobs (R330, R331) -/

section Jobs

variable {f : PartId} {ring : BitVec 2} {s : State} {d : List Byte}

/-- The job that a run descriptor asks for, in the lowest free slot of its partition. -/
def jobAsked (s : State) (p k : Nat) (d : List Byte) : Job :=
  ⟨p, k, (getRing s p k).index, descField d 4 4, runCores s p d, .running, descField d 32 4, elapsed s, s.hallmark, false,
    descIrq d, 0, 0, false, none,
    ((List.range 64).find? fun i => !(s.jobs.filter (·.part == p)).any (·.slot == i)).getD 0⟩

/-- The state in which a job has been admitted and none of its cores has started. -/
def jobAdmitted (s : State) (p k : Nat) (d : List Byte) : State :=
  popHead { s with jobs := s.jobs ++ [jobAsked s p k d] } p k

theorem does_jobAdmission (hdesc : headDesc s f.toNat ring.toNat = some d) (hop : descField d 0 1 = 1)
    (href : runRefusal s f.toNat d = none) (hfree : ∀ c ∈ runCores s f.toNat d, jobOf s c = none)
    (hroom : (s.jobs.filter (·.part == f.toNat)).length < 64) (hserved : s.comp.state = .firmware)
    (hmaint : s.start.maint = false) :
    Does (.jobAdmission f ring) s ((runCores s f.toNat d).zipIdx.foldl (fun s e => startJobCore s d e.1 e.2)
      (jobAdmitted s f.toNat ring.toNat d)) := by
  have hany : (runCores s f.toNat d).any (fun c => (jobOf s c).isSome) = false := by
    rw [List.any_eq_false]
    intro c hc
    rw [hfree c hc]
    decide
  refine congrArg Host.Outcome.next ?_
  dsimp only
  rw [headOp_of hdesc hop]
  dsimp only
  refine if_neg ?_
  simp [href, hany, hserved, hmaint, Nat.not_le.mpr hroom]

theorem getCore_startCore (s : State) (c : Nat) : (getCore (startCore s c) c).run = .running ∧
    (getCore (startCore s c) c).pc = getReg s (oCoStart c) := by
  unfold startCore
  dsimp only
  rw [getCore_modCore_self]
  exact ⟨rfl, rfl⟩

/-- A core of a job runs from the job's entry with the argument, its rank and the job's ID in g1 to g3. -/
theorem getCore_startJobCore (s : State) (d : List Byte) (c rank : Nat) :
    (getCore (startJobCore s d c rank) c).run = .running ∧
    (getCore (startJobCore s d c rank) c).pc = BitVec.ofNat 64 (descField d 8 6 / 4 * 4) ∧
    gpr (getCore (startJobCore s d c rank) c) 1 = BitVec.ofNat 64 (descField d 16 8) ∧
    gpr (getCore (startJobCore s d c rank) c) 2 = BitVec.ofNat 64 rank ∧
    gpr (getCore (startJobCore s d c rank) c) 3 = BitVec.ofNat 64 (descField d 4 4) := by
  unfold startJobCore
  dsimp only
  rw [getCore_trace, getCore_modCore_self]
  obtain ⟨hrun, hpc⟩ := getCore_startCore
    (setReg (resetCore s c none) (oCoStart c) (BitVec.ofNat 64 (descField d 8 6 / 4 * 4))) c
  rw [getReg_setReg_self] at hpc
  refine ⟨by simpa using hrun, by simpa using hpc, ?_, ?_, ?_⟩ <;> simp [gpr, setGpr, look_put]

/-- The time limit of a job stops it (R331). -/
theorem does_jobTimeLimit {job : BitVec 32} {j : Job}
    (hfind : (s.jobs.find? fun j => j.part == f.toNat && j.job == job.toNat) = some j) (hlimit : j.limit ≠ 0)
    (hrunning : j.ending = none) (hserved : s.comp.state = .firmware) :
    Does (.jobTimeLimit f job) s
      (stopJob (advanceTo s (j.start + j.limit * 1000000)) j (if j.paused then stThrottled else stAborted) 0 false) := by
  refine congrArg Host.Outcome.next ?_
  rw [hfind]
  exact if_neg (by simp [hlimit, hrunning, hserved])

end Jobs

/-! ### Aborts (R335) -/

section Abort

variable {f : PartId} {ring : BitVec 2} {s : State} {d : List Byte} {i : Nat}
  (habort : abortOf s f.toNat ring.toNat = some (i, d))

include habort

/-- An abort whose target has left. -/
theorem does_abort_done {st : Nat × Nat} (hold : (getRing s f.toNat ring.toNat).aborting = some st)
    (hjob : (s.jobs.any fun j => j.part == f.toNat && j.job == descField d 8 4) = false)
    (hcopy : ((List.range 4).any fun i => copyNamed (getRing s f.toNat i) (descField d 8 4)) = false) :
    Does (.abort f ring) s (finishAbort s f.toNat ring.toNat i d st.1 st.2 (some (descField d 8 4))) := by
  refine congrArg Host.Outcome.next ?_
  dsimp only
  rw [habort]
  dsimp only
  rw [hold]
  exact if_neg (by rw [hjob, hcopy]; decide)

section New

variable (hnew : (getRing s f.toNat ring.toNat).aborting = none)

include hnew

/-- An abort of a job that is stopped or ends already waits for the job's record. -/
theorem does_abort_late {j : Job} (hfind : (s.jobs.find? fun j => j.part == f.toNat && j.job == descField d 8 4) = some j)
    (hlate : j.ending ≠ none ∨ j.state = .done ∨ j.state = .aborting) :
    Does (.abort f ring) s (setRing s f.toNat ring.toNat
      { getRing s f.toNat ring.toNat with aborting := some (stAlreadyDone, 0) }) := by
  have hlate' : (j.ending.isSome || j.state == .done || j.state == .aborting) = true := by
    simpa [Option.isSome_iff_ne_none, or_assoc] using hlate
  have hany : (s.jobs.any fun j => j.part == f.toNat && j.job == descField d 8 4) = true :=
    List.any_eq_true.mpr ⟨j, List.mem_of_find?_eq_some hfind, by simpa using List.find?_some hfind⟩
  refine congrArg Host.Outcome.next ?_
  dsimp only
  rw [habort]
  dsimp only
  rw [hnew]
  dsimp only
  rw [hfind]
  dsimp only
  rw [if_pos hlate', abortDone, setRing_jobs, hany, Bool.true_or, if_pos rfl]

/-- The state after an abort has stopped a job, whose job-state word tells so. -/
def jobAborted (s : State) (p k : Nat) (d : List Byte) (j : Job) : State :=
  let s1 := stopJob (setRing s p k { getRing s p k with aborting := some (stOk, 0) }) j stAborted 0 false
  match s1.jobs.find? fun k => k.part == p && k.job == descField d 8 4 with
  | some k => setJob s1 { k with state := .aborting }
  | none => s1

/-- An abort stops a job that runs. -/
theorem does_abort_job {j : Job} (hfind : (s.jobs.find? fun j => j.part == f.toNat && j.job == descField d 8 4) = some j)
    (hending : j.ending = none) (hdone : j.state ≠ .done) (haborting : j.state ≠ .aborting) :
    Does (.abort f ring) s (abortDone (jobAborted s f.toNat ring.toNat d j) f.toNat ring.toNat (descField d 8 4) i d
      (stOk, 0)) := by
  refine congrArg Host.Outcome.next ?_
  dsimp only
  rw [habort]
  dsimp only
  rw [hnew]
  dsimp only
  rw [hfind]
  exact if_neg (by simp [hending, hdone, haborting])

/-- The state in which a ring's abort has told the copy of ring n to stop. -/
def copyStopped (s : State) (p k n : Nat) : State :=
  let s1 := setRing s p n { getRing s p n with copy := (getRing s p n).copy.map fun c => { c with stop := true } }
  setRing s1 p k { getRing s1 p k with aborting := some (stOk, 0) }

/-- An abort of a copy. -/
theorem does_abort_copy {n : Nat}
    (hjob : (s.jobs.find? fun j => j.part == f.toNat && j.job == descField d 8 4) = none)
    (hcopy : ((List.range 4).find? fun i => copyNamed (getRing s f.toNat i) (descField d 8 4)) = some n) :
    Does (.abort f ring) s (copyStopped s f.toNat ring.toNat n) := by
  refine congrArg Host.Outcome.next ?_
  dsimp only
  rw [habort]
  dsimp only
  rw [hnew]
  dsimp only
  rw [hjob]
  dsimp only
  rw [hcopy]
  rfl

end New

end Abort

theorem copyStopped_spec (s : State) (p k n : Nat) : (getRing (copyStopped s p k n) p k).aborting = some (stOk, 0) ∧
    SameMemory s (copyStopped s p k n) ∧
    (getRing (copyStopped s p k n) p n).copy = (getRing s p n).copy.map fun c => { c with stop := true } := by
  unfold copyStopped
  extract_lets x s1
  have h1 : (getRing s1 p n).copy = (getRing s p n).copy.map fun c => { c with stop := true } := by
    rw [getRing_setRing]
  refine ⟨by rw [getRing_setRing], fun _ => rfl, ?_⟩
  by_cases hn : n = k
  · subst hn
    rw [getRing_setRing]
    exact h1
  · rw [getRing_setRing_ne _ _ _ hn, h1]

/-! ### Completion records (R333) -/

section Record

variable {f : PartId} {ring : BitVec 2} {s : State} {c : Completion} {rest : List Completion}

/-- The state in which the oldest record of a ring stands in the completion ring. -/
def recordWritten (s : State) (p k : Nat) (c : Completion) (rest : List Completion) : State :=
  let next := (regField s (oCcTail p k) 0 12 + 1) % ringSize s p k
  let phase := regField s (oCcTail p k) 12 1
  setReg (emit (setRing s p k { getRing s p k with recs := rest })
      (.hostWrite p ((getReg s (oCcBase p k)).toNat + 16 * regField s (oCcTail p k) 0 12) (c.bytes phase) false))
    (oCcTail p k) (BitVec.ofNat 64 (next + (if next = 0 then 1 - phase else phase) * 4096))

theorem does_completionRecordWrite (hrecs : (getRing s f.toNat ring.toNat).recs = c :: rest)
    (hheld : recsHeld s f.toNat ring.toNat = false) (hroom : ringRoom s f.toNat ring.toNat = true)
    (hafter : ∀ j, c.after = some j → (∀ y ∈ s.jobs, y.part = f.toNat → y.job ≠ j) ∧
      ∀ i, i < 4 → i ≠ ring.toNat → ∀ y ∈ (getRing s f.toNat i).recs, y.job ≠ j)
    (hserved : s.comp.state = .firmware) :
    Does (.completionRecordWrite f ring) s (match c.irq with
      | some v => msix (recordWritten s f.toNat ring.toNat c rest) f.toNat v
      | none => recordWritten s f.toNat ring.toNat c rest) := by
  have hfirst : (c.after.any fun j => (s.jobs.any fun k => k.part == f.toNat && k.job == j) ||
      (List.range 4).any fun i => i != ring.toNat && (getRing s f.toNat i).recs.any (·.job == j)) = false := by
    cases hc : c.after with
    | none => rfl
    | some j =>
      obtain ⟨hjobs, hrings⟩ := hafter j hc
      simpa using ⟨hjobs, hrings⟩
  refine congrArg Host.Outcome.next ?_
  dsimp only
  rw [hrecs]
  dsimp only
  rw [hfirst, hheld, hroom, hserved]
  rfl

theorem recordWritten_spec (s : State) (p k : Nat) (c : Completion) (rest : List Completion) :
    (getRing (recordWritten s p k c rest) p k).recs = rest ∧
    (recordWritten s p k c rest).out = .hostWrite p
      ((getReg s (oCcBase p k)).toNat + 16 * regField s (oCcTail p k) 0 12) (c.bytes (regField s (oCcTail p k) 12 1)) false ::
        s.out ∧
    regField (recordWritten s p k c rest) (oCcTail p k) 0 12 = (regField s (oCcTail p k) 0 12 + 1) % ringSize s p k := by
  have hnext := mod_ringSize_lt s p k (regField s (oCcTail p k) 0 12 + 1)
  unfold recordWritten
  refine ⟨by rw [getRing_setReg, getRing_emit, getRing_setRing], rfl, ?_⟩
  rw [regField, getReg_setReg_self, BitVec.toNat_ofNat, fieldNat]
  omega

end Record

/-- Settles O45: writes of a ring's registers, the descriptor that the host returns, then each command at a ring's head by
what it finds. -/
theorem ringsAndJobs : Obligations.RingsAndJobs := by
  unfold Obligations.RingsAndJobs
  refine ⟨fun r f ring w s bs => ⟨?tail, ?ctl, ?consumed, ?descriptor⟩,
    fun f ring s d => ⟨fun hdesc => ?head, fun i st habort hold hjob hcopy => does_abort_done habort hold hjob hcopy,
      fun i j habort hnew hfind => ⟨does_abort_late habort hnew hfind, does_abort_job habort hnew hfind⟩, ?copy,
      fun job j => does_jobTimeLimit, ?record⟩⟩
  case tail => exact fun hmay => congrArg Host.Outcome.next (regWrite_of_writable hmay _)
  case ctl =>
    intro hmay
    have hdoes := does_commandRingRun (w := w) hmay
    refine ⟨fun hw => ?_, fun hready hshut => ?_, fun hw hphase => ?_⟩
    · rw [crCtlWrite_stopped _ hw] at hdoes
      exact hdoes
    · rw [crCtlWrite_early _ hready hshut] at hdoes
      exact hdoes
    · obtain ⟨hrun, hhalt, hmem, hbme⟩ := crCtlWrite_spec (f := f.toNat) (r := ring.toNat) (isHost r) hw hphase
      refine ⟨_, hdoes, hrun, hhalt, hmem, fun g hg => ?_, fun hg => ?_⟩
      · rw [hbme, hg]
        rfl
      · rw [hbme]
        cases r with
        | host g => exact (hg g rfl).elim
        | core c => rfl
        | comptroller => rfl
  case consumed => exact fun hmay => congrArg Host.Outcome.next (regWrite_of_writable hmay _)
  case descriptor =>
    intro hreads
    refine ⟨⟨_, does_commandDescriptorRead_data hreads, rfl, crHead_descTaken _ _ _ _, ?_, fun hfree => ?_,
      fun hwaits => ?_⟩, does_commandDescriptorRead_failed hreads⟩
    · rw [getRing_descTaken, Ring.taking_recs]
    · rw [getRing_descTaken, Ring.taking_of_free hfree]
      exact ⟨rfl, rfl⟩
    · rw [getRing_descTaken, Ring.taking_of_waiting hwaits]
      exact ⟨rfl, rfl⟩
  case head =>
    obtain ⟨-, -, hhead⟩ := headDesc_eq_some.mp hdesc
    refine ⟨fun hop => ⟨_, does_noOperation hdesc hop, headEnded_finishHead hhead _ _⟩,
      fun hop => ⟨_, does_noOperation_unassigned hdesc hop, headEnded_finishHead hhead _ _⟩,
      fun st detail hop href => ⟨_, does_run_refused hdesc hop href, headEnded_finishHead hhead _ _⟩,
      does_run_waits hdesc,
      fun hop hnew hjob hcopy => ⟨_, does_abort_untargeted hdesc hop hnew hjob hcopy, headEnded_complete _ _ _ _ _ _⟩,
      fun hop href hfree hroom hserved hmaint => ⟨_, does_jobAdmission hdesc hop href hfree hroom hserved hmaint,
        rfl, rfl, rfl, rfl, rfl, rfl, rfl, rfl, rfl, rfl, rfl⟩, ?single⟩
    case single =>
      intro c hop href hcores hfree hroom hserved hmaint
      have hdoes := does_jobAdmission hdesc hop href (by simpa [hcores] using hfree) hroom hserved hmaint
      rw [hcores] at hdoes
      refine ⟨_, hdoes, ?_, getCore_startJobCore _ d c 0⟩
      have hring := getRing_of_hostTables (hostTables_startJobCore (jobAdmitted s f.toNat ring.toNat d) d c 0)
        f.toNat ring.toNat
      rw [jobAdmitted, popHead_eq, getRing_setRing] at hring
      exact (congrArg Ring.head hring).trans (Ring.popped_spec _).1
  case copy =>
    intro i n habort hnew hjob hcopy
    exact ⟨_, does_abort_copy habort hnew hjob hcopy, copyStopped_spec _ _ _ _⟩
  case record =>
    intro c rest hrecs hheld hroom hafter hserved
    exact ⟨_, does_completionRecordWrite hrecs hheld hroom hafter hserved, recordWritten_spec _ _ _ _ _⟩

end Sys2Proof.Machine

/-! Copies (O46): the next bytes of a copy, the host's answer to a read, completion timeouts, and the end of a copy. -/

namespace Sys2Proof.Machine

/-! ### Copies in progress (R332) -/

section Progress

variable {f : PartId} {ring : BitVec 2} {s s1 : State} {c : Copy}

/-- A copy descriptor at the head of a ring that is served is the copy it asks for. -/
theorem currentCopy_of_head {p k op : Nat} {d : List Byte} (hserved : ringServed s p k = true)
    (hfree : (getRing s p k).copy = none) (hhead : (getRing s p k).head = some d) (hop : descField d 0 1 = op) :
    currentCopy s p k op = some (copyOf d (getRing s p k).index) := by
  have hdesc : headDesc s p k = some d := headDesc_eq_some.mpr ⟨hserved, hfree, hhead⟩
  rw [currentCopy, hserved, hfree, headOp_of hdesc hop]
  rfl

theorem does_copyToDevice_asks (hcopy : currentCopy s f.toNat ring.toNat 3 = some c) (hgoing : c.status = none)
    (hidle : c.asked = false) : Does (.copyToDevice f ring) s
      (setCopy (emit s (.hostRead f.toNat c.host c.chunk)) f.toNat ring.toNat
        { c with asked := true, at_ := elapsed s }) := by
  refine congrArg Host.Outcome.next ?_
  rw [hcopy]
  exact if_neg (by rw [hgoing, hidle]; decide)

theorem does_copyToDevice_waits (hcopy : currentCopy s f.toNat ring.toNat 3 = some c)
    (hwaits : c.status ≠ none ∨ c.asked = true) :
    Does (.copyToDevice f ring) s (setCopy s f.toNat ring.toNat c) := by
  refine congrArg Host.Outcome.next ?_
  rw [hcopy]
  exact if_pos (by simpa [Option.isSome_iff_ne_none] using hwaits)

theorem does_copyToHost_ended (hcopy : currentCopy s f.toNat ring.toNat 4 = some c) (hended : c.status ≠ none) :
    Does (.copyToHost f ring) s (setCopy s f.toNat ring.toNat c) := by
  refine congrArg Host.Outcome.next ?_
  dsimp only
  rw [hcopy]
  exact if_pos (Option.isSome_iff_ne_none.mpr hended)

/-- A copy to the host that goes on sends its next piece, or waits. -/
theorem does_copyToHost_goes (hcopy : currentCopy s f.toNat ring.toNat 4 = some c) (hgoing : c.status = none) :
    Does (.copyToHost f ring) s ((copyPiece s f.toNat ring.toNat c).getD (setCopy s f.toNat ring.toNat c)) := by
  refine congrArg Host.Outcome.next ?_
  dsimp only
  rw [hcopy]
  exact if_neg (by rw [hgoing]; decide)

/-- A copy to the host after a piece: past it, or ended where reading device memory failed. -/
def Copy.sent (c : Copy) : Option Nat → Copy
  | some e => { c with status := some e }
  | none => c.past c.chunk

/-- The next piece of a copy to the host, by what is read of device memory. -/
theorem copyPiece_eq {p k : Nat} {b : List (Byte × Bool)} {st : Option Nat}
    (hout : copyOut s p k c.dev c.chunk = some (s1, b, st)) : copyPiece s p k c =
      some (setCopy (hostWrites p 8 s1 c.host b) p k (c.sent st)) := by
  rw [copyPiece, hout]
  cases st <;> rfl

end Progress

/-! ### The host's answer to a read (R332, R337) -/

/-- The bytes that a copy asked for, with their mark, as far as the host sent them. -/
def arrivedBytes (c : Copy) (bs : List Byte) (bad : Bool) : List (Byte × Bool) :=
  ((bs ++ List.replicate c.chunk 0).take c.chunk).map fun b => (b, bad)

/-- The host's answer that carries bytes, poisoned or not. -/
def bytesReply (bs : List Byte) : Bool → HostReply
  | true => .poisoned bs
  | false => .data bs

/-- Poisoned bytes are noted (R323). -/
def poisonNoted (p : Nat) : Bool → State → State
  | true, t => aerNote t p .poisoned
  | false, t => t

/-- A copy from the host after its bytes: past them, or ended where device memory refused them. -/
def Copy.stored (c : Copy) : Option Nat → Copy
  | some e => { c with asked := false, status := some e }
  | none => c.past c.chunk

/-- A copy whose read of host memory has failed. -/
def Copy.failed (c : Copy) : Copy := { c with asked := false, status := some stAborted, detail := 2 }

section Answer

variable {f : PartId} {ring : BitVec 2} {s s1 : State} {c : Copy}
  (hcopy : (getRing s f.toNat ring.toNat).copy = some c) (hasked : c.asked = true)

include hcopy hasked

section Live

variable (hlive : (getFunc s f.toNat).flr = false)

include hlive

theorem does_hostReadCompletion_bytes (hdev : c.toHost = false) {bs : List Byte} (bad : Bool) {st : Option Nat}
    (hin : copyIn s f.toNat ring.toNat c.dev (arrivedBytes c bs bad) = some (s1, st)) :
    Does (.hostReadCompletion f ring (bytesReply bs bad)) s
      (poisonNoted f.toNat bad (setCopy s1 f.toNat ring.toNat (c.stored st))) := by
  refine congrArg Host.Outcome.next ?_
  dsimp only
  rw [hcopy]
  refine (if_neg (by rw [hdev, hasked]; decide)).trans ((if_neg (by rw [hlive]; decide)).trans ?_)
  unfold arrivedBytes at hin
  cases bad <;>
    dsimp only [bytesReply] <;>
    rw [hin] <;>
    cases st <;> rfl

theorem does_hostReadCompletion_failed (hdev : c.toHost = false) :
    Does (.hostReadCompletion f ring .unsupported) s
      (aerNote (setCopy s f.toNat ring.toNat c.failed) f.toNat .unsupported) ∧
    Does (.hostReadCompletion f ring .completerAbort) s
      (aerNote (setCopy s f.toNat ring.toNat c.failed) f.toNat .completerAbort) := by
  refine ⟨congrArg Host.Outcome.next ?_, congrArg Host.Outcome.next ?_⟩ <;>
    (dsimp only
     rw [hcopy]
     exact (if_neg (by rw [hdev, hasked]; decide)).trans (if_neg (by rw [hlive]; decide)))

/-- A read without completion for 50 ms fails (R323). -/
theorem does_pcieCompletionTimeout : Does (.pcieCompletionTimeout f ring) s
    (setCopy (aerNote (advanceTo s (c.at_ + 50000000)) f.toNat .timeout) f.toNat ring.toNat c.failed) := by
  refine congrArg Host.Outcome.next ?_
  dsimp only
  rw [hcopy]
  exact (if_neg (by rw [hasked]; decide)).trans (if_neg (by rw [hlive]; decide))

end Live

section Flr

variable (hflr : (getFunc s f.toNat).flr = true)

include hflr

theorem does_hostReadCompletion_flr (hdev : c.toHost = false) (a : HostReply) : Does (.hostReadCompletion f ring a) s
    (flrEnd (setCopy s f.toNat ring.toNat { c with asked := false }) f.toNat) := by
  refine congrArg Host.Outcome.next ?_
  dsimp only
  rw [hcopy]
  exact (if_neg (by rw [hdev, hasked]; decide)).trans (if_pos hflr)

theorem does_pcieCompletionTimeout_flr : Does (.pcieCompletionTimeout f ring) s
    (flrEnd (setCopy (aerNote (advanceTo s (c.at_ + 50000000)) f.toNat .timeout) f.toNat ring.toNat
      { c with asked := false }) f.toNat) := by
  refine congrArg Host.Outcome.next ?_
  dsimp only
  rw [hcopy]
  exact (if_neg (by rw [hasked]; decide)).trans (if_pos hflr)

end Flr

end Answer

/-- A read of a descriptor without completion for 50 ms halts the ring. -/
theorem does_pcieCompletionTimeout_descriptor {f : PartId} {ring : BitVec 2} {s : State}
    (hreads : readsNext s f.toNat ring.toNat = true) : Does (.pcieCompletionTimeout f ring) s
      (haltRing (aerNote (advanceTo s (elapsed s + 50000000)) f.toNat .timeout) f.toNat ring.toNat stAborted) := by
  have hfree : (getRing s f.toNat ring.toNat).copy = none := by
    have hreads' := hreads
    simp only [readsNext, Bool.and_eq_true, Option.isNone_iff_eq_none] at hreads'
    obtain ⟨⟨⟨⟨-, hfree⟩, -⟩, -⟩, -⟩ := hreads'
    exact hfree
  refine congrArg Host.Outcome.next ?_
  dsimp only
  rw [hfree]
  exact if_pos hreads

theorem does_copyComplete {f : PartId} {ring : BitVec 2} {s : State} {c : Copy} {st : Nat}
    (hcopy : (getRing s f.toNat ring.toNat).copy = some c) (hended : c.status = some st)
    (hbme : (getFunc s f.toNat).bme = true) :
    Does (.copyComplete f ring) s (finishHead s f.toNat ring.toNat st c.detail none) := by
  refine congrArg Host.Outcome.next ?_
  rw [hcopy]
  dsimp only
  rw [hended]
  exact if_pos hbme

/-- Settles O46: a copy by its state, what the host answers by the reset that may be in progress. -/
theorem copies : Obligations.Copies := by
  unfold Obligations.Copies
  intro f ring s s1 c bs p k x late failed
  refine ⟨fun d hserved hfree hhead hop => currentCopy_of_head hserved hfree hhead hop,
    fun hcopy => ⟨does_copyToDevice_asks hcopy, does_copyToDevice_waits hcopy⟩,
    fun hcopy => ⟨fun hgoing => ?toHost, does_copyToHost_ended hcopy⟩,
    fun hcopy hasked => ⟨fun hlive => ⟨fun hdev => ⟨fun bad => ?bytes, ?failed⟩, ?timeout⟩, fun hflr => ?flr⟩,
    does_pcieCompletionTimeout_descriptor, ?complete⟩
  case toHost =>
    have hgoes := does_copyToHost_goes hcopy hgoing
    refine ⟨fun b hout => ?_, fun b st hout => ?_, fun hout => ?_⟩
    · rw [copyPiece_eq hout] at hgoes
      exact hgoes
    · rw [copyPiece_eq hout] at hgoes
      exact hgoes
    · rw [copyPiece, hout] at hgoes
      exact hgoes
  case bytes =>
    cases bad with
    | false => exact ⟨does_hostReadCompletion_bytes hcopy hasked hlive hdev false,
        fun st => does_hostReadCompletion_bytes hcopy hasked hlive hdev false⟩
    | true => exact ⟨does_hostReadCompletion_bytes hcopy hasked hlive hdev true,
        fun st => does_hostReadCompletion_bytes hcopy hasked hlive hdev true⟩
  case failed => exact does_hostReadCompletion_failed hcopy hasked hlive hdev
  case timeout => exact does_pcieCompletionTimeout hcopy hasked hlive
  case flr =>
    exact ⟨fun hdev => does_hostReadCompletion_flr hcopy hasked hflr hdev _,
      does_pcieCompletionTimeout_flr hcopy hasked hflr⟩
  case complete =>
    intro st d hcopy hended hhead hbme
    obtain ⟨hhead', hline, hfree, hrecs, hmem, -, -⟩ := headEnded_finishHead hhead st c.detail
    exact ⟨_, does_copyComplete hcopy hended hbme, hfree, hhead', hline, hrecs, hmem⟩

end Sys2Proof.Machine

/-! Host accesses (O47): what counting an event leaves of the registers below the counters, refused accesses, accesses
through BAR2 and BAR0, and registers that are read and written. -/

namespace Sys2Proof.Machine

/-! ### Counting an event leaves the registers below the counters (R485 to R489) -/

theorem getReg_foldl {β : Type} {o : Nat} {f : State → β → State} (h : ∀ s x, getReg (f s x) o = getReg s o)
    (l : List β) (s : State) : getReg (l.foldl f s) o = getReg s o := by
  induction l generalizing s with
  | nil => rfl
  | cons x l ih => exact (ih _).trans (h s x)

theorem getReg_countOn {o : Nat} (hctl : o ≠ oPctl) (s : State) (sel : Nat) {cnt : Nat} (hcnt : o ≠ cnt)
    (scope n : Nat) : getReg (countOn s sel cnt scope n) o = getReg s o := by
  unfold countOn
  split
  · rfl
  dsimp only
  split
  · rw [getReg_setRegField_ne _ _ _ _ hctl, getReg_setReg_ne _ _ _ _ hcnt]
  · rw [getReg_setReg_ne _ _ _ _ hcnt]

theorem getReg_bump {o : Nat} (ho : o < oPctl) (s : State) (tbl evt n : Nat) (u : CountedIn) :
    getReg (bump s tbl evt n u) o = getReg s o := by
  have hbound : o < 0xD0000 := ho
  have hcount (s : State) (sel : Nat) {cnt : Nat} (scope : Nat) (h : oPctl ≤ cnt) :
      getReg (countOn s sel cnt scope n) o = getReg s o := getReg_countOn (Nat.ne_of_lt ho) s sel (by omega) scope n
  have many (l : List Nat) (s : State) (a b : Nat → Nat) (scope : Nat) (ok : Nat → Bool) (hb : ∀ i, oPctl ≤ b i) :
      getReg (l.foldl (fun s i => match selects s (a i) tbl evt with
        | some j => if ok j then countOn s (a i) (b i) scope n else s
        | none => s) s) o = getReg s o := by
    refine getReg_foldl (fun s i => ?_) l s
    split
    · split
      · exact hcount _ _ _ (hb i)
      · rfl
    · rfl
  have dies (s : State) : getReg ((List.range 4).foldl (fun s d => (List.range 16).foldl (fun s i =>
      match selects s (oDsel d i) tbl evt with
        | some j => if dieInst d (j % 4096) u then countOn s (oDsel d i) (oDcnt d i) 16 n else s
        | none => s) s) s) o = getReg s o :=
    getReg_foldl (fun s d => many _ s (oDsel d) (oDcnt d) 16 (fun j => dieInst d (j % 4096) u)
      fun i => by unfold oPctl oDcnt; omega) _ s
  have hglobal (i : Nat) : oPctl ≤ oGcnt i := by unfold oPctl oGcnt; omega
  have hcl (k i : Nat) : oPctl ≤ oClPmc k i := by unfold oPctl oClPmc clBase; omega
  have hco (c i : Nat) : oPctl ≤ oCoPmc c i := by unfold oPctl oCoPmc coBase; omega
  unfold bump
  dsimp only
  split
  · exact (many _ _ _ _ _ _ (hcl _)).trans (many _ s _ _ _ _ (hco _))
  · exact (many _ _ _ _ _ _ hglobal).trans ((dies _).trans (many _ s _ _ _ _ (hcl _)))
  · exact (many _ _ _ _ _ _ hglobal).trans (dies s)

/-! ### Refused accesses (R324, R325, Table 10.7) -/

/-- HIF_VIOL once it has recorded an access that was refused. -/
def violRecorded (s : State) (f : Nat) (write bar2 : Bool) (reason addr : Nat) : State :=
  if bitNat (getReg s (oViol f)).toNat 63 then setRegField s (oViol f) 62 1 1
  else setReg s (oViol f) (BitVec.ofNat 64
    (2 ^ 63 + write.toNat * 2 ^ 61 + bar2.toNat * 2 ^ 60 + reason * 2 ^ 57 + addr % 2 ^ 49))

theorem hifViol_eq (s : State) (f : Nat) (write bar2 : Bool) (reason addr : Nat) :
    hifViol s f write bar2 reason addr = bump (violRecorded s f write bar2 reason addr) 0x0A 3 1 (.func f) := rfl

theorem violRecorded_onlyRegs (s : State) (f : Nat) (write bar2 : Bool) (reason addr : Nat) :
    OnlyRegs s (violRecorded s f write bar2 reason addr) := by
  unfold violRecorded
  split <;> exact ⟨_, rfl⟩

theorem hifViol_onlyRegs (s : State) (f : Nat) (write bar2 : Bool) (reason addr : Nat) :
    OnlyRegs s (hifViol s f write bar2 reason addr) := by
  rw [hifViol_eq]
  exact (violRecorded_onlyRegs s f write bar2 reason addr).trans (bump_onlyRegs _ _ _ _ _)

theorem OnlyRegs.frame {s t : State} (h : OnlyRegs s t) : SameMemory s t ∧ t.cores = s.cores ∧ t.out = s.out := by
  obtain ⟨r, rfl⟩ := h
  exact ⟨fun _ => rfl, rfl, rfl⟩

/-- A recorded access sets the valid bit of its function's HIF_VIOL. -/
theorem hifViol_valid (s : State) {f : Nat} (hf : f < 16) (write bar2 : Bool) {reason : Nat} (hreason : reason < 8)
    (addr : Nat) : bitNat (getReg (hifViol s f write bar2 reason addr) (oViol f)).toNat 63 = true := by
  have hbelow : oViol f < oPctl := by unfold oViol oHif oPctl; omega
  rw [hifViol_eq, getReg_bump hbelow]
  unfold violRecorded
  split
  · next hvalid => rw [bit_setRegField_apart _ _ _ _ _ (by decide) (by decide), hvalid]
  · have hwrite : write.toNat ≤ 1 := Bool.toNat_le write
    have hbar : bar2.toNat ≤ 1 := Bool.toNat_le bar2
    rw [getReg_setReg_self, BitVec.toNat_ofNat, bitNat, beq_iff_eq]
    omega

/-- The reason under which an access outside the view is recorded. -/
theorem outsideReason_lt (u : Bool) : (if u then 2 else 4) < 8 := by cases u <;> decide

/-! ### BAR2 (R324, R325, R438) -/

/-- The host's function p as a requester. -/
def hostOf (p : Nat) : Requester := ⟨2, p, p, 0, false⟩

section Bar2

variable {f : PartId} {o : BitVec 36} {n : Nat} {s s1 : State}

/-- A BAR2 read that is refused: recorded, and answered with a completer abort. -/
def bar2ReadRefused (t : State) (p why a : Nat) : State := emit (hifViol t p false true why a) (.completerAbort p)

theorem does_bar2Read_bad {why : Nat} (hbad : bar2Bad s f.toNat (bar2Addr s f.toNat o.toNat) n = some why) :
    Does (.bar2Read f o n) s (bar2ReadRefused s f.toNat why (bar2Addr s f.toNat o.toNat)) := by
  refine congrArg Host.Outcome.next ?_
  extract_lets p a refuse
  rw [show bar2Bad s p a n = some why from hbad]
  rfl

section Served

variable (hgood : bar2Bad s f.toNat (bar2Addr s f.toNat o.toNat) n = none) {bs : List (Byte × Bool)}
  {lost : List (Nat × Nat)}

include hgood

theorem does_bar2Read_served
    (hread : readRange s (hostOf f.toNat) (bar2Addr s f.toNat o.toNat) n 12 = (s1, bs, lost, none)) :
    Does (.bar2Read f o n) s (emit s1 (.barData f.toNat (bs.map (·.1)) (!lost.isEmpty))) := by
  refine congrArg Host.Outcome.next ?_
  extract_lets p a refuse
  rw [show bar2Bad s p a n = none from hgood]
  dsimp only
  rw [show readRange s ⟨2, p, p, 0, false⟩ a n 12 = _ from hread]

theorem does_bar2Read_unserved {e : Nat} {why : AccRes} (hwhy : why ≠ .wait)
    (hread : readRange s (hostOf f.toNat) (bar2Addr s f.toNat o.toNat) n 12 = (s1, bs, lost, some (e, why))) :
    Does (.bar2Read f o n) s (bar2ReadRefused s1 f.toNat (bar2Reason why) (bar2Addr s f.toNat o.toNat)) := by
  refine congrArg Host.Outcome.next ?_
  extract_lets p a refuse
  rw [show bar2Bad s p a n = none from hgood]
  dsimp only
  rw [show readRange s ⟨2, p, p, 0, false⟩ a n 12 = _ from hread]
  cases why with
  | wait => exact absurd rfl hwhy
  | unmapped => rfl
  | refused => rfl
  | reset => rfl
  | ok bs' lost' => rfl

end Served

variable {data : List Byte} {ep : Bool}

theorem does_bar2Write_bad {why : Nat}
    (hbad : bar2Bad s f.toNat (bar2Addr s f.toNat o.toNat) data.length = some why) :
    Does (.bar2Write f o data ep) s (hifViol s f.toNat true true why (bar2Addr s f.toNat o.toNat)) := by
  refine congrArg Host.Outcome.next ?_
  extract_lets p a
  rw [show bar2Bad s p a data.length = some why from hbad]

section Served

variable (hgood : bar2Bad s f.toNat (bar2Addr s f.toNat o.toNat) data.length = none) {lost : List (Nat × Nat)}

include hgood

theorem does_bar2Write_served (hwrite : writeRange s (hostOf f.toNat) (bar2Addr s f.toNat o.toNat)
    (data.map fun b => (b, ep)) 13 = (s1, lost, none)) : Does (.bar2Write f o data ep) s s1 := by
  refine congrArg Host.Outcome.next ?_
  extract_lets p a
  rw [show bar2Bad s p a data.length = none from hgood]
  dsimp only
  rw [show writeRange s ⟨2, p, p, 0, false⟩ a _ 13 = _ from hwrite]

theorem does_bar2Write_unserved {e : Nat} {why : AccRes} (hwhy : why ≠ .wait)
    (hwrite : writeRange s (hostOf f.toNat) (bar2Addr s f.toNat o.toNat) (data.map fun b => (b, ep)) 13 =
      (s1, lost, some (e, why))) : Does (.bar2Write f o data ep) s
        (hifViol s1 f.toNat true true (bar2Reason why) (bar2Addr s f.toNat o.toNat)) := by
  refine congrArg Host.Outcome.next ?_
  extract_lets p a
  rw [show bar2Bad s p a data.length = none from hgood]
  dsimp only
  rw [show writeRange s ⟨2, p, p, 0, false⟩ a _ 13 = _ from hwrite]
  cases why with
  | wait => exact absurd rfl hwhy
  | unmapped => rfl
  | refused => rfl
  | reset => rfl
  | ok bs' lost' => rfl

end Served

end Bar2

/-! ### BAR0 and registers (R324, R507, R512) -/

section Registers

variable {f : PartId} {r : Req} {off : BitVec 26} {w : Word} {s : State}

/-- A read of BAR0 that lies outside the view: recorded, and answered with zero. -/
def outsideRead (s : State) (p : Nat) (u : Bool) (off : Nat) : State :=
  emit (hifViol s p false false (if u then 2 else 4) off) (.registerRead 0)

theorem does_bar0ReadOutsideView {u : Bool} (hout : standing s (.host f) off.toNat false = .outside u) :
    Does (.bar0ReadOutsideView f off) s (outsideRead s f.toNat u off.toNat) := by
  refine congrArg Host.Outcome.next ?_
  rw [hout]
  rfl

theorem outsideRead_spec (s : State) (f : PartId) (u : Bool) (off : Nat) :
    (outsideRead s f.toNat u off).out = .registerRead 0 :: s.out ∧
    bitNat (getReg (outsideRead s f.toNat u off) (oViol f.toNat)).toNat 63 = true ∧
    SameMemory s (outsideRead s f.toNat u off) := by
  obtain ⟨hmem, -, hout⟩ := (hifViol_onlyRegs s f.toNat false false (if u then 2 else 4) off).frame
  refine ⟨?_, ?_, fun a => ?_⟩
  · rw [outsideRead, emit, hout]
  · rw [outsideRead, getReg_emit]
    exact hifViol_valid s f.isLt false false (outsideReason_lt u) off
  · rw [outsideRead, rdByte_emit]
    exact hmem a

theorem getReg_clearRc (s : State) (o : Nat) : (isRc o = true → getReg (clearRc s o) o = 0) ∧
    ∀ q, q ≠ o → getReg (clearRc s o) q = getReg s q := by
  unfold clearRc
  split
  · exact ⟨fun _ => getReg_setReg_self _ _ _, fun q hq => getReg_setReg_ne _ _ _ _ hq⟩
  · next hrc => exact ⟨fun h => absurd h hrc, fun _ _ => rfl⟩

theorem clearRc_onlyRegs (s : State) (o : Nat) : OnlyRegs s (clearRc s o) := by
  unfold clearRc
  split <;> exact ⟨_, rfl⟩

theorem does_rcRegisterRead (hview : standing s r (off.toNat / 8 * 8) false = .allowed) :
    Does (.rcRegisterRead r off) s
      (emit (clearRc s (off.toNat / 8 * 8)) (.registerRead (readReg s r (off.toNat / 8 * 8)))) := by
  refine congrArg Host.Outcome.next ?_
  extract_lets o
  rw [show standing s r o false = .allowed from hview]

theorem does_rcRegisterRead_reserved (hview : standing s r (off.toNat / 8 * 8) false = .reserved) :
    Does (.rcRegisterRead r off) s (emit s (.registerRead 0)) := by
  refine congrArg Host.Outcome.next ?_
  extract_lets o
  rw [show standing s r o false = .reserved from hview]

theorem does_registerWrite (haligned : off.toNat % 8 = 0) (hmay : Writable s r off.toNat) :
    Does (.registerWrite r off w) s (writeServed s r off.toNat w) :=
  congrArg Host.Outcome.next ((if_neg (by rw [haligned]; decide)).trans (regWrite_of_writable hmay _))

theorem does_registerWrite_reserved (haligned : off.toNat % 8 = 0)
    (hview : standing s r off.toNat true = .reserved) : Does (.registerWrite r off w) s s := by
  refine congrArg Host.Outcome.next ((if_neg (by rw [haligned]; decide)).trans ?_)
  rw [regWrite, hview]

/-- A write that is not aligned is discarded: answered with a completer abort in an FLR, recorded otherwise. -/
def unalignedDiscarded (s : State) (f : PartId) (off : Nat) : State :=
  if inFlr s (.host f) then abortBar0 s (.host f) else refuseBar0 s (.host f) true false off

theorem does_registerWrite_unaligned (hunaligned : off.toNat % 8 ≠ 0) :
    Does (.registerWrite (.host f) off w) s (unalignedDiscarded s f off.toNat) :=
  congrArg Host.Outcome.next (if_pos hunaligned)

theorem unalignedDiscarded_frame (s : State) (f : PartId) (off : Nat) :
    SameMemory s (unalignedDiscarded s f off) ∧ (unalignedDiscarded s f off).cores = s.cores := by
  unfold unalignedDiscarded
  split
  · exact ⟨fun _ => rfl, rfl⟩
  · obtain ⟨hmem, hcores, -⟩ := (hifViol_onlyRegs s f.toNat true false 4 off).frame
    exact ⟨hmem, hcores⟩

end Registers

end Sys2Proof.Machine

/-! Function-level and conventional resets, and the end of bus mastering (O47). -/

namespace Sys2Proof.Machine

theorem getFunc_of_hostTables {s t : State} (h : hostTables t = hostTables s) (p : Nat) : getFunc t p = getFunc s p := by
  rw [getFunc, getFunc, (Prod.mk.inj h).1]

/-! ### Function-level reset (R337) -/

section Flr

variable {f : PartId} {s : State}

theorem readsOut_flrBegin (s : State) (f : Nat) : readsOut (flrBegin s f) f = readsOut s f := by
  have hring (r : Nat) : getRing (flrBegin s f) f r = getRing s f r := by
    rw [flrBegin, getRing, getFunc_setFunc_self, getRing]
  simp only [readsOut, hring]

theorem does_flr_pending (hflr : (getFunc s f.toNat).flr = true) : Does (.flr f) s s :=
  congrArg Host.Outcome.next (if_pos hflr)

theorem does_flr (hlive : (getFunc s f.toNat).flr = false) :
    Does (.flr f) s (flrEnd (flrBegin s f.toNat) f.toNat) :=
  congrArg Host.Outcome.next (if_neg (by rw [hlive]; decide))

theorem flrEnd_waits {p : Nat} (h : readsOut s p = true) : flrEnd s p = s := if_pos h

theorem flrEnd_zero (h : readsOut s 0 = false) : flrEnd s 0 = flrAll s :=
  (if_neg (by rw [h]; decide)).trans (if_pos rfl)

theorem flrEnd_one {p : Nat} (h : readsOut s p = false) (hp : p ≠ 0) :
    flrEnd s p = resetFunction (stopPartition s p) p :=
  (if_neg (by rw [h]; decide)).trans (if_neg hp)

/-- A trace channel of a function that was reset: disabled and emptied. -/
def traceReset (s : State) (k : Nat) : State :=
  setRegField (modCl s k fun x => { x with trace := [], traceLost := 0 }) (oTrCtl k) 0 1 0

/-- The registers of a function back at their reset values, the function itself idle. -/
def functionReset (s : State) (f : Nat) : State :=
  setFunc (resetRegs (resetRegs s (oHif f) 0x400) (oMsix f 0 0) 0x200) f
    { Func.idle with cmbBusy := (getFunc s f).cmbBusy }

theorem resetFunction_eq (s : State) (f : Nat) :
    resetFunction s f = (partClusters (functionReset s f) f).foldl traceReset (functionReset s f) := rfl

/-- A function that was reset is as after a start, but for a completion buffer that is being written. -/
theorem getFunc_resetFunction (s : State) (p : Nat) :
    getFunc (resetFunction s p) p = { Func.idle with cmbBusy := (getFunc s p).cmbBusy } := by
  have hfold (l : List Nat) (t : State) : hostTables (l.foldl traceReset t) = hostTables t :=
    hostTables_foldl (fun s k => (hostTables_setRegField _ _ _ _ _).trans (hostTables_modCl _ _ _)) l t
  rw [resetFunction_eq, getFunc_of_hostTables (hfold _ _), functionReset, getFunc_setFunc_self]

end Flr

/-! ### Bus Master Enable (R336) -/

/-- A command ring that halted with BME_OFF. -/
def BmeOffHalted (t : State) (p k : Nat) : Prop :=
  bitNat (getReg t (oCrCtl p k)).toNat 8 = false ∧ regField t (oCrCtl p k) 40 8 = stBmeOff ∧
    regField t (oCrCtl p k) 32 1 = 1

theorem BmeOffHalted.congr {s t : State} {p k : Nat} (h : BmeOffHalted s p k)
    (hreg : getReg t (oCrCtl p k) = getReg s (oCrCtl p k)) : BmeOffHalted t p k := by
  rw [BmeOffHalted, regField, regField, hreg]
  exact h

theorem oCrCtl_injective {p r k : Nat} (h : k ≠ r) : oCrCtl p k ≠ oCrCtl p r := by
  unfold oCrCtl oCrBase
  omega

theorem oCrCtl_ne_oTrStat (p k c : Nat) : oCrCtl p k ≠ oTrStat c := by
  unfold oCrCtl oCrBase oHif oTrStat clBase
  omega

/-- A message changes what a function sends and what it holds back. -/
theorem msix_frame (s : State) (p v : Nat) : (msix s p v).regs = s.regs ∧ (msix s p v).mem = s.mem ∧
    (getFunc (msix s p v) p).bme = (getFunc s p).bme := by
  unfold msix
  extract_lets fn
  split
  · exact ⟨rfl, rfl, rfl⟩
  split
  · exact ⟨rfl, rfl, rfl⟩
  · exact ⟨rfl, rfl, by rw [getFunc_setFunc_self]⟩

section Halt

variable (s : State) (p r : Nat)

/-- The control register of a ring that halts. -/
def haltNoted (status : Nat) : State :=
  setRegField (setRegField (setRegField s (oCrCtl p r) 8 1 0) (oCrCtl p r) 32 1 1) (oCrCtl p r) 40 8 status

theorem haltRing_eq (status : Nat) :
    haltRing s p r status = msix (haltNoted s p r status) p (regField s (oCrCtl p r) 16 5) := rfl

theorem bmeOffHalted_haltNoted : BmeOffHalted (haltNoted s p r stBmeOff) p r := by
  unfold haltNoted
  refine ⟨?_, ?_, ?_⟩
  · rw [bit_setRegField_apart _ _ _ _ _ (by decide) (by decide), bit_setRegField_apart _ _ _ _ _ (by decide) (by decide),
      bit_setRegField _ _ _ _ _ (by decide), if_pos (by decide)]
    rfl
  · rw [regField_setRegField_self _ _ _ _ _ (by decide)]
    decide
  · rw [regField_setRegField_apart _ _ _ _ _ (by decide) (by decide), regField_setRegField_self _ _ _ _ _ (by decide)]
    rfl

theorem bmeOffHalted_haltRing : BmeOffHalted (haltRing s p r stBmeOff) p r := by
  obtain ⟨hregs, -, -⟩ := msix_frame (haltNoted s p r stBmeOff) p (regField s (oCrCtl p r) 16 5)
  rw [haltRing_eq]
  exact (bmeOffHalted_haltNoted s p r).congr (getReg_congr hregs _)

theorem haltRing_frame (status : Nat) : (haltRing s p r status).mem = s.mem ∧
    (getFunc (haltRing s p r status) p).bme = (getFunc s p).bme ∧
    ∀ o, o ≠ oCrCtl p r → getReg (haltRing s p r status) o = getReg s o := by
  obtain ⟨hregs, hmem, hbme⟩ := msix_frame (haltNoted s p r status) p (regField s (oCrCtl p r) 16 5)
  rw [haltRing_eq]
  rw [haltNoted] at hregs hmem hbme ⊢
  rw [setRegField_mem, setRegField_mem, setRegField_mem] at hmem
  rw [getFunc_setRegField, getFunc_setRegField, getFunc_setRegField] at hbme
  refine ⟨hmem, hbme, fun o ho => (getReg_congr hregs o).trans ?_⟩
  rw [getReg_setRegField_ne _ _ _ _ ho, getReg_setRegField_ne _ _ _ _ ho, getReg_setRegField_ne _ _ _ _ ho]

/-- A ring's copy in progress stops when its function may no longer master the bus. -/
def bmeStopped : State :=
  match (getRing s p r).copy with
  | some c =>
    if c.status.isSome then s
    else setRing (popHead s p r) p r { getRing (popHead s p r) p r with
      recs := ⟨c.job, stBmeOff, c.index, 0, c.irq, s.hallmark, none⟩ :: (getRing (popHead s p r) p r).recs }
  | none => s

theorem bmeHalt_eq : bmeHalt s p r = haltRing (bmeStopped s p r) p r stBmeOff := rfl

theorem bmeStopped_frame : (bmeStopped s p r).mem = s.mem ∧ (bmeStopped s p r).regs = s.regs ∧
    (getFunc (bmeStopped s p r) p).bme = (getFunc s p).bme := by
  unfold bmeStopped
  split
  · split
    · exact ⟨rfl, rfl, rfl⟩
    · refine ⟨rfl, rfl, ?_⟩
      rw [bme_setRing, popHead_eq, bme_setRing]
  · exact ⟨rfl, rfl, rfl⟩

theorem bmeOffHalted_bmeHalt : BmeOffHalted (bmeHalt s p r) p r := by
  rw [bmeHalt_eq]
  exact bmeOffHalted_haltRing _ _ _

/-- A ring that halted stays so while another halts. -/
theorem bmeHalt_keeps_halted {s : State} {p k : Nat} (h : BmeOffHalted s p k) (r : Nat) :
    BmeOffHalted (bmeHalt s p r) p k := by
  by_cases hk : k = r
  · rw [hk]
    exact bmeOffHalted_bmeHalt s p r
  · obtain ⟨-, hregs, -⟩ := bmeStopped_frame s p r
    obtain ⟨-, -, hother⟩ := haltRing_frame (bmeStopped s p r) p r stBmeOff
    exact h.congr ((hother _ (oCrCtl_injective hk)).trans (getReg_congr hregs _))

theorem bmeHalt_frame : (bmeHalt s p r).mem = s.mem ∧ (getFunc (bmeHalt s p r) p).bme = (getFunc s p).bme := by
  obtain ⟨hmem, -, hbme⟩ := bmeStopped_frame s p r
  obtain ⟨hmem', hbme', -⟩ := haltRing_frame (bmeStopped s p r) p r stBmeOff
  exact ⟨hmem'.trans hmem, hbme'.trans hbme⟩

end Halt

/-- What each step of a fold establishes for its element and keeps for the others holds of all at the end. -/
theorem foldl_establishes {β : Type} {f : State → β → State} {P : β → State → Prop} (hself : ∀ s x, P x (f s x))
    (hkeep : ∀ s x y, P y s → P y (f s x)) (l : List β) (s : State) {x : β} (hx : x ∈ l) : P x (l.foldl f s) := by
  induction l generalizing s with
  | nil => exact absurd hx List.not_mem_nil
  | cons y l ih =>
    rcases List.mem_cons.mp hx with rfl | hx
    · exact List.foldlRecOn l f (hself s x) fun t ht z _ => hkeep t z x ht
    · exact ih _ hx

/-- The function's command rings halted, Bus Master Enable clear. -/
def ringsHalted (s : State) (p : Nat) : State :=
  (List.range 4).foldl (fun s r => bmeHalt s p r) (setFunc s p { getFunc s p with bme := false })

/-- A trace channel with work pending halts. -/
def traceHalted (s : State) (k : Nat) : State :=
  if bitNat (getReg s (oTrCtl k)).toNat 0 && !(getCl s k).trace.isEmpty then haltTrace s k stBmeOff else s

theorem does_busMasterEnableClear (f : PartId) (s : State) : Does (.busMasterEnableClear f) s
    ((partClusters (ringsHalted s f.toNat) f.toNat).foldl traceHalted (ringsHalted s f.toNat)) := rfl

theorem ringsHalted_spec (s : State) (p : Nat) : (ringsHalted s p).mem = s.mem ∧
    (getFunc (ringsHalted s p) p).bme = false ∧ ∀ k, k < 4 → BmeOffHalted (ringsHalted s p) p k := by
  have hframe : (ringsHalted s p).mem = s.mem ∧ (getFunc (ringsHalted s p) p).bme = false := by
    refine List.foldlRecOn (motive := fun t => t.mem = s.mem ∧ (getFunc t p).bme = false) _ _ ?_ ?_
    · exact ⟨rfl, by rw [getFunc_setFunc_self]⟩
    · rintro t ⟨hmem, hbme⟩ r -
      obtain ⟨hmem', hbme'⟩ := bmeHalt_frame t p r
      exact ⟨hmem'.trans hmem, hbme'.trans hbme⟩
  exact ⟨hframe.1, hframe.2, fun k hk => foldl_establishes (P := fun k t => BmeOffHalted t p k)
    (fun t r => bmeOffHalted_bmeHalt t p r) (fun t r k h => bmeHalt_keeps_halted h r) _ _ (List.mem_range.mpr hk)⟩

theorem traceHalted_frame (s : State) (c : Nat) : (traceHalted s c).mem = s.mem ∧ (traceHalted s c).funcs = s.funcs ∧
    ∀ o, o ≠ oTrStat c → getReg (traceHalted s c) o = getReg s o := by
  unfold traceHalted
  split
  · refine ⟨?_, ?_, fun o ho => ?_⟩
    · rw [haltTrace, setRegField_mem, setRegField_mem]
    · rw [haltTrace, setRegField_funcs, setRegField_funcs]
    rw [haltTrace, getReg_setRegField_ne _ _ _ _ ho, getReg_setRegField_ne _ _ _ _ ho]
  · exact ⟨rfl, rfl, fun _ _ => rfl⟩

/-- Halting trace channels leaves memory, the functions and the command rings' registers. -/
theorem tracesHalted_frame (l : List Nat) (s : State) : (l.foldl traceHalted s).mem = s.mem ∧
    (l.foldl traceHalted s).funcs = s.funcs ∧
    ∀ p k, getReg (l.foldl traceHalted s) (oCrCtl p k) = getReg s (oCrCtl p k) := by
  refine List.foldlRecOn (motive := fun t => t.mem = s.mem ∧ t.funcs = s.funcs ∧
    ∀ p k, getReg t (oCrCtl p k) = getReg s (oCrCtl p k)) _ _ ⟨rfl, rfl, fun _ _ => rfl⟩ ?_
  rintro t ⟨hmem, hfuncs, hregs⟩ c -
  obtain ⟨hmem', hfuncs', hregs'⟩ := traceHalted_frame t c
  exact ⟨hmem'.trans hmem, hfuncs'.trans hfuncs, fun p k =>
    (hregs' _ (oCrCtl_ne_oTrStat p k c)).trans (hregs p k)⟩

theorem busMasterEnableClear_spec (f : PartId) (s : State) : ∃ t, Does (.busMasterEnableClear f) s t ∧
    (getFunc t f.toNat).bme = false ∧ SameMemory s t ∧ ∀ k, k < 4 → BmeOffHalted t f.toNat k := by
  obtain ⟨hmem, hbme, hrings⟩ := ringsHalted_spec s f.toNat
  obtain ⟨hmem', hfuncs, hregs⟩ :=
    tracesHalted_frame (partClusters (ringsHalted s f.toNat) f.toNat) (ringsHalted s f.toNat)
  refine ⟨_, does_busMasterEnableClear f s, ?_, sameMemory_of_mem (hmem'.trans hmem),
    fun k hk => (hrings k hk).congr (hregs _ k)⟩
  rw [getFunc, hfuncs]
  exact hbme

/-! ### Host accesses and resets -/

/-- The link of a device that PERST# holds. -/
def linkHeld (s : State) : State := { s with start := { s.start with perst := true, link := false } }

theorem linkHeld_spec (s : State) : (linkHeld s).start.vfs = s.start.vfs ∧ SameMemory s (linkHeld s) ∧
    (linkHeld s).start.link = false ∧ (linkHeld s).start.perst = true := ⟨rfl, fun _ => rfl, rfl, rfl⟩

/-- VF Enable cleared. -/
def vfsCleared (s : State) : State := { s with start := { s.start with vfs := false } }

theorem vfs_flrAll (s : State) : (flrAll s).start.vfs = false := by
  rw [show flrAll s = vfsCleared ((List.range 16).foldl flrOne s) from rfl, vfsCleared]

theorem does_pcieConventionalReset (kind : ConvReset) (s : State) : ∃ t, Does (.pcieConventionalReset kind) s t ∧
    t.start.vfs = false ∧ SameMemory (flrAll s) t ∧
    (kind = .conventional → t.start.link = false ∧ t.start.perst = true) ∧ (kind ≠ .conventional → t = flrAll s) := by
  by_cases hkind : kind = .conventional
  · subst hkind
    obtain ⟨hvfs, hmem, hlink, hperst⟩ := linkHeld_spec (flrAll s)
    exact ⟨linkHeld (flrAll s), rfl, hvfs.trans (vfs_flrAll s), hmem, fun _ => ⟨hlink, hperst⟩, fun h => absurd rfl h⟩
  · refine ⟨flrAll s, ?_, vfs_flrAll s, fun _ => rfl, fun h => absurd h hkind, fun _ => rfl⟩
    cases kind with
    | conventional => exact absurd rfl hkind
    | _ => rfl

/-- Settles O47: the accesses by what their view and their unit answer, the resets by the reads outstanding. -/
theorem hostAccesses : Obligations.HostAccesses := by
  unfold Obligations.HostAccesses
  refine ⟨fun f o off n data ep r w s s1 => ?_, fun f kind s => ?_⟩
  · refine ⟨fun why => does_bar2Read_bad,
      fun hgood => ⟨fun bs lost => does_bar2Read_served hgood, fun bs lost e why hread hwhy =>
        does_bar2Read_unserved hgood hwhy hread⟩,
      fun why hbad => ⟨does_bar2Write_bad hbad, (hifViol_onlyRegs s _ _ _ _ _).frame.1⟩,
      fun hgood => ⟨fun bad => does_bar2Write_served hgood, fun bad e why hwrite hwhy =>
        does_bar2Write_unserved hgood hwhy hwrite⟩,
      fun u hout => ⟨_, does_bar0ReadOutsideView hout, outsideRead_spec s f u off.toNat⟩,
      fun hview => ?_, does_rcRegisterRead_reserved, does_registerWrite, does_registerWrite_reserved,
      fun hunaligned => ⟨_, does_registerWrite_unaligned hunaligned, unalignedDiscarded_frame s f off.toNat⟩⟩
    obtain ⟨hclear, hothers⟩ := getReg_clearRc s (off.toNat / 8 * 8)
    obtain ⟨hmem, -, hout⟩ := (clearRc_onlyRegs s (off.toNat / 8 * 8)).frame
    refine ⟨_, does_rcRegisterRead hview, ?_, fun hrc => ?_, fun q hq => ?_, fun a => ?_⟩
    · rw [emit, hout]
    · rw [getReg_emit, hclear hrc]
    · rw [getReg_emit, hothers q hq]
    · rw [rdByte_emit, hmem a]
  · refine ⟨does_flr_pending, fun hlive hreads => ?_, fun hlive hreads => ⟨fun hf => ?_, fun hf => ?_⟩,
      does_pcieConventionalReset kind s, fun hpower => congrArg Host.Outcome.next (if_neg hpower),
      fun hoff => congrArg Host.Outcome.next (if_pos hoff), busMasterEnableClear_spec f s⟩
    · have hdoes := does_flr hlive
      rwa [flrEnd_waits ((readsOut_flrBegin s f.toNat).trans hreads)] at hdoes
    · have hdoes := does_flr hlive
      have hp : f.toNat ≠ 0 := fun h => hf (BitVec.eq_of_toNat_eq h)
      rw [flrEnd_one ((readsOut_flrBegin s f.toNat).trans hreads) hp] at hdoes
      have hfunc := getFunc_resetFunction (stopPartition (flrBegin s f.toNat) f.toNat) f.toNat
      refine ⟨_, hdoes, rfl, ?_, ?_, ?_, ?_⟩ <;> rw [hfunc] <;> rfl
    · subst hf
      have hdoes := does_flr hlive
      rw [show (0 : PartId).toNat = 0 from rfl, flrEnd_zero ((readsOut_flrBegin s 0).trans hreads)] at hdoes
      exact ⟨_, hdoes, vfs_flrAll _, rfl⟩

end Sys2Proof.Machine

/-! Partition commits (O48): what the clearing of a leaving cluster and slice keeps of the layouts, refusals with their
reason, and the layout that comes in force. -/

namespace Sys2Proof.Machine

/-! ### The layouts while units leave a partition (R328, R490) -/

theorem parts_of_hostTables {s t : State} (h : hostTables t = hostTables s) : t.parts = s.parts := (Prod.mk.inj h).2

theorem parts_foldl {β : Type} {f : State → β → State} (h : ∀ s x, (f s x).parts = s.parts) (l : List β) (s : State) :
    (l.foldl f s).parts = s.parts := by
  induction l generalizing s with
  | nil => rfl
  | cons x l ih => exact (ih _).trans (h s x)

theorem parts_tallyWrite (s : State) (kind p job len energy h0 h1 : Nat) (stepped short : Bool) :
    (tallyWrite s kind p job len energy h0 h1 stepped short).parts = s.parts := by
  unfold tallyWrite
  extract_lets
  split
  · rw [ledger_parts, addRegField_parts]
  · extract_lets
    split
    · rw [setRegField_parts]
    · rfl

/-- What is left to report of a job that has ended. -/
def endedNoted (s : State) (j : Job) : State :=
  { s with tally := { s.tally with ended := s.tally.ended ++ [(j.part, j.job, j.ivl)] } }

theorem finishJob_eq (s : State) (j : Job) (status detail : Nat) : ∃ u, u.parts = s.parts ∧
    finishJob s j status detail = if j.silent then u else complete u j.part j.ring j.job status j.index detail j.irq none :=
  ⟨endedNoted (tallyWrite { s with jobs := s.jobs.filter fun k => !(k.part == j.part && k.job == j.job) }
    3 j.part j.job 0 j.energy j.startHm s.hallmark false false) j, parts_tallyWrite _ _ _ _ _ _ _ _ _ _, rfl⟩

theorem parts_finishJob (s : State) (j : Job) (status detail : Nat) : (finishJob s j status detail).parts = s.parts := by
  obtain ⟨u, hparts, hfinish⟩ := finishJob_eq s j status detail
  rw [hfinish]
  split
  · exact hparts
  · rw [complete, setRing_parts, hparts]

theorem parts_settleJobs (s : State) : (settleJobs s).parts = s.parts := by
  refine parts_foldl (fun s j => ?_) _ _
  split
  · split
    · exact parts_finishJob _ _ _ _
    · rfl
  · rfl

theorem parts_unitReset (s : State) (die source held discarded : Nat) :
    (unitReset s die source held discarded).parts = s.parts := by
  unfold unitReset
  extract_lets s1
  have h1 : s1.parts = s.parts := by rw [bump_parts, bump_parts]
  split
  · exact h1
  · rw [ledger_parts, h1]

theorem parts_resetUnits (s : State) (k : Nat) (after : Option Bool) : (resetUnits s k after).parts = s.parts := by
  rw [resetUnits, parts_settleJobs, parts_unitReset, modCl_parts,
    parts_foldl (fun s c => parts_of_hostTables (hostTables_resetCore s c after)), modCl_parts]

theorem parts_clearVein (s : State) (c : Nat) : (clearVein s c).parts = s.parts := by
  unfold clearVein
  extract_lets s1 kept all
  have h1 : s1.parts = s.parts := by
    refine parts_foldl (fun s n => ?_) _ _
    extract_lets r
    split
    · rfl
    · rw [setReg_parts, zeroBytes_parts]
  split
  rw [modVein_parts, zeroBytes_parts, zeroBytes_parts, h1]

theorem parts_clearCluster (s : State) (k : Nat) : (clearCluster s k).parts = s.parts := by
  rw [clearCluster, parts_foldl (fun s c => (parts_clearVein (zeroLs s c) c).trans rfl), parts_resetUnits, syncCluster,
    parts_foldl (f := syncCore) (fun s c => modCore_parts s c _)]

theorem parts_clearSlice (s : State) (i : Nat) : (clearSlice s i).parts = s.parts := rfl

theorem parts_clearCounters (s : State) (k : Nat) : (clearCounters s k).parts = s.parts := by
  rw [clearCounters, setRegField_parts, modCl_parts, parts_foldl (fun s c => resetRegs_parts s _ _), resetRegs_parts]

theorem tellMismatch_frame (s : State) (o structure_ : Nat) (part : Option Nat) (source : Nat) :
    (tellMismatch s o structure_ part source).parts = s.parts ∧ (tellMismatch s o structure_ part source).mem = s.mem := by
  unfold tellMismatch pairMismatch
  constructor
  · rw [ledger_parts, setRegField_parts, bump_parts]
    rfl
  · rw [ledger_mem, setRegField_mem, bump_mem]
    rfl

/-! ### Commits (R327, R328) -/

section Commit

variable {s : State} {p : Nat}

theorem getD_of_mod_length {l : List Nat} (h : l ≠ []) (n d : Nat) : l.getD (n % l.length) d ∈ l := by
  have hpos : 0 < l.length := List.length_pos_iff.mpr h
  rw [List.getD_eq_getElem _ _ (Nat.mod_lt n hpos)]
  exact List.getElem_mem _

theorem barBases_bounded {n b : Nat} (h : b ∈ barBases s p n) : b < 2 ^ 11 := by
  obtain ⟨hmem, -⟩ := List.mem_filter.mp h
  obtain ⟨i, hi, rfl⟩ := List.mem_map.mp hmem
  have hlt : i < 1025 := List.mem_range.mp hi
  show i + 256 < 2048
  omega

/-- A commit that is accepted has a base for its barriers. -/
theorem barBases_of_accepted (h : commitRefusal s p = none) : barBases s p (askedLayout s p).barriers ≠ [] := by
  intro hnone
  revert h
  unfold commitRefusal
  extract_lets l others
  rw [show barBases s p l.barriers = [] from hnone]
  split
  · exact nofun
  split
  · exact nofun
  split
  · exact nofun
  split
  · exact nofun
  · next htotal => exact absurd (by simp) htotal

/-- Why a commit is refused fits its field. -/
theorem commitRefusal_lt {why : Nat} (h : commitRefusal s p = some why) : why < 2 ^ 8 := by
  revert h
  unfold commitRefusal
  extract_lets l others
  repeat' split
  all_goals
    intro h
    cases h
  all_goals decide

/-- The refusal noted in the status register. -/
def refusalNoted (s : State) (p why : Nat) : State :=
  setRegField (setRegField s (oPartStat p) 48 8 why) (oPartStat p) 9 1 1

/-- The pairs that do not agree reported. -/
def mismatchesTold (s : State) (p : Nat) : State :=
  ((List.range 6).filter fun i => !partPairOk s p i).foldl
    (fun s i => tellMismatch s (oPart p i) 3 none (sourceOf 9 0)) s

theorem commitLayout_refused {why : Nat} (h : commitRefusal s p = some why) :
    commitLayout s p = refusalNoted (mismatchesTold s p) p why := by
  rw [commitLayout, h]
  rfl

theorem commitLayout_accepted (h : commitRefusal s p = none) : commitLayout s p = applyLayout s p := by
  rw [commitLayout, h]

theorem mismatchesTold_frame (s : State) (p : Nat) :
    (mismatchesTold s p).parts = s.parts ∧ (mismatchesTold s p).mem = s.mem := by
  refine List.foldlRecOn (motive := fun t : State => t.parts = s.parts ∧ t.mem = s.mem) _ _ ⟨rfl, rfl⟩ ?_
  rintro t ⟨hparts, hmem⟩ i -
  obtain ⟨hparts', hmem'⟩ := tellMismatch_frame t (oPart p i) 3 none (sourceOf 9 0)
  exact ⟨hparts'.trans hparts, hmem'.trans hmem⟩

theorem refusalNoted_spec (s : State) (p : Nat) {why : Nat} (h : why < 2 ^ 8) :
    regField (refusalNoted s p why) (oPartStat p) 48 8 = why ∧ regField (refusalNoted s p why) (oPartStat p) 9 1 = 1 ∧
    (refusalNoted s p why).parts = s.parts ∧ (refusalNoted s p why).mem = s.mem := by
  unfold refusalNoted
  refine ⟨?_, ?_, ?_, ?_⟩
  · rw [regField_setRegField_apart _ _ _ _ _ (by decide) (by decide), regField_setRegField_self _ _ _ _ _ (by decide),
      Nat.mod_eq_of_lt h]
  · rw [regField_setRegField_self _ _ _ _ _ (by decide)]
    rfl
  · rw [setRegField_parts, setRegField_parts]
  · rw [setRegField_mem, setRegField_mem]

/-- The base chosen for a partition's barriers (log entry 5). -/
def chosenBase (s : State) (p : Nat) : Nat :=
  let bases := barBases s p (askedLayout s p).barriers
  bases.getD (freeValue s 3 % bases.length) 0x100

/-- The layout with its base in force and its base in the status register. -/
def layoutInForce (s : State) (p : Nat) (l : Layout) (base : Nat) : State :=
  setRegField (setPart s p { l with barBase := base }) (oPartStat p) 32 11 base

theorem applyLayout_eq (s : State) (p : Nat) : ∃ u, u.parts = s.parts ∧
    applyLayout s p = layoutInForce u p (askedLayout s p) (chosenBase s p) := by
  unfold applyLayout
  extract_lets l old bases base held leaving joining s1 s2 s3 s4
  refine ⟨s4, ?_, rfl⟩
  calc s4.parts = s3.parts := parts_foldl (fun s i => setBar_parts s _ _) _ _
    _ = s2.parts := parts_foldl parts_clearCounters _ _
    _ = s1.parts := parts_foldl parts_clearSlice _ _
    _ = (takeFree s).parts := parts_foldl parts_clearCluster _ _
    _ = s.parts := takeFree_parts s

theorem layoutInForce_spec (s : State) (p : Nat) (l : Layout) {base : Nat} (h : base < 2 ^ 11) :
    getPart (layoutInForce s p l base) p = { l with barBase := base } ∧
    (∀ q, q ≠ p → getPart (layoutInForce s p l base) q = getPart s q) ∧
    regField (layoutInForce s p l base) (oPartStat p) 32 11 = base := by
  unfold layoutInForce
  refine ⟨?_, fun q hq => ?_, ?_⟩
  · rw [getPart_setRegField, getPart_setPart_self]
  · rw [getPart_setRegField, getPart_setPart_ne _ _ _ _ hq]
  · rw [regField_setRegField_self _ _ _ _ _ (by decide), Nat.mod_eq_of_lt h]

end Commit

theorem does_partitionCommit {r : Req} {p : PartId} {s : State} (hmay : Writable s r (oPartCtl p.toNat)) :
    Does (.partitionCommit r p) s (commitLayout s p.toNat) :=
  congrArg Host.Outcome.next (regWrite_of_writable hmay _)

/-- Settles O48: a refused commit notes its reason, an accepted one sets one layout. -/
theorem partitionCommits : Obligations.PartitionCommits := by
  unfold Obligations.PartitionCommits
  intro r p s hmay
  have hdoes := does_partitionCommit hmay
  refine ⟨fun why hwhy => ?_, fun hnone => ?_⟩
  · rw [commitLayout_refused hwhy] at hdoes
    obtain ⟨hparts, hmem⟩ := mismatchesTold_frame s p.toNat
    obtain ⟨hreason, hrej, hparts', hmem'⟩ := refusalNoted_spec (mismatchesTold s p.toNat) p.toNat (commitRefusal_lt hwhy)
    exact ⟨_, hdoes, hreason, hrej, hparts'.trans hparts, sameMemory_of_mem (hmem'.trans hmem)⟩
  · obtain ⟨u, hparts, happly⟩ := applyLayout_eq s p.toNat
    rw [commitLayout_accepted hnone, happly] at hdoes
    have hbase : chosenBase s p.toNat ∈ barBases s p.toNat (askedLayout s p.toNat).barriers :=
      getD_of_mod_length (barBases_of_accepted hnone) _ _
    obtain ⟨hself, hothers, hfield⟩ := layoutInForce_spec u p.toNat (askedLayout s p.toNat) (barBases_bounded hbase)
    refine ⟨_, chosenBase s p.toNat, hdoes, hbase, hself, fun q hq => (hothers q hq).trans ?_, hfield⟩
    rw [getPart, getPart, hparts]

end Sys2Proof.Machine

/-! Clearing ports (O50): acknowledgements, retraining, and a port that goes down or comes up. -/

namespace Sys2Proof.Machine

/-! ### Acknowledgements and failures of a path (R340 to R342) -/

section Acks

variable {n : PortId} {s : State}

/-- A port whose replay buffer shrank to what a number leaves, with the limits that its peer advertises. -/
def ackTaken (s : State) (k last limits : Nat) : State :=
  setPort s k { (getPort s k).acked last with
    seen := elapsed s
    limits := [fieldNat limits 0 16, fieldNat limits 16 16, fieldNat limits 32 16] }

/-- What may be sent, is. -/
def pumped (s : State) (k : Nat) (t : State) : State := pumpPort k ((getPort s k).queue.length + 1) t

theorem ackPort_ack {k : Nat} (hup : (getPort s k).state = .up) (ack limits : Nat) :
    ackPort s k ack limits false = pumped s k (ackTaken s k ack limits) :=
  if_neg (not_not_intro hup)

theorem ackPort_nak {k : Nat} (hup : (getPort s k).state = .up) (ack limits : Nat) :
    ackPort s k ack limits true = pumped s k (replayAll (ackTaken s k ((ack + 65535) % 65536) limits) k) := by
  unfold ackPort
  dsimp only
  rw [if_neg (not_not_intro hup), if_pos rfl, if_pos rfl]
  rfl

variable (hup : (getPort s n.toNat).state = .up)

include hup

theorem does_frameCrcError : Does (.frameCrcError n) s
    (emit (frameSeen s n.toNat) (.ack n.toNat (getPort s n.toNat).expects (getPort s n.toNat).given true)) :=
  congrArg Host.Outcome.next (if_pos hup)

theorem does_ackDue (hdue : (getPort s n.toNat).unacked = true) : Does (.ackDue n) s
    (emit (setPort s n.toNat { getPort s n.toNat with unacked := false })
      (.ack n.toNat (getPort s n.toNat).rxSeq (getPort s n.toNat).given false)) :=
  congrArg Host.Outcome.next (if_pos (by simp [hup, hdue]))

theorem does_linkControlFrame (x : Frame) : Does (.linkControlFrame n x) s
    (setPort s n.toNat { getPort s n.toNat with state := .retraining }) :=
  congrArg Host.Outcome.next (if_pos hup)

/-- A port whose path has failed at its deadline. -/
def pathFailed (s : State) (k : Nat) : State :=
  addRegField (setPort (advanceTo s (pathDeadline (getPort s k))) k { getPort s k with state := .retraining })
    (oClrPcnt k) 48 16 1

theorem does_pathFailure : Does (.pathFailure n) s (pathFailed s n.toNat) := congrArg Host.Outcome.next (if_pos hup)

omit hup

theorem pathFailed_spec (s : State) (k : Nat) : (getPort (pathFailed s k) k).state = .retraining ∧
    (getPort (pathFailed s k) k).replay = (getPort s k).replay ∧
    (pathFailed s k).hallmark = s.hallmark + (pathDeadline (getPort s k) - elapsed s) ∧ SameMemory s (pathFailed s k) := by
  have hport : getPort (pathFailed s k) k = { getPort s k with state := .retraining } := by
    rw [pathFailed, getPort_addRegField, getPort_setPort_self]
  refine ⟨by rw [hport], by rw [hport], ?_, sameMemory_of_mem ?_⟩
  · rw [pathFailed, addRegField_hallmark, setPort_hallmark, advanceTo]
  · rw [pathFailed, addRegField_mem, setPort_mem, advanceTo]

end Acks

/-! ### Retraining (R338, R342) -/

section Retrain

variable {n : PortId} {s : State} {lanes : BitVec 4} {peer : BitVec 16}

/-- The lanes on which a port can run, of those that trained. -/
def lanesUsed (l : Nat) : Nat := if l = 15 then 15 else if l % 4 = 3 then 3 else if 12 ≤ l then 12 else 0

/-- The end of a training is counted. -/
def trainingCounted (s : State) (k : Nat) : State := addRegField s (oClrPcnt k) 32 16 1

theorem lanesUsed_eq {l use : Nat} (h : (l = 15 ∧ use = 15) ∨ (l ≠ 15 ∧ l % 4 = 3 ∧ use = 3) ∨
    (l % 4 ≠ 3 ∧ 12 ≤ l ∧ use = 12)) : lanesUsed l = use ∧ use ≠ 0 := by
  unfold lanesUsed
  rcases h with ⟨hall, rfl⟩ | ⟨hnot, hlow, rfl⟩ | ⟨hlow, hhigh, rfl⟩
  · exact ⟨if_pos hall, by decide⟩
  · exact ⟨(if_neg hnot).trans (if_pos hlow), by decide⟩
  · exact ⟨(if_neg (by omega)).trans ((if_neg hlow).trans (if_pos hhigh)), by decide⟩

theorem lanesUsed_zero {l : Nat} (hlow : l % 4 ≠ 3) (hhigh : l < 12) : lanesUsed l = 0 :=
  (if_neg (by omega)).trans ((if_neg hlow).trans (if_neg (by omega)))

/-- A port up on the lanes it uses, from the peer's last acknowledged number on. -/
def portTrained (s : State) (k use peer : Nat) : State :=
  let q := (getPort s k).acked peer
  setPort (trainingCounted s k) k { q with
    state := .up, lanes := use, fails := 0, times := q.times.map fun _ => elapsed s, seen := elapsed s }

variable (htrains : (getPort s n.toNat).state = .retraining)

include htrains

theorem does_portRetrainEnd_up (huse : lanesUsed lanes.toNat ≠ 0) : Does (.portRetrainEnd n true lanes peer) s
    (pumped s n.toNat (replayAll (portTrained s n.toNat (lanesUsed lanes.toNat) peer.toNat) n.toNat)) :=
  congrArg Host.Outcome.next ((if_neg (not_not_intro htrains)).trans
    (if_pos (by rw [Bool.true_and]; exact decide_eq_true huse)))

section Fails

variable {ok : Bool} (hfails : ok = false ∨ lanesUsed lanes.toNat = 0)

include hfails

theorem does_portRetrainEnd_again (hfew : (getPort s n.toNat).fails < 2) : Does (.portRetrainEnd n ok lanes peer) s
    (setPort (trainingCounted s n.toNat) n.toNat
      { getPort s n.toNat with fails := (getPort s n.toNat).fails + 1 }) := by
  refine congrArg Host.Outcome.next ((if_neg (not_not_intro htrains)).trans ((if_neg ?_).trans (if_pos ?_)))
  · show ¬ (ok && decide (lanesUsed lanes.toNat ≠ 0)) = true
    rcases hfails with rfl | hzero
    · exact nofun
    · simp [hzero]
  · omega

theorem does_portRetrainEnd_down (hmany : 2 ≤ (getPort s n.toNat).fails) : Does (.portRetrainEnd n ok lanes peer) s
    (ledger (portDown (trainingCounted s n.toNat) n.toNat .down) 0x0601 sevError none (sourceOf 6 n.toNat) []) := by
  refine congrArg Host.Outcome.next ((if_neg (not_not_intro htrains)).trans ((if_neg ?_).trans (if_neg ?_)))
  · show ¬ (ok && decide (lanesUsed lanes.toNat ≠ 0)) = true
    rcases hfails with rfl | hzero
    · exact nofun
    · simp [hzero]
  · omega

end Fails

end Retrain

/-! ### Ports up and down (R342, R349) -/

section Control

variable {r : Req} {n : PortId} {s : State}

theorem does_portUp (hmay : Writable s r (oClrPctl n.toNat)) : Does (.portUp r n) s (portCtl s n.toNat 1) :=
  congrArg Host.Outcome.next (regWrite_of_writable hmay _)

theorem does_portDisable (hmay : Writable s r (oClrPctl n.toNat)) : Does (.portDisable r n) s (portCtl s n.toNat 2) :=
  congrArg Host.Outcome.next (regWrite_of_writable hmay _)

theorem portCtl_up {k : Nat} (hdown : (getPort s k).state = .down) : portCtl s k 1 =
    setPort s k { Port.trained with state := .retraining, lanes := (getPort s k).lanes } := by
  rw [portCtl, if_neg (by decide : ¬ bitNat 1 1 = true), if_pos (by rw [hdown]; rfl)]

theorem portCtl_up_other {k : Nat} (hnot : (getPort s k).state ≠ .down) : portCtl s k 1 = s := by
  rw [portCtl, if_neg (by decide : ¬ bitNat 1 1 = true), if_neg (by simp [hnot])]

theorem portCtl_disable {k : Nat} (hnot : (getPort s k).state ≠ .disabled) :
    portCtl s k 2 = portDown s k .disabled := by
  rw [portCtl, if_pos (by decide : bitNat 2 1 = true), if_neg hnot]

theorem portCtl_disabled {k : Nat} (hoff : (getPort s k).state = .disabled) : portCtl s k 2 = s := by
  rw [portCtl, if_pos (by decide : bitNat 2 1 = true), if_pos hoff]

/-- With nothing in flight there is nothing to go on with. -/
theorem clrKick_of_none (h : s.clrOps = []) : clrKick s = s := by
  have hall : clrGoAll s = s := by rw [clrGoAll, h]; rfl
  rw [clrKick, hall, hall]

/-- A state with other operations in flight. -/
def withOps (s : State) (l : List ClrOp) : State := { s with clrOps := l }

theorem failFrames_nil (hops : s.clrOps = []) (hcolls : s.colls = []) : failFrames s [] = s := by
  unfold failFrames
  extract_lets mine hit s1 s2
  have hmap : ∀ g : ClrOp → ClrOp, s.clrOps.map g = s.clrOps := fun g => by rw [hops, List.map_nil]
  have h1 : s1 = s := congrArg (withOps s) (hmap _)
  have h2 : s2 = s := by
    rw [show s2 = s1.colls.foldl _ s1 from rfl, h1, hcolls, List.foldl_nil]
  rw [h2, clrKick_of_none hops]

/-- A port that goes down, its replay buffer and its queue discarded. -/
def portCleared (s : State) (k : Nat) (st : PortState) : State :=
  bump (setPort s k { getPort s k with state := st, replay := [], times := [], queue := [], fails := 0 }) 0x0A 6
    (getPort s k).replay.length (.port k)

theorem portDown_of_idle {k : Nat} (st : PortState) (hqueue : (getPort s k).queue = [])
    (hreplay : (getPort s k).replay = []) (hops : s.clrOps = []) (hcolls : s.colls = []) :
    portDown s k st = portCleared s k st := by
  have hops' : (portCleared s k st).clrOps = [] := by rw [portCleared, bump_clrOps, setPort_clrOps, hops]
  have hcolls' : (portCleared s k st).colls = [] := by rw [portCleared, bump_colls, setPort_colls, hcolls]
  have hframes : failFrames (portCleared s k st) [] = portCleared s k st := failFrames_nil hops' hcolls'
  unfold portDown
  extract_lets p s1 s2 s3
  have hs3 : s3 = failFrames (portCleared s k st) [] := by
    rw [show s3 = (p.replay.filter fun x => x.src.toNat != ownNode s).foldl answerLinkDown
      (failFrames (portCleared s k st) p.replay) from rfl, show p.replay = [] from hreplay, List.filter_nil, List.foldl_nil]
  rw [show p.queue = [] from hqueue, List.foldl_nil, hs3, hframes]

theorem portCleared_spec (s : State) (k : Nat) (st : PortState) :
    (getPort (portCleared s k st) k).state = st ∧ SameMemory s (portCleared s k st) := by
  refine ⟨?_, sameMemory_of_mem ?_⟩
  · rw [portCleared, getPort_bump, getPort_setPort_self]
  · rw [portCleared, bump_mem, setPort_mem]

end Control

theorem does_endToEndTimeout {tag : BitVec 16} {s : State} {i : Nat} {o : ClrOp}
    (hfind : (s.clrOps.findIdx? fun o => o.frames.any (·.1 == tag.toNat)) = some i) (hop : s.clrOps[i]? = some o) :
    Does (.endToEndTimeout tag) s (clrKick (clrSettle
      (advanceTo s (o.at_ + 1000 * max 1 (regField s oClrCtl 0 16))) i { o with frames := [], status := stLinkDown })) := by
  refine congrArg Host.Outcome.next ?_
  rw [hfind]
  dsimp only
  rw [hop]

/-- Settles O50: a port by its state, and what it receives, how its training ends, and how it is written. -/
theorem ports : Obligations.Ports := by
  unfold Obligations.Ports
  intro r n x ack peer limits lanes tag s
  refine ⟨fun hup => ⟨congrArg Host.Outcome.next (ackPort_ack hup _ _), congrArg Host.Outcome.next (ackPort_ack hup _ _),
      congrArg Host.Outcome.next (ackPort_nak hup _ _), does_frameCrcError hup, does_ackDue hup,
      does_linkControlFrame hup x, _, does_pathFailure hup, pathFailed_spec s n.toNat⟩,
    fun htrains => ⟨fun use huse => ?_, fun ok hok => ?_⟩,
    fun hmay => ⟨fun hdown => ?_, fun hnot => ?_, fun hnot => ?_, fun hoff => ?_⟩,
    fun i o hfind hop => does_endToEndTimeout hfind hop⟩
  · obtain ⟨rfl, hnonzero⟩ := lanesUsed_eq huse
    exact does_portRetrainEnd_up htrains hnonzero
  · have hfails : ok = false ∨ lanesUsed lanes.toNat = 0 := hok.imp_right fun h => lanesUsed_zero h.1 h.2
    exact ⟨does_portRetrainEnd_again htrains hfails, does_portRetrainEnd_down htrains hfails⟩
  · have hdoes := does_portUp hmay
    rwa [portCtl_up hdown] at hdoes
  · have hdoes := does_portUp hmay
    rwa [portCtl_up_other hnot] at hdoes
  · have hdoes := does_portDisable hmay
    rw [portCtl_disable hnot] at hdoes
    refine ⟨hdoes, fun hqueue hreplay hops hcolls => ⟨_, hdoes, ?_⟩⟩
    rw [portDown_of_idle .disabled hqueue hreplay hops hcolls]
    exact portCleared_spec s n.toNat .disabled
  · have hdoes := does_portDisable hmay
    rwa [portCtl_disabled hoff] at hdoes

end Sys2Proof.Machine

/-! The Clearing (O49): what a queue's turn brings, collectives, and frames that arrive. -/

namespace Sys2Proof.Machine

/-! ### Puts, gets and signals (R343, R344) -/

section Take

variable {s s1 : State} {p q kind : Nat} {d : List Byte} {a : Nat}

/-- Whether a descriptor taken as a put, a get or a signal asks for what it may not (Table 10.5). -/
def clrBad (s : State) (p kind : Nat) (d : List Byte) : Bool :=
  (decide (clrOp d = 0) || decide (8 < clrOp d)) || clrBadSig s p d ||
    (if kind = 3 then decide (47 < fieldNat (descField d 16 8) 12 6)
      else clrLocal d % 64 != 0 || clrRemote d % 64 != 0 || clrBytes d % 64 != 0)

/-- An operation goes in flight and on as far as it can. -/
def clrFlies (s : State) (p q kind : Nat) (d : List Byte) (a : Nat) : State :=
  clrKick { s with clrOps := s.clrOps ++
    [⟨p, q, kind, d, a, 0, if kind = 3 then 0 else clrBytes d, 0, [], 0, elapsed s, false⟩] }

theorem clrTake_halts (hread : clrRead s p q = some (s1, none)) : clrTake s p q kind = s1 := by
  rw [clrTake, hread]

/-- What is taken at a queue's head is in flight, or completes with ABORTED. -/
theorem clrTake_taken (hread : clrRead s p q = some (s1, some (d, a))) (hturn : clrTurn s p q = true)
    (hmay : clrMayTake s p q false = true) (hkind : clrOp d = kind ∨ kind = 1 ∧ (clrOp d = 0 ∨ 8 < clrOp d)) :
    clrTake s p q kind = if clrBad (clrAdvance s1 p q) p kind d
      then clrComplete (clrAdvance s1 p q) p q d a stAborted 0 else clrFlies (clrAdvance s1 p q) p q kind d a := by
  unfold clrTake
  rw [hread]
  dsimp only
  rw [if_neg (by simpa [hturn, hmay, ← or_iff_not_imp_left] using hkind)]
  rfl

theorem clrTake_flies (hread : clrRead s p q = some (s1, some (d, a))) (hturn : clrTurn s p q = true)
    (hmay : clrMayTake s p q false = true) (hkind : clrOp d = kind)
    (hgood : clrBad (clrAdvance s1 p q) p kind d = false) :
    clrTake s p q kind = clrFlies (clrAdvance s1 p q) p q kind d a := by
  rw [clrTake_taken hread hturn hmay (.inl hkind), hgood, if_neg Bool.false_ne_true]

theorem clrTake_aborts (hread : clrRead s p q = some (s1, some (d, a))) (hturn : clrTurn s p q = true)
    (hmay : clrMayTake s p q false = true) (hkind : clrOp d = kind ∨ kind = 1 ∧ (clrOp d = 0 ∨ 8 < clrOp d))
    (hbad : clrBad (clrAdvance s1 p q) p kind d = true) :
    clrTake s p q kind = clrComplete (clrAdvance s1 p q) p q d a stAborted 0 := by
  rw [clrTake_taken hread hturn hmay hkind, hbad, if_pos rfl]

/-- A put or a get is bad by its addresses and its length, or by its sig. -/
theorem clrBad_of_copy (hop : clrOp d = 1 ∨ clrOp d = 2) (hkind : kind ≠ 3) : clrBad s p kind d = true ↔
    ¬ (clrLocal d % 64 = 0 ∧ clrRemote d % 64 = 0 ∧ clrBytes d % 64 = 0) ∨ clrBadSig s p d = true := by
  have heven : (decide (clrOp d = 0) || decide (8 < clrOp d)) = false := by
    simp only [Bool.or_eq_false_iff, decide_eq_false_iff_not]
    omega
  rw [clrBad, heven, Bool.false_or, if_neg hkind]
  simp only [Bool.or_eq_true, bne_iff_ne]
  tauto

/-- A signal is bad by its event or by its sig. -/
theorem clrBad_of_signal (hop : clrOp d = 3) : clrBad s p 3 d = true ↔
    47 < fieldNat (descField d 16 8) 12 6 ∨ clrBadSig s p d = true := by
  have heven : (decide (clrOp d = 0) || decide (8 < clrOp d)) = false := by rw [hop]; decide
  rw [clrBad, heven, Bool.false_or, if_pos rfl, Bool.or_eq_true, decide_eq_true_eq, or_comm]

/-- An op that Table 10.5 does not assign is bad. -/
theorem clrBad_of_unassigned (hop : clrOp d = 0 ∨ 8 < clrOp d) : clrBad s p kind d = true := by
  have hodd : (decide (clrOp d = 0) || decide (8 < clrOp d)) = true := by simpa using hop
  rw [clrBad, hodd, Bool.true_or, Bool.true_or]

end Take

/-! ### Collectives (R345) -/

section Collectives

variable {p : PartId} {q : BitVec 2} {i : Instr} {op : Nat} {s s1 : State} {d : List Byte} {a : Nat}

/-- The commands of collectives take what their op names. -/
theorem does_collective (h : collectiveOf p q op = some i) (s : State) :
    Does i s (collTakeOp s p.toNat q.toNat op) := by
  revert h
  unfold collectiveOf
  split
  all_goals
    intro h
    cases h
  all_goals rfl

theorem collTakeOp_goes_on {p q : Nat}
    (hposted : (s.colls.any fun c => c.part == p && c.q == q && clrOp c.desc == op) = true) :
    collTakeOp s p q op = collGo s p q := if_pos hposted

/-- A queue that may take a collective has none. -/
theorem no_collective_of_mayTake {p q : Nat} (hmay : clrMayTake s p q true = true) :
    (s.colls.any fun c => c.part == p && c.q == q && clrOp c.desc == op) = false := by
  rw [clrMayTake, Bool.and_eq_true, Bool.not_eq_true', List.any_eq_false] at hmay
  refine List.any_eq_false.mpr fun c hc hposted => hmay.1 c hc ?_
  exact (Bool.and_eq_true_iff.mp hposted).1

/-- A collective that is posted, new. -/
def collPosted (s : State) (p q : Nat) (d : List Byte) (a : Nat) : Collective := ⟨p, q, d, a, 0, false, 0, [], elapsed s⟩

/-- What is taken at a queue's head as a collective is posted, or completes with ABORTED. -/
theorem collTakeOp_taken {p q : Nat} (hread : clrRead s p q = some (s1, some (d, a))) (hturn : clrTurn s p q = true)
    (hmay : clrMayTake s p q true = true) : collTakeOp s p q (clrOp d) =
      if clrBadSig (clrAdvance s1 p q) p d || collBad d then clrComplete (clrAdvance s1 p q) p q d a stAborted 0
      else collGo { clrAdvance s1 p q with
        colls := (clrAdvance s1 p q).colls ++ [collPosted (clrAdvance s1 p q) p q d a] } p q := by
  unfold collTakeOp
  rw [no_collective_of_mayTake hmay, if_neg Bool.false_ne_true, hread]
  dsimp only
  rw [if_neg (by simp [hturn, hmay])]
  rfl

/-- A collective of one member has no step, but for a broadcast. -/
theorem collSteps_of_single (hn : clrN d = 1) (hop : clrOp d ≠ 7) : collSteps d = 0 := by
  unfold collSteps
  split
  · rw [hn]
  · rw [hn]
  · contradiction
  · rw [hn]

theorem collRun_ends (n : Nat) (s : State) {c : Collective} (h : collSteps c.desc ≤ c.step) :
    collRun (n + 1) s c = collEnd s c stOk := if_pos h

/-- The only collective of a queue ends when it has no step left. -/
theorem collGo_ends {p q : Nat} {c : Collective} (hfind : (s.colls.find? fun c => c.part == p && c.q == q) = some c)
    (hsteps : collSteps c.desc ≤ c.step) : collGo s p q = collEnd s c stOk := by
  rw [collGo, hfind]
  exact collRun_ends _ s hsteps

/-- A collective posted where its queue had none is the one of its queue. -/
theorem find_posted {p q : Nat} {l : List Collective} {c : Collective} (halone : ∀ x ∈ l, ¬ (x.part = p ∧ x.q = q))
    (hpart : c.part = p) (hq : c.q = q) : ((l ++ [c]).find? fun c => c.part == p && c.q == q) = some c := by
  have hnone : (l.find? fun c => c.part == p && c.q == q) = none :=
    List.find?_eq_none.mpr fun x hx h => halone x hx (by simpa using h)
  rw [List.find?_append, hnone, Option.none_or]
  exact List.find?_cons_of_pos (by simp [hpart, hq])

theorem does_collectiveStepTimeout {c : Collective}
    (hfind : (s.colls.find? fun c => c.part == p.toNat && c.q == q.toNat) = some c)
    (htime : regField s oClrCtl 16 16 ≠ 0) : Does (.collectiveStepTimeout p q) s
      (collEnd (advanceTo s (c.at_ + regField s oClrCtl 16 16 * 1000000)) c stAborted) := by
  refine congrArg Host.Outcome.next ?_
  dsimp only
  rw [hfind]
  exact if_neg htime

end Collectives

/-! ### Frames that arrive (R339, R341, R344, R345) -/

section Frames

variable {n : PortId} {x : Frame} {s s1 s2 : State}

theorem accept_arrives {k : Nat} (harr : Arrives s k x s1) : accept s k x = (s1, true) := by
  obtain ⟨hup, hnext, hs1⟩ := harr
  rw [accept, if_neg (not_not_intro hup), if_pos hnext, hs1]

/-- A frame that arrives leaves the layouts. -/
theorem Arrives.parts {k : Nat} (harr : Arrives s k x s1) : s1.parts = s.parts := by
  rw [harr.2.2, setPort_parts]

theorem domainPart_congr {s t : State} (h : t.parts = s.parts) (dom : Nat) : domainPart t dom = domainPart s dom := by
  simp only [domainPart, getPart, h]

/-- A frame for this node with the next number is handled. -/
theorem onFrame_handled {k type : Nat} {f : State → Option State} (harr : Arrives s k x s1)
    (htype : x.type.toNat = type) (hmine : x.dst.toNat = ownNode s) (hserved : f s1 = some s2) :
    onFrame s k x type f = handled s2 k x := by
  rw [onFrame, if_neg (by simp [htype, hmine]), accept_arrives harr]
  dsimp only
  rw [hserved]
  rfl

/-- A frame for this node that is not delivered leaves what its number brings. -/
theorem onFrame_dropped {k type : Nat} {f : State → Option State} {t : State} (hdrop : accept s k x = (t, false))
    (htype : x.type.toNat = type) (hmine : x.dst.toNat = ownNode s) : onFrame s k x type f = t := by
  rw [onFrame, if_neg (by simp [htype, hmine]), hdrop]

/-- A request for this node is served and answered. -/
theorem requestFrame_served {k type st : Nat} {bs : List Byte} (harr : Arrives s k x s1)
    (htype : x.type.toNat = type) (hmine : x.dst.toNat = ownNode s) (hserve : serveFrame s1 k x = some (s2, st, bs)) :
    requestFrame s k x type = handled (answer s2 ((domainPart s1 x.domain.toNat).getD 0) x st bs) k x := by
  refine onFrame_handled harr htype hmine ?_
  rw [hserve]
  rfl

theorem does_readResponseFrame (harr : Arrives s n.toNat x s1) (hmine : x.dst.toNat = ownNode s) (htype : x.type = 3)
    (hresp : clrResponse s1 x = some s2) : Does (.readResponseFrame n x) s (handled s2 n.toNat x) :=
  congrArg Host.Outcome.next (onFrame_handled harr (by rw [htype]; rfl) hmine hresp)

theorem does_writeResponseFrame (harr : Arrives s n.toNat x s1) (hmine : x.dst.toNat = ownNode s) (htype : x.type = 6)
    (hop : x.op = 0) (hresp : clrResponse s1 x = some s2) :
    Does (.writeResponseFrame n x) s (handled s2 n.toNat x) :=
  congrArg Host.Outcome.next (onFrame_handled harr (by rw [htype]; rfl) hmine ((if_pos hop).trans hresp))

/-- A response that names a collective ends the member's with the status it carries. -/
theorem does_writeResponseFrame_collective {c : Collective} (harr : Arrives s n.toNat x s1)
    (hmine : x.dst.toNat = ownNode s) (htype : x.type = 6) (hop : x.op ≠ 0) (hfind : (s1.colls.find? fun c =>
      stagedFor s1 c.part c.q x && clrColl c.desc % 65536 == x.collId.toNat) = some c) :
    Does (.writeResponseFrame n x) s
      (handled (collEnd s1 c (if x.status = 0 then stAborted else x.status.toNat)) n.toNat x) := by
  refine congrArg Host.Outcome.next (onFrame_handled harr (by rw [htype]; rfl) hmine ((if_neg hop).trans ?_))
  rw [hfind]

/-- A collective's data counted at its port. -/
def dataCounted (s : State) (k : Nat) (x : Frame) : State := bump s 0x0A 8 x.payload.length (.port k)

/-- Counting a frame that has arrived leaves the partitions of the Clearing domains. -/
theorem domainPart_dataCounted {k : Nat} (harr : Arrives s k x s1) (dom : Nat) :
    domainPart (dataCounted s1 k x) dom = domainPart s dom :=
  domainPart_congr ((bump_parts _ _ _ _ _).trans harr.parts) dom

/-- Data for a Clearing domain of no partition is dropped. -/
theorem does_collectiveDataFrame_stray (harr : Arrives s n.toNat x s1) (hmine : x.dst.toNat = ownNode s)
    (htype : x.type = 4) (hdom : domainPart (dataCounted s1 n.toNat x) x.domain.toNat = none) :
    Does (.collectiveDataFrame n x) s (giveCredit (dataCounted s1 n.toNat x) n.toNat 2 (frameCredits x)) := by
  have hdom' : domainPart s x.domain.toNat = none :=
    (domainPart_dataCounted harr _).symm.trans hdom
  refine congrArg Host.Outcome.next ((if_neg (by simp [htype, hmine])).trans ?_)
  rw [accept_arrives harr]
  dsimp only
  rw [hdom']
  rfl

section Staged

variable (harr : Arrives s n.toNat x s1) (hmine : x.dst.toNat = ownNode s) (htype : x.type = 4) {m : Nat}
  (hdom : domainPart (dataCounted s1 n.toNat x) x.domain.toNat = some m)

include harr hmine htype hdom

/-- Data waits in the staging buffer until its collective takes it. -/
theorem does_collectiveDataFrame_staged (hroom : stagedBytes (dataCounted s1 n.toNat x) < 2 ^ 21) :
    Does (.collectiveDataFrame n x) s (collGo (giveCredit { dataCounted s1 n.toNat x with
      staging := (dataCounted s1 n.toNat x).staging ++ [(none, x)] } n.toNat 2 (frameCredits x)) m x.tag.toNat) := by
  have hdom' : domainPart s x.domain.toNat = some m :=
    (domainPart_dataCounted harr _).symm.trans hdom
  have hfull : decide (2 ^ 21 ≤ stagedBytes (dataCounted s1 n.toNat x)) = false := decide_eq_false (Nat.not_le.mpr hroom)
  refine congrArg Host.Outcome.next ((if_neg (by simp [htype, hmine])).trans ?_)
  rw [accept_arrives harr]
  dsimp only
  rw [hdom']
  dsimp only
  rw [dataCounted] at hfull
  rw [hfull, if_neg Bool.false_ne_true, if_neg Bool.false_ne_true]
  rfl

/-- While the staging buffer is full a frame's credit is withheld. -/
theorem does_collectiveDataFrame_withheld (hfull : 2 ^ 21 ≤ stagedBytes (dataCounted s1 n.toNat x)) :
    Does (.collectiveDataFrame n x) s (collGo { dataCounted s1 n.toNat x with
      staging := (dataCounted s1 n.toNat x).staging ++ [(some n.toNat, x)] } m x.tag.toNat) := by
  have hdom' : domainPart s x.domain.toNat = some m :=
    (domainPart_dataCounted harr _).symm.trans hdom
  have hfull' : decide (2 ^ 21 ≤ stagedBytes (dataCounted s1 n.toNat x)) = true := decide_eq_true hfull
  refine congrArg Host.Outcome.next ((if_neg (by simp [htype, hmine])).trans ?_)
  rw [accept_arrives harr]
  dsimp only
  rw [hdom']
  dsimp only
  rw [dataCounted] at hfull'
  rw [hfull', if_pos rfl, if_pos rfl]
  rfl

end Staged

/-- Every command by which a frame for this node arrives leaves what the number of a frame not delivered brings. -/
theorem does_arrival_dropped {i : Instr} {t : State} (harr : arrivalOf n x x.type.toNat = some i)
    (hmine : x.dst.toNat = ownNode s) (hdrop : accept s n.toNat x = (t, false)) : Does i s t := by
  revert harr
  generalize htype : x.type.toNat = type
  unfold arrivalOf
  split <;> intro harr <;> cases harr
  case h_4 =>
    refine congrArg Host.Outcome.next ((if_neg (by simp [htype, hmine])).trans ?_)
    rw [hdrop]
  all_goals exact congrArg Host.Outcome.next (onFrame_dropped hdrop htype hmine)

section Number

variable {k : Nat}

theorem accept_down (hdown : (getPort s k).state ≠ .up) : accept s k x = (s, false) := if_pos hdown

variable (hup : (getPort s k).state = .up) (hnot : x.lseq.toNat ≠ (getPort s k).expects)

include hup hnot

theorem accept_repeated (hold : ((getPort s k).expects + 65536 - x.lseq.toNat) % 65536 ≤ 32768) :
    accept s k x = (frameSeen s k, false) :=
  (if_neg (not_not_intro hup)).trans ((if_neg hnot).trans (if_pos hold))

theorem accept_gap (hgap : 32768 < ((getPort s k).expects + 65536 - x.lseq.toNat) % 65536) : accept s k x =
    (emit (discarded (frameSeen s k) k) (.ack k (getPort s k).expects (getPort s k).given true), false) :=
  (if_neg (not_not_intro hup)).trans ((if_neg hnot).trans (if_neg (Nat.not_le.mpr hgap)))

end Number

/-! ### Frames for other nodes (R339) -/

section Forwarded

/-- A frame to be forwarded, counted at its port. -/
def forwardCounted (s : State) (k : Nat) (x : Frame) : State := bump s 0x0A 7 x.payload.length (.port k)

/-- A frame that does not go on: its credits given back, counted as discarded. -/
def forwardGone (s : State) (k : Nat) (x : Frame) : State :=
  discarded (giveCredit (forwardCounted s k x) k x.vc.toNat (frameCredits x)) k

variable (harr : Arrives s n.toNat x s1) (hother : x.dst.toNat ≠ ownNode s) (htype : x.type.toNat ≤ 6)

include harr hother htype

theorem does_forwardedFrame_gone (hstays : ¬ (x.hops ≠ 0 ∧ bitNat (getReg s oClrCtl).toNat 32 = true)) :
    Does (.forwardedFrame n x) s (forwardGone s1 n.toNat x) := by
  refine congrArg Host.Outcome.next ((if_neg (by simp [hother, htype])).trans ?_)
  rw [accept_arrives harr]
  exact if_pos (by simpa [or_iff_not_imp_left] using hstays)

theorem does_forwardedFrame (hgoes : x.hops ≠ 0 ∧ bitNat (getReg s oClrCtl).toNat 32 = true) :
    Does (.forwardedFrame n x) s
      ((sendFrame (forwardCounted s1 n.toNat x) (16 + n.toNat) { x with hops := x.hops - 1 }).getD
        (answerLinkDown (forwardGone s1 n.toNat x) x)) := by
  obtain ⟨hhops, hfwd⟩ := hgoes
  refine congrArg Host.Outcome.next ((if_neg (by simp [hother, htype])).trans ?_)
  rw [accept_arrives harr]
  dsimp only
  rw [if_neg (by simpa [hfwd] using hhops), ← forwardCounted]
  cases sendFrame (forwardCounted s1 n.toNat x) (16 + n.toNat) { x with hops := x.hops - 1 } <;> rfl

end Forwarded

end Frames

/-! ### What R343 to R345 give for a queue and for a frame -/

section Queue

variable {s s1 : State} {p : PartId} {q : BitVec 2} {d : List Byte} {a : Nat}
  (hread : clrRead s p.toNat q.toNat = some (s1, some (d, a))) (hturn : clrTurn s p.toNat q.toNat = true)

include hread hturn

section Single

variable (hmay : clrMayTake s p.toNat q.toNat false = true)

include hmay

theorem clrTake_flies_of_good (hsig : clrBadSig (clrAdvance s1 p.toNat q.toNat) p.toNat d = false) :
    (∀ kind, kind = 1 ∨ kind = 2 → clrOp d = kind →
      clrLocal d % 64 = 0 ∧ clrRemote d % 64 = 0 ∧ clrBytes d % 64 = 0 →
      clrTake s p.toNat q.toNat kind = clrFlies (clrAdvance s1 p.toNat q.toNat) p.toNat q.toNat kind d a) ∧
    (clrOp d = 3 → fieldNat (descField d 16 8) 12 6 ≤ 47 →
      clrTake s p.toNat q.toNat 3 = clrFlies (clrAdvance s1 p.toNat q.toNat) p.toNat q.toNat 3 d a) := by
  refine ⟨fun kind hkind hop haligned => clrTake_flies hread hturn hmay hop ?_,
    fun hop hevent => clrTake_flies hread hturn hmay hop ?_⟩
  · rw [Bool.eq_false_iff, ne_eq, clrBad_of_copy (hop ▸ hkind) (by omega), hsig]
    simp [haligned]
  · rw [Bool.eq_false_iff, ne_eq, clrBad_of_signal hop, hsig]
    simp [hevent]

theorem clrTake_aborts_of_bad :
    (∀ kind, kind = 1 ∨ kind = 2 → clrOp d = kind →
      ¬ (clrLocal d % 64 = 0 ∧ clrRemote d % 64 = 0 ∧ clrBytes d % 64 = 0) ∨
        clrBadSig (clrAdvance s1 p.toNat q.toNat) p.toNat d = true →
      clrTake s p.toNat q.toNat kind =
        clrComplete (clrAdvance s1 p.toNat q.toNat) p.toNat q.toNat d a stAborted 0) ∧
    (clrOp d = 3 → 47 < fieldNat (descField d 16 8) 12 6 ∨
        clrBadSig (clrAdvance s1 p.toNat q.toNat) p.toNat d = true →
      clrTake s p.toNat q.toNat 3 =
        clrComplete (clrAdvance s1 p.toNat q.toNat) p.toNat q.toNat d a stAborted 0) ∧
    (clrOp d = 0 ∨ 8 < clrOp d → clrTake s p.toNat q.toNat 1 =
      clrComplete (clrAdvance s1 p.toNat q.toNat) p.toNat q.toNat d a stAborted 0) := by
  refine ⟨fun kind hkind hop hbad => clrTake_aborts hread hturn hmay (.inl hop) ?_,
    fun hop hbad => clrTake_aborts hread hturn hmay (.inl hop) ((clrBad_of_signal hop).mpr hbad),
    fun hop => clrTake_aborts hread hturn hmay (.inr ⟨rfl, hop⟩) (clrBad_of_unassigned hop)⟩
  exact (clrBad_of_copy (hop ▸ hkind) (by omega)).mpr hbad

end Single

section Collective

variable {i : Instr} (hmay : clrMayTake s p.toNat q.toNat true = true) (hcoll : collectiveOf p q (clrOp d) = some i)

include hmay hcoll

/-- The state in which the collective of a queue's head is posted. -/
def withPosted (s : State) (p q : Nat) (d : List Byte) (a : Nat) : State :=
  { s with colls := s.colls ++ [collPosted s p q d a] }

theorem does_collective_posted (hsig : clrBadSig (clrAdvance s1 p.toNat q.toNat) p.toNat d = false)
    (hgood : collBad d = false) : Does i s
      (collGo (withPosted (clrAdvance s1 p.toNat q.toNat) p.toNat q.toNat d a) p.toNat q.toNat) := by
  have hdoes := does_collective hcoll s
  rwa [collTakeOp_taken hread hturn hmay, hsig, hgood, if_neg (by decide)] at hdoes

/-- A collective of a single member ends at once. -/
theorem does_collective_single (hsig : clrBadSig (clrAdvance s1 p.toNat q.toNat) p.toNat d = false)
    (hgood : collBad d = false) (halone : ∀ x ∈ s1.colls, ¬ (x.part = p.toNat ∧ x.q = q.toNat)) (hn : clrN d = 1)
    (hop : clrOp d ≠ 7) : Does i s (collEnd (withPosted (clrAdvance s1 p.toNat q.toNat) p.toNat q.toNat d a)
      (collPosted (clrAdvance s1 p.toNat q.toNat) p.toNat q.toNat d a) stOk) := by
  have hdoes := does_collective_posted hread hturn hmay hcoll hsig hgood
  have hfind : ((withPosted (clrAdvance s1 p.toNat q.toNat) p.toNat q.toNat d a).colls.find?
      fun c => c.part == p.toNat && c.q == q.toNat) =
        some (collPosted (clrAdvance s1 p.toNat q.toNat) p.toNat q.toNat d a) :=
    find_posted (l := s1.colls) halone rfl rfl
  rwa [collGo_ends hfind (Nat.le_of_eq (collSteps_of_single hn hop))] at hdoes

theorem does_collective_aborts (hbad : clrBadSig (clrAdvance s1 p.toNat q.toNat) p.toNat d = true ∨ collBad d = true) :
    Does i s (clrComplete (clrAdvance s1 p.toNat q.toNat) p.toNat q.toNat d a stAborted 0) := by
  have hdoes := does_collective hcoll s
  rwa [collTakeOp_taken hread hturn hmay, if_pos (by simpa using hbad)] at hdoes

end Collective

end Queue

/-- Settles O49: a queue's head by its op and what it asks for, a frame by its type, its number and its node. -/
theorem clearing : Obligations.Clearing := by
  unfold Obligations.Clearing
  refine ⟨fun r p q w s s1 d a => ?_, fun n x s s1 s2 => ?_⟩
  · refine ⟨fun hmay => congrArg Host.Outcome.next (regWrite_of_writable hmay _),
      fun hread => ⟨congrArg Host.Outcome.next (clrTake_halts hread), congrArg Host.Outcome.next (clrTake_halts hread),
        congrArg Host.Outcome.next (clrTake_halts hread)⟩,
      fun hread hturn => ⟨fun hmay => ⟨fun hsig => ?flies, ?_⟩, fun i hmay hcoll => ⟨fun hsig hgood => ⟨?_, ?_⟩, ?_⟩⟩,
      fun i op hcoll hposted => ?_, fun c hfind htime => does_collectiveStepTimeout hfind htime⟩
    case flies =>
      obtain ⟨hcopy, hsignal⟩ := clrTake_flies_of_good hread hturn hmay hsig
      exact ⟨fun hop haligned => congrArg Host.Outcome.next (hcopy 1 (.inl rfl) hop haligned),
        fun hop haligned => congrArg Host.Outcome.next (hcopy 2 (.inr rfl) hop haligned),
        fun hop hevent => congrArg Host.Outcome.next (hsignal hop hevent)⟩
    · obtain ⟨hcopy, hsignal, hodd⟩ := clrTake_aborts_of_bad hread hturn hmay
      exact ⟨fun hop hbad => congrArg Host.Outcome.next (hcopy 1 (.inl rfl) hop hbad),
        fun hop hbad => congrArg Host.Outcome.next (hcopy 2 (.inr rfl) hop hbad),
        fun hop hbad => congrArg Host.Outcome.next (hsignal hop hbad),
        fun hop => congrArg Host.Outcome.next (hodd hop)⟩
    · exact does_collective_posted hread hturn hmay hcoll hsig hgood
    · exact does_collective_single hread hturn hmay hcoll hsig hgood
    · exact does_collective_aborts hread hturn hmay hcoll
    · have hdoes := does_collective hcoll s
      rwa [collTakeOp_goes_on hposted] at hdoes
  · refine ⟨fun harr hmine => ⟨fun st bs hserve => ?_, fun hresp => ?_, fun c htype hop hfind => ?_, fun htype => ?_⟩,
      fun i hi hmine => ⟨fun hdown => ?_, fun hup hnot => ⟨fun hold => ?_, fun hgap => ?_⟩⟩,
      fun harr hother htype => ⟨fun u hgoes hsent => ?_, fun hgoes hsent => ?_, fun hstays => ?_⟩⟩
    · refine ⟨fun htype => ?_, fun htype => ?_, fun htype => ?_⟩ <;>
        exact congrArg Host.Outcome.next (requestFrame_served harr (by rw [htype]; rfl) hmine hserve)
    · exact ⟨fun htype => does_readResponseFrame harr hmine htype hresp,
        fun htype hop => does_writeResponseFrame harr hmine htype hop hresp⟩
    · exact does_writeResponseFrame_collective harr hmine htype hop hfind
    · exact ⟨does_collectiveDataFrame_stray harr hmine htype, fun m hdom =>
        ⟨does_collectiveDataFrame_staged harr hmine htype hdom, does_collectiveDataFrame_withheld harr hmine htype hdom⟩⟩
    · exact does_arrival_dropped hi hmine (accept_down hdown)
    · exact does_arrival_dropped hi hmine (accept_repeated hup hnot hold)
    · exact does_arrival_dropped hi hmine (accept_gap hup hnot hgap)
    · have hdoes := does_forwardedFrame harr hother htype hgoes
      rwa [forwardCounted, hsent] at hdoes
    · have hdoes := does_forwardedFrame harr hother htype hgoes
      rwa [forwardCounted, hsent] at hdoes
    · exact does_forwardedFrame_gone harr hother htype hstays

end Sys2Proof.Machine

/-! Idle steps (O2): a step with nothing waiting, and the effect that every command has. -/

namespace Sys2Proof.Machine

/-- With no command waiting a step lets a nanosecond pass. -/
theorem step_idle {s : State} (h : s.pending = []) : step s = .next (tick s) := by
  unfold step
  rw [h]

/-- A step has the effect of the command at the front of the queue. -/
theorem step_front {s : State} {c : Instr} {rest : List Instr} (h : s.pending = c :: rest) :
    step s = exec c { s with pending := rest } := by
  unfold step
  rw [h]

/-- Every command has an effect: each meaning in the dispatch answers a next state. -/
theorem exec_answers (i : Instr) (s : State) : ∃ t, exec i s = .next t := by
  cases i <;> exact ⟨_, rfl⟩

/-- Settles O2: an idle step is a tick of the clock, any other has the effect of a command. -/
theorem stepAlwaysAnswers : Obligations.StepAlwaysAnswers := by
  unfold Obligations.StepAlwaysAnswers
  refine ⟨fun s hidle => step_idle hidle, fun s => ?_⟩
  cases hqueue : s.pending with
  | nil => exact ⟨tick s, step_idle hqueue⟩
  | cons c rest => exact (exec_answers c _).imp fun t heffect => (step_front hqueue).trans heffect

end Sys2Proof.Machine

/-! The hallmark (O51): pulses by the state of the alignment, announced steps and the timers they pass, slews, followers,
the halves of the epoch pair, and the alignment switched on and off. -/

namespace Sys2Proof.Machine

/-! ### What a change of the alignment, and a change of registers alone, leave as they were -/

@[simp] theorem modHm_hm (s : State) (f : HmSt → HmSt) : (modHm s f).hm = f s.hm := rfl
@[simp] theorem getReg_modHm (s : State) (f : HmSt → HmSt) (o : Nat) : getReg (modHm s f) o = getReg s o := rfl

theorem OnlyRegs.hm_eq {s t : State} (h : OnlyRegs s t) : t.hm = s.hm := by
  obtain ⟨r, rfl⟩ := h
  rfl

theorem OnlyRegs.mem_eq {s t : State} (h : OnlyRegs s t) : t.mem = s.mem := by
  obtain ⟨r, rfl⟩ := h
  rfl

/-! ### Which pulses are valid (R364) -/

section Pulse

variable {s : State} {cap : Word} {long : Bool}

theorem does_ppsPulse_rejected (h : ppsValid (hallmarkTo s cap.toNat) long (cap.toNat - s.hm.steps) = false) :
    Does (.ppsPulse cap long) s (addRegField (hallmarkTo s cap.toNat) oPcnt 32 32 1) :=
  congrArg Host.Outcome.next (if_neg (by rw [h]; exact Bool.false_ne_true))

theorem does_ppsPulse_valid (h : ppsValid (hallmarkTo s cap.toNat) long (cap.toNat - s.hm.steps) = true) :
    Does (.ppsPulse cap long) s (validPulse (hallmarkTo s cap.toNat) cap.toNat (cap.toNat - s.hm.steps)) :=
  congrArg Host.Outcome.next (if_pos h)

end Pulse

section Valid

variable {s : State} {t : Nat}

theorem ppsValid_acquire (h : s.hm.state = .acquire) : ppsValid s true t = true := by
  simp [ppsValid, h]

theorem ppsValid_first (hfree : s.hm.state = .free) (hnone : s.hm.lastPulse = none) : ppsValid s true t = true := by
  simp [ppsValid, hfree, hnone]

end Valid

/-! ### What a valid pulse does (R365, R366, Table 11.3) -/

/-- The registers of a valid pulse: its capture, its error, and the count of pulses. -/
def pulseNoted (s : State) (cap : Nat) : State :=
  addRegField (setReg (setReg s oPpsCap (BitVec.ofNat 64 cap)) oPpsErr
    (BitVec.ofNat 64 (twos 40 (ppsError (cap % 1000000000))))) oPcnt 0 32 1

/-- The good pulses in a row, after one captured at a hallmark. -/
def goodAfter (s : State) (cap : Nat) : Nat :=
  if (ppsError (cap % 1000000000)).natAbs ≤ 100 then s.hm.good + 1 else 0

/-- The state in which the phase and the frequency are corrected for a valid pulse. -/
def corrected (s : State) (cap t : Nat) : State := correct (adjustFreq (pulseNoted s cap) t) (cap % 1000000000)

theorem pulseNoted_onlyRegs (s : State) (cap : Nat) : OnlyRegs s (pulseNoted s cap) := ⟨_, rfl⟩

theorem getReg_pulseNoted_oPpsCap (s : State) (cap : Nat) :
    getReg (pulseNoted s cap) oPpsCap = BitVec.ofNat 64 cap := by
  rw [pulseNoted, addRegField, getReg_setRegField_ne _ _ _ _ (by decide), getReg_setReg_ne _ _ _ _ (by decide),
    getReg_setReg_self]

theorem adjustFreq_onlyRegs (s : State) (t : Nat) : OnlyRegs s (adjustFreq s t) := by
  unfold adjustFreq
  split
  · exact .rfl' s
  · exact .setReg _ _ _

theorem freqAdjusted_onlyRegs (s : State) (cap t : Nat) : OnlyRegs s (adjustFreq (pulseNoted s cap) t) :=
  (pulseNoted_onlyRegs s cap).trans (adjustFreq_onlyRegs _ t)

theorem announceStep_mem (s : State) (size : Nat) : (announceStep s size).mem = s.mem := by
  unfold announceStep
  split <;> rfl

theorem correct_mem (s : State) (x : Nat) : (correct s x).mem = s.mem := by
  unfold correct
  dsimp only
  split
  · split
    · rfl
    · exact ledger_mem _ _ _ _ _ _
  · split
    · rfl
    · exact announceStep_mem s _

/-- An error of less than a microsecond ahead is slewed away. -/
theorem correct_of_ahead {x : Nat} (s : State) (hx : x < 1000) :
    correct s x = modHm s fun m => { m with slew := x } := by
  unfold correct
  rw [if_pos (by omega)]
  exact if_pos hx

theorem corrected_mem (s : State) (cap t : Nat) : (corrected s cap t).mem = s.mem :=
  (correct_mem _ _).trans (freqAdjusted_onlyRegs s cap t).mem_eq

section Aligned

variable {s : State} {cap t : Nat}

theorem goodAfter_of_ahead (hx : cap % 1000000000 ≤ 100) : goodAfter s cap = s.hm.good + 1 := by
  have hsmall : (ppsError (cap % 1000000000)).natAbs ≤ 100 := by
    rw [ppsError, if_pos (by omega), Int.natAbs_natCast]
    exact hx
  exact if_pos hsmall

theorem corrected_hm_of_ahead (hx : cap % 1000000000 ≤ 100) :
    (corrected s cap t).hm = { s.hm with slew := (cap % 1000000000 : Nat) } := by
  rw [corrected, correct_of_ahead _ (by omega), modHm_hm, (freqAdjusted_onlyRegs s cap t).hm_eq]

theorem validPulse_free (h : s.hm.state = .free) :
    validPulse s cap t = modHm (pulseNoted s cap) fun m => { m with lastPulse := some t } := by
  unfold validPulse
  rw [h]
  rfl

theorem validPulse_acquire (h : s.hm.state = .acquire) (hfirst : s.hm.first = false) :
    validPulse s cap t = modHm (modHm (corrected s cap t) fun m =>
      { m with first := false, good := goodAfter s cap,
               state := if 3 ≤ goodAfter s cap then .locked else .acquire }) fun m => { m with lastPulse := some t } := by
  unfold validPulse
  rw [h, hfirst]
  rfl

theorem validPulse_held (h : s.hm.state = .locked ∨ s.hm.state = .holdover) :
    validPulse s cap t = modHm (modHm (corrected s cap t) fun m => { m with state := .locked })
      fun m => { m with lastPulse := some t } := by
  unfold validPulse
  rcases h with h | h <;> rw [h] <;> rfl

end Aligned

/-! ### Holdover (Table 11.3) -/

theorem does_ppsHoldover {s : State} {l : Nat} (hlocked : s.hm.state = .locked) (hlast : s.hm.lastPulse = some l) :
    Does .ppsHoldover s (modHm (advanceTo s (l + 2500000000)) fun m => { m with state := .holdover }) := by
  show execPpsHoldover s = _
  unfold execPpsHoldover
  rw [hlocked, hlast]

/-! ### Announced steps (R362, R363) -/

/-- t differs from s at most in its cores and in the event counters. -/
structure OnlyCoresCounted (s t : State) : Prop where
  rest : t = { s with cores := t.cores, regs := t.regs }
  low  : ∀ o, o < oPctl → getReg t o = getReg s o

namespace OnlyCoresCounted

theorem refl (s : State) : OnlyCoresCounted s s := ⟨rfl, fun _ _ => rfl⟩

theorem trans {s t u : State} (h : OnlyCoresCounted s t) (k : OnlyCoresCounted t u) : OnlyCoresCounted s u :=
  ⟨k.rest.trans (by rw [h.rest]), fun o ho => (k.low o ho).trans (h.low o ho)⟩

theorem modCore (s : State) (c : Nat) (f : CoreSt → CoreSt) : OnlyCoresCounted s (modCore s c f) :=
  ⟨rfl, fun _ _ => rfl⟩

theorem bump (s : State) (tbl evt n : Nat) (u : CountedIn) : OnlyCoresCounted s (bump s tbl evt n u) := by
  refine ⟨?_, fun o ho => getReg_bump ho s tbl evt n u⟩
  obtain ⟨r, hr⟩ := bump_onlyRegs s tbl evt n u
  rw [hr]

theorem commit (s : State) (c : Nat) (a b : Word) : OnlyCoresCounted s (commit s c a b) :=
  (modCore s c _).trans (bump _ _ _ _ _)

theorem endWait (s : State) (c : Nat) (f : CoreSt → CoreSt) : OnlyCoresCounted s (endWait s c f) :=
  ((modCore s c _).trans (modCore _ c _)).trans (commit _ c _ _)

theorem signalEvent (s : State) (c n : Nat) : OnlyCoresCounted s (signalEvent s c n) := by
  have hset : OnlyCoresCounted s (setEvent s c n) := modCore _ _ _
  unfold Machine.signalEvent wake
  extract_lets x
  split
  · extract_lets m
    split
    · exact hset
    · exact hset.trans (endWait _ _ _)
  · exact hset

theorem foldl {β : Type} {f : State → β → State} (h : ∀ s x, OnlyCoresCounted s (f s x)) (l : List β) (s : State) :
    OnlyCoresCounted s (l.foldl f s) := by
  induction l generalizing s with
  | nil => exact refl s
  | cons x l ih => exact (h s x).trans (ih _)

theorem hm_eq {s t : State} (h : OnlyCoresCounted s t) : t.hm = s.hm := by rw [h.rest]
theorem hallmark_eq {s t : State} (h : OnlyCoresCounted s t) : t.hallmark = s.hallmark := by rw [h.rest]
theorem mem_eq {s t : State} (h : OnlyCoresCounted s t) : t.mem = s.mem := by rw [h.rest]

end OnlyCoresCounted

/-- A core whose timer lies on the way of a step hears of it at once (R363). -/
def timerPassed (before after : Nat) (s : State) (e : Nat × CoreSt) : State :=
  let w := (getCw e.2 0xB).toNat
  if before < w && w ≤ after then signalEvent (modCore s e.1 fun x => setCw x 0xB 0) e.1 48 else s

theorem timerPassed_onlyCoresCounted (before after : Nat) (s : State) (e : Nat × CoreSt) :
    OnlyCoresCounted s (timerPassed before after s e) := by
  unfold timerPassed
  extract_lets w
  split
  · exact (OnlyCoresCounted.modCore _ _ _).trans (.signalEvent _ _ _)
  · exact .refl s

/-- The hallmark moved by a step, with the hallmark it moved to told in HM_STEP_AT. -/
def stepMoved (s : State) (before size : Nat) : State :=
  setReg (modHm { s with hallmark := before + size } fun m => { m with step := none, steps := m.steps + size }) oStepAt
    (BitVec.ofNat 64 (before + size))

/-- A step counted with its size in HM_STEP_NS and written to the ledger (R362). -/
def stepTold (s : State) (before size : Nat) : State :=
  ledger (setReg s oStepNs (BitVec.ofNat 64 ((regField s oStepNs 48 16 + 1) % 65536 * 2 ^ 48 + size % 2 ^ 40)))
    0x0702 sevNotice none (sourceOf 0 0) (twoWords before ++ twoWords (before + size))

/-- The timers that a step passes. -/
def timersPassed (s : State) (before size : Nat) : State :=
  s.cores.foldl (timerPassed before (before + size)) s

/-- The state after a step from a hallmark on. -/
def stepApplied (s : State) (before size : Nat) : State :=
  timersPassed (stepTold (stepMoved s before size) before size) before size

theorem does_hallmarkStep {s : State} {a size : Nat} (h : s.hm.step = some (a, size)) :
    Does .hallmarkStep s (stepApplied (hallmarkTo s a) (max s.hallmark a) size) := by
  show execHallmarkStep s = _
  unfold execHallmarkStep
  rw [h]
  rfl

theorem timersPassed_onlyCoresCounted (s : State) (before size : Nat) :
    OnlyCoresCounted s (timersPassed s before size) :=
  .foldl (timerPassed_onlyCoresCounted _ _) _ _

theorem getReg_stepTold_oStepAt (s : State) (before size : Nat) :
    getReg (stepTold s before size) oStepAt = getReg s oStepAt := by
  rw [stepTold, getReg_ledger (by decide), getReg_setReg_ne _ _ _ _ (by decide)]

theorem stepApplied_spec (s : State) (before size : Nat) :
    (stepApplied s before size).hallmark = before + size ∧
    (stepApplied s before size).hm = { s.hm with step := none, steps := s.hm.steps + size } ∧
    getReg (stepApplied s before size) oStepAt = BitVec.ofNat 64 (before + size) ∧
    SameMemory s (stepApplied s before size) := by
  have htimers := timersPassed_onlyCoresCounted (stepTold (stepMoved s before size) before size) before size
  refine ⟨?_, ?_, ?_, sameMemory_of_mem ?_⟩
  · rw [stepApplied, htimers.hallmark_eq, stepTold, ledger_hallmark, setReg_hallmark]
    rfl
  · rw [stepApplied, htimers.hm_eq, stepTold, ledger_hm, setReg_hm]
    rfl
  · rw [stepApplied, htimers.low _ (by decide), getReg_stepTold_oStepAt, stepMoved, getReg_setReg_self]
  · rw [stepApplied, htimers.mem_eq, stepTold, ledger_mem, setReg_mem]
    rfl

/-! ### Slews and followers (R357, R359, R361) -/

/-- The elapsed time at which a slew has removed its error. -/
def slewEndsAt (s : State) : Nat :=
  s.hm.lastPulse.getD 0 + s.hm.slew.natAbs * 1000000 / slewPpm s

theorem does_slewEnd {s : State} (h : s.hm.slew ≠ 0) :
    Does .slewEnd s (modHm (advanceTo s (slewEndsAt s)) fun m => { m with slew := 0 }) :=
  congrArg Host.Outcome.next (if_neg h)

theorem does_followerUnlock {s : State} {die : DieId} (hd : die.toNat ≠ 0)
    (hlocked : bitNat s.hm.unlocked die.toNat = false) :
    Does (.followerUnlock die) s (ledger (modHm s fun m => { m with unlocked := m.unlocked + 2 ^ die.toNat }) 0x0701
      sevWarn none (srcDie die.toNat) [die.toNat]) :=
  congrArg Host.Outcome.next (if_neg (by simp [hd, hlocked]))

theorem does_followerLock {s : State} {die : DieId} (hunlocked : bitNat s.hm.unlocked die.toNat = true) :
    Does (.followerLock die) s (modHm s fun m => { m with unlocked := m.unlocked - 2 ^ die.toNat }) :=
  congrArg Host.Outcome.next (if_pos hunlocked)

/-! ### The epoch (R369, R370) -/

section Epoch

variable {s : State} {r : Req} {rev : Bool} {w : Word}

/-- The state with one half of the epoch pair written. -/
def epochHalf (s : State) (rev : Bool) (w : Word) : State := setReg s (if rev then oEpochR else oEpoch) w

theorem getReg_epochHalf_rev (s : State) (w : Word) : getReg (epochHalf s true w) oEpochR = w := getReg_setReg_self _ _ _
theorem getReg_epochHalf_rev_oEpoch (s : State) (w : Word) : getReg (epochHalf s true w) oEpoch = getReg s oEpoch :=
  getReg_setReg_ne _ _ _ _ (by decide)
theorem getReg_epochHalf_obv (s : State) (w : Word) : getReg (epochHalf s false w) oEpoch = w := getReg_setReg_self _ _ _
theorem getReg_epochHalf_obv_oEpochR (s : State) (w : Word) : getReg (epochHalf s false w) oEpochR = getReg s oEpochR :=
  getReg_setReg_ne _ _ _ _ (by decide)

theorem does_epochWrite (hmay : Writable s r (if rev then oEpochR else oEpoch)) :
    Does (.epochWrite r rev w) s (epochWrite s rev w) :=
  congrArg Host.Outcome.next (regWrite_of_writable hmay _)

theorem epochWrite_apart
    (h : getReg (epochHalf s rev w) oEpochR ≠ ~~~ getReg (epochHalf s rev w) oEpoch) :
    epochWrite s rev w = halfWritten (epochHalf s rev w) oEpoch rev false := by
  have hfalse : (getReg (epochHalf s rev w) oEpochR == ~~~ getReg (epochHalf s rev w) oEpoch) = false :=
    beq_eq_false_iff_ne.mpr h
  unfold epochHalf at hfalse ⊢
  simp only [epochWrite, hfalse, Bool.not_false, if_true]

/-- The alignment with an epoch taken up: a new one has a generation of its own. -/
def epochTaken (m : HmSt) (e : Word) : HmSt :=
  { m with epoch := e, epochBad := false, egen := if e = m.epoch then m.egen else (m.egen + 1) % 65536 }

theorem epochWrite_agree
    (h : getReg (epochHalf s rev w) oEpochR = ~~~ getReg (epochHalf s rev w) oEpoch) :
    (epochWrite s rev w).hm = epochTaken s.hm (getReg (epochHalf s rev w) oEpoch) ∧
      ∀ o, o ≠ oLdgStat → getReg (epochWrite s rev w) o = getReg (epochHalf s rev w) o := by
  have htrue : (getReg (epochHalf s rev w) oEpochR == ~~~ getReg (epochHalf s rev w) oEpoch) = true :=
    beq_iff_eq.mpr h
  unfold epochHalf at htrue ⊢
  unfold epochWrite
  extract_lets s0 agrees s1 e s2 s3
  have hagrees : (!agrees) = false := by rw [show agrees = true from htrue]; rfl
  rw [hagrees, if_neg Bool.false_ne_true]
  show _ = epochTaken s.hm e ∧ _
  by_cases hsame : e = s.hm.epoch
  · rw [if_pos hsame, epochTaken, if_pos hsame, hsame]
    exact ⟨rfl, fun _ _ => rfl⟩
  · rw [if_neg hsame, epochTaken, if_neg hsame, ledger_hm]
    exact ⟨rfl, fun o ho => getReg_ledger ho _ _ _ _ _ _⟩

end Epoch

/-! ### The alignment switched on and off (Table 11.3) -/

section Enable

variable {s : State} {r : Req} {w : Word}

theorem does_ppsEnableWrite (hmay : Writable s r oHmCtl) : Does (.ppsEnableWrite r w) s (hmCtlWrite s w) :=
  congrArg Host.Outcome.next (regWrite_of_writable hmay _)

theorem hmCtlWrite_off (h : w.getLsbD 0 = false) :
    (hmCtlWrite s w).hm = { s.hm with state := .free, slew := 0 } := by
  simp only [hmCtlWrite, h, Bool.not_false, if_true, modHm_hm, setReg_hm]

theorem hmCtlWrite_on (h : w.getLsbD 0 = true) (hfree : s.hm.state = .free) :
    (hmCtlWrite s w).hm = { s.hm with state := .acquire, first := true, good := 0 } := by
  simp only [hmCtlWrite, h, hfree, Bool.not_true, Bool.false_eq_true, if_true, if_false, modHm_hm, setReg_hm]

theorem hmCtlWrite_kept (h : w.getLsbD 0 = true) (hnot : s.hm.state ≠ .free) : (hmCtlWrite s w).hm = s.hm := by
  simp only [hmCtlWrite, h, hnot, Bool.not_true, Bool.false_eq_true, if_false, setReg_hm]

end Enable

/-! ### What each event does to the alignment -/

section Events

variable {s : State} {cap : Word}

/-- A valid pulse in locked or holdover leaves the alignment locked. -/
theorem ppsPulse_held (hvalid : ppsValid (hallmarkTo s cap.toNat) true (cap.toNat - s.hm.steps) = true)
    (hheld : s.hm.state = .locked ∨ s.hm.state = .holdover) :
    ∃ t, Does (.ppsPulse cap true) s t ∧ t.hm.state = .locked ∧ t.hm.lastPulse = some (cap.toNat - s.hm.steps) ∧
      SameMemory s t := by
  have hdoes := does_ppsPulse_valid hvalid
  rw [validPulse_held (s := hallmarkTo s cap.toNat) hheld] at hdoes
  exact ⟨_, hdoes, rfl, rfl, sameMemory_of_mem (corrected_mem (hallmarkTo s cap.toNat) _ _)⟩

/-- The first pulse in free is captured. -/
theorem ppsPulse_first (hfree : s.hm.state = .free) (hnone : s.hm.lastPulse = none) :
    ∃ t, Does (.ppsPulse cap true) s t ∧ getReg t oPpsCap = cap ∧ t.hm.state = .free ∧
      t.hm.lastPulse = some (cap.toNat - s.hm.steps) ∧ t.hallmark = max s.hallmark cap.toNat ∧ SameMemory s t := by
  have hdoes := does_ppsPulse_valid (s := s) (cap := cap) (ppsValid_first hfree hnone)
  rw [validPulse_free (s := hallmarkTo s cap.toNat) hfree] at hdoes
  refine ⟨_, hdoes, ?_, hfree, rfl, rfl, fun _ => rfl⟩
  rw [getReg_modHm, getReg_pulseNoted_oPpsCap, BitVec.ofNat_toNat, BitVec.setWidth_eq]

/-- A good pulse in acquire, not its first, is slewed and counted; the third in a row locks. -/
theorem ppsPulse_good (hacquire : s.hm.state = .acquire) (hfirst : s.hm.first = false)
    (hx : cap.toNat % 1000000000 ≤ 100) :
    ∃ t, Does (.ppsPulse cap true) s t ∧ t.hm.good = s.hm.good + 1 ∧ t.hm.slew = (cap.toNat % 1000000000 : Nat) ∧
      (2 ≤ s.hm.good → t.hm.state = .locked) ∧ (s.hm.good < 2 → t.hm.state = .acquire) := by
  have hdoes := does_ppsPulse_valid (s := s) (cap := cap) (ppsValid_acquire hacquire)
  rw [validPulse_acquire (s := hallmarkTo s cap.toNat) hacquire hfirst, goodAfter_of_ahead hx] at hdoes
  refine ⟨_, hdoes, rfl, ?_, fun hmany => if_pos (Nat.succ_le_succ hmany), fun hfew => if_neg ?_⟩
  · rw [modHm_hm, modHm_hm, corrected_hm_of_ahead hx]
  · show ¬ 3 ≤ s.hm.good + 1
    omega

end Events

/-- Settles O51: a pulse by the state of the alignment, a step by the timers it passes, the epoch by the half written
last. -/
theorem hallmark : Obligations.Hallmark := by
  unfold Obligations.Hallmark
  intro cap w die r s x d m now at_
  refine ⟨does_ppsPulse_rejected rfl, does_ppsPulse_rejected, ppsPulse_held, ppsPulse_first, ppsPulse_good,
    fun l hlocked hlast => ⟨_, does_ppsHoldover hlocked hlast, rfl, rfl⟩, fun a size hstep => ?step,
    fun hslew => ⟨_, does_slewEnd hslew, rfl⟩, fun hd hlocked => ?unlock, does_followerLock,
    fun hmay => ⟨fun hagree => ?takenR, fun hapart => ?keptR⟩, fun hmay => ⟨fun hagree => ?taken, fun hapart => ?kept⟩,
    fun hmay => ⟨fun hoff => ⟨_, does_ppsEnableWrite hmay, hmCtlWrite_off hoff⟩,
      fun hon hfree => ⟨_, does_ppsEnableWrite hmay, hmCtlWrite_on hon hfree⟩,
      fun hon hnot => ⟨_, does_ppsEnableWrite hmay, hmCtlWrite_kept hon hnot⟩⟩⟩
  case step =>
    exact ⟨_, does_hallmarkStep hstep, stepApplied_spec (hallmarkTo s a) (max s.hallmark a) size⟩
  case unlock =>
    exact ⟨_, does_followerUnlock hd hlocked, by rw [ledger_hm, modHm_hm], fun a => rdByte_ledger _ _ _ _ _ _ a⟩
  case takenR =>
    obtain ⟨hhm, hregs⟩ := epochWrite_agree (s := s) (rev := true) (w := w)
      (by rw [getReg_epochHalf_rev, getReg_epochHalf_rev_oEpoch, hagree])
    rw [getReg_epochHalf_rev_oEpoch] at hhm
    exact ⟨_, does_epochWrite hmay, congrArg HmSt.epoch hhm, congrArg HmSt.epochBad hhm,
      (hregs oEpochR (by decide)).trans (getReg_epochHalf_rev s w), congrArg HmSt.egen hhm⟩
  case keptR =>
    have hdoes := does_epochWrite (rev := true) (w := w) hmay
    rw [epochWrite_apart (by rwa [getReg_epochHalf_rev, getReg_epochHalf_rev_oEpoch])] at hdoes
    exact ⟨_, hdoes, rfl, getReg_epochHalf_rev s w⟩
  case taken =>
    obtain ⟨hhm, hregs⟩ := epochWrite_agree (s := s) (rev := false) (w := w)
      (by rw [getReg_epochHalf_obv_oEpochR, getReg_epochHalf_obv, hagree])
    rw [getReg_epochHalf_obv] at hhm
    exact ⟨_, does_epochWrite hmay, congrArg HmSt.epoch hhm, congrArg HmSt.epochBad hhm,
      (hregs oEpoch (by decide)).trans (getReg_epochHalf_obv s w), congrArg HmSt.egen hhm⟩
  case kept =>
    have hdoes := does_epochWrite (rev := false) (w := w) hmay
    rw [epochWrite_apart (by rwa [getReg_epochHalf_obv_oEpochR, getReg_epochHalf_obv])] at hdoes
    exact ⟨_, hdoes, rfl, getReg_epochHalf_obv s w⟩

end Sys2Proof.Machine

/-! The service port (O58): a repetition, and what each command of Table 15.8 answers and leaves. -/

namespace Sys2Proof.Machine

/-! ### What a change of the flash or of the comptroller reads as -/

@[simp] theorem modFlash_flash (s : State) (f : Flash → Flash) : (modFlash s f).flash = f s.flash := rfl
@[simp] theorem modFlash_comp (s : State) (f : Flash → Flash) : (modFlash s f).comp = s.comp := rfl
@[simp] theorem modComp_comp (s : State) (f : Comp → Comp) : (modComp s f).comp = f s.comp := rfl
@[simp] theorem modComp_flash (s : State) (f : Comp → Comp) : (modComp s f).flash = s.flash := rfl
@[simp] theorem respond_flash (s : State) (seq st : Nat) (data : List Byte) :
    (respond s seq st data).flash = s.flash := rfl
@[simp] theorem respond_update (s : State) (seq st : Nat) (data : List Byte) :
    (respond s seq st data).comp.update = s.comp.update := rfl

theorem imageOf_setImage_self (f : Flash) (b : Bool) (i : Image) : imageOf (setImage f b i) b = i := by
  cases b <;> rfl

/-- A run of values reads back as it was written. -/
theorem lookList_eq_of_look {α : Type} {d : Nat → α} {m : Map α} {xs : List α} {lo : Nat}
    (h : ∀ i (hi : i < xs.length), look d m (lo + i) = xs[i]) : lookList d m lo xs.length = xs := by
  induction xs generalizing lo with
  | nil => rfl
  | cons x xs ih =>
    have hfirst : look d m lo = x := h 0 (Nat.succ_pos _)
    have hrest : lookList d m (lo + 1) xs.length = xs := ih fun i hi => by
      rw [Nat.add_assoc, Nat.add_comm 1 i]
      exact h (i + 1) (Nat.succ_lt_succ hi)
    rw [List.length_cons, lookList, hfirst, hrest]

theorem lookList_putList_self {α : Type} [DecidableEq α] (d : Nat → α) (m : Map α) (lo : Nat) (xs : List α) :
    lookList d (putList d m lo xs) lo xs.length = xs :=
  lookList_eq_of_look fun i hi => by
    rw [look_putList, if_pos (by omega), Nat.add_sub_cancel_left, List.getD_eq_getElem _ _ hi]

theorem journalRoom_eq_zero {f : Flash} (h : 3584 ≤ f.journal.length) : journalRoom f = 0 := Nat.sub_eq_zero_of_le h

theorem journalRoom_ne_zero {f : Flash} (h : f.journal.length < 3584) : journalRoom f ≠ 0 := (Nat.sub_pos_of_lt h).ne'

/-! ### Erases that begin leave the image slots -/

theorem imageOf_beginErase (f : Flash) (b : Bool) : imageOf (beginErase f) b = imageOf f b := by
  unfold beginErase
  split
  · rfl
  · split <;> rfl

theorem imageOf_queueErases (f : Flash) (sectors : List Nat) (b : Bool) :
    imageOf (queueErases f sectors) b = imageOf f b := by
  unfold queueErases
  split
  · rfl
  · exact imageOf_beginErase _ b

/-! ### Repetitions and answers (R477) -/

/-- The service port takes a command numbered n as a new one. -/
def PortFree (s : State) (n : Nat) : Prop := s.start.phase ≠ .unpowered ∧ s.comp.lastSeq ≠ some n

section Port

variable {s t : State} {n st : Nat} {data : List Byte} {i : Instr} {act : State → Option (State × Nat × List Byte)}

theorem does_repetition (hport : exec i s = .next (service s n act)) (hon : s.start.phase ≠ .unpowered)
    (hlast : s.comp.lastSeq = some n) : Does i s { s with out := .service n s.comp.lastResp :: s.out } := by
  have hsame : service s n act = emit s (.service n s.comp.lastResp) := (if_neg hon).trans (if_pos hlast)
  exact hport.trans (congrArg _ hsame)

theorem answered_of_act (hport : exec i s = .next (service s n act)) (hfree : PortFree s n)
    (hact : act s = some (t, st, data)) : Answered i s (respond t n st data) n st data := by
  obtain ⟨hon, hnew⟩ := hfree
  have hrun : service s n act = respond t n st data := by rw [service, if_neg hon, if_neg hnew, hact]
  exact ⟨hport.trans (congrArg _ hrun), rfl, rfl, rfl⟩

/-- A command that its unit refuses leaves the flash as it was. -/
theorem fails_of_act (hport : exec i s = .next (service s n act)) (hfree : PortFree s n)
    (hact : act s = some (t, st, data)) (hflash : t.flash = s.flash) :
    ∃ t, Answered i s t n st data ∧ t.flash = s.flash :=
  ⟨_, answered_of_act hport hfree hact, hflash⟩

end Port

/-! ### The identity (Table 15.8) -/

section Commands

variable {s : State} {seq : BitVec 16}

theorem answered_ident (hfree : PortFree s seq.toNat) :
    ∃ t, Answered (.ident seq) s t seq.toNat ptDone (natLe 2 0x0004 ++ natLe 1 0xB1 ++ natLe 8 Config.serial.toNat ++
      natLe 1 s.comp.slotB.toNat ++ natLe 4 (slotVersion s false) ++ natLe 4 (slotVersion s true) ++
      natLe 1 (if s.comp.state = .firmware then 1 else if s.comp.state = .recovery then 2 else 0)) := by
  have hmode : (match s.comp.state with
      | .firmware => 1
      | .recovery => 2
      | _ => 0) = if s.comp.state = .firmware then 1 else if s.comp.state = .recovery then 2 else 0 := by
    cases s.comp.state <;> rfl
  rw [← hmode]
  exact ⟨_, answered_of_act rfl hfree rfl⟩

/-! ### The header of an image update (R478 step 1) -/

section Begin

variable {slot : Byte} {h : List Byte}

/-- An update of a slot that does not run the image, or any update in recovery, may begin where none is open. -/
theorem imgBegin_permitted (hnone : s.comp.update = none)
    (hother : s.comp.state = .recovery ∨ s.comp.slotB ≠ decide (slot.toNat = 1)) :
    ¬ (s.comp.update.isSome || (s.comp.state ≠ .recovery && decide (slot.toNat = 1) = s.comp.slotB)) = true := by
  rw [hnone]
  rcases hother with hrec | hslots
  · simp [hrec]
  · simp [hslots.symm]

theorem imgBegin_badHeader (hfree : PortFree s seq.toNat) (hbad : headerOk h = false) :
    ∃ t, Answered (.imgBegin seq slot h) s t seq.toNat ptBadHeader [] ∧ t.flash = s.flash :=
  fails_of_act rfl hfree (if_pos (by rw [hbad]; rfl)) rfl

variable (hfree : PortFree s seq.toNat) (hok : headerOk h = true)

include hfree hok

theorem imgBegin_badSlot (hslot : 1 < slot.toNat) :
    ∃ t, Answered (.imgBegin seq slot h) s t seq.toNat ptBadArgument [] ∧ t.flash = s.flash :=
  fails_of_act rfl hfree ((if_neg (by rw [hok]; decide)).trans (if_pos hslot)) rfl

theorem imgBegin_notPermitted (hslot : slot.toNat ≤ 1)
    (hbusy : (s.comp.update.isSome || (s.comp.state ≠ .recovery && decide (slot.toNat = 1) = s.comp.slotB)) = true) :
    ∃ t, Answered (.imgBegin seq slot h) s t seq.toNat ptNotPermitted [] ∧ t.flash = s.flash :=
  fails_of_act rfl hfree ((if_neg (by rw [hok]; decide)).trans ((if_neg (by omega)).trans (if_pos hbusy))) rfl


theorem imgBegin_updating (hslot : slot.toNat ≤ 1) (hopen : s.comp.update ≠ none) :
    ∃ t, Answered (.imgBegin seq slot h) s t seq.toNat ptNotPermitted [] ∧ t.flash = s.flash :=
  imgBegin_notPermitted hfree hok hslot (by rw [Option.isSome_iff_ne_none.mpr hopen, Bool.true_or])

theorem imgBegin_running (hslot : slot.toNat ≤ 1) (hruns : s.comp.state ≠ .recovery)
    (hsame : s.comp.slotB = decide (slot.toNat = 1)) :
    ∃ t, Answered (.imgBegin seq slot h) s t seq.toNat ptNotPermitted [] ∧ t.flash = s.flash :=
  imgBegin_notPermitted hfree hok hslot (by simp [hruns, hsame])

variable (hslot : slot.toNat ≤ 1) (hnone : s.comp.update = none)
  (hother : s.comp.state = .recovery ∨ s.comp.slotB ≠ decide (slot.toNat = 1))

include hslot hnone hother

theorem imgBegin_full (hfull : 3584 ≤ s.flash.journal.length) :
    ∃ t, Answered (.imgBegin seq slot h) s t seq.toNat ptFlashError [] ∧ t.flash = s.flash :=
  fails_of_act rfl hfree ((if_neg (by rw [hok]; decide)).trans ((if_neg (by omega)).trans
    ((if_neg (imgBegin_permitted hnone hother)).trans (if_pos (journalRoom_eq_zero hfull))))) rfl

theorem imgBegin_begins (hroom : s.flash.journal.length < 3584) :
    ∃ t, Answered (.imgBegin seq slot h) s t seq.toNat ptDone [] ∧
      t.comp.update = some (decide (slot.toNat = 1), h, 0) ∧
      (imageOf t.flash (decide (slot.toNat = 1))).erased = true := by
  refine ⟨_, answered_of_act rfl hfree ((if_neg (by rw [hok]; decide)).trans ((if_neg (by omega)).trans
    ((if_neg (imgBegin_permitted hnone hother)).trans (if_neg (journalRoom_ne_zero hroom))))), rfl, ?_⟩
  rw [respond_flash, modComp_flash, modFlash_flash, imageOf_queueErases, imageOf_setImage_self]

end Begin

/-! ### The body and the end of an image update (R478 steps 2 and 3) -/

section Closed

variable {off : BitVec 32} {data : List Byte} (hfree : PortFree s seq.toNat) (hnone : s.comp.update = none)

include hfree hnone

theorem imgData_closed : ∃ t, Answered (.imgData seq off data) s t seq.toNat ptOutOfOrder [] ∧ t.flash = s.flash := by
  refine fails_of_act (t := s) rfl hfree ?_ rfl
  rw [hnone]

theorem imgEnd_closed : ∃ t, Answered (.imgEnd seq) s t seq.toNat ptOutOfOrder [] ∧ t.flash = s.flash := by
  refine fails_of_act (t := s) rfl hfree ?_ rfl
  rw [hnone]

theorem imgAbort_closed : ∃ t, Answered (.imgAbort seq) s t seq.toNat ptOutOfOrder [] ∧ t.flash = s.flash :=
  fails_of_act rfl hfree (if_pos (by rw [hnone]; rfl)) rfl

end Closed

/-- The flash with a run of bytes of a slot's body programmed. -/
def bodyWritten (f : Flash) (b : Bool) (next : Nat) (data : List Byte) : Flash :=
  { setImage f b { imageOf f b with body := putList (fun _ => 0xFF) (imageOf f b).body next data } with
    programs := f.programs + 1 }

/-- The flash with the image of a slot closed: its header stands, and the next start prefers it. -/
def imageClosed (f : Flash) (b : Bool) (x : List Byte) : Flash :=
  { setImage f b { imageOf f b with header := x, erased := false, tried := false, ok := false } with
    preferB := b, programs := f.programs + 2 }

theorem imageOf_imageClosed (f : Flash) (b : Bool) (x : List Byte) :
    imageOf (imageClosed f b x) b = { imageOf f b with header := x, erased := false, tried := false, ok := false } := by
  cases b <;> rfl

/-- The state after a part of a body is taken: programmed, and the next offset moved behind it. -/
def partTaken (s : State) (b : Bool) (x : List Byte) (next : Nat) (data : List Byte) : State :=
  modComp (modFlash s fun f => bodyWritten f b next data) fun c => { c with update := some (b, x, next + data.length) }

/-- The state after an update whose digest agrees: the image closed, the update over, a record of it. -/
def updateEnded (s : State) (b : Bool) (x : List Byte) : State :=
  ledger (modComp (modFlash s fun f => imageClosed f b x) fun c => { c with update := none }) 0x0A08 sevNotice none
    (sourceOf 9 0) []

theorem updateEnded_flash (s : State) (b : Bool) (x : List Byte) :
    (updateEnded s b x).flash = imageClosed s.flash b x := by
  rw [updateEnded, ledger_flash, modComp_flash, modFlash_flash]

theorem updateEnded_update (s : State) (b : Bool) (x : List Byte) : (updateEnded s b x).comp.update = none := by
  rw [updateEnded, ledger_comp, modComp_comp]

theorem imageOf_bodyWritten (f : Flash) (b : Bool) (next : Nat) (data : List Byte) :
    imageOf (bodyWritten f b next data) b =
      { imageOf f b with body := putList (fun _ => 0xFF) (imageOf f b).body next data } := by
  cases b <;> rfl

section Open

variable {b : Bool} {x : List Byte} {next : Nat} (hfree : PortFree s seq.toNat)
  (hopen : s.comp.update = some (b, x, next))

include hfree hopen

theorem imgAbort_open : ∃ t, Answered (.imgAbort seq) s t seq.toNat ptDone [] ∧ t.comp.update = none :=
  ⟨_, answered_of_act rfl hfree (if_neg (by simp [hopen])), rfl⟩

theorem imgEnd_early (hlen : next ≠ headerLength x) :
    ∃ t, Answered (.imgEnd seq) s t seq.toNat ptOutOfOrder [] ∧ t.flash = s.flash := by
  refine fails_of_act (t := s) rfl hfree ?_ rfl
  rw [hopen]
  exact if_pos hlen

theorem imgEnd_badDigest (hlen : next = headerLength x)
    (hdigest : sha256 (lookList (fun _ => 0xFF) (imageOf s.flash b).body 0 next) ≠ (x.drop 16).take 32) :
    ∃ t, Answered (.imgEnd seq) s t seq.toNat ptBadDigest [] ∧ t.flash = s.flash := by
  refine fails_of_act (t := modComp s fun c => { c with update := none }) rfl hfree ?_ rfl
  rw [hopen, hlen]
  rw [hlen] at hdigest
  exact (if_neg (not_not_intro rfl)).trans (if_pos hdigest)

theorem imgEnd_closes (hlen : next = headerLength x)
    (hdigest : sha256 (lookList (fun _ => 0xFF) (imageOf s.flash b).body 0 next) = (x.drop 16).take 32) :
    ∃ t, Answered (.imgEnd seq) s t seq.toNat ptDone [] ∧ t.comp.update = none ∧ t.flash.preferB = b ∧
      (imageOf t.flash b).header = x ∧ (imageOf t.flash b).tried = false := by
  refine ⟨_, answered_of_act (t := updateEnded s b x) rfl hfree ?_, updateEnded_update s b x, ?_, ?_, ?_⟩
  · rw [hopen, hlen]
    rw [hlen] at hdigest
    exact (if_neg (not_not_intro rfl)).trans (if_neg (not_not_intro hdigest))
  · rw [respond_flash, updateEnded_flash]
    rfl
  · rw [respond_flash, updateEnded_flash, imageOf_imageClosed]
  · rw [respond_flash, updateEnded_flash, imageOf_imageClosed]

section Data

variable {off : BitVec 32} {data : List Byte}

theorem imgData_outOfOrder (hoff : off.toNat ≠ next) :
    ∃ t, Answered (.imgData seq off data) s t seq.toNat ptOutOfOrder [] ∧ t.flash = s.flash := by
  refine fails_of_act (t := s) rfl hfree ?_ rfl
  rw [hopen]
  exact if_pos hoff

theorem imgData_badLength (hoff : off.toNat = next) (hbad : data.length % 256 ≠ 0 ∨ data.length < 256 ∨
      3840 < data.length ∨ headerLength x < next + data.length) :
    ∃ t, Answered (.imgData seq off data) s t seq.toNat ptBadArgument [] ∧ t.flash = s.flash := by
  refine fails_of_act (t := s) rfl hfree ?_ rfl
  rw [hopen]
  refine (if_neg (not_not_intro hoff)).trans (if_pos ?_)
  simpa only [Bool.or_eq_true, decide_eq_true_eq, or_assoc] using hbad

theorem imgData_writes (hoff : off.toNat = next) (hpages : data.length % 256 = 0) (hmin : 256 ≤ data.length)
    (hmax : data.length ≤ 3840) (hfits : next + data.length ≤ headerLength x)
    (herased : blockErasing s.flash b (256 + next) data.length = false)
    (hblank : ∀ y ∈ lookList (fun _ => (0xFF : Byte)) (imageOf s.flash b).body next data.length, y = 0xFF) :
    ∃ t, Answered (.imgData seq off data) s t seq.toNat ptDone [] ∧
      t.comp.update = some (b, x, next + data.length) ∧
      lookList (fun _ => 0xFF) (imageOf t.flash b).body next data.length = data := by
  refine ⟨_, answered_of_act (t := partTaken s b x next data) rfl hfree ?_, rfl, ?_⟩
  · have hlength : ¬ (data.length % 256 ≠ 0 || data.length < 256 || 3840 < data.length ||
        headerLength x < next + data.length) = true := by
      simp only [Bool.or_eq_true, decide_eq_true_eq]
      omega
    have hclean : ¬ (lookList (fun _ => (0xFF : Byte)) (imageOf s.flash b).body next data.length).any (· != 0xFF) =
        true := by
      simpa using hblank
    rw [hopen]
    exact (if_neg (not_not_intro hoff)).trans ((if_neg hlength).trans
      ((if_neg (by rw [herased]; decide)).trans (if_neg hclean)))
  · show lookList _ (imageOf (bodyWritten s.flash b next data) b).body next data.length = data
    rw [imageOf_bodyWritten]
    exact lookList_putList_self _ _ _ _

end Data
end Open

/-! ### The calibration store (R479) -/

section Calibration

variable {cls : Byte} {values : List Word} (hfree : PortFree s seq.toNat)

include hfree

theorem calRead_badClass (hcls : 4 < cls.toNat) :
    ∃ t, Answered (.calRead seq cls) s t seq.toNat ptBadArgument [] ∧ t.flash = s.flash :=
  fails_of_act rfl hfree (if_pos hcls) rfl

theorem calRead_pairs (hcls : cls.toNat ≤ 4) : ∃ t, Answered (.calRead seq cls) s t seq.toNat ptDone
    ((calPairs s.flash cls.toNat).flatMap fun p => natLe 8 p.1.toNat ++ natLe 8 p.2.toNat) :=
  ⟨_, answered_of_act rfl hfree (if_neg (by omega))⟩

theorem calWrite_notPermitted (hnot : s.comp.state ≠ .firmware) (hneither : s.comp.state ≠ .recovery) :
    ∃ t, Answered (.calWrite seq cls values) s t seq.toNat ptNotPermitted [] ∧ t.flash = s.flash :=
  fails_of_act rfl hfree (if_pos (by simp [hnot, hneither])) rfl

variable (hmode : s.comp.state = .firmware ∨ s.comp.state = .recovery)

include hmode

theorem calWrite_refused (hbad : calAccepted cls.toNat values = false) :
    ∃ t, Answered (.calWrite seq cls values) s t seq.toNat ptBadArgument [] ∧ t.flash = s.flash :=
  fails_of_act rfl hfree ((if_neg (by rcases hmode with h | h <;> simp [h])).trans (if_pos (by rw [hbad]; rfl))) rfl

theorem calWrite_stores (hok : calAccepted cls.toNat values = true) (hroom : s.flash.journal.length < 3584) :
    ∃ t, Answered (.calWrite seq cls values) s t seq.toNat ptDone [] ∧
      look (fun _ => []) t.flash.cal cls.toNat = pairUp values ∧ t.flash.calUser = true := by
  refine ⟨_, answered_of_act rfl hfree ((if_neg (by rcases hmode with h | h <;> simp [h])).trans
    ((if_neg (by rw [hok]; decide)).trans (if_neg (journalRoom_ne_zero hroom)))), ?_, ?_⟩
  · rw [respond_flash, ledger_flash, setRegField_flash, modFlash_flash]
    exact look_put_self _ _ _ _
  · rw [respond_flash, ledger_flash, setRegField_flash, modFlash_flash]

end Calibration

/-! ### The inclusion list (R411) -/

section Inclusion

variable {cred : Word} {locators : List Word} (hfree : PortFree s seq.toNat)

include hfree

theorem inclClear_notPermitted (hnot : s.comp.state ≠ .recovery ∨ cred ≠ Config.factoryCredential) :
    ∃ t, Answered (.inclClear seq cred locators) s t seq.toNat ptNotPermitted [] ∧ t.flash = s.flash :=
  fails_of_act rfl hfree (if_pos (by simpa using hnot)) rfl

theorem inclClear_removes (hrec : s.comp.state = .recovery) (hcred : cred = Config.factoryCredential)
    (hroom : s.flash.journal.length ≤ 3568) :
    ∃ t, Answered (.inclClear seq cred locators) s t seq.toNat ptDone [] ∧
      t.flash.incl = s.flash.incl.filter fun p =>
        !(readSlot p == .valid && (locators.map slotKey).contains (slotKey p.1)) := by
  have hsixteen : ¬ journalRoom s.flash < 16 := by
    rw [journalRoom]
    omega
  exact ⟨_, answered_of_act rfl hfree ((if_neg (by simp [hrec, hcred])).trans (if_neg hsixteen)), rfl⟩

end Inclusion
end Commands

/-- Settles O58: a repetition by the stored response, each command by what it does as a new one. -/
theorem servicePort : Obligations.ServicePort := by
  unfold Obligations.ServicePort
  intro seq start slot cls h data off first values locators cred s n img free done fails mode
  refine ⟨fun hon hlast i hi => ?repeats, fun hfree => ⟨answered_ident hfree, ⟨_, answered_of_act rfl hfree rfl⟩,
    imgBegin_badHeader hfree, fun hok => imgBegin_badSlot hfree hok, fun hok => imgBegin_updating hfree hok,
    fun hok hslot hnone => ⟨fun ⟨hruns, hsame⟩ => imgBegin_running hfree hok hslot hruns hsame,
      imgBegin_full hfree hok hslot hnone, imgBegin_begins hfree hok hslot hnone⟩,
    fun hnone => ⟨imgData_closed hfree hnone, imgEnd_closed hfree hnone, imgAbort_closed hfree hnone⟩,
    fun b x next hopen => ⟨imgAbort_open hfree hopen, imgData_outOfOrder hfree hopen, imgData_badLength hfree hopen,
      imgEnd_early hfree hopen, imgData_writes hfree hopen,
      fun hlen => ⟨imgEnd_closes hfree hopen hlen, imgEnd_badDigest hfree hopen hlen⟩⟩,
    calRead_badClass hfree, calRead_pairs hfree, calWrite_notPermitted hfree,
    fun hmode => ⟨calWrite_refused hfree hmode, calWrite_stores hfree hmode⟩,
    ⟨_, answered_of_act rfl hfree rfl⟩, inclClear_notPermitted hfree, inclClear_removes hfree⟩⟩
  case repeats =>
    simp only [List.mem_cons, List.not_mem_nil, or_false] at hi
    rcases hi with rfl | rfl | rfl | rfl | rfl | rfl | rfl | rfl | rfl | rfl <;> exact does_repetition rfl hon hlast

end Sys2Proof.Machine

/-! Starts and the flash (O53): what the steps of a start leave alone, how a start can end, the maintenance state, the
boot settings, retirement requests and the ends of flash operations. -/

namespace Sys2Proof.Machine

/-! ### What the steps of a start from its image on leave alone -/

/-- What a start has settled when its image runs; but for the available slots, its later steps leave all of it alone.
The image is that of slot b. -/
structure StartShown where
  mem       : List Host.Cell
  cores     : Map CoreSt
  pending   : List Instr
  jobs      : List Job
  compState : CompState
  slotB     : Bool
  fallback  : Bool
  tried     : Bool
  starts    : Nat
  slots     : List (List Nat)

/-- What a start whose image is that of slot b has settled. -/
def startShown (b : Bool) (s : State) : StartShown :=
  ⟨s.mem, s.cores, s.pending, s.jobs, s.comp.state, s.comp.slotB, s.comp.fallback, (imageOf s.flash b).tried,
    s.flash.starts, s.start.slots⟩

section Shown

variable {b : Bool}

theorem fields_of_startShown {s : State} {x : StartShown} (h : startShown b s = x) :
    s.mem = x.mem ∧ s.cores = x.cores ∧ s.pending = x.pending ∧ s.jobs = x.jobs ∧ s.comp.state = x.compState ∧
      s.comp.slotB = x.slotB ∧ s.comp.fallback = x.fallback ∧ (imageOf s.flash b).tried = x.tried ∧
      s.flash.starts = x.starts ∧ s.start.slots = x.slots := by
  subst h
  exact ⟨rfl, rfl, rfl, rfl, rfl, rfl, rfl, rfl, rfl, rfl⟩

@[simp] theorem startShown_setReg (s : State) (o : Nat) (w : Word) : startShown b (setReg s o w) = startShown b s := rfl
@[simp] theorem startShown_setRegField (s : State) (o lo n v : Nat) :
    startShown b (setRegField s o lo n v) = startShown b s := rfl
@[simp] theorem startShown_setPort (s : State) (n : Nat) (x : Port) :
    startShown b (setPort s n x) = startShown b s := rfl
@[simp] theorem startShown_setPart (s : State) (p : Nat) (x : Layout) :
    startShown b (setPart s p x) = startShown b s := rfl
@[simp] theorem startShown_modCl (s : State) (k : Nat) (f : ClusterSt → ClusterSt) :
    startShown b (modCl s k f) = startShown b s := rfl
@[simp] theorem startShown_modVein (s : State) (c : Nat) (f : VeinSt → VeinSt) :
    startShown b (modVein s c f) = startShown b s := rfl
@[simp] theorem startShown_modPwr (s : State) (f : PwrSt → PwrSt) : startShown b (modPwr s f) = startShown b s := rfl

theorem startShown_modStart {f : StartSt → StartSt} (s : State) (h : (f s.start).slots = s.start.slots) :
    startShown b (modStart s f) = startShown b s := by
  rw [startShown, startShown, modStart, h]

theorem startShown_modStart_slots (s : State) (f : StartSt → StartSt) :
    startShown b (modStart s f) = { startShown b s with slots := (f s.start).slots } := rfl

theorem startShown_modFlash {f : Flash → Flash} (s : State)
    (htried : (imageOf (f s.flash) b).tried = (imageOf s.flash b).tried)
    (hstarts : (f s.flash).starts = s.flash.starts) : startShown b (modFlash s f) = startShown b s := by
  rw [startShown, startShown, modFlash, htried, hstarts]

@[simp] theorem startShown_ledger (s : State) (code sev : Nat) (part : Option Nat) (source : Nat) (payload : List Nat) :
    startShown b (ledger s code sev part source payload) = startShown b s := by
  obtain ⟨r, l, h⟩ := ledger_onlyLedger s code sev part source payload
  rw [h]
  rfl

@[simp] theorem startShown_pairMismatch (s : State) (row addr : Nat) (part : Option Nat) (source : Nat) :
    startShown b (pairMismatch s row addr part source) = startShown b s := by
  obtain ⟨r, h⟩ := bump_onlyRegs s 0x0E 5 1 .device
  rw [pairMismatch, startShown_ledger, startShown_setRegField, h]
  rfl

theorem startShown_foldl {β : Type} {f : State → β → State} (h : ∀ s x, startShown b (f s x) = startShown b s)
    (l : List β) (s : State) : startShown b (l.foldl f s) = startShown b s := by
  induction l generalizing s with
  | nil => rfl
  | cons x l ih => exact (ih _).trans (h s x)

theorem startShown_foldl_fst {β γ : Type} {f : State × γ → β → State × γ}
    (h : ∀ p x, startShown b (f p x).1 = startShown b p.1) (l : List β) (p : State × γ) :
    startShown b (l.foldl f p).1 = startShown b p.1 := by
  induction l generalizing p with
  | nil => rfl
  | cons x l ih => exact (ih _).trans (h p x)

/-! ### The firmware reads the flash (R420, R421, R466) -/

theorem startShown_readCal (s : State) : startShown b (readCal s) = startShown b s := by
  unfold readCal
  dsimp only
  rw [startShown_setReg, startShown_setReg, startShown_modStart _ rfl]
  exact startShown_foldl (fun s x => startShown_pairMismatch _ _ _ _ _) _ s

theorem startShown_readBoot (s : State) : startShown b (readBoot s) = startShown b s := by
  unfold readBoot
  dsimp only
  split
  · rw [startShown_setReg, startShown_setReg, startShown_modStart _ rfl]
  · exact startShown_pairMismatch _ _ _ _ _

theorem startShown_tally (s : State) (t : Tally) : startShown b { s with tally := t } = startShown b s := rfl

theorem startShown_resumeTally (s : State) : startShown b (resumeTally s) = startShown b s := by
  unfold resumeTally
  refine startShown_foldl (fun s i => ?_) _ s
  split
  · rfl
  · dsimp only
    split
    · split
      · exact startShown_tally _ _
      · exact startShown_tally _ _
    · rw [startShown_ledger, startShown_setRegField, startShown_pairMismatch]

/-! ### The additions to the inclusion list (R408, R412) -/

theorem startShown_addUnit (cause : Nat) (a : State × Hiding) (key : Nat) :
    startShown b (addUnit cause a key).1 = startShown b a.1 := by
  unfold addUnit
  dsimp only
  split
  · rfl
  · split
    · rfl
    · exact startShown_ledger _ _ _ _ _ _

theorem startShown_addUnits (cause : Nat) (keys : List Nat) (a : State × Hiding) :
    startShown b (keys.foldl (addUnit cause) a).1 = startShown b a.1 :=
  startShown_foldl_fst (startShown_addUnit cause) keys a

theorem startShown_inclMismatches (a : State × Hiding) : startShown b (inclMismatches a).1 = startShown b a.1 := by
  unfold inclMismatches
  refine startShown_foldl_fst (fun a x => ?_) _ a
  dsimp only
  rw [startShown_addUnit, startShown_addUnit, startShown_pairMismatch]

theorem startShown_takeRetirements (a : State × Hiding) : startShown b (takeRetirements a).1 = startShown b a.1 := by
  unfold takeRetirements
  dsimp only
  rw [startShown_modFlash _ (by cases b <;> rfl) rfl]
  refine startShown_foldl_fst (fun a x => ?_) _ a
  split
  · exact startShown_addUnit _ _ _
  · exact startShown_pairMismatch _ _ _ _ _

theorem startShown_additions (s : State) (e : StartEnv) : startShown b (additions s e).1 = startShown b s := by
  unfold additions
  dsimp only
  rw [startShown_addUnits, startShown_addUnits, startShown_takeRetirements, startShown_inclMismatches]

/-! ### Hiding, seams, regions, ports and partition 0 (R302, R303, R326, R338) -/

theorem startShown_hideUnits (s : State) (keys : List Nat) : startShown b (hideUnits s keys) = startShown b s := by
  unfold hideUnits
  refine startShown_foldl (fun s k => ?_) _ s
  extract_lets d sl s1 mine
  have hpress : startShown b s1 = startShown b s := by
    unfold s1
    split
    · exact startShown_modCl _ _ _
    · rfl
  split
  · exact hpress
  · refine (startShown_foldl (fun s i => ?_) _ s1).trans hpress
    dsimp only
    split
    · exact startShown_modStart _ rfl
    · exact (startShown_modVein _ _ _).trans (startShown_modStart _ rfl)

theorem startShown_setLanes (s : State) (keys : List Nat) : startShown b (setLanes s keys) = startShown b s :=
  startShown_modStart _ rfl

theorem startShown_setSeams (s : State) (keys : List Nat) (e : StartEnv) (bulk : Nat) :
    startShown b (setSeams s keys e bulk) = startShown b s := by
  unfold setSeams
  refine (startShown_foldl (fun s i => ?_) _ _).trans (startShown_setLanes s keys)
  dsimp only
  rw [startShown_setReg, startShown_setReg, startShown_setReg]

theorem startShown_cacheRegions (s : State) : startShown b (cacheRegions s) = startShown b s := by
  unfold cacheRegions
  split
  · rfl
  · exact startShown_foldl (fun s c => startShown_setReg _ _ _) _ s

theorem startShown_loseLanes (s : State) (n lost : Nat) : startShown b (loseLanes s n lost) = startShown b s :=
  startShown_setPort _ _ _

theorem startShown_downPorts (s : State) (e : StartEnv) : startShown b (downPorts s e) = startShown b s := by
  refine (startShown_foldl (fun s u => ?_) _ _).trans (startShown_foldl (fun s n => startShown_setPort _ _ _) _ s)
  split
  · exact startShown_loseLanes _ _ _
  · exact startShown_loseLanes _ _ _
  · rfl

theorem startShown_populateParts (s : State) : startShown b (populateParts s) = startShown b s := by
  unfold populateParts
  refine (startShown_foldl (fun s e => ?_) _ _).trans (startShown_setPart _ _ _)
  rw [startShown_setReg, startShown_setReg]

/-! ### A start that ends fatal, or ready (R417, R418) -/

theorem startShown_confirmed (s : State) :
    startShown b (modFlash s fun f => setImage f b { imageOf f b with ok := true }) = startShown b s :=
  startShown_modFlash _ (by cases b <;> rfl) (by cases b <;> rfl)

theorem startShown_reached (s : State) (n : Nat) (ok : Bool) :
    startShown b { s with comp := { s.comp with step := n, imageOk := ok } } = startShown b s := rfl

theorem startShown_fatalStart (s : State) (code : Nat) : startShown b (fatalStart s b code) = startShown b s := by
  unfold fatalStart
  dsimp only
  rw [startShown_modStart _ rfl, startShown_confirmed, startShown_ledger]

theorem startShown_declareReady (s : State) (h : Hiding) (keys : List Nat) (e : StartEnv) :
    startShown b (declareReady s h keys e b) = startShown b s := by
  have hrecords (f : State → Nat → Nat) (l : List Nat) (s : State) : startShown b (l.foldl (fun s k =>
      ledger s 0x0102 sevNotice none (f s k) []) s) = startShown b s :=
    startShown_foldl (fun s k => startShown_ledger _ _ _ _ _ _) l s
  unfold declareReady
  extract_lets s1 s2 counts s3 s4
  have hrecorded : startShown b s2 = startShown b s :=
    (hrecords (fun _ src => src) _ s1).trans (hrecords (fun _ k => hiddenSource k) _ s)
  exact (startShown_modStart _ rfl).trans ((startShown_reached s4 10 true).trans
    ((startShown_confirmed s3).trans ((startShown_ledger _ _ _ _ _ _).trans hrecorded)))

end Shown

theorem fatalStart_start (s : State) (b : Bool) (code : Nat) :
    (fatalStart s b code).start = { s.start with phase := .fatal, faultN := true, readyPin := false } := by
  unfold fatalStart
  show { (ledger s code sevFatal none (sourceOf 0 0) []).start with
    phase := .fatal, faultN := true, readyPin := false } = _
  rw [ledger_start]

theorem fatalStart_confirms (s : State) (b : Bool) (code : Nat) : (imageOf (fatalStart s b code).flash b).ok = true :=
  congrArg Image.ok (imageOf_setImage_self _ b _)

theorem declareReady_ready (s : State) (h : Hiding) (keys : List Nat) (e : StartEnv) (b : Bool) :
    (declareReady s h keys e b).start.phase = .ready ∧ (declareReady s h keys e b).start.readyPin = true := ⟨rfl, rfl⟩

theorem declareReady_confirms (s : State) (h : Hiding) (keys : List Nat) (e : StartEnv) (b : Bool) :
    (imageOf (declareReady s h keys e b).flash b).ok = true :=
  congrArg Image.ok (imageOf_setImage_self _ b _)

/-! ### A start that ends in shutdown: nothing is populated yet, so nothing is paused or told (R396) -/

/-- No die of the module has an available cluster yet. -/
def Bare (s : State) : Prop := s.start.slots = [[], [], [], []]

section Bare

variable {s : State} (h : Bare s)

include h

theorem slotsOf_of_bare (d : Nat) : slotsOf s d = [] := by
  rw [slotsOf, h]
  match d with
  | 0 | 1 | 2 | 3 => rfl
  | _ + 4 => rfl

theorem populatedCl_of_bare (k : Nat) : populatedCl s k = false := by
  rw [populatedCl, slotsOf_of_bare h, List.length_nil, decide_eq_false (Nat.not_lt_zero _), Bool.and_false,
    Bool.false_and]

theorem allClusters_of_bare : allClusters s = [] :=
  List.filter_eq_nil_iff.mpr fun k _ => by rw [populatedCl_of_bare h]; exact Bool.false_ne_true

theorem lowestCl_of_bare (p : Nat) : lowestCl s p = none := by
  have hnone : (getPart s p).clusters.filter (populatedCl s) = [] :=
    List.filter_eq_nil_iff.mpr fun k _ => by rw [populatedCl_of_bare h]; exact Bool.false_ne_true
  rw [lowestCl, hnone, List.foldl_nil]

theorem hardwarePause_of_bare : hardwarePause s = modPwr s fun w => { w with hwPause := true } := by
  unfold hardwarePause
  dsimp only
  rw [allClusters_of_bare h, List.filter_nil, List.foldl_nil]

theorem setGov_of_bare (g : GovState) : setGov s g = s ∨ setGov s g = modPwr s fun w => { w with state := g } := by
  unfold setGov
  split
  · exact .inl rfl
  · refine .inr (foldl_still _ _ _ fun p _ => ?_)
    rw [lowestCl_of_bare (s := modPwr s _) h]

end Bare

theorem statusChange_start (s : State) : ∃ t, statusChange s = modStart s fun x => { x with irqAt := t } := by
  unfold statusChange
  split
  · next at_ hopen => exact ⟨some at_, by rw [modStart, ← hopen]⟩
  · next hclosed =>
    split
    · exact ⟨some (elapsed s), rfl⟩
    · exact ⟨none, by rw [modStart, ← hclosed]⟩

/-- A shutdown of a device without available clusters and jobs. -/
theorem shutdownNow_of_bare {s : State} (hbare : Bare s) (hjobs : s.jobs = []) (thermal : Bool) (payload : List Nat)
    (b : Bool) : startShown b (shutdownNow s thermal payload) = startShown b s ∧
      (shutdownNow s thermal payload).start.phase = .shutdown ∧ (shutdownNow s thermal payload).start.faultN = true ∧
      (shutdownNow s thermal payload).start.readyPin = false := by
  unfold shutdownNow
  extract_lets s1 s2 s3 s4
  have hshown3 : startShown b s3 = startShown b s := by
    rw [startShown_modStart _ rfl, startShown_ledger]
    unfold s1
    rw [hardwarePause_of_bare (s := modPwr s _) hbare, startShown_modPwr, startShown_modPwr]
  obtain ⟨hphase, hfault, hpin⟩ : s3.start.phase = .shutdown ∧ s3.start.faultN = true ∧ s3.start.readyPin = false :=
    ⟨rfl, rfl, rfl⟩
  clear_value s3
  obtain ⟨-, -, -, hjobs3, -, -, -, -, -, hslots3⟩ := fields_of_startShown hshown3
  obtain ⟨irq, hstatus⟩ := statusChange_start s3
  have hbare3 : Bare (statusChange s3) := by
    rw [hstatus]
    exact hslots3.trans hbare
  have hend : ∃ f, s4 = modPwr (statusChange s3) f := by
    rcases setGov_of_bare hbare3 .shutdown with heq | heq
    · exact ⟨id, heq⟩
    · exact ⟨_, heq⟩
  obtain ⟨f, hend⟩ := hend
  rw [hstatus] at hend
  have hjobs4 : s4.jobs = [] := by
    rw [hend]
    exact hjobs3.trans hjobs
  rw [hjobs4, List.foldl_nil, hend]
  exact ⟨(startShown_modPwr _ _).trans ((startShown_modStart _ rfl).trans hshown3), hphase, hfault, hpin⟩

/-! ### How a start's image runs (R473, R474) -/

/-- The device as the firmware of an image begins: the image marked as tried, the start counted. -/
def imageRuns (s : State) (kind : Nat) (e : StartEnv) (b fallback : Bool) : State :=
  let hall := e.ms.toNat * 1000000 - (if kind = 0 then 30000000 else 0)
  let s0 := modFlash s fun f =>
    { setImage f b { imageOf f b with tried := true, ok := false } with starts := f.starts + 1 }
  { s0 with
    hallmark := hall
    comp := { s0.comp with state := .firmware, slotB := b, fallback := fallback, step := 4 }
    pwr := { s0.pwr with roundEnd := (hall / 4000000 + 1) * 4000000, roundAt := hall }
    tally := { s0.tally with ivlStart := hall / 60000000000 * 60000000000
                             ivlEnd := (hall / 60000000000 + 1) * 60000000000 }
    start := { s0.start with faultN := false, pins := e.slotPins.toNat, upAt := List.replicate 4 hall } }

/-- The device after its firmware has read the flash of the device before the start, old. -/
def flashRead (s old : State) (e : StartEnv) (fallback : Bool) : State :=
  let s2 := (openErases old.flash).foldl (fun s _ => ledger s 0x0A03 sevNotice none (sourceOf 9 0) []) s
  let s3 := if fallback then ledger s2 0x0A02 sevWarn none (sourceOf 9 0) [] else s2
  setReg (resumeTally (readBoot (readCal s3))) oClrNode (BitVec.ofNat 64 e.slotPins.toNat)

/-- The device that the checks of a start act on: its image runs and has read the flash. -/
def firmwareRead (s old : State) (kind : Nat) (e : StartEnv) (b fallback : Bool) : State :=
  flashRead (imageRuns s kind e b fallback) old e fallback

/-- The device with its units hidden, and its seams, regions, partition 0 and ports set (steps 7 to 9). -/
def diesReleased (s : State) (bulk : Nat) (e : StartEnv) : State :=
  let s1 := (additions s e).1
  let keys := hiddenKeys s1 (additions s e).2
  let s2 := modStart s1 fun t => { t with
    slots := (List.range 4).map (availableSlots s1 keys e), farMask := (List.range 8).map (goodChannels keys e) }
  setReg (downPorts (populateParts (cacheRegions (setSeams (hideUnits s2 keys) keys e bulk))) e) oAsyResult
    (BitVec.ofNat 64 (assayResult (assayKeys s e)))

/-- The start ends fatal where something cannot be reached, and otherwise ready, with its word in ASY_STAT. -/
theorem releaseDies_eq (s : State) (bulk : Nat) (e : StartEnv) (b fallback : Bool) (kind : Nat) :
    ∃ w v, releaseDies s bulk e b fallback kind =
      if e.fatal = some .unreachableDie || e.fatal = some .pciePhy || !allReached (diesReleased s bulk e) then
        fatalStart (setReg (diesReleased s bulk e) oAsyStat w) b 0x0104
      else declareReady (setReg (diesReleased s bulk e) oAsyStat v) (additions s e).2
        (hiddenKeys (additions s e).1 (additions s e).2) e b := ⟨_, _, rfl⟩

/-- How a start ends whose firmware has read the flash, by the fatal condition that it finds. -/
def firmwareEnds (s : State) (bulk : Nat) (e : StartEnv) (b fallback : Bool) (kind : Nat) : Option FatalStart → State
  | some (.dieRails _) => fatalStart s b 0x0104
  | some .identity => fatalStart s b 0x0501
  | some (.strata i t) => shutdownNow s true [i.toNat, t.toNat]
  | some (.alert c) => shutdownNow s false [c.toNat]
  | _ => releaseDies s bulk e b fallback kind

/-- The phase in which a fatal condition leaves the device: a sensor or the alert wire shuts it down. -/
def failedPhase : FatalStart → Phase
  | .strata _ _ | .alert _ => .shutdown
  | _ => .fatal

section Runs

variable {s old : State} {kind : Nat} {e : StartEnv} {b fallback : Bool}

theorem runFirmware_hung (h : 5000 ≤ e.ms.toNat) : runFirmware s old kind e b fallback =
    modStart (imageRuns s kind e b fallback) fun t => { t with phase := .starting } := if_pos h

theorem runFirmware_quick (h : e.ms.toNat < 5000) : runFirmware s old kind e b fallback =
    firmwareEnds (firmwareRead s old kind e b fallback) (if kind = 0 then 4 else regField old oSeamCtl 0 4) e b fallback
      kind e.fatal := if_neg (Nat.not_le.mpr h)

theorem startShown_imageRuns : startShown b (imageRuns s kind e b fallback) =
    { startShown b s with
      compState := .firmware, slotB := b, fallback := fallback, tried := true, starts := s.flash.starts + 1 } := by
  cases b <;> rfl

theorem startShown_flashRead : startShown b (flashRead s old e fallback) = startShown b s := by
  have herases : startShown b ((openErases old.flash).foldl (fun s _ =>
      ledger s 0x0A03 sevNotice none (sourceOf 9 0) []) s) = startShown b s :=
    startShown_foldl (fun s _ => startShown_ledger _ _ _ _ _ _) _ s
  unfold flashRead
  dsimp only
  rw [startShown_setReg, startShown_resumeTally, startShown_readBoot, startShown_readCal]
  split
  · rw [startShown_ledger, herases]
  · exact herases

theorem startShown_firmwareRead : startShown b (firmwareRead s old kind e b fallback) =
    { startShown b s with
      compState := .firmware, slotB := b, fallback := fallback, tried := true, starts := s.flash.starts + 1 } :=
  startShown_flashRead.trans startShown_imageRuns

theorem startShown_diesReleased (s : State) (bulk : Nat) :
    ∃ x, startShown b (diesReleased s bulk e) = { startShown b s with slots := x } := by
  unfold diesReleased
  dsimp only
  rw [startShown_setReg, startShown_downPorts, startShown_populateParts, startShown_cacheRegions, startShown_setSeams,
    startShown_hideUnits, startShown_modStart_slots, startShown_additions]
  exact ⟨_, rfl⟩

/-- The dies released, the start ends ready, or fatal where a die or the PCIe interface cannot be reached. -/
theorem releaseDies_ends (s : State) (bulk : Nat) : ∃ s5 x, startShown b s5 = { startShown b s with slots := x } ∧
    (releaseDies s bulk e b fallback kind = fatalStart s5 b 0x0104 ∨
      e.fatal ≠ some .unreachableDie ∧ e.fatal ≠ some .pciePhy ∧
        ∃ h keys, releaseDies s bulk e b fallback kind = declareReady s5 h keys e b) := by
  obtain ⟨w, v, heq⟩ := releaseDies_eq s bulk e b fallback kind
  rw [heq]
  obtain ⟨x, hx⟩ := startShown_diesReleased (b := b) (e := e) s bulk
  have hshown (w : Word) : startShown b (setReg (diesReleased s bulk e) oAsyStat w) =
      { startShown b s with slots := x } := (startShown_setReg _ _ _).trans hx
  split
  · exact ⟨_, _, hshown w, .inl rfl⟩
  · next hreached =>
    simp only [Bool.or_eq_true, decide_eq_true_eq, not_or] at hreached
    obtain ⟨⟨hdie, hphy⟩, -⟩ := hreached
    exact ⟨_, _, hshown v, .inr ⟨hdie, hphy, _, _, rfl⟩⟩

theorem startShown_releaseDies (s : State) (bulk : Nat) :
    ∃ x, startShown b (releaseDies s bulk e b fallback kind) = { startShown b s with slots := x } := by
  obtain ⟨s5, x, hshown, hend | ⟨-, -, h, keys, hend⟩⟩ :=
    releaseDies_ends (e := e) (b := b) (fallback := fallback) (kind := kind) s bulk
  · exact ⟨x, by rw [hend, startShown_fatalStart, hshown]⟩
  · exact ⟨x, by rw [hend, startShown_declareReady, hshown]⟩

/-- What a start shows that has found a fatal condition. -/
structure StartFailed (t : State) (ph : Phase) : Prop where
  fault    : t.start.faultN = true
  notReady : t.start.readyPin = false
  phase    : t.start.phase = ph

theorem startFailed_fatalStart (s : State) (code : Nat) : StartFailed (fatalStart s b code) .fatal := by
  have hstart := fatalStart_start s b code
  exact ⟨congrArg StartSt.faultN hstart, congrArg StartSt.readyPin hstart, congrArg StartSt.phase hstart⟩

theorem startFailed_releaseDies (s : State) (bulk : Nat)
    (hno : e.fatal = some .unreachableDie ∨ e.fatal = some .pciePhy) :
    StartFailed (releaseDies s bulk e b fallback kind) .fatal := by
  obtain ⟨s5, x, -, hend | ⟨hdie, hphy, -⟩⟩ :=
    releaseDies_ends (e := e) (b := b) (fallback := fallback) (kind := kind) s bulk
  · rw [hend]
    exact startFailed_fatalStart _ _
  · exact (hno.elim hdie hphy).elim

/-- What a start shows whose image b has been confirmed: the ready declaration, or a fatal condition. -/
def StartConfirmed (b : Bool) (t : State) : Prop :=
  (imageOf t.flash b).ok = true ∧
    ((t.start.phase = .ready ∧ t.start.readyPin = true) ∨ (t.start.phase = .fatal ∧ t.start.faultN = true))

theorem startConfirmed_fatalStart (s : State) (code : Nat) : StartConfirmed b (fatalStart s b code) :=
  ⟨fatalStart_confirms s b code, .inr ⟨(startFailed_fatalStart s code).phase, (startFailed_fatalStart s code).fault⟩⟩

theorem startConfirmed_declareReady (s : State) (h : Hiding) (keys : List Nat) :
    StartConfirmed b (declareReady s h keys e b) :=
  ⟨declareReady_confirms s h keys e b, .inl (declareReady_ready s h keys e b)⟩

variable {bulk : Nat}

theorem startConfirmed_firmwareEnds : StartConfirmed b (firmwareEnds s bulk e b fallback kind none) := by
  show StartConfirmed b (releaseDies s bulk e b fallback kind)
  obtain ⟨s5, x, -, hend | ⟨-, -, h, keys, hend⟩⟩ :=
    releaseDies_ends (e := e) (b := b) (fallback := fallback) (kind := kind) s bulk
  · rw [hend]
    exact startConfirmed_fatalStart _ _
  · rw [hend]
    exact startConfirmed_declareReady _ _ _

section OfBare

variable (hbare : Bare s) (hjobs : s.jobs = [])

include hbare hjobs

theorem startShown_firmwareEnds (f : Option FatalStart) :
    ∃ x, startShown b (firmwareEnds s bulk e b fallback kind f) = { startShown b s with slots := x } := by
  unfold firmwareEnds
  split
  · exact ⟨_, startShown_fatalStart _ _⟩
  · exact ⟨_, startShown_fatalStart _ _⟩
  · exact ⟨_, (shutdownNow_of_bare hbare hjobs _ _ _).1⟩
  · exact ⟨_, (shutdownNow_of_bare hbare hjobs _ _ _).1⟩
  · exact startShown_releaseDies _ _

theorem firmwareEnds_failed {f : FatalStart} (hfatal : e.fatal = some f) (hstep : f ≠ .lockstep)
    (himage : f ≠ .noImage) :
    StartFailed (firmwareEnds s bulk e b fallback kind (some f)) (failedPhase f) := by
  have hshutdown (thermal : Bool) (payload : List Nat) : StartFailed (shutdownNow s thermal payload) .shutdown := by
    obtain ⟨-, hphase, hfault, hpin⟩ := shutdownNow_of_bare hbare hjobs thermal payload false
    exact ⟨hfault, hpin, hphase⟩
  cases f with
  | lockstep => exact absurd rfl hstep
  | noImage => exact absurd rfl himage
  | dieRails d => exact startFailed_fatalStart _ _
  | identity => exact startFailed_fatalStart _ _
  | unreachableDie => exact startFailed_releaseDies _ _ (.inl hfatal)
  | pciePhy => exact startFailed_releaseDies _ _ (.inr hfatal)
  | strata i t => exact hshutdown _ _
  | alert c => exact hshutdown _ _

end OfBare

/-! ### What a run of an image shows in the end -/

theorem bare_firmwareRead (hbare : Bare s) : Bare (firmwareRead s old kind e b fallback) := by
  obtain ⟨-, -, -, -, -, -, -, -, -, hslots⟩ := fields_of_startShown (startShown_firmwareRead (s := s) (old := old)
    (kind := kind) (e := e) (b := b) (fallback := fallback))
  exact hslots.trans hbare

theorem jobs_firmwareRead : (firmwareRead s old kind e b fallback).jobs = s.jobs := by
  obtain ⟨-, -, -, hjobs, -⟩ := fields_of_startShown (startShown_firmwareRead (s := s) (old := old)
    (kind := kind) (e := e) (b := b) (fallback := fallback))
  exact hjobs

/-- However the run of an image ends, the device holds what the start has settled. -/
theorem startShown_runFirmware (hbare : Bare s) (hjobs : s.jobs = []) :
    ∃ x, startShown b (runFirmware s old kind e b fallback) = { startShown b s with
      compState := .firmware, slotB := b, fallback := fallback, tried := true, starts := s.flash.starts + 1,
      slots := x } := by
  rcases Nat.lt_or_ge e.ms.toNat 5000 with hquick | hslow
  · rw [runFirmware_quick hquick]
    obtain ⟨x, hx⟩ := startShown_firmwareEnds (b := b) (e := e) (fallback := fallback) (kind := kind)
      (bulk := if kind = 0 then 4 else regField old oSeamCtl 0 4) (bare_firmwareRead hbare)
      (jobs_firmwareRead.trans hjobs) e.fatal
    exact ⟨x, by rw [hx, startShown_firmwareRead]⟩
  · rw [runFirmware_hung hslow]
    exact ⟨_, (startShown_modStart _ rfl).trans startShown_imageRuns⟩

/-- An image that has not declared ready within 5 s stays marked as tried (R474). -/
theorem runFirmware_tried (hslow : 5000 ≤ e.ms.toNat) : let t := runFirmware s old kind e b fallback
    t.start.phase = .starting ∧ (imageOf t.flash b).ok = false := by
  rw [runFirmware_hung hslow]
  exact ⟨rfl, by cases b <;> rfl⟩

/-- An image that runs without a fatal condition is confirmed: the start declares ready, or a die is out of reach. -/
theorem runFirmware_confirms (hquick : e.ms.toNat < 5000) (hfatal : e.fatal = none) :
    StartConfirmed b (runFirmware s old kind e b fallback) := by
  rw [runFirmware_quick hquick, hfatal]
  exact startConfirmed_firmwareEnds

theorem runFirmware_failed (hbare : Bare s) (hjobs : s.jobs = []) {f : FatalStart} (hquick : e.ms.toNat < 5000)
    (hfatal : e.fatal = some f) (hstep : f ≠ .lockstep) (himage : f ≠ .noImage) :
    StartFailed (runFirmware s old kind e b fallback) (failedPhase f) := by
  rw [runFirmware_quick hquick, hfatal]
  exact firmwareEnds_failed (bare_firmwareRead hbare) (jobs_firmwareRead.trans hjobs) hfatal hstep himage

end Runs

/-! ### The start of the device (R402, R403) -/

theorem bare_offState (s : State) (ph : Phase) (c : CompState) (fault : Bool) : Bare (offState s ph c fault) := rfl

/-- The device lost every state but what its flash keeps, and what waits to be commanded. -/
def Dark (s t : State) : Prop := t.mem = [] ∧ t.cores = [] ∧ t.pending = s.pending

theorem dark_offState (s : State) (ph : Phase) (c : CompState) (fault : Bool) : Dark s (offState s ph c fault) :=
  ⟨rfl, rfl, rfl⟩

section Device

variable {s : State} {kind : Nat} {e : StartEnv} {b fallback : Bool}

/-- The device whose ROM has chosen an image of s. -/
def imageChosen (s : State) : State := offState (repairErases s) .starting .rom false

theorem startDevice_lockstep (h : e.fatal = some .lockstep) :
    startDevice s kind e = offState (repairErases s) .fatal .rom true := by
  unfold startDevice
  simp only [h]

theorem startDevice_noImage (h : e.fatal = some .noImage) :
    startDevice s kind e = offState (repairErases s) .recovery .recovery true := by
  unfold startDevice
  simp only [h]

section Choice

variable (hstep : e.fatal ≠ some .lockstep) (himage : e.fatal ≠ some .noImage)

include hstep himage

theorem startDevice_noChoice (h : chooseImage (repairErases s) e = none) :
    startDevice s kind e = offState (repairErases s) .recovery .recovery true := by
  unfold startDevice
  split
  · next hfatal => exact absurd hfatal hstep
  · next hfatal => exact absurd hfatal himage
  · simp only [h]

theorem startDevice_runs (h : chooseImage (repairErases s) e = some (b, fallback)) :
    startDevice s kind e = runFirmware (imageChosen s) s kind e b fallback := by
  unfold startDevice
  split
  · next hfatal => exact absurd hfatal hstep
  · next hfatal => exact absurd hfatal himage
  · simp only [h]
    rfl

end Choice

theorem runFirmware_settles : ∃ x, startShown b (runFirmware (imageChosen s) s kind e b fallback) =
    ⟨[], [], s.pending, [], .firmware, b, fallback, true, s.flash.starts + 1, x⟩ :=
  startShown_runFirmware (bare_offState _ _ _ _) rfl

theorem dark_startDevice (s : State) (kind : Nat) (e : StartEnv) : Dark s (startDevice s kind e) := by
  by_cases hstep : e.fatal = some .lockstep
  · rw [startDevice_lockstep hstep]
    exact dark_offState _ _ _ _
  by_cases himage : e.fatal = some .noImage
  · rw [startDevice_noImage himage]
    exact dark_offState _ _ _ _
  cases hchoice : chooseImage (repairErases s) e with
  | none =>
    rw [startDevice_noChoice hstep himage hchoice]
    exact dark_offState _ _ _ _
  | some x =>
    obtain ⟨b, fallback⟩ := x
    rw [startDevice_runs hstep himage hchoice]
    obtain ⟨slots, hshown⟩ := runFirmware_settles (s := s) (kind := kind) (e := e) (b := b) (fallback := fallback)
    obtain ⟨hmem, hcores, hpending, -⟩ := fields_of_startShown hshown
    exact ⟨hmem, hcores, hpending⟩

/-- A start whose ROM finds no image to run stays in recovery with FAULT_N. -/
theorem startDevice_recovers
    (h : e.fatal = some .noImage ∨ e.fatal = none ∧ chooseImage (repairErases s) e = none) :
    (startDevice s kind e).comp.state = .recovery ∧ (startDevice s kind e).start.faultN = true := by
  have heq : startDevice s kind e = offState (repairErases s) .recovery .recovery true := by
    rcases h with himage | ⟨hnone, hchoice⟩
    · exact startDevice_noImage himage
    · exact startDevice_noChoice (by simp [hnone]) (by simp [hnone]) hchoice
  rw [heq]
  exact ⟨rfl, rfl⟩

/-- A start without a fatal condition runs the image that its ROM has chosen. -/
theorem startDevice_image (hfatal : e.fatal = none) (hchoice : chooseImage (repairErases s) e = some (b, fallback)) :
    let t := startDevice s kind e
    t.comp.state = .firmware ∧ t.comp.slotB = b ∧ t.comp.fallback = fallback ∧ (imageOf t.flash b).tried = true ∧
      t.flash.starts = s.flash.starts + 1 ∧
      (5000 ≤ e.ms.toNat → t.start.phase = .starting ∧ (imageOf t.flash b).ok = false) ∧
      (e.ms.toNat < 5000 → StartConfirmed b t) := by
  rw [startDevice_runs (by simp [hfatal]) (by simp [hfatal]) hchoice]
  obtain ⟨slots, hshown⟩ := runFirmware_settles (s := s) (kind := kind) (e := e) (b := b) (fallback := fallback)
  obtain ⟨-, -, -, -, hstate, hslot, hfallback, htried, hstarts, -⟩ := fields_of_startShown hshown
  exact ⟨hstate, hslot, hfallback, htried, hstarts, runFirmware_tried, fun hquick => runFirmware_confirms hquick hfatal⟩

/-- A start that finds a fatal condition in the image's first 5 s. -/
theorem startDevice_failed {f : FatalStart} (hfatal : e.fatal = some f)
    (hchoice : chooseImage (repairErases s) e = some (b, fallback)) (hquick : e.ms.toNat < 5000) (hstep : f ≠ .lockstep)
    (himage : f ≠ .noImage) : StartFailed (startDevice s kind e) (failedPhase f) := by
  have hne (g : FatalStart) (h : f ≠ g) : e.fatal ≠ some g := by simpa [hfatal] using h
  rw [startDevice_runs (hne _ hstep) (hne _ himage) hchoice]
  exact runFirmware_failed (bare_offState _ _ _ _) rfl hquick hfatal hstep himage

/-! ### What begins a start, and the loss of the input (R402, R474, R520, R522) -/

theorem does_coldStart (hoff : s.start.phase = .unpowered) : Does (.coldStart e) s (startDevice s 0 e) :=
  congrArg Host.Outcome.next (if_pos hoff)

theorem does_warmStart {r : Req} (hmay : Writable s r oAsyCtl) (hon : s.start.phase ≠ .unpowered) :
    Does (.warmStart r e) s (startDevice s 1 e) :=
  congrArg Host.Outcome.next ((regWrite_of_writable hmay _).trans (if_neg hon))

theorem does_imageWatchdogExpiry (hstarting : s.start.phase = .starting) (hruns : s.comp.state = .firmware) :
    Does (.imageWatchdogExpiry e) s (startDevice s 1 e) :=
  congrArg Host.Outcome.next (if_pos (by simp [hstarting, hruns]))

theorem does_inputLoss (hon : s.start.phase ≠ .unpowered) : Does .inputLoss s (offState s .unpowered .rom false) :=
  congrArg Host.Outcome.next (if_neg hon)

/-- The device that a restart leaves, in which the response told stands for a repetition. -/
def restarted (told t : State) : State :=
  modComp t fun c => { c with lastSeq := told.comp.lastSeq, lastResp := told.comp.lastResp }

theorem does_restart {seq : BitVec 16} (hfree : PortFree s seq.toNat) (recovery : Bool) :
    Does (.restart seq recovery e) s (restarted (respond s seq.toNat ptDone [])
      (if recovery then offState (repairErases (respond s seq.toNat ptDone [])) .recovery .recovery true
        else startDevice (respond s seq.toNat ptDone []) 2 e)) := by
  obtain ⟨hon, hnew⟩ := hfree
  exact congrArg Host.Outcome.next ((if_neg hon).trans (if_neg hnew))

end Device

/-! ### The maintenance state and the boot settings (R419, R424) -/

section Settings

variable {s : State} {r : Req} {w : Word}

theorem does_maintenanceLeave (hmay : Writable s r oAsyCtl) (hready : s.start.phase = .ready) :
    Does (.maintenanceLeave r) s { s with start := { s.start with maint := false } } :=
  congrArg Host.Outcome.next ((regWrite_of_writable hmay _).trans ((if_neg (not_not_intro hready)).trans (if_pos rfl)))

theorem does_maintenanceEnter (hmay : Writable s r oAsyCtl) (hready : s.start.phase = .ready) :
    Does (.maintenanceEnter r) s
      (if s.jobs.isEmpty then { s with start := { s.start with maint := true } } else setRegField s oAsyStat 7 1 1) :=
  congrArg Host.Outcome.next ((regWrite_of_writable hmay _).trans
    ((if_neg (not_not_intro hready)).trans (if_neg Bool.false_ne_true)))

theorem does_maintenanceEnter_idle (hmay : Writable s r oAsyCtl) (hready : s.start.phase = .ready)
    (hidle : s.jobs = []) : Does (.maintenanceEnter r) s { s with start := { s.start with maint := true } } := by
  have hdoes := does_maintenanceEnter hmay hready
  rwa [if_pos (by rw [hidle]; rfl)] at hdoes

theorem does_maintenanceEnter_refused (hmay : Writable s r oAsyCtl) (hready : s.start.phase = .ready)
    (hjobs : s.jobs ≠ []) : Does (.maintenanceEnter r) s (setRegField s oAsyStat 7 1 1) := by
  have hdoes := does_maintenanceEnter hmay hready
  rwa [if_neg (by simpa using hjobs)] at hdoes

theorem does_bootSettingsWrite (hmay : Writable s r oAsyNext) : Does (.bootSettingsWrite r w) s (bootWrite s w) :=
  congrArg Host.Outcome.next (regWrite_of_writable hmay _)

end Settings

/-! ### Retirement requests (Table 14.10, R11, R436) -/

theorem retireResult_le (s : State) (o w : Word) : retireResult s o w ≤ 5 := by
  unfold retireResult
  dsimp only
  repeat' split
  all_goals omega

theorem setPair_flash (s : State) (o : Nat) (x : PairSt) : (setPair s o x).flash = s.flash := rfl
theorem getReg_modFlash (s : State) (f : Flash → Flash) (o : Nat) : getReg (modFlash s f) o = getReg s o := rfl

/-- The result of a request shown in ASY_RSTAT, with nothing of the pair in progress. -/
def retireTold (s : State) (n : Nat) : State := setRegField (setPair s oRetire PairSt.settled) oRstat 40 8 n

theorem retireTold_flash (s : State) (n : Nat) : (retireTold s n).flash = s.flash := by
  rw [retireTold, setRegField_flash, setPair_flash]

/-- A request joined to the pending ones, busy until its program completes. -/
def retirePending (s : State) (o : Word) : State :=
  ledger (modFlash (setRegField (retireTold s 0) oRstat 0 1 1) fun f => { f with
    pend := f.pend ++ [(o, ~~~o)], programs := f.programs + 1 }) 0x0305 sevNotice none (sourceOf 9 0) (twoWords o.toNat)

theorem retireFrame_frame (s : State) (key : Nat) :
    (retireFrame s key).flash = s.flash ∧ ∀ o, getReg (retireFrame s key) o = getReg s o := by
  unfold retireFrame
  split
  · exact ⟨rfl, fun _ => rfl⟩
  · exact ⟨rfl, fun _ => rfl⟩

section Retirement

variable {s : State} {r : Req} {w : Word}

theorem does_retirementRequest (hmay : Writable s r oRetireR) : Does (.retirementRequest r w) s (retireSubmit s w) :=
  congrArg Host.Outcome.next (regWrite_of_writable hmay _)

theorem retireSubmit_alone (hn : retireResult s (getReg s oRetire) w = 1) (halone : (getPair s oRetire).obv = false) :
    retireSubmit s w = setPair s oRetire { getPair s oRetire with rev := true } :=
  if_pos (by rw [hn, halone]; rfl)

theorem retireSubmit_mismatch (hn : retireResult s (getReg s oRetire) w = 1) (hobv : (getPair s oRetire).obv = true) :
    retireSubmit s w = pairMismatch (retireTold s 1) 8 oRetire none (sourceOf 9 0) := by
  refine (if_neg (by rw [hobv]; simp)).trans ((if_pos hn).trans ?_)
  rw [hn]
  rfl

theorem retireSubmit_refused (hn : retireResult s (getReg s oRetire) w ≠ 1)
    (hbad : retireResult s (getReg s oRetire) w ≠ 0) :
    retireSubmit s w = retireTold s (retireResult s (getReg s oRetire) w) :=
  (if_neg (by simp [hn])).trans ((if_neg hn).trans (if_pos hbad))

theorem retireSubmit_accepted (hn : retireResult s (getReg s oRetire) w = 0) : retireSubmit s w =
    if (getReg s oRetire).toNat / 2 ^ 60 = 5 then
      retireFrame (retirePending s (getReg s oRetire)) (slotKey (getReg s oRetire))
    else retirePending s (getReg s oRetire) := by
  refine (if_neg (by simp [hn])).trans ((if_neg (by simp [hn])).trans ((if_neg (not_not_intro hn)).trans ?_))
  rw [hn]
  rfl

theorem regField_oRstat_retireTold {n : Nat} (hn : n ≤ 5) : regField (retireTold s n) oRstat 40 8 = n := by
  rw [retireTold, regField_setRegField_self _ _ _ _ _ (by omega)]
  omega

theorem regField_of_getReg {s t : State} {o : Nat} (h : getReg t o = getReg s o) (lo n : Nat) :
    regField t o lo n = regField s o lo n := by rw [regField, regField, h]

/-- A request that Table 14.10 does not accept leaves its result, and the pending ones as they were. -/
theorem retireSubmit_leaves (hbad : retireResult s (getReg s oRetire) w ≠ 0)
    (hends : retireResult s (getReg s oRetire) w ≠ 1 ∨ (getPair s oRetire).obv = true) :
    regField (retireSubmit s w) oRstat 40 8 = retireResult s (getReg s oRetire) w ∧
      (retireSubmit s w).flash.pend = s.flash.pend := by
  have hle := retireResult_le s (getReg s oRetire) w
  by_cases hn : retireResult s (getReg s oRetire) w = 1
  · have hsame (t : State) : getReg (pairMismatch t 8 oRetire none (sourceOf 9 0)) oRstat = getReg t oRstat := by
      rw [pairMismatch, getReg_ledger (by decide), getReg_setRegField_ne _ _ _ _ (by decide), getReg_bump (by decide)]
    rw [retireSubmit_mismatch hn (hends.resolve_left (not_not_intro hn)), regField_of_getReg (hsame _),
      regField_oRstat_retireTold (by omega), hn, pairMismatch, ledger_flash, setRegField_flash, bump_flash,
      retireTold_flash]
    exact ⟨rfl, rfl⟩
  · rw [retireSubmit_refused hn hbad, regField_oRstat_retireTold hle, retireTold_flash]
    exact ⟨rfl, rfl⟩

theorem retirePending_flash (o : Word) : (retirePending s o).flash =
    { s.flash with pend := s.flash.pend ++ [(o, ~~~o)], programs := s.flash.programs + 1 } := by
  rw [retirePending, ledger_flash, modFlash_flash, setRegField_flash, retireTold_flash]

theorem getReg_retirePending (o : Word) :
    getReg (retirePending s o) oRstat = getReg (setRegField (retireTold s 0) oRstat 0 1 1) oRstat := by
  rw [retirePending, getReg_ledger (by decide), getReg_modFlash]

theorem retirePending_shows (o : Word) : regField (retirePending s o) oRstat 40 8 = 0 ∧
    regField (retirePending s o) oRstat 0 1 = 1 ∧ (retirePending s o).flash.pend = s.flash.pend ++ [(o, ~~~o)] := by
  rw [regField_of_getReg (getReg_retirePending o), regField_of_getReg (getReg_retirePending o),
    regField_setRegField_self _ _ _ _ _ (by omega), regField_setRegField_apart _ _ _ _ _ (by omega) (by omega),
    regField_oRstat_retireTold (by omega), retirePending_flash]
  exact ⟨rfl, rfl, rfl⟩

/-- A request that Table 14.10 accepts joins the pending ones, and is busy. -/
theorem retireSubmit_joins (hn : retireResult s (getReg s oRetire) w = 0) :
    regField (retireSubmit s w) oRstat 40 8 = 0 ∧ regField (retireSubmit s w) oRstat 0 1 = 1 ∧
      (retireSubmit s w).flash.pend = s.flash.pend ++ [(getReg s oRetire, ~~~getReg s oRetire)] := by
  have hshows := retirePending_shows (s := s) (getReg s oRetire)
  rw [retireSubmit_accepted hn]
  split
  · obtain ⟨hflash, hregs⟩ := retireFrame_frame (retirePending s (getReg s oRetire)) (slotKey (getReg s oRetire))
    rwa [regField_of_getReg (hregs oRstat), regField_of_getReg (hregs oRstat), hflash]
  · exact hshows

end Retirement

/-! ### The ends of flash operations (R469, R470) -/

section FlashEnds

variable {s : State}

theorem flashProgramComplete_last (h : s.flash.programs = 1) : ∃ t, Does .flashProgramComplete s t ∧
    t.flash.programs = 0 ∧ regField t oRstat 0 1 = 0 := by
  have hzero : s.flash.programs - 1 = 0 := by omega
  exact ⟨_, congrArg Host.Outcome.next ((if_neg (by omega)).trans (if_pos hzero)), hzero,
    regField_setRegField_self _ _ _ _ _ (by omega)⟩

theorem flashProgramComplete_others (h : 1 < s.flash.programs) : Does .flashProgramComplete s
    { s with flash := { s.flash with programs := s.flash.programs - 1 } } := by
  have hleft : ¬ s.flash.programs - 1 = 0 := by omega
  exact congrArg Host.Outcome.next ((if_neg (by omega)).trans (if_neg hleft))

theorem beginErase_frame (f : Flash) :
    (beginErase f).erasing = f.erasing ∧ ∀ j ∈ f.journal, j ∈ (beginErase f).journal := by
  unfold beginErase
  split
  · exact ⟨rfl, fun _ hj => hj⟩
  · split
    · exact ⟨rfl, fun _ hj => hj⟩
    · exact ⟨rfl, fun _ hj => List.mem_append_left _ hj⟩

/-- The flash in which the first waiting erase has ended with its mark, before the next one begins. -/
def eraseEnded (f : Flash) : Flash := { f with
  erasing := f.erasing.drop 1
  journal := f.journal.map fun j => if f.erasing.head? = some j.1 then (j.1, true) else j }

theorem eraseRuns_of_open {f : Flash} {x : Nat} {l : List Nat} (h : f.erasing = x :: l)
    (hopen : (x, false) ∈ f.journal) : eraseRuns f = true := by
  rw [eraseRuns, h]
  exact List.contains_iff_mem.mpr hopen

theorem flashEraseComplete_marks {x : Nat} {l : List Nat} (h : s.flash.erasing = x :: l)
    (hopen : (x, false) ∈ s.flash.journal) : ∃ t, Does .flashEraseComplete s t ∧ t.flash.erasing = l ∧
      (x, true) ∈ t.flash.journal := by
  obtain ⟨herasing, hjournal⟩ := beginErase_frame (eraseEnded s.flash)
  have hmarked : (x, true) ∈ (eraseEnded s.flash).journal :=
    List.mem_map.mpr ⟨(x, false), hopen, if_pos (by rw [h]; rfl)⟩
  refine ⟨modFlash s fun f => beginErase (eraseEnded f),
    congrArg Host.Outcome.next (if_neg (by rw [eraseRuns_of_open h hopen]; decide)), ?_, hjournal _ hmarked⟩
  rw [modFlash_flash, herasing, eraseEnded, h, List.drop_one, List.tail_cons]

end FlashEnds

/-- Settles O53: a start by the condition that it finds and the image it runs, requests by their result, the ends of
flash operations by what they leave of the flash. -/
theorem startsAndFlash : Obligations.StartsAndFlash := by
  unfold Obligations.StartsAndFlash
  constructor
  · intro r e seq s off told dark
    refine ⟨does_coldStart, does_warmStart, does_imageWatchdogExpiry,
      fun hon => ⟨_, does_inputLoss hon, dark_offState _ _ _ _, rfl, rfl, rfl⟩,
      fun hon hnew => ⟨⟨_, does_restart ⟨hon, hnew⟩ true, ⟨rfl, rfl, rfl⟩, rfl, rfl, rfl⟩,
        ⟨_, does_restart ⟨hon, hnew⟩ false, dark_startDevice told 2 e, rfl, rfl, rfl⟩⟩,
      fun kind => ⟨dark_startDevice s kind e, fun hstep => ?lockstep, fun himage => startDevice_recovers (.inl himage),
        fun hfatal hchoice => startDevice_recovers (.inr ⟨hfatal, hchoice⟩),
        fun b fb hfatal hchoice => startDevice_image hfatal hchoice,
        fun f b fb hfatal hchoice hquick hstep himage => ?failed⟩⟩
    case lockstep =>
      rw [startDevice_lockstep hstep]
      exact ⟨rfl, rfl⟩
    case failed =>
      have hfailed := startDevice_failed (kind := kind) hfatal hchoice hquick hstep himage
      exact ⟨hfailed.fault, hfailed.notReady, hfailed.phase.trans (by cases f <;> rfl)⟩
  · intro r w s o n v
    refine ⟨fun hmay hready => ⟨does_maintenanceLeave hmay hready, does_maintenanceEnter_idle hmay hready,
      does_maintenanceEnter_refused hmay hready⟩, does_bootSettingsWrite,
      fun hmay => ⟨fun hends => ⟨_, does_retirementRequest hmay, ?result, fun hn => ?joins,
        fun hbad => (retireSubmit_leaves hbad hends).2⟩, fun hn halone => ?alone⟩,
      flashProgramComplete_last, flashProgramComplete_others, fun x l => flashEraseComplete_marks⟩
    case result =>
      by_cases hn : n = 0
      · exact (retireSubmit_joins hn).1.trans hn.symm
      · exact (retireSubmit_leaves hn hends).1
    case joins =>
      obtain ⟨-, hbusy, hpend⟩ := retireSubmit_joins hn
      exact ⟨hpend, hbusy⟩
    case alone =>
      have hdoes := does_retirementRequest (w := w) hmay
      rwa [retireSubmit_alone hn halone] at hdoes

end Sys2Proof.Machine
